-- ==== Sys2Proof/Word.lean ====
section
/-! DEFINITION. The plain word types of the JX-900 (spec/02 R15, spec/03 R35). -/

namespace Sys2Proof

/-- One byte of memory. -/
abbrev Byte := BitVec 8

/-- A scalar register, an address, a 64-bit control register (R35, Table 3.4). -/
abbrev Word := BitVec 64

/-- A syllable, or a 32-bit control register (R73, Table 3.4). -/
abbrev Syl := BitVec 32

/-- A 6-bit register field (R75, R81). -/
abbrev Reg := BitVec 6

end Sys2Proof
end

