-- ==== Sys2Proof/Syntax.lean ====
section
/-! DEFINITION. The steps of the JX-900: one constructor of Instr per row of spec/opcode_table.json.
A row is either an instruction of Ixcen, with its operand fields, or an indivisible step of the device or of
its host ("event" below), whose arguments name the object it acts on and the data its surroundings supply. -/

namespace Sys2Proof

/-- The fields cls and mf that every class-10 instruction carries (R83). -/
structure Cm where
  cls : BitVec 4
  mf : BitVec 2
  deriving DecidableEq, Repr

/-- cls and mf of `bop` with its mask field, which governs the form on a vector (R238). -/
structure MaskCm extends Cm where
  mask : BitVec 4
  deriving DecidableEq, Repr

/-- The fields of the VA format (Tables 5.17, 5.18): vector arithmetic and axt. -/
structure VA where
  vd : Reg
  va : Reg
  vb : Reg
  mask : BitVec 4
  cls : BitVec 4
  mf : BitVec 2
  rnd : BitVec 2
  sat : Bool
  tag : BitVec 4
  var : BitVec 3
  vc : Reg
  ss : Reg
  md : BitVec 4
  deriving DecidableEq, Repr

/-- The fields of the VM format (Tables 5.17, 5.19): vector memory. f2 is reserved in every form (R81). -/
structure VM where
  f1 : Reg
  f2 : Reg
  f3 : Reg
  mask : BitVec 4
  cls : BitVec 4
  mf : BitVec 2
  sbase : Reg
  sstr : Reg
  rnd : BitVec 2
  sat : Bool
  nf : BitVec 3
  tag : BitVec 4
  sbv : Bool
  sbn : BitVec 3
  deriving DecidableEq, Repr

/-- The fields of the VK format (Tables 5.17, 5.21): masks. -/
structure VK where
  md : BitVec 4
  ma : BitVec 4
  mb : BitVec 4
  mask : BitVec 4
  cls : BitVec 4
  mf : BitVec 2
  ss : Reg
  var : BitVec 3
  deriving DecidableEq, Repr

/-- A translation or access fault met by an access (Tables 25.2, 25.3). -/
structure XFault where
  code : Nat
  sub : Nat
  write : Bool
  fetch : Bool
  addr : Word
  deriving DecidableEq, Repr

/-- What the tests of one start find (Table 28.4): the data the Crown measures. A shaft rate is 0, 1 or 2 for
2.8, 2.4 or 2.0 GT/s and 3 when no rate works; a shaft, Spire or link that is not listed passes, as does a Belfry bank or die-bridge pair. The
host link's rate is in GT/s. -/
structure StartReport where
  firmwareOk : Bool
  shaftRate : List (Nat × Nat)
  spireFail : List Nat
  banksFail : List Nat
  pairsFail : List Nat
  linkLanes : List (Nat × Nat)
  hostLanes : Nat
  hostRate : Nat
  secretsOk : Bool
  deriving DecidableEq, Repr

/-- What a link's receivers report (R328, R331; log 37): how many flits forward error correction has corrected since the report before,
and the replay of a flit that it could not correct, with whether that flit arrives this time (none: no flit was replayed). -/
structure ReplayReport where
  corrected : Nat
  replay : Option Bool
  deriving DecidableEq, Repr

/-- The lanes of the host link that carry flits, and the rate in GT/s that it has trained at (R102, R337). -/
structure LinkWidth where
  lanes : Nat
  rate : Nat
  deriving DecidableEq, Repr

/-- One constructor per row of spec/opcode_table.json. -/
inductive Instr where
  | add (d a b : Reg) -- SR, R141
  | sub (d a b : Reg) -- SR, R141
  | mul (d a b : Reg) -- SR, R141
  | mulh (d a b : Reg) -- SR, R141
  | mulhu (d a b : Reg) -- SR, R141
  | div (d a b : Reg) -- SR, R141
  | divu (d a b : Reg) -- SR, R141
  | rem (d a b : Reg) -- SR, R141
  | remu (d a b : Reg) -- SR, R141
  | and (d a b : Reg) -- SR, R141
  | or (d a b : Reg) -- SR, R141
  | xor (d a b : Reg) -- SR, R141
  | andn (d a b : Reg) -- SR, R141
  | sll (d a b : Reg) -- SR, R141
  | srl (d a b : Reg) -- SR, R141
  | sra (d a b : Reg) -- SR, R141
  | slt (d a b : Reg) -- SR, R141
  | sltu (d a b : Reg) -- SR, R141
  | min (d a b : Reg) -- SR, R141
  | max (d a b : Reg) -- SR, R141
  | minu (d a b : Reg) -- SR, R141
  | maxu (d a b : Reg) -- SR, R141
  | clz (d a : Reg) -- SR, R141
  | ctz (d a : Reg) -- SR, R141
  | cnt (d a : Reg) -- SR, R141
  | sextB (d a : Reg) -- SR, R141
  | sextH (d a : Reg) -- SR, R141
  | sextW (d a : Reg) -- SR, R141
  | zextB (d a : Reg) -- SR, R141
  | zextH (d a : Reg) -- SR, R141
  | zextW (d a : Reg) -- SR, R141
  | addi (d a : Reg) (imm : BitVec 12) -- SI, R143
  | andi (d a : Reg) (imm : BitVec 12) -- SI, R143
  | ori (d a : Reg) (imm : BitVec 12) -- SI, R143
  | xori (d a : Reg) (imm : BitVec 12) -- SI, R143
  | slli (d a : Reg) (n : BitVec 6) -- SI, R143
  | srli (d a : Reg) (n : BitVec 6) -- SI, R143
  | srai (d a : Reg) (n : BitVec 6) -- SI, R143
  | slti (d a : Reg) (imm : BitVec 12) -- SI, R143
  | sltiu (d a : Reg) (imm : BitVec 12) -- SI, R143
  | bfx (d a : Reg) (lo wm1 : BitVec 6) -- SI, R143, R78
  | lui (d : Reg) (imm : BitVec 18) -- SU, R144
  | aupc (d : Reg) (imm : BitVec 18) -- SU, R144
  | fadd (d a b : Reg) (rnd : BitVec 2) (w : Bool) -- SF, R151
  | fsub (d a b : Reg) (rnd : BitVec 2) (w : Bool) -- SF, R151
  | fmul (d a b : Reg) (rnd : BitVec 2) (w : Bool) -- SF, R151
  | fdiv (d a b : Reg) (rnd : BitVec 2) (w : Bool) -- SF, R151
  | fsqrt (d a : Reg) (rnd : BitVec 2) (w : Bool) -- SF, R151
  | fmin (d a b : Reg) (w : Bool) -- SF, R151
  | fmax (d a b : Reg) (w : Bool) -- SF, R151
  | feq (d a b : Reg) (w : Bool) -- SF, R151
  | flt (d a b : Reg) (w : Bool) -- SF, R151
  | fle (d a b : Reg) (w : Bool) -- SF, R151
  | ftoi (d a : Reg) (rnd : BitVec 2) (w : Bool) -- SF, R152
  | ftou (d a : Reg) (rnd : BitVec 2) (w : Bool) -- SF, R152
  | itof (d a : Reg) (rnd : BitVec 2) (w : Bool) -- SF, R152
  | utof (d a : Reg) (rnd : BitVec 2) (w : Bool) -- SF, R152
  | fnarrow (d a : Reg) (rnd : BitVec 2) -- SF, R152
  | fwiden (d a : Reg) (rnd : BitVec 2) -- SF, R152
  | fmac (d a b : Reg) (rnd : BitVec 2) (w : Bool) -- SF, R151
  | beq (a b : Reg) (off : BitVec 12) -- SB, R146
  | bne (a b : Reg) (off : BitVec 12) -- SB, R146
  | blt (a b : Reg) (off : BitVec 12) -- SB, R146
  | bge (a b : Reg) (off : BitVec 12) -- SB, R146
  | bltu (a b : Reg) (off : BitVec 12) -- SB, R146
  | bgeu (a b : Reg) (off : BitVec 12) -- SB, R146
  | jal (off : BitVec 24) -- SJ, R146
  | jalr (d a : Reg) (imm : BitVec 12) -- SI, R146
  | loop (n : Bool) (a : Reg) (e : BitVec 16) -- SL, R148
  | loopi (n : Bool) (count : BitVec 11) (e : BitVec 12) -- SLI, R148
  | bany (m : BitVec 4) (off : BitVec 18) -- SK, R147
  | bnone (m : BitVec 4) (off : BitVec 18) -- SK, R147
  | ldb (d a : Reg) (cls : BitVec 4) (sp : BitVec 2) (disp : BitVec 6) -- SM, R153
  | ldbu (d a : Reg) (cls : BitVec 4) (sp : BitVec 2) (disp : BitVec 6) -- SM, R153
  | ldh (d a : Reg) (cls : BitVec 4) (sp : BitVec 2) (disp : BitVec 6) -- SM, R153
  | ldhu (d a : Reg) (cls : BitVec 4) (sp : BitVec 2) (disp : BitVec 6) -- SM, R153
  | ldw (d a : Reg) (cls : BitVec 4) (sp : BitVec 2) (disp : BitVec 6) -- SM, R153
  | ldwu (d a : Reg) (cls : BitVec 4) (sp : BitVec 2) (disp : BitVec 6) -- SM, R153
  | ldd (d a : Reg) (cls : BitVec 4) (sp : BitVec 2) (disp : BitVec 6) -- SM, R153
  | stb (d a : Reg) (cls : BitVec 4) (sp : BitVec 2) (disp : BitVec 6) -- SM, R153
  | sth (d a : Reg) (cls : BitVec 4) (sp : BitVec 2) (disp : BitVec 6) -- SM, R153
  | stw (d a : Reg) (cls : BitVec 4) (sp : BitVec 2) (disp : BitVec 6) -- SM, R153
  | std (d a : Reg) (cls : BitVec 4) (sp : BitVec 2) (disp : BitVec 6) -- SM, R153
  | aadd (d a b : Reg) (ord : BitVec 2) (cls : BitVec 4) -- SA, R155
  | aswp (d a b : Reg) (ord : BitVec 2) (cls : BitVec 4) -- SA, R155
  | acas (d a b : Reg) (ord : BitVec 2) (cls : BitVec 4) -- SA, R155
  | amax (d a b : Reg) (ord : BitVec 2) (cls : BitVec 4) -- SA, R155
  | amin (d a b : Reg) (ord : BitVec 2) (cls : BitVec 4) -- SA, R155
  | aaddBel (d a b : Reg) (ord : BitVec 2) (cls : BitVec 4) -- SA, R155
  | aswpBel (d a b : Reg) (ord : BitVec 2) (cls : BitVec 4) -- SA, R155
  | acasBel (d a b : Reg) (ord : BitVec 2) (cls : BitVec 4) -- SA, R155
  | amaxBel (d a b : Reg) (ord : BitVec 2) (cls : BitVec 4) -- SA, R155
  | aminBel (d a b : Reg) (ord : BitVec 2) (cls : BitVec 4) -- SA, R155
  | getc (d : Reg) (bank : BitVec 4) (idx : BitVec 8) -- SY, R157
  | setc (a : Reg) (bank : BitVec 4) (idx : BitVec 8) -- SY, R157
  | trap (n : BitVec 12) -- SY, R160
  | eret (after : Bool) -- SY, R161
  | halt -- SY, R162
  | ebrk (n : BitVec 12) -- SY, R160
  | qrd (d : Reg) (q : BitVec 3) -- SY, R159
  | pmig (d a : Reg) -- SY, R256
  | pinv (a : Reg) (all : Bool) -- SY, R255
  | pcnt (d a : Reg) (clr : Bool) -- SY, R260
  | pfence -- SY, R255
  | launch (d a : Reg) (q : BitVec 4) -- SY, R111
  | barInit (a : Reg) (b : BitVec 6) -- SY, R136
  | barArr (d : Reg) (ord : BitVec 2) (b : BitVec 6) -- SY, R136
  | barWt (a : Reg) (ord : BitVec 2) (b : BitVec 6) -- SY, R136
  | barAw (d : Reg) (ord : BitVec 2) (b : BitVec 6) -- SY, R136
  | barDrop (b : BitVec 6) -- SY, R136
  | barRd (d : Reg) (b : BitVec 6) -- SY, R136
  | tokrd (d : Reg) (t : BitVec 6) -- SY, R309
  | tokwr (a : Reg) (t : BitVec 6) -- SY, R309
  | convoy (n : BitVec 3) (slots : BitVec 24) -- CH, R85
  | vshape (n : BitVec 2) (o : Cm) -- VC, R165
  | vtype (vd : Reg) (tag : BitVec 4) (dom : BitVec 3) (o : Cm) -- VC, R166
  | vstrip (d a b : Reg) (lq : Bool) (ew : BitVec 2) (o : Cm) -- VC, R163
  | vacq (d : Reg) (nb : Bool) (o : Cm) -- VC, R124
  | seatGrant (spire : Nat) -- event, R127
  | vrel (o : Cm) -- VC, R125
  | mfmt (n : BitVec 2) (a : Reg) (o : Cm) -- VC, R245
  | vpopq (m : BitVec 4) (o : Cm) -- VC, R164
  | vexit (m : BitVec 4) (b : Reg) (off : BitVec 20) (o : Cm) -- VC, R169
  | exitResolution (h : Nat) -- event, R176
  | heldEntryDrain (h : Nat) -- event, R174
  | mpre (f : VK) -- VK, R167
  | mthru (f : VK) -- VK, R167
  | mlatch (f : VK) -- VK, R167
  | mand (f : VK) -- VK, R167
  | mor (f : VK) -- VK, R167
  | mxor (f : VK) -- VK, R167
  | mandn (f : VK) -- VK, R167
  | mslide (f : VK) -- VK, R167
  | mcnt (f : VK) -- VK, R167
  | mfirst (f : VK) -- VK, R167
  | mftm (f : VK) -- VK, R167
  | vadd (f : VA) -- VA, spec/13
  | vsub (f : VA) -- VA, spec/13
  | vmin (f : VA) -- VA, spec/13
  | vmax (f : VA) -- VA, spec/13
  | vand (f : VA) -- VA, spec/13
  | vor (f : VA) -- VA, spec/13
  | vxor (f : VA) -- VA, spec/13
  | vandn (f : VA) -- VA, spec/13
  | vsll (f : VA) -- VA, spec/13
  | vsrl (f : VA) -- VA, spec/13
  | vsra (f : VA) -- VA, spec/13
  | vrshr (f : VA) -- VA, spec/13
  | vnsat (f : VA) -- VA, spec/13
  | vadc (f : VA) -- VA, spec/13
  | vsbc (f : VA) -- VA, spec/13
  | vabs (f : VA) -- VA, spec/13
  | vmul (f : VA) -- VA, spec/13
  | vmulh (f : VA) -- VA, spec/13
  | vfma (f : VA) -- VA, spec/13
  | vfms (f : VA) -- VA, spec/13
  | vdot2 (f : VA) -- VA, spec/13
  | vdiv (f : VA) -- VA, spec/13
  | vsqrt (f : VA) -- VA, spec/13
  | vcvt (f : VA) -- VA, spec/13
  | vceq (f : VA) -- VA, spec/13
  | vcne (f : VA) -- VA, spec/13
  | vclt (f : VA) -- VA, spec/13
  | vcle (f : VA) -- VA, spec/13
  | vsel (f : VA) -- VA, spec/13
  | vmov (f : VA) -- VA, spec/13
  | vid (f : VA) -- VA, spec/13
  | vneg (f : VA) -- VA, spec/13
  | vslup (f : VA) -- VA, spec/13
  | vsldn (f : VA) -- VA, spec/13
  | vcmpr (f : VA) -- VA, spec/13
  | vxpnd (f : VA) -- VA, spec/13
  | vgath (f : VA) -- VA, spec/13
  | vxtr (f : VA) -- VA, spec/13
  | vins (f : VA) -- VA, spec/13
  | vrsum (f : VA) -- VA, spec/13
  | vrmax (f : VA) -- VA, spec/13
  | vrmin (f : VA) -- VA, spec/13
  | vrand (f : VA) -- VA, spec/13
  | vrior (f : VA) -- VA, spec/13
  | vrxor (f : VA) -- VA, spec/13
  | vscan (f : VA) -- VA, spec/13
  | vscmx (f : VA) -- VA, spec/13
  | vrcp (f : VA) -- VA, spec/13
  | vrsq (f : VA) -- VA, spec/13
  | vexp (f : VA) -- VA, spec/13
  | vlog (f : VA) -- VA, spec/13
  | vtanh (f : VA) -- VA, spec/13
  | vsig (f : VA) -- VA, spec/13
  | vsmxAcc (f : VA) -- VA, spec/13
  | vsmxFin (f : VA) -- VA, spec/13
  | vsamp (f : VA) -- VA, spec/13
  | vtopkIns (f : VA) -- VA, spec/13
  | vtopkMrg (f : VA) -- VA, spec/13
  | vrng (f : VA) -- VA, spec/13
  | vcfq (f : VA) -- VA, spec/13
  | vld (f : VM) -- VM, R226
  | vldStream (f : VM) -- VM, R232
  | vst (f : VM) -- VM, R224
  | vlds (f : VM) -- VM, R224
  | vsts (f : VM) -- VM, R224
  | vldseg (f : VM) -- VM, R224
  | vstseg (f : VM) -- VM, R224
  | vldx (f : VM) -- VM, R224
  | vstx (f : VM) -- VM, R224
  | vldFf (f : VM) -- VM, R224
  | vldSc (f : VM) -- VM, R224
  | vstSc (f : VM) -- VM, R224
  | scTicketGrant (h : Nat) -- event, R229
  | vldsr (f : VM) -- VM, R230
  | loadDataArrives (h : Nat) -- event, R277
  | homeAccessStep -- event, R9
  | stream (n : BitVec 3) (a l st : Reg) (o : Cm) -- VC, R231
  | dauFetch (spire n : Nat) -- event, R231
  | qbind (n : BitVec 3) (kind : BitVec 2) (idx : BitVec 8) (o : Cm) -- VC, R234
  | copy (n : BitVec 3) (d a b : Reg) (dst src scope : BitVec 3) (o : Cm) -- VC, R235
  | copyChunkLands (spire tag chunk : Nat) -- event, R236
  | cptest (d : Reg) (n : BitVec 3) (w : BitVec 6) (o : Cm) -- VC, R237
  | cpwait (n : BitVec 3) (w : BitVec 6) (m : Reg) (o : Cm) -- VC, R237
  | bop (d a b : Reg) (op : BitVec 4) (w ord : BitVec 2) (v : Bool) (o : MaskCm) -- VC, R238
  | stand (d a b : Reg) (dep : BitVec 6) (sp : Bool) (slot : BitVec 8) (o : Cm) -- VC, R267
  | homeSubscribe (spire slot : Nat) -- event, R268
  | standReplyArrives (spire slot : Nat) -- event, R268
  | pushArrives (spire slot : Nat) -- event, R269
  | unstand (slot : BitVec 8) (o : Cm) -- VC, R272
  | homeUnsubscribe (spire slot : Nat) -- event, R272
  | subscriptionAckArrives (spire slot : Nat) -- event, R266
  | homeParkSlot (spire slot : Nat) -- event, R274
  | fence (cmask : BitVec 16) (scope : BitVec 3) (o : Cm) -- VC, R240
  | wait (l st c t : BitVec 5) (o : Cm) -- VC, R241
  | task (d a : Reg) (cm : BitVec 16) (o : Cm) -- VC, R303
  | fuseeTakeRecord (g : Nat) -- event, R304
  | taskStart (g n : Nat) -- event, R305
  | kStepFoldDone (g n : Nat) -- event, R306
  | taskDone (g n : Nat) -- event, R306
  | twait (t : BitVec 6) (a : Reg) (o : Cm) -- VC, R308
  | tsig (t : BitVec 6) (o : Cm) -- VC, R308
  | axt (f : VA) -- VA, R314
  | tresume (d a : Reg) (o : Cm) -- VC, R312
  | tprog (d a : Reg) (o : Cm) -- VC, R312
  | tflt (d a : Reg) (w : Bool) (o : Cm) -- VC, R311 (OP 0, 1)
  | tfltSet (d a : Reg) (o : Cm) -- VC, R311 (OP 2)
  | tabort (d a : Reg) (o : Cm) -- VC, R312
  | asyncTrapEntry (h : Nat) -- event, R342
  | mqwpWrite (v : BitVec 32) -- event, R94
  | mqcfgWrite (v : BitVec 32) -- event, R94
  | mqRecordTake -- event, R94
  | create (k : Nat) -- event, R96
  | contextConstructionDone (c : Nat) -- event, R96
  | grow (k : Nat) -- event, R96
  | growQuadsJoined (c : Nat) -- event, R96
  | shrink (k : Nat) -- event, R97
  | shrinkSequenceDone (c : Nat) -- event, R97
  | destroy (k : Nat) -- event, R96
  | reset (k : Nat) -- event, R96
  | functionLevelReset (c : Nat) -- event, R96
  | drainingZeroingDone (c : Nat) -- event, R96
  | limit (k : Nat) -- event, R99
  | bucketRefill -- event, R99
  | share (k : Nat) -- event, R261
  | unshare (k : Nat) -- event, R262
  | linkTrain (k : Nat) -- event, R332
  | linkDown (k : Nat) -- event, R332
  | linkRetrain (k : Nat) -- event, R332
  | linkTrainingDone (l lanes : Nat) -- event, R329
  | linkTrainingTimeout (l : Nat) -- event, R329
  | flitReplay (l : Nat) (r : ReplayReport) -- event, R328
  | remoteResponse (h : Nat) -- event, R334
  | hostLinkStateChange (st : Nat) (width : LinkWidth) -- event, R337
  | hostWriteAck (h : Nat) -- event, R337
  | park (k : Nat) -- event, R344
  | unpark (k : Nat) -- event, R344
  | groupParked (g : Nat) -- event, R345
  | groupResume (g quad : Nat) -- event, R349
  | attest (k : Nat) -- event, R369
  | qwpWrite (c q : Nat) (v : BitVec 32) -- event, R106
  | qctlArm (c q : Nat) -- event, R105
  | qctlStop (c q : Nat) -- event, R105
  | qctlClear (c q : Nat) -- event, R105
  | queueTake (c q : Nat) -- event, R108
  | ktokWrite (c t : Nat) (v : BitVec 32) -- event, R115
  | groupPlacement (c : Nat) -- event, R117
  | groupLsImageCopied (g : Nat) -- event, R118
  | groupDrainDone (g : Nat) -- event, R121
  | kernelDone (k : Nat) -- event, R119
  | pipeGrant (spire pipe : Nat) -- event, R130
  | ptbaseWrite (c : Nat) (v : Word) -- event, R250
  | pmigCopyStart (h : Nat) -- event, R256
  | pmigLeafInstall (h : Nat) -- event, R256
  | cstatRead (c : Nat) -- event, R103
  | nqstatRead (c : Nat) -- event, R259
  | trstatRead (c : Nat) -- event, R360
  | registerWrite (vf : Option Nat) (off : Nat) (v : Word) -- event, R4
  | dctlHalt (c : Nat) -- event, R355
  | dctlResume (c : Nat) -- event, R355
  | dctlStep (c : Nat) -- event, R355
  | dctlCkpt (c : Nat) -- event, R358
  | debugStopReached (h : Nat) -- event, R355
  | ddataRead (c : Nat) -- event, R357
  | ddataWrite (c : Nat) (v : Word) -- event, R357
  | drtgtWrite (c : Nat) (v : Word) -- event, R359
  | replayTargetReached (h : Nat) -- event, R359
  | powerMeasurement (milliwatts : Nat) -- event, R13
  | powerLimitRelease -- event, R13
  | thermalStop (die : Nat) -- event, R14
  | thermalRestart (die : Nat) -- event, R14
  | thermalTrip (die : Nat) -- event, R14
  | uncorrectableFault (c unit fcode : Nat) (addr : Word) -- event, R350
  | deviceWideFault (unit fcode : Nat) (addr : Word) -- event, R351
  | correctedSoftError (count : Nat) -- event, R350
  | exceptionTableSpill (shaft : Nat) -- event, R244
  | crownStart (r : StartReport) -- event, R366
  | recoveryStatusWrite (v : BitVec 32) -- event, R368
  | recoveryImageVerified (ok : Bool) (r : StartReport) -- event, R368
  | illegalInstruction (w : Syl) -- event, R89
  | fetchFault (f : XFault) -- event, R74
  | powerLoss -- event, R368
  | clock -- event, R362
  deriving DecidableEq, Repr

end Sys2Proof
end

