-- ==== Sys2Proof/Machine/Legal.lean ====
section
/-! DEFINITION. What the spec says of an instruction before it executes: the conditions of R89 on its fields, its size,
its lane need (Table 5.23), its privilege (Table 5.16), its convoy unit, the vector registers it names (R38), and how it
behaves while speculative (Table 12.3). -/

namespace Sys2Proof

/-- Fields that no element-wise form uses (R83): vc and md. -/
def VA.noVcMd (f : VA) : Bool := f.vc == 0 && f.md == 0

/-- rnd and sat reserved (R83). -/
def VA.noRound (f : VA) : Bool := f.rnd == 0 && !f.sat

/-- The tag field takes a tag code or 15, never 14 (R82). -/
def VA.tagOk (f : VA) : Bool := f.tag != 14

/-- var[0] of VA: the scalar form (R82). -/
def VA.scalar (f : VA) : Bool := f.var.getLsbD 0

/-- var[2:1] of VA. -/
def VA.var21 (f : VA) : BitVec 2 := f.var.extractLsb' 1 2

/-- The vector form leaves ss zero and the scalar form leaves F3 zero (R82, R83). -/
def VA.formOk (f : VA) : Bool := if f.scalar then f.vb == 0 else f.ss == 0

/-- A two-operand element-wise form with a scalar form (Table 13.2, R198). -/
def VA.binary (f : VA) : Bool := f.formOk && f.var21 == 0 && f.noVcMd && f.tagOk

/-- A unary form: F3, ss and var reserved (R192, R202). -/
def VA.unary (f : VA) : Bool := f.vb == 0 && f.ss == 0 && f.var == 0 && f.noVcMd && f.tagOk

/-- A mask named in a 6-bit field: bits [5:4] reserved (R185). -/
def maskField (r : Reg) : Bool := r.extractLsb' 4 2 == 0

/-- vadc and vsbc (R199). -/
def VA.carry (f : VA) : Bool :=
  f.formOk && f.noRound && f.tagOk && f.md != 0 && maskField f.vc && !f.var.getLsbD 2 &&
    (if f.var.getLsbD 1 then f.vc == 0 else true)

/-- The compares (R201). -/
def VA.compare (f : VA) : Bool :=
  f.formOk && f.noRound && f.tag == 0 && f.vd == 0 && f.vc == 0 && f.md != 0 && !f.var.getLsbD 2

/-- vfma, vfms (R192). -/
def VA.fused (f : VA) : Bool := f.formOk && f.var21 == 0 && f.md == 0 && f.tagOk

/-- vslup, vsldn (R203). -/
def VA.slide (f : VA) : Bool :=
  f.noVcMd && f.tagOk && !f.scalar && f.var21 != 3 && (if f.var21 == 0 then true else f.vb == 0)

/-- A register number that names an even register. -/
def even (r : Reg) : Bool := !r.getLsbD 0

/-- Conditions common to the VM forms (R81, R82, R224): F2 is reserved and tag 14 is illegal; a store's tag is 15. -/
def VM.base (f : VM) (store : Bool) : Bool :=
  f.f2 == 0 && (if store then f.tag == 15 else f.tag != 14)

/-- sbv and sbn are zero. -/
def VM.noStream (f : VM) : Bool := !f.sbv && f.sbn == 0

/-- The bank-0 control registers of Tables 3.4, 25.1 and R362: (index, writable). -/
def controlIndices : List (Nat × Bool) :=
  [(0x00, true), (0x01, true), (0x02, false), (0x03, false), (0x04, false), (0x05, false), (0x06, false), (0x07, true),
   (0x08, true), (0x09, false), (0x0A, true), (0x0B, true), (0x10, true), (0x11, true), (0x12, true), (0x13, true),
   (0x14, true), (0x18, false), (0x20, true), (0x21, true), (0x22, false), (0x23, false), (0x24, false), (0x25, false),
   (0x26, false), (0x27, true)]

/-- An index that getc may name (R47, R76). -/
def readableIndex (bank : BitVec 4) (idx : BitVec 8) : Bool :=
  (bank == 0 && controlIndices.any (fun p => p.1 == idx.toNat)) || (bank == 1 && idx.toNat < 16)

/-- An index that setc may name (R47, R76). -/
def writableIndex (bank : BitVec 4) (idx : BitVec 8) : Bool :=
  (bank == 0 && controlIndices.any (fun p => p.1 == idx.toNat && p.2)) || (bank == 1 && idx.toNat < 16)

/-- Unsigned and 64-bit tags cannot carry a Haar level (R45, R166). -/
def tagCodeCarries (t : Nat) : Bool := !([1, 3, 5, 6, 7, 11].contains t) && t < 14

/-- The slots of a convoy header, slot i in bits [4i + 3 : 4i] (R85). -/
def convoySlots (slots : BitVec 24) : List Nat := (List.range 6).map fun i => (slots.toNat >>> (4 * i)) % 16

/-- The conditions of R86 that the header's own bits decide. -/
def convoyHeaderOk (n : BitVec 3) (slots : BitVec 24) : Bool :=
  let k := n.toNat + 2
  let l := convoySlots slots
  n.toNat ≤ 4 && (l.take k).all (fun u => 1 ≤ u && u ≤ 10) && decide (l.take k).Nodup && (l.drop k).all (· == 0)

/-- R89: no field of the instruction is reserved and nonzero, and none holds a value that its entry forbids. A
constructor not listed has no such field (its reserved fields are no part of the constructor; the decoder checks them). -/
def Instr.legalFields : Instr → Bool
  | .bfx _ _ lo wm1 => lo.toNat + wm1.toNat + 1 ≤ 64
  | .loop _ _ e => 2 ≤ e.toNat
  | .loopi _ _ e => 2 ≤ e.toNat
  | .getc _ bank idx => readableIndex bank idx
  | .setc _ bank idx => writableIndex bank idx
  | .barArr _ ord _ => ord == 0 || ord == 2
  | .barWt _ ord _ => ord == 0 || ord == 1
  | .convoy n slots => convoyHeaderOk n slots
  | .vtype _ tag dom _ => tag.toNat < 14 && (dom == 0 || tagCodeCarries tag.toNat)
  | .vstrip _ a _ lq _ _ => !lq || a == 0
  | .mpre f | .mthru f => f.md != 0 && f.mb == 0 && f.var == 0
  | .mlatch f | .mand f | .mor f | .mxor f | .mandn f => f.md != 0 && f.ss == 0 && f.var == 0
  | .mslide f => f.md != 0 && f.mb == 0 && f.var.extractLsb' 1 2 == 0
  | .mcnt f | .mfirst f => f.md == 0 && f.mb == 0 && f.var == 0
  | .mftm f => f.md != 0 && f.ma == 0 && f.mb == 0 && f.mask == 0 && f.ss == 0 && f.var == 0
  | .vadd f | .vsub f | .vmin f | .vmax f | .vsll f | .vsrl f | .vsra f | .vrshr f | .vmul f | .vmulh f | .vdiv f => f.binary
  | .vand f | .vor f | .vxor f | .vandn f => f.binary && f.noRound
  | .vnsat f => f.unary && f.noRound
  | .vabs f | .vneg f | .vcvt f | .vsqrt f | .vrcp f | .vrsq f | .vexp f | .vlog f | .vtanh f | .vsig f | .vxpnd f => f.unary
  | .vadc f | .vsbc f => f.carry
  | .vfma f | .vfms f => f.fused
  | .vdot2 f => f.binary && f.noRound
  | .vceq f | .vcne f | .vclt f | .vcle f => f.compare
  | .vsel f => f.formOk && f.var21 == 0 && f.md == 0 && f.tagOk && maskField f.vc
  | .vmov f => f.noRound && f.noVcMd && f.var21 == 0 && f.vb == 0 && f.tagOk &&
      (if f.scalar then f.va == 0 else f.tag == 15 && f.ss == 0)
  | .vid f => f.va == 0 && f.vb == 0 && f.noVcMd && f.var21 == 0 && f.tagOk && (f.scalar || f.ss == 0)
  | .vslup f | .vsldn f => f.slide
  | .vcmpr f => f.vb == 0 && f.var == 0 && f.noVcMd && f.tagOk
  | .vgath f => f.ss == 0 && f.var == 0 && f.noVcMd && f.tagOk
  | .vxtr f => f.vd == 0 && f.vb == 0 && f.var == 0 && f.md == 0 && f.tag == 0 && f.noRound
  | .vins f => f.va == 0 && f.vb == 0 && f.var == 0 && f.md == 0 && f.tagOk && f.noRound
  | .vrsum f | .vrmax f | .vrmin f => f.binary
  | .vrand f | .vrior f | .vrxor f => f.binary && f.noRound
  | .vscan f => f.formOk && f.noVcMd && f.tagOk && f.var21 != 3
  | .vscmx f => f.vb == 0 && (f.scalar || f.ss == 0) && f.var21 == 0 && f.noVcMd && f.tagOk && f.noRound
  | .vsmxAcc f => f.vb == 0 && f.ss == 0 && f.noVcMd && f.tag == 0 && f.noRound && !f.scalar && !f.var.getLsbD 2 && even f.vd
  | .vsmxFin f => f.ss == 0 && f.var == 0 && f.noVcMd && f.tagOk && even f.vb
  | .vsamp f => f.vb == 0 && f.md == 0 && f.tag == 15 && f.noRound && !f.scalar
  | .vtopkIns f => f.vb == 0 && f.md == 0 && f.tag == 15 && f.noRound && !f.scalar && !f.var.getLsbD 2 && even f.vd
  | .vtopkMrg f => f.ss == 0 && f.var == 0 && f.md == 0 && f.tag == 0 && f.noRound && even f.vd && even f.va && even f.vb
  | .vrng f => f.va == 0 && f.vb == 0 && f.md == 0 && f.tagOk && !f.scalar && f.var21 != 3
  | .vcfq f => f.vb == 0 && f.var == 0 && f.noVcMd && f.tagOk && f.mf == 0
  | .axt f => f.va == 0 && f.vb == 0 && f.md == 0 && f.tagOk && !f.scalar && f.vc.toNat < 2
  | .vld f => f.base false && f.f3 == 0 && f.sstr == 0 && f.nf == 0 && f.noStream
  | .vldStream f => f.base false && f.f3 == 0 && f.sbase == 0 && f.sstr == 0 && f.nf == 0 && f.mf == 0 && f.sbv
  | .vst f => f.base true && f.f3 == 0 && f.sstr == 0 && f.nf == 0 && f.noStream
  | .vlds f => f.base false && f.f3 == 0 && f.nf == 0 && f.noStream
  | .vsts f => f.base true && f.f3 == 0 && f.nf == 0 && f.noStream
  | .vldseg f => f.base false && f.f3 == 0 && f.nf != 0 && f.noStream && f.f1.toNat + f.nf.toNat ≤ 63
  | .vstseg f => f.base true && f.f3 == 0 && f.nf != 0 && f.noStream && f.f1.toNat + f.nf.toNat ≤ 63
  | .vldx f => f.base false && f.sstr == 0 && f.nf == 0 && f.noStream
  | .vstx f => f.base true && f.sstr == 0 && f.nf == 0 && f.noStream
  | .vldFf f => f.base false && f.f3 == 0 && f.sstr == 0 && f.nf == 0 && f.noStream
  | .vldSc f => f.base false && f.f3 == 0 && f.nf == 0 && f.noStream
  | .vstSc f => f.base true && f.f3 == 0 && f.nf == 0 && f.noStream
  | .vldsr f => f.base false && f.f3 == 0 && f.mask == 0 && f.noStream && f.f1.toNat + f.nf.toNat ≤ 63
  | .qbind _ kind idx _ => (kind == 0 && idx == 0) || ((kind == 1 || kind == 2) && idx.toNat < 8) || kind == 3
  | .copy _ _ _ _ dst src scope _ => dst.toNat < 4 && src.toNat < 4 && 2 ≤ scope.toNat && scope.toNat ≤ 5
  | .cptest _ _ w _ => w.toNat ≤ 32
  | .cpwait _ w _ _ => w.toNat ≤ 32
  | .bop d _ _ op w _ v o =>
    op.toNat < 8 && (op != 6 || (w == 0 && !v)) && (op != 7 || 2 ≤ w.toNat) && (if v then d == 0 else o.mask == 0)
  | .fence _ scope _ => scope.toNat ≤ 5
  | _ => true

/-- Bytes of an instruction: 8 in class 10, 4 in the other classes (R73), 0 for an event. -/
def Instr.size : Instr → Nat
  | .vshape .. | .vtype .. | .vstrip .. | .vacq .. | .vrel .. | .mfmt .. | .vpopq .. | .vexit .. => 8
  | .mpre _ | .mthru _ | .mlatch _ | .mand _ | .mor _ | .mxor _ | .mandn _ | .mslide _ | .mcnt _ | .mfirst _ | .mftm _ => 8
  | .vadd _ | .vsub _ | .vmin _ | .vmax _ | .vand _ | .vor _ | .vxor _ | .vandn _ | .vsll _ | .vsrl _ | .vsra _ | .vrshr _
  | .vnsat _ | .vadc _ | .vsbc _ | .vabs _ | .vmul _ | .vmulh _ | .vfma _ | .vfms _ | .vdot2 _ | .vdiv _ | .vsqrt _ | .vcvt _
  | .vceq _ | .vcne _ | .vclt _ | .vcle _ | .vsel _ | .vmov _ | .vid _ | .vneg _ | .vslup _ | .vsldn _ | .vcmpr _ | .vxpnd _
  | .vgath _ | .vxtr _ | .vins _ | .vrsum _ | .vrmax _ | .vrmin _ | .vrand _ | .vrior _ | .vrxor _ | .vscan _ | .vscmx _
  | .vrcp _ | .vrsq _ | .vexp _ | .vlog _ | .vtanh _ | .vsig _ | .vsmxAcc _ | .vsmxFin _ | .vsamp _ | .vtopkIns _
  | .vtopkMrg _ | .vrng _ | .vcfq _ | .axt _ => 8
  | .vld _ | .vldStream _ | .vst _ | .vlds _ | .vsts _ | .vldseg _ | .vstseg _ | .vldx _ | .vstx _ | .vldFf _ | .vldSc _
  | .vstSc _ | .vldsr _ => 8
  | .stream .. | .qbind .. | .copy .. | .cptest .. | .cpwait .. | .bop .. | .stand .. | .unstand .. | .fence .. | .wait ..
  | .task .. | .twait .. | .tsig .. | .tresume .. | .tprog .. | .tflt .. | .tfltSet .. | .tabort .. => 8
  | .seatGrant _ | .exitResolution _ | .heldEntryDrain _ | .scTicketGrant _ | .loadDataArrives _ | .homeAccessStep
  | .dauFetch .. | .copyChunkLands .. | .homeSubscribe .. | .standReplyArrives .. | .pushArrives .. | .homeUnsubscribe ..
  | .subscriptionAckArrives .. | .homeParkSlot .. | .fuseeTakeRecord _ | .taskStart .. | .kStepFoldDone .. | .taskDone ..
  | .asyncTrapEntry _ | .mqwpWrite _ | .mqcfgWrite _ | .mqRecordTake | .create _ | .contextConstructionDone _ | .grow _
  | .growQuadsJoined _ | .shrink _ | .shrinkSequenceDone _ | .destroy _ | .reset _ | .functionLevelReset _
  | .drainingZeroingDone _ | .limit _ | .bucketRefill | .share _ | .unshare _ | .linkTrain _ | .linkDown _ | .linkRetrain _
  | .linkTrainingDone .. | .linkTrainingTimeout _ | .flitReplay .. | .remoteResponse _ | .hostLinkStateChange ..
  | .hostWriteAck _ | .park _ | .unpark _ | .groupParked _ | .groupResume .. | .attest _ | .qwpWrite .. | .qctlArm ..
  | .qctlStop .. | .qctlClear .. | .queueTake .. | .ktokWrite .. | .groupPlacement _ | .groupLsImageCopied _
  | .groupDrainDone _ | .kernelDone _ | .pipeGrant .. | .ptbaseWrite .. | .pmigCopyStart _ | .pmigLeafInstall _
  | .cstatRead _ | .nqstatRead _ | .trstatRead _ | .registerWrite .. | .dctlHalt _ | .dctlResume _ | .dctlStep _
  | .dctlCkpt _ | .debugStopReached _ | .ddataRead _ | .ddataWrite .. | .drtgtWrite .. | .replayTargetReached _
  | .powerMeasurement _ | .powerLimitRelease | .thermalStop _ | .thermalRestart _ | .thermalTrip _ | .uncorrectableFault ..
  | .deviceWideFault .. | .correctedSoftError _ | .exceptionTableSpill _ | .crownStart _ | .recoveryStatusWrite _
  | .recoveryImageVerified .. | .illegalInstruction _ | .fetchFault _ | .powerLoss | .clock => 0
  | _ => 4

/-- An event of the device or of its host, not an instruction a hart fetches. -/
def Instr.isEvent (i : Instr) : Bool := i.size == 0

/-- Instructions that run only at context level (P in Table 5.16), and getc and setc of Table 25.1 (R339). -/
def Instr.privileged : Instr → Bool
  | .eret _ | .pmig .. | .pinv .. | .pcnt .. | .pfence => true
  | .getc _ bank idx => bank == 0 && 0x20 ≤ idx.toNat && idx.toNat < 0x28
  | .setc _ bank idx => bank == 0 && 0x20 ≤ idx.toNat && idx.toNat < 0x28
  | _ => false

/-- Lane need L (Table 5.23): class-10 majors but vacq and the engine and synchronisation majors; bop with V = 1 (R238);
setc of vl or vspace (R47, R126). -/
def Instr.needsLanes : Instr → Bool
  | .vacq .. | .stream .. | .qbind .. | .copy .. | .cptest .. | .cpwait .. | .stand .. | .unstand .. | .fence .. | .wait ..
  | .task .. | .twait .. | .tsig .. | .tresume .. | .tprog .. | .tflt .. | .tfltSet .. | .tabort .. => false
  | .bop _ _ _ _ _ _ v _ => v
  | .setc _ bank idx => bank == 0 && idx.toNat < 2
  | i => i.size == 8

/-- The convoy units of Table 5.25, by code; 1 stands for ALU, which codes 1 and 2 match; 0 cannot stand in a convoy. -/
def Instr.unit : Instr → Nat
  | .vadd _ | .vsub _ | .vmin _ | .vmax _ | .vand _ | .vor _ | .vxor _ | .vandn _ | .vsll _ | .vsrl _ | .vsra _ | .vrshr _
  | .vnsat _ | .vadc _ | .vsbc _ | .vabs _ | .vcvt _ | .vceq _ | .vcne _ | .vclt _ | .vcle _ | .vsel _ | .vmov _ | .vid _
  | .vneg _ | .vsmxFin _ | .vrng _ => 1
  | .vmul _ | .vmulh _ | .vfma _ | .vfms _ | .vdot2 _ => 3
  | .vdiv _ | .vsqrt _ | .vrcp _ | .vrsq _ | .vexp _ | .vlog _ | .vtanh _ | .vsig _ => 4
  | .vld _ | .vldStream _ | .vlds _ | .vldseg _ | .vldx _ | .vldFf _ | .vldSc _ | .vldsr _ | .vcfq _ => 5
  | .vst _ | .vsts _ | .vstseg _ | .vstx _ | .vstSc _ => 6
  | .mpre _ | .mthru _ | .mlatch _ | .mand _ | .mor _ | .mxor _ | .mandn _ | .mslide _ | .mcnt _ | .mfirst _ | .mftm _ => 7
  | .vslup _ | .vsldn _ | .vcmpr _ | .vxpnd _ | .vgath _ | .vxtr _ | .vins _ | .vtopkIns _ | .vtopkMrg _ => 8
  | .vrsum _ | .vrmax _ | .vrmin _ | .vrand _ | .vrior _ | .vrxor _ | .vscan _ | .vscmx _ | .vsmxAcc _ | .vsamp _ => 9
  | .axt _ => 10
  | _ => 0

/-- A slot code that an instruction of unit u matches (Table 5.25). -/
def unitMatches (u slot : Nat) : Bool := u != 0 && (slot == u || (u == 1 && slot == 2))

/-- The B operand of a VA instruction: vb, unless the scalar form replaces it. -/
def VA.bReg (f : VA) : List Reg := if f.scalar then [] else [f.vb]

/-- The k registers from r on. -/
def regRun (r : Reg) (k : Nat) : List Nat := (List.range k).map (r.toNat + ·)

/-- Vector registers an instruction writes: the ones whose rename copy R173 takes. -/
def Instr.vdests : Instr → List Nat
  | .vtype vd .. => [vd.toNat]
  | .vadd f | .vsub f | .vmin f | .vmax f | .vand f | .vor f | .vxor f | .vandn f | .vsll f | .vsrl f | .vsra f | .vrshr f
  | .vnsat f | .vadc f | .vsbc f | .vabs f | .vmul f | .vmulh f | .vfma f | .vfms f | .vdot2 f | .vdiv f | .vsqrt f | .vcvt f
  | .vsel f | .vmov f | .vid f | .vneg f | .vslup f | .vsldn f | .vcmpr f | .vxpnd f | .vgath f | .vins f | .vrsum f
  | .vrmax f | .vrmin f | .vrand f | .vrior f | .vrxor f | .vscan f | .vscmx f | .vrcp f | .vrsq f | .vexp f | .vlog f
  | .vtanh f | .vsig f | .vsmxFin f | .vsamp f | .vrng f | .vcfq f | .axt f => [f.vd.toNat]
  | .vsmxAcc f | .vtopkIns f | .vtopkMrg f => regRun f.vd 2
  | .vld f | .vldStream f | .vlds f | .vldx f | .vldFf f | .vldSc f => [f.f1.toNat]
  | .vldseg f | .vldsr f => regRun f.f1 (f.nf.toNat + 1)
  | _ => []

/-- Vector registers an instruction reads as operands. vsmx.fin reads vb and vb + 1 (R212). -/
def Instr.vsrcs : Instr → List Nat
  | .vadd f | .vsub f | .vmin f | .vmax f | .vand f | .vor f | .vxor f | .vandn f | .vsll f | .vsrl f | .vsra f | .vrshr f
  | .vadc f | .vsbc f | .vmul f | .vmulh f | .vdot2 f | .vdiv f | .vceq f | .vcne f | .vclt f | .vcle f | .vsel f
  | .vrsum f | .vrmax f | .vrmin f | .vrand f | .vrior f | .vrxor f | .vscan f => f.va.toNat :: f.bReg.map BitVec.toNat
  | .vfma f | .vfms f => f.va.toNat :: f.vc.toNat :: f.bReg.map BitVec.toNat
  | .vslup f | .vsldn f => if f.var21 == 0 then [f.va.toNat, f.vb.toNat] else [f.va.toNat]
  | .vgath f => [f.va.toNat, f.vb.toNat]
  | .vnsat f | .vabs f | .vsqrt f | .vcvt f | .vneg f | .vcmpr f | .vxpnd f | .vxtr f | .vscmx f | .vrcp f | .vrsq f | .vexp f
  | .vlog f | .vtanh f | .vsig f | .vsmxAcc f | .vsamp f | .vtopkIns f | .vcfq f => [f.va.toNat]
  | .vmov f => if f.scalar then [] else [f.va.toNat]
  | .vsmxFin f => f.va.toNat :: regRun f.vb 2
  | .vtopkMrg f => regRun f.va 2 ++ regRun f.vb 2
  | .vst f | .vsts f | .vstSc f => [f.f1.toNat]
  | .vstseg f => regRun f.f1 (f.nf.toNat + 1)
  | .vldx f => [f.f3.toNat]
  | .vstx f => [f.f1.toNat, f.f3.toNat]
  | .vldsr f => regRun f.f1 (f.nf.toNat + 1)
  | .bop _ _ b _ _ _ v _ => if v then [b.toNat] else []
  | _ => []

/-- Every vector register an instruction names, as source or destination (R38). -/
def Instr.vregs (i : Instr) : List Nat := i.vdests ++ i.vsrcs

/-- Table 12.3: instructions that wait at issue while an exit is open. A convoy header does not (DEDUCED, log 21: R87 speaks
of members younger than an open exit). -/
def Instr.waitsAtIssue : Instr → Bool
  | .aadd .. | .aswp .. | .acas .. | .amax .. | .amin .. | .aaddBel .. | .aswpBel .. | .acasBel .. | .amaxBel .. | .aminBel ..
  | .bop .. | .vldSc _ | .vstSc _ | .vldsr _ | .vldStream _ | .qrd .. | .qbind .. | .stream .. | .copy .. | .cptest ..
  | .cpwait .. | .stand .. | .unstand .. | .fence .. | .wait .. | .task .. | .twait .. | .tsig .. | .tresume .. | .tprog ..
  | .tflt .. | .tfltSet .. | .tabort .. | .tokrd .. | .tokwr .. | .launch .. | .barInit .. | .barArr .. | .barWt .. | .barAw ..
  | .barDrop .. | .barRd .. | .vacq .. | .vshape .. | .vrel .. | .pmig .. | .pinv .. | .pcnt .. | .pfence | .trap _ | .ebrk _
  | .eret _ | .halt => true
  | .setc _ bank idx => bank == 0 && 0x10 ≤ idx.toNat && idx.toNat < 0x15
  | _ => false

end Sys2Proof
end

