-- ==== Sys2Proof/WellFormed.lean ====
section
/-! DEFINITION. Well-formed instructions: what R89 does not make illegal by its fields. -/

namespace Sys2Proof

/-- The instruction's fields obey R89 (R78, R79, R81, R82, R83 and its entry). -/
def Instr.wellFormed (i : Instr) : Bool := i.legalFields

end Sys2Proof
end

