-- ==== Sys2Proof/Decode.lean ====
section
/-! DEFINITION. The decoder and the encoder of Ixcen (spec/05). An instruction is read as one number w: the first syllable
in bits [31:0], the second in bits [63:32] (R73). -/

namespace Sys2Proof

/-- Bits [lo + n - 1 : lo] of w. -/
def fld (w lo n : Nat) : BitVec n := BitVec.ofNat n (w / 2 ^ lo)

/-- Bit k of w. -/
def bit (w k : Nat) : Bool := w / 2 ^ k % 2 == 1

/-- The ignored fields of a class-10 instruction (R80, R83). -/
def cmOf (w : Nat) : Cm := ⟨fld w 60 4, fld w 58 2⟩

/-- VA fields (Tables 5.17, 5.18). -/
def vaOf (w : Nat) : VA where
  vd := fld w 16 6
  va := fld w 10 6
  vb := fld w 4 6
  mask := fld w 0 4
  cls := fld w 60 4
  mf := fld w 58 2
  rnd := fld w 56 2
  sat := bit w 55
  tag := fld w 51 4
  var := fld w 48 3
  vc := fld w 42 6
  ss := fld w 36 6
  md := fld w 32 4

/-- VM fields (Tables 5.17, 5.19). -/
def vmOf (w : Nat) : VM where
  f1 := fld w 16 6
  f2 := fld w 10 6
  f3 := fld w 4 6
  mask := fld w 0 4
  cls := fld w 60 4
  mf := fld w 58 2
  sbase := fld w 52 6
  sstr := fld w 46 6
  rnd := fld w 44 2
  sat := bit w 43
  nf := fld w 40 3
  tag := fld w 36 4
  sbv := bit w 35
  sbn := fld w 32 3

/-- VK fields (Tables 5.17, 5.21). -/
def vkOf (w : Nat) : VK where
  md := fld w 16 4
  ma := fld w 10 4
  mb := fld w 4 4
  mask := fld w 0 4
  cls := fld w 60 4
  mf := fld w 58 2
  ss := fld w 52 6
  var := fld w 49 3

/-- SR (Table 5.2), op 0x00. -/
def srWord (fn : Nat) (d a b : Reg) : Nat := d.toNat * 2 ^ 18 + a.toNat * 2 ^ 12 + b.toNat * 2 ^ 6 + fn

/-- SI and SB (Tables 5.3, 5.6). -/
def siWord (op : Nat) (d a : Reg) (imm : Nat) : Nat := op * 2 ^ 24 + d.toNat * 2 ^ 18 + a.toNat * 2 ^ 12 + imm

/-- SF (Table 5.5). -/
def sfWord (op : Nat) (d a b : Reg) (rnd : BitVec 2) (w : Bool) (sub : Nat) : Nat :=
  op * 2 ^ 24 + d.toNat * 2 ^ 18 + a.toNat * 2 ^ 12 + b.toNat * 2 ^ 6 + rnd.toNat * 2 ^ 4 + w.toNat * 2 ^ 3 + sub

/-- SM (Table 5.11). -/
def smWord (op : Nat) (d a : Reg) (cls : BitVec 4) (sp : BitVec 2) (disp : BitVec 6) : Nat :=
  2 ^ 30 + op * 2 ^ 24 + d.toNat * 2 ^ 18 + a.toNat * 2 ^ 12 + cls.toNat * 2 ^ 8 + sp.toNat * 2 ^ 6 + disp.toNat

/-- SA (Table 5.12). -/
def saWord (op : Nat) (d a b : Reg) (ord : BitVec 2) (cls : BitVec 4) : Nat :=
  2 ^ 30 + op * 2 ^ 24 + d.toNat * 2 ^ 18 + a.toNat * 2 ^ 12 + b.toNat * 2 ^ 6 + ord.toNat * 2 ^ 4 + cls.toNat

/-- SY (Table 5.13). -/
def syWord (op : Nat) (d a : Reg) (imm : Nat) : Nat := 2 ^ 30 + op * 2 ^ 24 + d.toNat * 2 ^ 18 + a.toNat * 2 ^ 12 + imm

/-- The first syllable of class 10 (Table 5.17). -/
def firstSyl (major f1 f2 f3 mask : Nat) : Nat := 2 ^ 31 + major * 2 ^ 22 + f1 * 2 ^ 16 + f2 * 2 ^ 10 + f3 * 2 ^ 4 + mask

/-- cls and mf in place (R80). -/
def cmBits (cls : BitVec 4) (mf : BitVec 2) : Nat := cls.toNat * 2 ^ 60 + mf.toNat * 2 ^ 58

/-- VA (Table 5.18). -/
def vaWord (major : Nat) (f : VA) : Nat :=
  cmBits f.cls f.mf + f.rnd.toNat * 2 ^ 56 + f.sat.toNat * 2 ^ 55 + f.tag.toNat * 2 ^ 51 + f.var.toNat * 2 ^ 48 +
    f.vc.toNat * 2 ^ 42 + f.ss.toNat * 2 ^ 36 + f.md.toNat * 2 ^ 32 +
    firstSyl major f.vd.toNat f.va.toNat f.vb.toNat f.mask.toNat

/-- VM (Table 5.19). -/
def vmWord (major : Nat) (f : VM) : Nat :=
  cmBits f.cls f.mf + f.sbase.toNat * 2 ^ 52 + f.sstr.toNat * 2 ^ 46 + f.rnd.toNat * 2 ^ 44 + f.sat.toNat * 2 ^ 43 +
    f.nf.toNat * 2 ^ 40 + f.tag.toNat * 2 ^ 36 + f.sbv.toNat * 2 ^ 35 + f.sbn.toNat * 2 ^ 32 +
    firstSyl major f.f1.toNat f.f2.toNat f.f3.toNat f.mask.toNat

/-- VK (Table 5.21). -/
def vkWord (major : Nat) (f : VK) : Nat :=
  cmBits f.cls f.mf + f.ss.toNat * 2 ^ 52 + f.var.toNat * 2 ^ 49 +
    firstSyl major f.md.toNat f.ma.toNat f.mb.toNat f.mask.toNat

/-- VC (Table 5.20): sc is reserved in every instruction of the format, and the mask field in all but `bop` on a vector (R81, R238). -/
def vcWord (major : Nat) (f1 f2 f3 : Reg) (imm : Nat) (o : Cm) : Nat :=
  cmBits o.cls o.mf + imm * 2 ^ 32 + firstSyl major f1.toNat f2.toNat f3.toNat 0

/-- The number of an instruction's syllables; 0 for an event, which has none. -/
def encodeNat : Instr → Nat
  | .add d a b => srWord 1 d a b
  | .sub d a b => srWord 2 d a b
  | .mul d a b => srWord 3 d a b
  | .mulh d a b => srWord 4 d a b
  | .mulhu d a b => srWord 5 d a b
  | .div d a b => srWord 6 d a b
  | .divu d a b => srWord 7 d a b
  | .rem d a b => srWord 8 d a b
  | .remu d a b => srWord 9 d a b
  | .and d a b => srWord 10 d a b
  | .or d a b => srWord 11 d a b
  | .xor d a b => srWord 12 d a b
  | .andn d a b => srWord 13 d a b
  | .sll d a b => srWord 14 d a b
  | .srl d a b => srWord 15 d a b
  | .sra d a b => srWord 16 d a b
  | .slt d a b => srWord 17 d a b
  | .sltu d a b => srWord 18 d a b
  | .min d a b => srWord 19 d a b
  | .max d a b => srWord 20 d a b
  | .minu d a b => srWord 21 d a b
  | .maxu d a b => srWord 22 d a b
  | .clz d a => srWord 23 d a 0
  | .ctz d a => srWord 24 d a 0
  | .cnt d a => srWord 25 d a 0
  | .sextB d a => srWord 26 d a 0
  | .sextH d a => srWord 27 d a 0
  | .sextW d a => srWord 28 d a 0
  | .zextB d a => srWord 29 d a 0
  | .zextH d a => srWord 30 d a 0
  | .zextW d a => srWord 31 d a 0
  | .addi d a imm => siWord 0x01 d a imm.toNat
  | .andi d a imm => siWord 0x02 d a imm.toNat
  | .ori d a imm => siWord 0x03 d a imm.toNat
  | .xori d a imm => siWord 0x04 d a imm.toNat
  | .slti d a imm => siWord 0x08 d a imm.toNat
  | .sltiu d a imm => siWord 0x09 d a imm.toNat
  | .jalr d a imm => siWord 0x27 d a imm.toNat
  | .slli d a n => siWord 0x05 d a n.toNat
  | .srli d a n => siWord 0x06 d a n.toNat
  | .srai d a n => siWord 0x07 d a n.toNat
  | .bfx d a lo wm1 => siWord 0x0A d a (lo.toNat * 2 ^ 6 + wm1.toNat)
  | .lui d imm => 0x0B * 2 ^ 24 + d.toNat * 2 ^ 18 + imm.toNat
  | .aupc d imm => 0x0C * 2 ^ 24 + d.toNat * 2 ^ 18 + imm.toNat
  | .fadd d a b rnd w => sfWord 0x10 d a b rnd w 0
  | .fsub d a b rnd w => sfWord 0x11 d a b rnd w 0
  | .fmul d a b rnd w => sfWord 0x12 d a b rnd w 0
  | .fdiv d a b rnd w => sfWord 0x13 d a b rnd w 0
  | .fmac d a b rnd w => sfWord 0x1B d a b rnd w 0
  | .fsqrt d a rnd w => sfWord 0x14 d a 0 rnd w 0
  | .fmin d a b w => sfWord 0x15 d a b 0 w 0
  | .fmax d a b w => sfWord 0x16 d a b 0 w 0
  | .feq d a b w => sfWord 0x17 d a b 0 w 0
  | .flt d a b w => sfWord 0x18 d a b 0 w 0
  | .fle d a b w => sfWord 0x19 d a b 0 w 0
  | .ftoi d a rnd w => sfWord 0x1A d a 0 rnd w 0
  | .ftou d a rnd w => sfWord 0x1A d a 0 rnd w 1
  | .itof d a rnd w => sfWord 0x1A d a 0 rnd w 2
  | .utof d a rnd w => sfWord 0x1A d a 0 rnd w 3
  | .fnarrow d a rnd => sfWord 0x1A d a 0 rnd false 4
  | .fwiden d a rnd => sfWord 0x1A d a 0 rnd true 4
  | .beq a b off => siWord 0x20 a b off.toNat
  | .bne a b off => siWord 0x21 a b off.toNat
  | .blt a b off => siWord 0x22 a b off.toNat
  | .bge a b off => siWord 0x23 a b off.toNat
  | .bltu a b off => siWord 0x24 a b off.toNat
  | .bgeu a b off => siWord 0x25 a b off.toNat
  | .jal off => 0x26 * 2 ^ 24 + off.toNat
  | .loop n a e => 0x28 * 2 ^ 24 + n.toNat * 2 ^ 23 + a.toNat * 2 ^ 16 + e.toNat
  | .loopi n c e => 0x29 * 2 ^ 24 + n.toNat * 2 ^ 23 + c.toNat * 2 ^ 12 + e.toNat
  | .bany m off => 0x2A * 2 ^ 24 + m.toNat * 2 ^ 20 + off.toNat
  | .bnone m off => 0x2B * 2 ^ 24 + m.toNat * 2 ^ 20 + off.toNat
  | .ldb d a cls sp disp => smWord 0x00 d a cls sp disp
  | .ldbu d a cls sp disp => smWord 0x01 d a cls sp disp
  | .ldh d a cls sp disp => smWord 0x02 d a cls sp disp
  | .ldhu d a cls sp disp => smWord 0x03 d a cls sp disp
  | .ldw d a cls sp disp => smWord 0x04 d a cls sp disp
  | .ldwu d a cls sp disp => smWord 0x05 d a cls sp disp
  | .ldd d a cls sp disp => smWord 0x06 d a cls sp disp
  | .stb d a cls sp disp => smWord 0x08 d a cls sp disp
  | .sth d a cls sp disp => smWord 0x09 d a cls sp disp
  | .stw d a cls sp disp => smWord 0x0A d a cls sp disp
  | .std d a cls sp disp => smWord 0x0B d a cls sp disp
  | .aadd d a b ord cls => saWord 0x10 d a b ord cls
  | .aswp d a b ord cls => saWord 0x11 d a b ord cls
  | .acas d a b ord cls => saWord 0x12 d a b ord cls
  | .amax d a b ord cls => saWord 0x13 d a b ord cls
  | .amin d a b ord cls => saWord 0x14 d a b ord cls
  | .aaddBel d a b ord cls => saWord 0x18 d a b ord cls
  | .aswpBel d a b ord cls => saWord 0x19 d a b ord cls
  | .acasBel d a b ord cls => saWord 0x1A d a b ord cls
  | .amaxBel d a b ord cls => saWord 0x1B d a b ord cls
  | .aminBel d a b ord cls => saWord 0x1C d a b ord cls
  | .getc d bank idx => syWord 0x20 d 0 (bank.toNat * 2 ^ 8 + idx.toNat)
  | .setc a bank idx => syWord 0x21 0 a (bank.toNat * 2 ^ 8 + idx.toNat)
  | .trap n => syWord 0x22 0 0 n.toNat
  | .eret after => syWord 0x23 0 0 after.toNat
  | .halt => syWord 0x24 0 0 0
  | .ebrk n => syWord 0x25 0 0 n.toNat
  | .qrd d q => syWord 0x26 d 0 q.toNat
  | .pmig d a => syWord 0x28 d a 0
  | .pinv a all => syWord 0x29 0 a all.toNat
  | .pcnt d a clr => syWord 0x2A d a clr.toNat
  | .pfence => syWord 0x2B 0 0 0
  | .launch d a q => syWord 0x2C d a q.toNat
  | .barInit a b => syWord 0x30 0 a b.toNat
  | .barArr d ord b => syWord 0x31 d 0 (ord.toNat * 2 ^ 6 + b.toNat)
  | .barWt a ord b => syWord 0x32 0 a (ord.toNat * 2 ^ 6 + b.toNat)
  | .barAw d ord b => syWord 0x33 d 0 (ord.toNat * 2 ^ 6 + b.toNat)
  | .barDrop b => syWord 0x34 0 0 b.toNat
  | .barRd d b => syWord 0x35 d 0 b.toNat
  | .tokrd d t => syWord 0x36 d 0 t.toNat
  | .tokwr a t => syWord 0x37 0 a t.toNat
  | .convoy n slots => 3 * 2 ^ 30 + n.toNat * 2 ^ 27 + slots.toNat
  | .mpre f => vkWord 0x08 f
  | .mthru f => vkWord 0x09 f
  | .mlatch f => vkWord 0x0A f
  | .mand f => vkWord 0x0B f
  | .mor f => vkWord 0x0C f
  | .mxor f => vkWord 0x0D f
  | .mandn f => vkWord 0x0E f
  | .mslide f => vkWord 0x0F f
  | .mcnt f => vkWord 0x4D f
  | .mfirst f => vkWord 0x4E f
  | .mftm f => vkWord 0x4F f
  | .vadd f => vaWord 0x10 f
  | .vsub f => vaWord 0x11 f
  | .vmin f => vaWord 0x12 f
  | .vmax f => vaWord 0x13 f
  | .vand f => vaWord 0x14 f
  | .vor f => vaWord 0x15 f
  | .vxor f => vaWord 0x16 f
  | .vandn f => vaWord 0x17 f
  | .vsll f => vaWord 0x18 f
  | .vsrl f => vaWord 0x19 f
  | .vsra f => vaWord 0x1A f
  | .vrshr f => vaWord 0x1B f
  | .vnsat f => vaWord 0x1C f
  | .vadc f => vaWord 0x1D f
  | .vsbc f => vaWord 0x1E f
  | .vabs f => vaWord 0x1F f
  | .vmul f => vaWord 0x20 f
  | .vmulh f => vaWord 0x21 f
  | .vfma f => vaWord 0x22 f
  | .vfms f => vaWord 0x23 f
  | .vdot2 f => vaWord 0x24 f
  | .vdiv f => vaWord 0x25 f
  | .vsqrt f => vaWord 0x26 f
  | .vcvt f => vaWord 0x27 f
  | .vceq f => vaWord 0x28 f
  | .vcne f => vaWord 0x29 f
  | .vclt f => vaWord 0x2A f
  | .vcle f => vaWord 0x2B f
  | .vsel f => vaWord 0x2C f
  | .vmov f => vaWord 0x2D f
  | .vid f => vaWord 0x2E f
  | .vneg f => vaWord 0x2F f
  | .vslup f => vaWord 0x30 f
  | .vsldn f => vaWord 0x31 f
  | .vcmpr f => vaWord 0x32 f
  | .vxpnd f => vaWord 0x33 f
  | .vgath f => vaWord 0x34 f
  | .vxtr f => vaWord 0x35 f
  | .vins f => vaWord 0x36 f
  | .vrsum f => vaWord 0x38 f
  | .vrmax f => vaWord 0x39 f
  | .vrmin f => vaWord 0x3A f
  | .vrand f => vaWord 0x3B f
  | .vrior f => vaWord 0x3C f
  | .vrxor f => vaWord 0x3D f
  | .vscan f => vaWord 0x3E f
  | .vscmx f => vaWord 0x3F f
  | .vrcp f => vaWord 0x40 f
  | .vrsq f => vaWord 0x41 f
  | .vexp f => vaWord 0x42 f
  | .vlog f => vaWord 0x43 f
  | .vtanh f => vaWord 0x44 f
  | .vsig f => vaWord 0x45 f
  | .vsmxAcc f => vaWord 0x46 f
  | .vsmxFin f => vaWord 0x47 f
  | .vsamp f => vaWord 0x48 f
  | .vtopkIns f => vaWord 0x49 f
  | .vtopkMrg f => vaWord 0x4A f
  | .vrng f => vaWord 0x4B f
  | .vcfq f => vaWord 0x4C f
  | .axt f => vaWord 0x73 f
  | .vst f => vmWord 0x51 f
  | .vlds f => vmWord 0x52 f
  | .vsts f => vmWord 0x53 f
  | .vldseg f => vmWord 0x54 f
  | .vstseg f => vmWord 0x55 f
  | .vldx f => vmWord 0x56 f
  | .vstx f => vmWord 0x57 f
  | .vldFf f => vmWord 0x58 f
  | .vldSc f => vmWord 0x59 f
  | .vstSc f => vmWord 0x5A f
  | .vldsr f => vmWord 0x5B f
  | .vld f => vmWord 0x50 f
  | .vldStream f => vmWord 0x50 f
  | .vshape n o => vcWord 0x00 0 0 0 n.toNat o
  | .vtype vd tag dom o => vcWord 0x01 vd 0 0 (dom.toNat * 2 ^ 4 + tag.toNat) o
  | .vstrip d a b lq ew o => vcWord 0x02 d a b (lq.toNat * 2 ^ 2 + ew.toNat) o
  | .vacq d nb o => vcWord 0x03 d 0 0 nb.toNat o
  | .vrel o => vcWord 0x04 0 0 0 0 o
  | .mfmt n a o => vcWord 0x05 0 a 0 n.toNat o
  | .vpopq m o => vcWord 0x06 0 (m.setWidth 6) 0 0 o
  | .vexit m b off o => vcWord 0x07 b (m.setWidth 6) 0 off.toNat o
  | .stream n a l st o => vcWord 0x5C a l st n.toNat o
  | .qbind n kind idx o => vcWord 0x5D 0 0 0 (idx.toNat * 2 ^ 8 + kind.toNat * 2 ^ 4 + n.toNat) o
  | .copy n d a b dst src scope o => vcWord 0x5E d a b (scope.toNat * 2 ^ 9 + src.toNat * 2 ^ 6 + dst.toNat * 2 ^ 3 + n.toNat) o
  | .cptest d n w o => vcWord 0x5F d 0 0 (w.toNat * 2 ^ 3 + n.toNat) o
  | .cpwait n w m o => vcWord 0x60 0 m 0 (w.toNat * 2 ^ 3 + n.toNat) o
  | .bop d a b op w ord v o =>
    vcWord 0x61 d a b (v.toNat * 2 ^ 8 + ord.toNat * 2 ^ 6 + w.toNat * 2 ^ 4 + op.toNat) o.toCm + o.mask.toNat
  | .stand d a b dep sp slot o => vcWord 0x62 d a b (sp.toNat * 2 ^ 14 + dep.toNat * 2 ^ 8 + slot.toNat) o
  | .unstand slot o => vcWord 0x63 0 0 0 slot.toNat o
  | .fence cmask scope o => vcWord 0x64 0 0 0 (scope.toNat * 2 ^ 16 + cmask.toNat) o
  | .wait l st c t o => vcWord 0x65 0 0 0 (t.toNat * 2 ^ 15 + c.toNat * 2 ^ 10 + st.toNat * 2 ^ 5 + l.toNat) o
  | .task d a cm o => vcWord 0x70 d a 0 cm.toNat o
  | .twait t a o => vcWord 0x71 0 a 0 t.toNat o
  | .tsig t o => vcWord 0x72 0 0 0 t.toNat o
  | .tresume d a o => vcWord 0x74 d a 0 0 o
  | .tprog d a o => vcWord 0x75 d a 0 0 o
  | .tabort d a o => vcWord 0x77 d a 0 0 o
  | .tflt d a w o => vcWord 0x76 d a 0 w.toNat o
  | .tfltSet d a o => vcWord 0x76 d a 0 2 o
  | _ => 0

/-- The syllables of an instruction, first one first; an event has none. -/
def encode (i : Instr) : List Syl :=
  if i.size == 8 then [BitVec.ofNat 32 (encodeNat i), BitVec.ofNat 32 (encodeNat i / 2 ^ 32)]
  else if i.size == 4 then [BitVec.ofNat 32 (encodeNat i)] else []

/-- The first syllable of an instruction, as a trap record holds it (Table 25.1, ttag). -/
def Instr.firstSyllable (i : Instr) : Syl := BitVec.ofNat 32 (encodeNat i)

/-- SR functions (Table 5.15). -/
def readSR (w : Nat) : Option Instr :=
  match w % 64 with
  | 1 => some (.add (fld w 18 6) (fld w 12 6) (fld w 6 6))
  | 2 => some (.sub (fld w 18 6) (fld w 12 6) (fld w 6 6))
  | 3 => some (.mul (fld w 18 6) (fld w 12 6) (fld w 6 6))
  | 4 => some (.mulh (fld w 18 6) (fld w 12 6) (fld w 6 6))
  | 5 => some (.mulhu (fld w 18 6) (fld w 12 6) (fld w 6 6))
  | 6 => some (.div (fld w 18 6) (fld w 12 6) (fld w 6 6))
  | 7 => some (.divu (fld w 18 6) (fld w 12 6) (fld w 6 6))
  | 8 => some (.rem (fld w 18 6) (fld w 12 6) (fld w 6 6))
  | 9 => some (.remu (fld w 18 6) (fld w 12 6) (fld w 6 6))
  | 10 => some (.and (fld w 18 6) (fld w 12 6) (fld w 6 6))
  | 11 => some (.or (fld w 18 6) (fld w 12 6) (fld w 6 6))
  | 12 => some (.xor (fld w 18 6) (fld w 12 6) (fld w 6 6))
  | 13 => some (.andn (fld w 18 6) (fld w 12 6) (fld w 6 6))
  | 14 => some (.sll (fld w 18 6) (fld w 12 6) (fld w 6 6))
  | 15 => some (.srl (fld w 18 6) (fld w 12 6) (fld w 6 6))
  | 16 => some (.sra (fld w 18 6) (fld w 12 6) (fld w 6 6))
  | 17 => some (.slt (fld w 18 6) (fld w 12 6) (fld w 6 6))
  | 18 => some (.sltu (fld w 18 6) (fld w 12 6) (fld w 6 6))
  | 19 => some (.min (fld w 18 6) (fld w 12 6) (fld w 6 6))
  | 20 => some (.max (fld w 18 6) (fld w 12 6) (fld w 6 6))
  | 21 => some (.minu (fld w 18 6) (fld w 12 6) (fld w 6 6))
  | 22 => some (.maxu (fld w 18 6) (fld w 12 6) (fld w 6 6))
  | 23 => some (.clz (fld w 18 6) (fld w 12 6))
  | 24 => some (.ctz (fld w 18 6) (fld w 12 6))
  | 25 => some (.cnt (fld w 18 6) (fld w 12 6))
  | 26 => some (.sextB (fld w 18 6) (fld w 12 6))
  | 27 => some (.sextH (fld w 18 6) (fld w 12 6))
  | 28 => some (.sextW (fld w 18 6) (fld w 12 6))
  | 29 => some (.zextB (fld w 18 6) (fld w 12 6))
  | 30 => some (.zextH (fld w 18 6) (fld w 12 6))
  | 31 => some (.zextW (fld w 18 6) (fld w 12 6))
  | _ => none

/-- The conversions of major 0x1A (Table 11.5). -/
def readConv (w : Nat) : Option Instr :=
  match w % 8 with
  | 0 => some (.ftoi (fld w 18 6) (fld w 12 6) (fld w 4 2) (bit w 3))
  | 1 => some (.ftou (fld w 18 6) (fld w 12 6) (fld w 4 2) (bit w 3))
  | 2 => some (.itof (fld w 18 6) (fld w 12 6) (fld w 4 2) (bit w 3))
  | 3 => some (.utof (fld w 18 6) (fld w 12 6) (fld w 4 2) (bit w 3))
  | 4 => if (bit w 3) then some (.fwiden (fld w 18 6) (fld w 12 6) (fld w 4 2)) else some (.fnarrow (fld w 18 6) (fld w 12 6) (fld w 4 2))
  | _ => none

/-- Class 00 (Table 5.14). -/
def readClass0 (w : Nat) : Option Instr :=
  match w / 2 ^ 24 % 64 with
  | 0x00 => readSR w
  | 0x1A => readConv w
  | 0x01 => some (.addi (fld w 18 6) (fld w 12 6) (fld w 0 12))
  | 0x02 => some (.andi (fld w 18 6) (fld w 12 6) (fld w 0 12))
  | 0x03 => some (.ori (fld w 18 6) (fld w 12 6) (fld w 0 12))
  | 0x04 => some (.xori (fld w 18 6) (fld w 12 6) (fld w 0 12))
  | 0x05 => some (.slli (fld w 18 6) (fld w 12 6) (fld w 0 6))
  | 0x06 => some (.srli (fld w 18 6) (fld w 12 6) (fld w 0 6))
  | 0x07 => some (.srai (fld w 18 6) (fld w 12 6) (fld w 0 6))
  | 0x08 => some (.slti (fld w 18 6) (fld w 12 6) (fld w 0 12))
  | 0x09 => some (.sltiu (fld w 18 6) (fld w 12 6) (fld w 0 12))
  | 0x0A => some (.bfx (fld w 18 6) (fld w 12 6) (fld w 6 6) (fld w 0 6))
  | 0x0B => some (.lui (fld w 18 6) (fld w 0 18))
  | 0x0C => some (.aupc (fld w 18 6) (fld w 0 18))
  | 0x10 => some (.fadd (fld w 18 6) (fld w 12 6) (fld w 6 6) (fld w 4 2) (bit w 3))
  | 0x11 => some (.fsub (fld w 18 6) (fld w 12 6) (fld w 6 6) (fld w 4 2) (bit w 3))
  | 0x12 => some (.fmul (fld w 18 6) (fld w 12 6) (fld w 6 6) (fld w 4 2) (bit w 3))
  | 0x13 => some (.fdiv (fld w 18 6) (fld w 12 6) (fld w 6 6) (fld w 4 2) (bit w 3))
  | 0x14 => some (.fsqrt (fld w 18 6) (fld w 12 6) (fld w 4 2) (bit w 3))
  | 0x15 => some (.fmin (fld w 18 6) (fld w 12 6) (fld w 6 6) (bit w 3))
  | 0x16 => some (.fmax (fld w 18 6) (fld w 12 6) (fld w 6 6) (bit w 3))
  | 0x17 => some (.feq (fld w 18 6) (fld w 12 6) (fld w 6 6) (bit w 3))
  | 0x18 => some (.flt (fld w 18 6) (fld w 12 6) (fld w 6 6) (bit w 3))
  | 0x19 => some (.fle (fld w 18 6) (fld w 12 6) (fld w 6 6) (bit w 3))
  | 0x1B => some (.fmac (fld w 18 6) (fld w 12 6) (fld w 6 6) (fld w 4 2) (bit w 3))
  | 0x20 => some (.beq (fld w 18 6) (fld w 12 6) (fld w 0 12))
  | 0x21 => some (.bne (fld w 18 6) (fld w 12 6) (fld w 0 12))
  | 0x22 => some (.blt (fld w 18 6) (fld w 12 6) (fld w 0 12))
  | 0x23 => some (.bge (fld w 18 6) (fld w 12 6) (fld w 0 12))
  | 0x24 => some (.bltu (fld w 18 6) (fld w 12 6) (fld w 0 12))
  | 0x25 => some (.bgeu (fld w 18 6) (fld w 12 6) (fld w 0 12))
  | 0x26 => some (.jal (fld w 0 24))
  | 0x27 => some (.jalr (fld w 18 6) (fld w 12 6) (fld w 0 12))
  | 0x28 => some (.loop (bit w 23) (fld w 16 6) (fld w 0 16))
  | 0x29 => some (.loopi (bit w 23) (fld w 12 11) (fld w 0 12))
  | 0x2A => some (.bany (fld w 20 4) (fld w 0 18))
  | 0x2B => some (.bnone (fld w 20 4) (fld w 0 18))
  | _ => none

/-- Class 01 (Table 5.16). -/
def readClass1 (w : Nat) : Option Instr :=
  match w / 2 ^ 24 % 64 with
  | 0x00 => some (.ldb (fld w 18 6) (fld w 12 6) (fld w 8 4) (fld w 6 2) (fld w 0 6))
  | 0x01 => some (.ldbu (fld w 18 6) (fld w 12 6) (fld w 8 4) (fld w 6 2) (fld w 0 6))
  | 0x02 => some (.ldh (fld w 18 6) (fld w 12 6) (fld w 8 4) (fld w 6 2) (fld w 0 6))
  | 0x03 => some (.ldhu (fld w 18 6) (fld w 12 6) (fld w 8 4) (fld w 6 2) (fld w 0 6))
  | 0x04 => some (.ldw (fld w 18 6) (fld w 12 6) (fld w 8 4) (fld w 6 2) (fld w 0 6))
  | 0x05 => some (.ldwu (fld w 18 6) (fld w 12 6) (fld w 8 4) (fld w 6 2) (fld w 0 6))
  | 0x06 => some (.ldd (fld w 18 6) (fld w 12 6) (fld w 8 4) (fld w 6 2) (fld w 0 6))
  | 0x08 => some (.stb (fld w 18 6) (fld w 12 6) (fld w 8 4) (fld w 6 2) (fld w 0 6))
  | 0x09 => some (.sth (fld w 18 6) (fld w 12 6) (fld w 8 4) (fld w 6 2) (fld w 0 6))
  | 0x0A => some (.stw (fld w 18 6) (fld w 12 6) (fld w 8 4) (fld w 6 2) (fld w 0 6))
  | 0x0B => some (.std (fld w 18 6) (fld w 12 6) (fld w 8 4) (fld w 6 2) (fld w 0 6))
  | 0x10 => some (.aadd (fld w 18 6) (fld w 12 6) (fld w 6 6) (fld w 4 2) (fld w 0 4))
  | 0x11 => some (.aswp (fld w 18 6) (fld w 12 6) (fld w 6 6) (fld w 4 2) (fld w 0 4))
  | 0x12 => some (.acas (fld w 18 6) (fld w 12 6) (fld w 6 6) (fld w 4 2) (fld w 0 4))
  | 0x13 => some (.amax (fld w 18 6) (fld w 12 6) (fld w 6 6) (fld w 4 2) (fld w 0 4))
  | 0x14 => some (.amin (fld w 18 6) (fld w 12 6) (fld w 6 6) (fld w 4 2) (fld w 0 4))
  | 0x18 => some (.aaddBel (fld w 18 6) (fld w 12 6) (fld w 6 6) (fld w 4 2) (fld w 0 4))
  | 0x19 => some (.aswpBel (fld w 18 6) (fld w 12 6) (fld w 6 6) (fld w 4 2) (fld w 0 4))
  | 0x1A => some (.acasBel (fld w 18 6) (fld w 12 6) (fld w 6 6) (fld w 4 2) (fld w 0 4))
  | 0x1B => some (.amaxBel (fld w 18 6) (fld w 12 6) (fld w 6 6) (fld w 4 2) (fld w 0 4))
  | 0x1C => some (.aminBel (fld w 18 6) (fld w 12 6) (fld w 6 6) (fld w 4 2) (fld w 0 4))
  | 0x20 => some (.getc (fld w 18 6) (fld w 8 4) (fld w 0 8))
  | 0x21 => some (.setc (fld w 12 6) (fld w 8 4) (fld w 0 8))
  | 0x22 => some (.trap (fld w 0 12))
  | 0x23 => some (.eret (bit w 0))
  | 0x24 => some (.halt)
  | 0x25 => some (.ebrk (fld w 0 12))
  | 0x26 => some (.qrd (fld w 18 6) (fld w 0 3))
  | 0x28 => some (.pmig (fld w 18 6) (fld w 12 6))
  | 0x29 => some (.pinv (fld w 12 6) (bit w 0))
  | 0x2A => some (.pcnt (fld w 18 6) (fld w 12 6) (bit w 0))
  | 0x2B => some (.pfence)
  | 0x2C => some (.launch (fld w 18 6) (fld w 12 6) (fld w 0 4))
  | 0x30 => some (.barInit (fld w 12 6) (fld w 0 6))
  | 0x31 => some (.barArr (fld w 18 6) (fld w 6 2) (fld w 0 6))
  | 0x32 => some (.barWt (fld w 12 6) (fld w 6 2) (fld w 0 6))
  | 0x33 => some (.barAw (fld w 18 6) (fld w 6 2) (fld w 0 6))
  | 0x34 => some (.barDrop (fld w 0 6))
  | 0x35 => some (.barRd (fld w 18 6) (fld w 0 6))
  | 0x36 => some (.tokrd (fld w 18 6) (fld w 0 6))
  | 0x37 => some (.tokwr (fld w 12 6) (fld w 0 6))
  | _ => none

/-- Class 10 (Table 5.22). -/
def readClass2 (w : Nat) : Option Instr :=
  match w / 2 ^ 22 % 256 with
  | 0x00 => some (.vshape (fld w 32 2) (cmOf w))
  | 0x01 => some (.vtype (fld w 16 6) (fld w 32 4) (fld w 36 3) (cmOf w))
  | 0x02 => some (.vstrip (fld w 16 6) (fld w 10 6) (fld w 4 6) (bit w 34) (fld w 32 2) (cmOf w))
  | 0x03 => some (.vacq (fld w 16 6) (bit w 32) (cmOf w))
  | 0x04 => some (.vrel (cmOf w))
  | 0x05 => some (.mfmt (fld w 32 2) (fld w 10 6) (cmOf w))
  | 0x06 => some (.vpopq (fld w 10 4) (cmOf w))
  | 0x07 => some (.vexit (fld w 10 4) (fld w 16 6) (fld w 32 20) (cmOf w))
  | 0x08 => some (.mpre (vkOf w))
  | 0x09 => some (.mthru (vkOf w))
  | 0x0A => some (.mlatch (vkOf w))
  | 0x0B => some (.mand (vkOf w))
  | 0x0C => some (.mor (vkOf w))
  | 0x0D => some (.mxor (vkOf w))
  | 0x0E => some (.mandn (vkOf w))
  | 0x0F => some (.mslide (vkOf w))
  | 0x10 => some (.vadd (vaOf w))
  | 0x11 => some (.vsub (vaOf w))
  | 0x12 => some (.vmin (vaOf w))
  | 0x13 => some (.vmax (vaOf w))
  | 0x14 => some (.vand (vaOf w))
  | 0x15 => some (.vor (vaOf w))
  | 0x16 => some (.vxor (vaOf w))
  | 0x17 => some (.vandn (vaOf w))
  | 0x18 => some (.vsll (vaOf w))
  | 0x19 => some (.vsrl (vaOf w))
  | 0x1A => some (.vsra (vaOf w))
  | 0x1B => some (.vrshr (vaOf w))
  | 0x1C => some (.vnsat (vaOf w))
  | 0x1D => some (.vadc (vaOf w))
  | 0x1E => some (.vsbc (vaOf w))
  | 0x1F => some (.vabs (vaOf w))
  | 0x20 => some (.vmul (vaOf w))
  | 0x21 => some (.vmulh (vaOf w))
  | 0x22 => some (.vfma (vaOf w))
  | 0x23 => some (.vfms (vaOf w))
  | 0x24 => some (.vdot2 (vaOf w))
  | 0x25 => some (.vdiv (vaOf w))
  | 0x26 => some (.vsqrt (vaOf w))
  | 0x27 => some (.vcvt (vaOf w))
  | 0x28 => some (.vceq (vaOf w))
  | 0x29 => some (.vcne (vaOf w))
  | 0x2A => some (.vclt (vaOf w))
  | 0x2B => some (.vcle (vaOf w))
  | 0x2C => some (.vsel (vaOf w))
  | 0x2D => some (.vmov (vaOf w))
  | 0x2E => some (.vid (vaOf w))
  | 0x2F => some (.vneg (vaOf w))
  | 0x30 => some (.vslup (vaOf w))
  | 0x31 => some (.vsldn (vaOf w))
  | 0x32 => some (.vcmpr (vaOf w))
  | 0x33 => some (.vxpnd (vaOf w))
  | 0x34 => some (.vgath (vaOf w))
  | 0x35 => some (.vxtr (vaOf w))
  | 0x36 => some (.vins (vaOf w))
  | 0x38 => some (.vrsum (vaOf w))
  | 0x39 => some (.vrmax (vaOf w))
  | 0x3A => some (.vrmin (vaOf w))
  | 0x3B => some (.vrand (vaOf w))
  | 0x3C => some (.vrior (vaOf w))
  | 0x3D => some (.vrxor (vaOf w))
  | 0x3E => some (.vscan (vaOf w))
  | 0x3F => some (.vscmx (vaOf w))
  | 0x40 => some (.vrcp (vaOf w))
  | 0x41 => some (.vrsq (vaOf w))
  | 0x42 => some (.vexp (vaOf w))
  | 0x43 => some (.vlog (vaOf w))
  | 0x44 => some (.vtanh (vaOf w))
  | 0x45 => some (.vsig (vaOf w))
  | 0x46 => some (.vsmxAcc (vaOf w))
  | 0x47 => some (.vsmxFin (vaOf w))
  | 0x48 => some (.vsamp (vaOf w))
  | 0x49 => some (.vtopkIns (vaOf w))
  | 0x4A => some (.vtopkMrg (vaOf w))
  | 0x4B => some (.vrng (vaOf w))
  | 0x4C => some (.vcfq (vaOf w))
  | 0x4D => some (.mcnt (vkOf w))
  | 0x4E => some (.mfirst (vkOf w))
  | 0x4F => some (.mftm (vkOf w))
  | 0x50 => some (if bit w 35 then .vldStream (vmOf w) else .vld (vmOf w))
  | 0x51 => some (.vst (vmOf w))
  | 0x52 => some (.vlds (vmOf w))
  | 0x53 => some (.vsts (vmOf w))
  | 0x54 => some (.vldseg (vmOf w))
  | 0x55 => some (.vstseg (vmOf w))
  | 0x56 => some (.vldx (vmOf w))
  | 0x57 => some (.vstx (vmOf w))
  | 0x58 => some (.vldFf (vmOf w))
  | 0x59 => some (.vldSc (vmOf w))
  | 0x5A => some (.vstSc (vmOf w))
  | 0x5B => some (.vldsr (vmOf w))
  | 0x5C => some (.stream (fld w 32 3) (fld w 16 6) (fld w 10 6) (fld w 4 6) (cmOf w))
  | 0x5D => some (.qbind (fld w 32 3) (fld w 36 2) (fld w 40 8) (cmOf w))
  | 0x5E => some (.copy (fld w 32 3) (fld w 16 6) (fld w 10 6) (fld w 4 6) (fld w 35 3) (fld w 38 3) (fld w 41 3) (cmOf w))
  | 0x5F => some (.cptest (fld w 16 6) (fld w 32 3) (fld w 35 6) (cmOf w))
  | 0x60 => some (.cpwait (fld w 32 3) (fld w 35 6) (fld w 10 6) (cmOf w))
  | 0x61 => some (.bop (fld w 16 6) (fld w 10 6) (fld w 4 6) (fld w 32 4) (fld w 36 2) (fld w 38 2) (bit w 40) ⟨cmOf w, fld w 0 4⟩)
  | 0x62 => some (.stand (fld w 16 6) (fld w 10 6) (fld w 4 6) (fld w 40 6) (bit w 46) (fld w 32 8) (cmOf w))
  | 0x63 => some (.unstand (fld w 32 8) (cmOf w))
  | 0x64 => some (.fence (fld w 32 16) (fld w 48 3) (cmOf w))
  | 0x65 => some (.wait (fld w 32 5) (fld w 37 5) (fld w 42 5) (fld w 47 5) (cmOf w))
  | 0x70 => some (.task (fld w 16 6) (fld w 10 6) (fld w 32 16) (cmOf w))
  | 0x71 => some (.twait (fld w 32 6) (fld w 10 6) (cmOf w))
  | 0x72 => some (.tsig (fld w 32 6) (cmOf w))
  | 0x73 => some (.axt (vaOf w))
  | 0x74 => some (.tresume (fld w 16 6) (fld w 10 6) (cmOf w))
  | 0x75 => some (.tprog (fld w 16 6) (fld w 10 6) (cmOf w))
  | 0x76 => if bit w 33 then some (.tfltSet (fld w 16 6) (fld w 10 6) (cmOf w)) else some (.tflt (fld w 16 6) (fld w 10 6) (bit w 32) (cmOf w))
  | 0x77 => some (.tabort (fld w 16 6) (fld w 10 6) (cmOf w))
  | _ => none

/-- Class 11 (Table 5.24). -/
def readClass3 (w : Nat) : Option Instr := some (.convoy (fld w 27 3) (fld w 0 24))

/-- Why a syllable sequence is not an instruction (R89), or too short to be one. -/
inductive DecodeError where
  | truncated   -- fewer bytes than the class of the first syllable needs (R73)
  | unassigned  -- a class, major opcode or SR function that the maps leave out (R77, R79, R84)
  | reserved    -- a nonzero reserved field (R78, R79, R81 to R83)
  deriving DecidableEq, Repr

/-- Bytes that the class of a first syllable needs (R73). -/
def sizeOfClass (w : Nat) : Nat := if w / 2 ^ 30 % 4 == 2 then 8 else 4

/-- The instruction whose bits are w. A word is an instruction only when it is the encoding of one: every bit that no
field of the instruction holds is reserved and must be zero (R89). -/
def decodeNat (w : Nat) : Except DecodeError Instr :=
  let r := match w / 2 ^ 30 % 4 with
    | 0 => readClass0 w
    | 1 => readClass1 w
    | 2 => readClass2 w
    | _ => readClass3 w
  match r with
  | none => .error .unassigned
  | some i => if encodeNat i == w % 2 ^ (8 * sizeOfClass w) then .ok i else .error .reserved

/-- The number that bytes hold, least significant first (R15). -/
def leNat : List Byte → Nat
  | [] => 0
  | b :: bs => b.toNat + 256 * leNat bs

/-- The n bytes of a number, least significant first (R15). -/
def leBytes : Nat → Nat → List Byte
  | 0, _ => []
  | n + 1, v => BitVec.ofNat 8 v :: leBytes n (v / 256)

/-- The decoder: the instruction at the head of the bytes, and the bytes after it. -/
def decode (bs : List Byte) : Except DecodeError (Instr × List Byte) :=
  if bs.length < 4 then .error .truncated
  else
    let n := sizeOfClass (leNat (bs.take 4))
    if bs.length < n then .error .truncated
    else match decodeNat (leNat (bs.take n)) with
      | .ok i => .ok (i, bs.drop n)
      | .error e => .error e

/-- The decoder on a word numbered as spec/opcode_table.json numbers it: nbits bits, then zeros up to eight bytes. -/
def decodeTableWord (nbits w : Nat) : Option Instr :=
  match decode (leBytes 8 (w % 2 ^ nbits)) with
  | .ok (i, _) => some i
  | .error _ => none

end Sys2Proof
end

