-- ==== Sys2Proof/Config.lean ====
section
/-! DEFINITION. What one module fixes or the spec leaves open: free values, without a body, of which nothing can be proved. -/

namespace Sys2Proof

/-- Which of two adjacent results a special function takes when 2 048 bits of its value do not decide the rounding (log 30). -/
opaque Config.pickUpper : Nat → Bool

/-- The compression marker that start n draws (R244, R366 step 7): the spec gives no value. -/
opaque Config.marker : Nat → Word

/-- The start number that start n draws (R366 step 7). -/
opaque Config.startNumber : Nat → Word

/-- The firmware image of manufacture, which the measurement chain covers (R368, R369). -/
opaque Config.firmware : List Byte

/-- The image that start n reads from flash where a write was cut off (R368). -/
opaque Config.spoiledImage : Nat → List Byte

/-- The fused configuration, which the measurement chain covers (R369). -/
opaque Config.fused : List Byte

/-- The Falcon-1024 signature over a digest that ATTEST number n makes with the identity key (R369). -/
opaque Config.signature : Nat → List Byte → List Byte

/-- SERIAL of the module (R372). -/
opaque Config.serial : BitVec 128

/-- The Falcon-1024 identity public key in its 1 793-byte encoding, made at manufacture (R372). -/
opaque Config.publicKey : Vector Byte 1793

/-- The kind code that a debug log record of the n-th sort carries (R358 names the field and gives no codes). -/
opaque Config.logKind : Nat → BitVec 16

/-- The trace TAG of a DAU fetch of a stream's element (Table 27.4 names the two parts and gives no places). -/
opaque Config.dauTag : Nat → Nat → BitVec 32

/-- The secret that start n draws for the check words of save images (R349, R366 step 7). -/
opaque Config.imageKey : Nat → List Byte

/-- Where the check word stands in a save image's header (Table 25.5 names the field and gives no offset). -/
opaque Config.checkPlace : Nat

/-- A fault code that the spec leaves to the unit that reports it (R350, R351). -/
opaque Config.faultCode : Nat → Nat

end Sys2Proof
end

