-- ==== Sys2Proof/Machine/Flags.lean ====
section
/-! DEFINITION. The sticky flags of FFLAGS (Table 3.9) and values that carry the flags their computation sets (R64). -/

namespace Sys2Proof

/-- A set of flags, in the bit order of FFLAGS (Table 3.9). -/
abbrev Flags := BitVec 7

namespace Flags
/-- Inexact. -/
def nx : Flags := 1
/-- Underflow. -/
def uf : Flags := 2
/-- Overflow. -/
def of : Flags := 4
/-- Division by zero. -/
def dz : Flags := 8
/-- Invalid operation. -/
def nv : Flags := 16
/-- A value was saturated. -/
def sat : Flags := 32
/-- Reserved tapered code met or made. -/
def rsv : Flags := 64
/-- The flag f where c holds. -/
def when (c : Bool) (f : Flags) : Flags := if c then f else 0
end Flags

/-- A value and the flags its computation sets. -/
structure Fl (α : Type) where
  val : α
  flags : Flags
  deriving DecidableEq, Repr

/-- A value that sets no flag. -/
def Fl.pure {α : Type} (v : α) : Fl α := ⟨v, 0⟩

/-- Runs f on the value; flags accumulate by inclusive OR (R64). -/
def Fl.bind {α β : Type} (x : Fl α) (f : α → Fl β) : Fl β := ⟨(f x.val).val, x.flags ||| (f x.val).flags⟩

/-- Applies f to the value. -/
def Fl.map {α β : Type} (f : α → β) (x : Fl α) : Fl β := ⟨f x.val, x.flags⟩

/-- Adds flags. -/
def Fl.also {α : Type} (x : Fl α) (f : Flags) : Fl α := ⟨x.val, x.flags ||| f⟩

/-- Runs f over a list, accumulating flags. -/
def Fl.list {α β : Type} (f : α → Fl β) : List α → Fl (List β)
  | [] => Fl.pure []
  | a :: t =>
    let x := f a
    let r := Fl.list f t
    ⟨x.val :: r.val, x.flags ||| r.flags⟩

end Sys2Proof
end

