-- ==== Sys2Proof/Machine/Number.lean ====
section
/-! DEFINITION. Element tags, exact values and the helpers Round, Sat, Wrap, Decode and Encode of R33, with the exact
arithmetic of IEEE 754-2019 that spec/04 and spec/13 name. -/

namespace Sys2Proof

/-- The element tags (Table 4.1). -/
inductive Tag where
  | i8 | u8 | i16 | u16 | i32 | u32 | i64 | u64 | f16 | bf16 | f32 | f64 | t8 | t6
  deriving DecidableEq, Repr

namespace Tag

/-- The tags in the order of their codes. -/
def all : List Tag := [i8, u8, i16, u16, i32, u32, i64, u64, f16, bf16, f32, f64, t8, t6]

/-- The tag of a code; 14 and 15 are reserved (R53). -/
def ofCode (c : Nat) : Option Tag := all[c]?

/-- The code of a tag (Table 4.1). -/
def code : Tag → Nat
  | i8 => 0 | u8 => 1 | i16 => 2 | u16 => 3 | i32 => 4 | u32 => 5 | i64 => 6 | u64 => 7
  | f16 => 8 | bf16 => 9 | f32 => 10 | f64 => 11 | t8 => 12 | t6 => 13

/-- Bits in a register (Table 4.1). -/
def bits : Tag → Nat
  | i8 | u8 | t8 | t6 => 8
  | i16 | u16 | f16 | bf16 => 16
  | i32 | u32 | f32 => 32
  | i64 | u64 | f64 => 64

/-- Element size in bytes, t6 as 1 (R36). -/
def bytes (t : Tag) : Nat := t.bits / 8

/-- Bits in memory (Table 4.1). -/
def memBits (t : Tag) : Nat := if t = t6 then 6 else t.bits

/-- An integer tag. -/
def isInt (t : Tag) : Bool := t.code < 8

/-- A signed integer tag. -/
def isSigned : Tag → Bool
  | i8 | i16 | i32 | i64 => true
  | _ => false

/-- A binary float tag. -/
def isFloat : Tag → Bool
  | f16 | bf16 | f32 | f64 => true
  | _ => false

/-- A tapered tag. -/
def isTapered : Tag → Bool
  | t8 | t6 => true
  | _ => false

/-- Fraction bits of a binary float (Table 4.2). -/
def frac : Tag → Nat
  | f16 => 10 | bf16 => 7 | f32 => 23 | f64 => 52
  | _ => 0

/-- Exponent bias of a binary float (Table 4.2). -/
def ebias : Tag → Nat
  | f16 => 15 | bf16 => 127 | f32 => 127 | f64 => 1023
  | _ => 0

/-- Exponent bits of a binary float (Table 4.2). -/
def ebits (t : Tag) : Nat := t.bits - 1 - t.frac

/-- A tag that can carry a Haar level (R45). -/
def carries : Tag → Bool
  | i8 | i16 | i32 | f16 | bf16 | f32 | t8 | t6 => true
  | _ => false

end Tag

/-- Rounding modes (R63). -/
inductive Rnd where
  | rne | rtz | rdn | rup
  deriving DecidableEq, Repr

/-- The mode a field names (Table 2.2). -/
def Rnd.ofField (f : BitVec 2) : Rnd :=
  if f = 0 then .rne else if f = 1 then .rtz else if f = 2 then .rdn else .rup

/-- An exact value: (-1)^neg * num / den with den > 0, an infinity, or a NaN that may be signalling (R33). -/
inductive Num where
  | nan (signalling : Bool)
  | inf (neg : Bool)
  | fin (neg : Bool) (num den : Nat)
  deriving DecidableEq, Repr

namespace Num

/-- The value of an integer. -/
def ofInt (z : Int) : Num := .fin (z < 0) z.natAbs 1

/-- A natural number. -/
def ofNat (n : Nat) : Num := .fin false n 1

/-- Positive zero. -/
def zero : Num := .fin false 0 1

/-- A quiet NaN. -/
def qnan : Num := .nan false

def isNan : Num → Bool
  | .nan _ => true
  | _ => false

def isSnan : Num → Bool
  | .nan s => s
  | _ => false

def isZero : Num → Bool
  | .fin _ n _ => n == 0
  | _ => false

/-- The sign: true for negative values, −0 and −∞. -/
def sign : Num → Bool
  | .nan _ => false
  | .inf n => n
  | .fin n _ _ => n

def neg : Num → Num
  | .nan s => .nan s
  | .inf n => .inf (!n)
  | .fin n a b => .fin (!n) a b

def abs : Num → Num
  | .nan s => .nan s
  | .inf _ => .inf false
  | .fin _ a b => .fin false a b

/-- x * 2^k, exactly. -/
def scale (k : Int) : Num → Num
  | .fin n a b => if k < 0 then .fin n a (b * 2 ^ k.natAbs) else .fin n (a * 2 ^ k.natAbs) b
  | x => x

/-- floor of a finite value. -/
def floor : Num → Int
  | .fin false a b => (a / b : Nat)
  | .fin true a b => -((a + b - 1) / b : Nat)
  | _ => 0

/-- The order of values, −0 equal to +0; none with a NaN. -/
def cmp : Num → Num → Option Ordering
  | .nan _, _ => none
  | _, .nan _ => none
  | .inf a, .inf b => some (if a = b then .eq else if a then .lt else .gt)
  | .inf a, .fin .. => some (if a then .lt else .gt)
  | .fin .., .inf b => some (if b then .gt else .lt)
  | .fin a n d, .fin b m e =>
    let x : Int := (if a then -1 else 1) * (n * e : Nat)
    let y : Int := (if b then -1 else 1) * (m * d : Nat)
    some (if x < y then .lt else if x = y then .eq else .gt)

def lt (x y : Num) : Bool := x.cmp y == some .lt
def le (x y : Num) : Bool := x.cmp y == some .lt || x.cmp y == some .eq
def eq (x y : Num) : Bool := x.cmp y == some .eq

end Num

/-- n / d rounded to an integer by mode m, for a value of the given sign, and whether it was inexact. -/
def roundQuot (m : Rnd) (neg : Bool) (n d : Nat) : Nat × Bool :=
  let q := n / d
  let r := n % d
  let up := match m with
    | .rne => d < 2 * r || (2 * r == d && q % 2 == 1)
    | .rtz => false
    | .rdn => neg
    | .rup => !neg
  if r = 0 then (q, false) else (if up then q + 1 else q, true)

/-- floor(log2 (n / d)) for n, d > 0. -/
def ilog2 (n d : Nat) : Int :=
  let e : Int := (Nat.log2 n : Int) - Nat.log2 d
  let below := if 0 ≤ e then n < d * 2 ^ e.natAbs else n * 2 ^ e.natAbs < d
  if below then e - 1 else e

/-- Round of R33 for a float tag: T's precision, subnormal precision included, exponent unbounded above. Also whether the
result differs from x. -/
def roundFloat (t : Tag) (m : Rnd) (x : Num) : Num × Bool :=
  match x with
  | .fin neg n d =>
    if n = 0 then (x, false) else
      let q := max (ilog2 n d - t.frac) (1 - (t.ebias : Int) - t.frac)
      let r := if q < 0 then roundQuot m neg (n * 2 ^ q.natAbs) d else roundQuot m neg n (d * 2 ^ q.natAbs)
      ((Num.fin neg r.1 1).scale q, r.2)
  | _ => (x, false)

/-- Smallest normal value of a float tag. -/
def minNormal (t : Tag) : Num := (Num.ofNat 1).scale (1 - t.ebias)

/-- Largest finite value of a float tag. -/
def maxFinite (t : Tag) : Num := (Num.ofNat (2 ^ (t.frac + 1) - 1)).scale ((t.ebias : Int) - t.frac)

/-- Overflow of R33. -/
def overflow (m : Rnd) (neg : Bool) (t : Tag) : Num :=
  let big := match maxFinite t with
    | .fin _ a b => Num.fin neg a b
    | x => x
  match m with
  | .rne => .inf neg
  | .rtz => big
  | .rdn => if neg then .inf true else big
  | .rup => if neg then big else .inf false

/-- Round with the flags and the range rule that R33 gives it outside Encode; a float tag. -/
def roundFlags (t : Tag) (m : Rnd) (x : Num) : Fl Num :=
  let (y, inexact) := roundFloat t m x
  let f := Flags.when inexact .nx ||| Flags.when (inexact && !y.isZero && y.abs.lt (minNormal t)) .uf
  match y with
  | .fin neg .. => if (maxFinite t).lt y.abs then ⟨overflow m neg t, f ||| .of ||| .nx⟩ else ⟨y, f⟩
  | _ => ⟨y, f⟩

/-- RoundNE of R33 into f32 or another float tag. -/
def roundNE (t : Tag) (x : Num) : Fl Num := roundFlags t .rne x

/-- The code of a value that roundFloat delivered in T's finite range, or of an infinity or NaN (Table 4.2). -/
def floatCode (t : Tag) (x : Num) : Nat :=
  let s := if x.sign then 2 ^ (t.bits - 1) else 0
  let top := 2 ^ t.ebits - 1
  match x with
  | .nan _ => top * 2 ^ t.frac + 2 ^ (t.frac - 1)
  | .inf _ => s + top * 2 ^ t.frac
  | .fin _ n d =>
    if n = 0 then s else
      let e := ilog2 n d
      let emin : Int := 1 - (t.ebias : Int)
      if e < emin then s + n * 2 ^ (t.frac + t.ebias - 1) / d
      else
        let k : Int := t.frac - e
        let c := if k < 0 then n / (d * 2 ^ k.natAbs) else n * 2 ^ k.natAbs / d
        s + (e + t.ebias).toNat * 2 ^ t.frac + (c - 2 ^ t.frac)

/-- The value of a binary float code (R55, R56). -/
def floatValue (t : Tag) (c : Nat) : Num :=
  let s := c / 2 ^ (t.bits - 1) % 2 == 1
  let e := c / 2 ^ t.frac % 2 ^ t.ebits
  let f := c % 2 ^ t.frac
  if e = 2 ^ t.ebits - 1 then if f = 0 then .inf s else .nan (f / 2 ^ (t.frac - 1) == 0)
  else if e = 0 then (Num.fin s f 1).scale (1 - (t.ebias : Int) - t.frac)
  else (Num.fin s (2 ^ t.frac + f) 1).scale ((e : Int) - t.ebias - t.frac)

/-- Bits of a tapered code. -/
def tapBits (t : Tag) : Nat := if t = .t8 then 8 else 6

/-- Length of the run of bits equal to b from bit k - 1 of g downwards. -/
def runLen (g : Nat) (b : Nat) : Nat → Nat
  | 0 => 0
  | k + 1 => if g / 2 ^ k % 2 = b then runLen g b k + 1 else 0

/-- The magnitude of magnitude code g of w bits, at bias 0 (R57). -/
def tapMag (w g : Nat) : Num :=
  if g = 0 then .zero else
    let b := g / 2 ^ (w - 1) % 2
    let k := runLen g b w
    let regime : Int := if b = 1 then (k : Int) - 1 else -(k : Int)
    let rest := w - k - 1
    let n := rest - 1
    let e : Int := if rest = 0 then 0 else (g / 2 ^ n % 2 : Nat)
    let f := g % 2 ^ n
    (Num.fin false (2 ^ n + f) 1).scale (2 * regime + e - n)

/-- The greatest magnitude code whose value is at most x, trying bits k - 1 down to 0 above g. -/
def tapFloor (w : Nat) (x : Num) (g : Nat) : Nat → Nat
  | 0 => g
  | k + 1 => if (tapMag w (g + 2 ^ k)).le x then tapFloor w x (g + 2 ^ k) k else tapFloor w x g k

/-- The code of x / 2^b in a tapered tag, for a finite or infinite x, with the flags of R61. -/
def tapEncode (t : Tag) (m : Rnd) (b : Int) (x : Num) : Fl Nat :=
  let w := tapBits t - 1
  let y := x.scale (-b)
  let s := if x.sign then 2 ^ w else 0
  let top := 2 ^ w - 1
  if (tapMag w top).lt y.abs then ⟨s + top, .sat⟩ else
    let g := tapFloor w y.abs 0 w
    let lo := tapMag w g
    if lo.eq y.abs then ⟨if g = 0 then 0 else s + g, 0⟩ else
      let hi := tapMag w (g + 1)
      let mid := match lo, hi with
        | .fin _ a c, .fin _ a' c' => Num.fin false (a * c' + a' * c) (2 * c * c')
        | _, _ => lo
      let up := match m with
        | .rne => mid.lt y.abs || (mid.eq y.abs && g % 2 == 1)
        | .rtz => false
        | .rdn => x.sign
        | .rup => !x.sign
      let r := if up then g + 1 else g
      ⟨if r = 0 then 0 else s + r, .nx⟩

/-- The reserved code of a tapered tag (R57). -/
def reservedCode (t : Tag) : Nat := 2 ^ (tapBits t - 1)

/-- Smallest integer of a tag. -/
def intMin (t : Tag) : Int := if t.isSigned then -(2 ^ (t.bits - 1)) else 0

/-- Largest integer of a tag. -/
def intMax (t : Tag) : Int := if t.isSigned then 2 ^ (t.bits - 1) - 1 else 2 ^ t.bits - 1

/-- The two's complement code of an integer, which wraps it (R54). -/
def intCode (t : Tag) (z : Int) : Nat := (z % (2 ^ t.bits : Nat)).toNat

/-- The integer of a code. -/
def intValue (t : Tag) (c : Nat) : Int :=
  let c := c % 2 ^ t.bits
  if t.isSigned && 2 ^ (t.bits - 1) ≤ c then (c : Int) - 2 ^ t.bits else c

/-- Sat of R33 for an integer tag. -/
def satInt (t : Tag) (z : Int) : Fl Int :=
  if z < intMin t then ⟨intMin t, .sat⟩ else if intMax t < z then ⟨intMax t, .sat⟩ else ⟨z, 0⟩

/-- An integer reduced to a tag's range (R54): Sat when s is on, otherwise Wrap. -/
def reduceInt (t : Tag) (s : Bool) (z : Int) : Fl Int :=
  if s then satInt t z else ⟨intValue t (intCode t z), 0⟩

/-- Encode of R33 for a value that is no NaN, into an integer tag. -/
def intEncode (t : Tag) (m : Rnd) (s : Bool) (x : Num) : Fl Nat :=
  match x with
  | .fin neg n d =>
    let r := roundQuot m neg n d
    let z : Int := if neg then -(r.1 : Int) else r.1
    ((reduceInt t s z).map (intCode t)).also (.when r.2 .nx)
  | .inf neg => if s then ⟨intCode t (if neg then intMin t else intMax t), .sat⟩ else ⟨0, .nv⟩
  | .nan _ => ⟨0, .nv⟩

/-- Encode of R33 for a value that is no NaN, into a float tag. -/
def floatEncode (t : Tag) (m : Rnd) (s : Bool) (x : Num) : Fl Nat :=
  let (y, inexact) := roundFloat t m x
  let f := Flags.when inexact .nx ||| Flags.when (inexact && !y.isZero && y.abs.lt (minNormal t)) .uf
  if (maxFinite t).lt y.abs then
    if s then
      ⟨floatCode t (overflow .rtz y.sign t), f ||| .sat⟩
    else match y with
      | .fin neg .. => ⟨floatCode t (overflow m neg t), f ||| .of ||| .nx⟩
      | _ => ⟨floatCode t y, f⟩
  else ⟨floatCode t y, f⟩

/-- Encode(x, T, m, s, b) of R33. -/
def encodeNum (t : Tag) (m : Rnd) (s : Bool) (b : Int) (x : Num) : Fl Nat :=
  match x with
  | .nan sig =>
    let f := Flags.when sig .nv
    if t.isInt then ⟨0, f ||| .nv⟩ else if t.isTapered then ⟨reservedCode t, f ||| .rsv⟩ else ⟨floatCode t .qnan, f⟩
  | _ => if t.isInt then intEncode t m s x else if t.isTapered then tapEncode t m b x else floatEncode t m s x

/-- Decode(c, T, b) of R33; none for a reserved tapered code. -/
def decodeNum (t : Tag) (b : Int) (c : Nat) : Option Num :=
  if t.isInt then some (.ofInt (intValue t c))
  else if t.isFloat then some (floatValue t (c % 2 ^ t.bits))
  else
    let w := tapBits t - 1
    let g := c % 2 ^ w
    let s := c / 2 ^ w % 2 == 1
    if g = 0 then if s then none else some .zero
    else match (tapMag w g).scale b with
      | .fin _ a d => some (.fin s a d)
      | x => some x

/-- The promoted type of two tags (Table 4.6). -/
def promote (a b : Tag) : Tag :=
  let a := if a.isTapered then .f32 else a
  let b := if b.isTapered then .f32 else b
  if a = b then a
  else if a.isInt && b.isInt then
    if a.bits < b.bits then b else if b.bits < a.bits then a
    else if a.bits = 8 then .i16 else if a.bits = 16 then .i32 else .i64
  else if a.isFloat && b.isFloat then
    if a.bits < b.bits then b else if b.bits < a.bits then a else .f32
  else
    let f := if a.isFloat then a else b
    let i := if a.isFloat then b else a
    if i.bits ≤ 16 then (if f = .f64 then .f64 else .f32) else .f64

/-- An exact result reduced to the promoted type (R66, step 1). -/
def reduceTo (p : Tag) (m : Rnd) (s : Bool) (x : Num) : Fl Num :=
  (encodeNum p m s 0 x).map fun c => (decodeNum p 0 c).getD .zero

/-- Both steps of R66: the code in Td of an exact result computed in P. -/
def deliver (p td : Tag) (m : Rnd) (s : Bool) (x : Num) : Fl Nat :=
  (reduceTo p m s x).bind (encodeNum td m s 0)

/-- The result of an operation on a NaN operand: a quiet NaN, NV when an operand signals (R56). -/
def nanOf (l : List Num) : Fl Num := ⟨.qnan, .when (l.any Num.isSnan) .nv⟩

/-- a + b, exact; an exact zero of unlike signs takes the sign that mode m gives (IEEE 754-2019). -/
def addNum (m : Rnd) (a b : Num) : Fl Num :=
  match a, b with
  | .nan _, _ | _, .nan _ => nanOf [a, b]
  | .inf s, .inf t => if s = t then .pure a else ⟨.qnan, .nv⟩
  | .inf _, _ => .pure a
  | _, .inf _ => .pure b
  | .fin s n d, .fin t k e =>
    let z : Int := (if s then -1 else 1) * (n * e : Nat) + (if t then -1 else 1) * (k * d : Nat)
    if z = 0 then .pure (.fin (if n = 0 && k = 0 && s = t then s else m = .rdn) 0 1)
    else .pure (if d = e then .fin (z < 0) (z.natAbs / d) d else .fin (z < 0) z.natAbs (d * e))

/-- a * b, exact. -/
def mulNum (a b : Num) : Fl Num :=
  match a, b with
  | .nan _, _ | _, .nan _ => nanOf [a, b]
  | .inf s, _ => if b.isZero then ⟨.qnan, .nv⟩ else .pure (.inf (s != b.sign))
  | _, .inf t => if a.isZero then ⟨.qnan, .nv⟩ else .pure (.inf (a.sign != t))
  | .fin s n d, .fin t k e => .pure (.fin (s != t) (n * k) (d * e))

/-- a / b, exact; a finite nonzero value over zero is an infinity and sets DZ (R194). -/
def divNum (a b : Num) : Fl Num :=
  match a, b with
  | .nan _, _ | _, .nan _ => nanOf [a, b]
  | .inf _, .inf _ => ⟨.qnan, .nv⟩
  | .inf s, _ => .pure (.inf (s != b.sign))
  | _, .inf t => .pure (.fin (a.sign != t) 0 1)
  | .fin s n d, .fin t k e =>
    if k = 0 then if n = 0 then ⟨.qnan, .nv⟩ else ⟨.inf (s != t), .dz⟩
    else .pure (.fin (s != t) (n * e) (d * k))

/-- a * b + c, exact (R63). -/
def fmaNum (m : Rnd) (a b c : Num) : Fl Num :=
  let p := mulNum a b
  let r := addNum m p.val c
  ⟨r.val, p.flags ||| r.flags ||| .when c.isSnan .nv⟩

/-- The order in which −0 counts below +0 (R193). -/
def zeroLt (a b : Num) : Bool := a.lt b || (a.isZero && b.isZero && a.sign && !b.sign)

/-- Minimum or maximum (R193): the operands are ordered by their exact values, also where the promoted integer type cannot hold one of them
(log 62). -/
def pickNum (maximum : Bool) (a b : Num) : Fl Num :=
  let f := Flags.when (a.isSnan || b.isSnan) .nv
  if a.isNan then ⟨if b.isNan then .qnan else b, f⟩
  else if b.isNan then ⟨a, f⟩
  else ⟨if maximum then (if zeroLt a b then b else a) else (if zeroLt b a then b else a), f⟩

/-- The relations of R201 by number: 0 =, 1 ≠, 2 <, 3 ≤. -/
def relNum (r : Nat) (a b : Num) : Fl Bool :=
  let f := if r < 2 then Flags.when (a.isSnan || b.isSnan) .nv else Flags.when (a.isNan || b.isNan) .nv
  match r with
  | 0 => ⟨a.eq b, f⟩
  | 1 => ⟨!a.eq b, f⟩
  | 2 => ⟨a.lt b, f⟩
  | _ => ⟨a.le b, f⟩

end Sys2Proof
end

