-- ==== Sys2Proof/Machine/Store.lean ====
section
/-! DEFINITION. Sparse stores: lists of (key, value) pairs with strictly rising keys, which list no pair whose value is
the one an unlisted key reads as. Memory, register files and the tables of the device are stores. -/

namespace Sys2Proof

/-- A sparse map from numbers to α in canonical form. -/
abbrev Store (α : Type) := List (Nat × α)

variable {α : Type}

/-- What key k reads as; d is what an unlisted key reads as. -/
def Store.get (d : α) : Store α → Nat → α
  | [], _ => d
  | (j, v) :: t, k => if j = k then v else Store.get d t k

/-- Removes key k. -/
def Store.erase (s : Store α) (k : Nat) : Store α := s.filter fun p => p.1 != k

/-- Lists (k, v) whatever v is. -/
def Store.insert : Store α → Nat → α → Store α
  | [], k, v => [(k, v)]
  | (j, w) :: t, k, v =>
    if j = k then (k, v) :: t else if k < j then (k, v) :: (j, w) :: t else (j, w) :: Store.insert t k v

/-- Writes key k, keeping the canonical form for the default d. -/
def Store.set [DecidableEq α] (d : α) (s : Store α) (k : Nat) (v : α) : Store α :=
  if v = d then s.erase k else s.insert k v

/-- Every key is above k. -/
def Store.above (k : Nat) : Store α → Bool
  | [] => true
  | (j, _) :: t => k < j && Store.above k t

/-- The canonical form: keys strictly rise and no value is the default. -/
def Store.wf [DecidableEq α] (d : α) : Store α → Bool
  | [] => true
  | (j, v) :: t => decide (v ≠ d) && Store.above j t && Store.wf d t

/-- The pairs whose key lies in [lo, hi). -/
def Store.range (s : Store α) (lo hi : Nat) : Store α := s.filter fun p => lo ≤ p.1 && p.1 < hi

/-- The store without the keys in [lo, hi). -/
def Store.drop (s : Store α) (lo hi : Nat) : Store α := s.filter fun p => !(lo ≤ p.1 && p.1 < hi)

/-- The value listed at key k, if there is one. -/
def Store.find (s : Store α) (k : Nat) : Option α :=
  match s with
  | [] => none
  | (j, v) :: t => if j = k then some v else Store.find t k

/-- Applies f to the value at k, if there is one. -/
def Store.modify : Store α → Nat → (α → α) → Store α
  | [], _, _ => []
  | (j, v) :: t, k, f => if j = k then (j, f v) :: t else (j, v) :: Store.modify t k f

/-- Applies f to every value. -/
def Store.mapVal (f : Nat → α → α) (s : Store α) : Store α := s.map fun p => (p.1, f p.1 p.2)

/-- The smallest number from lo on that is no key, within n tries. -/
def Store.fresh (s : Store α) (lo : Nat) : Nat → Nat
  | 0 => lo
  | n + 1 => if (s.find lo).isNone then lo else s.fresh (lo + 1) n

end Sys2Proof
end

