-- ==== Sys2Proof/Machine/State.lean ====
section
/-! DEFINITION. The state of one JX-900 module, as plain data, and its value after reset. Tables are sparse stores: what a
store does not list has its default value, which each field's docstring names. -/

namespace Sys2Proof.Machine

/-- Levels of a hart (R338). -/
inductive Level where
  | user | context
  deriving DecidableEq, Repr

/-- A vector register's tag byte (Table 3.5). -/
structure VTag where
  tag : Tag
  dom : BitVec 3
  deriving DecidableEq, Repr

/-- A loop register: remaining count, start and end addresses, active(N) and armseq(N) (R44, R148). -/
structure Loop where
  count : BitVec 32
  start : Word
  stop : Word
  active : Bool
  armseq : Nat
  deriving DecidableEq, Repr

/-- A q register's binding: kind 1 stream buffer, 2 copy tag, 3 subscription slot (R234). -/
structure QBind where
  kind : Nat
  idx : Nat
  deriving DecidableEq, Repr

/-- The state of a hart that its program sees and that an exit's checkpoint restores (Tables 3.1, 3.4, 25.1; R173). A
vector register is the number whose bytes, least significant first, are the register's; a mask is the number whose bits are
the mask's. Unlisted scalar, mf, hk and vector registers, masks and extents read 0, an unlisted tag is i8 at level 0. -/
structure Arch where
  pc : Word
  level : Level
  s : Store Word
  vl : BitVec 32
  vspace : BitVec 32
  shape : Nat
  xidx : Word
  ftm : BitVec 32
  ftmVl : Nat
  fflags : BitVec 32
  hctl : BitVec 32
  lq : List (BitVec 32)
  lc0 : Loop
  lc1 : Loop
  armed : Nat
  hinst : Word
  v : Store Nat
  vtag : Store VTag
  extent : Store Nat
  m : Store Nat
  mf : Store Word
  hk : Store (BitVec 32)
  qb : Store QBind
  tcause : BitVec 32
  tepc : Word
  tspc : Word
  taddr : Word
  tidx : BitVec 32
  ttag : BitVec 32
  tsave : Word
  tscr : Word
  deriving DecidableEq, Repr

/-- A trap cause with what its record holds (Table 25.3). -/
structure Cause where
  code : Nat
  sub : Nat
  write : Bool
  fetch : Bool
  idx : Nat
  addr : Word
  deriving DecidableEq, Repr

/-- An open exit (R170) with its checkpoint (R173): the state at its issue, the number of the next instruction, DICNT there, and
the vector registers copied for it. -/
structure Exit where
  vl : Nat
  mask : Nat
  base : Word
  target : Word
  seq : Nat
  icnt : Nat
  arch : Arch
  copied : List Nat
  deriving DecidableEq, Repr

/-- One byte, or some bits of one byte, that a store writes: address, mask of bits, value. -/
structure ByteWrite where
  key : Nat
  mask : Byte
  val : Byte
  deriving DecidableEq, Repr

/-- How a store marks the granules it writes (Table 22.3): a vector store sets level, HKSEL and CMP; a raw store clears
CMP. -/
inductive GranuleMark where
  | vector (level : Nat) (hksel : Nat) (cmp : Bool)
  | raw
  | copyOf (tag : Byte)
  | task (level : Nat)
  deriving DecidableEq, Repr

/-- A page pinned by an access: context, virtual page base and page size in bits, the leaf that the access translated by, and whether the
pin permits writing. -/
structure Pin where
  ctx : Nat
  base : Nat
  bits : Nat
  leaf : Word
  write : Bool
  deriving DecidableEq, Repr

/-- A request in the queue of a link that has not performed (R276): the frame, number, pc and class of its instruction, and the writes of
one step; or, for a read, its place in the queue. -/
structure HomeOp where
  hart : Nat
  seq : Nat
  read : Bool
  ctx : Nat
  link : Option Nat
  pc : Word
  cls : BitVec 4
  writes : List ByteWrite
  mark : GranuleMark
  counts : List (Nat × Nat)
  pins : List Pin
  deriving DecidableEq, Repr

/-- A held store entry (R174): the store's number and pc, its class, its lowest element and that element's address, the
link it crosses, its data and mark, the host pages it counts on, the grant it uses, whether that grant has been revoked since (R100,
R178), and its pins. -/
structure Held where
  seq : Nat
  pc : Word
  cls : BitVec 4
  idx : Nat
  addr : Word
  link : Option Nat
  writes : List ByteWrite
  mark : GranuleMark
  counts : List (Nat × Nat)
  grant : Option Nat
  revoked : Bool
  pins : List Pin
  deriving DecidableEq, Repr

/-- A cause recorded by a speculative instruction (R175): the instruction's number, DICNT and the state before it, and whether it
stops issue. -/
structure Recorded where
  seq : Nat
  icnt : Nat
  arch : Arch
  stops : Bool
  deriving DecidableEq, Repr

/-- An asynchronous cause that waits for its boundary (R342); store is the number of the held store that raised it (R178). -/
structure Async where
  cause : Cause
  tspc : Word
  store : Option Nat
  deriving DecidableEq, Repr

/-- The part that a hart's instruction in progress has done. remote: a load or, with rmw, an atomic waits on links; answered: an atomic has
performed behind links and its old value is on the way; cut: links of a load that waited have failed, whose fault it takes (R335);
barrierWait: the wait for a token, arrived where it is that of `bar.aw`, whose arrival has counted (R138, R356). -/
inductive Pending where
  | seeking (stamp : Nat) (d : Reg)
  | waiting
  | claimWait (stamp : Nat)
  | standSent (slot : Nat) (d : Reg) (pins : List Pin)
  | ticket (todo : List (List Nat × List ByteWrite)) (codes : List Nat) (mark : GranuleMark) (level : Nat) (pins : List Pin)
  | remote (links : List Nat) (arrived : Bool) (rmw : Bool) (pins : List Pin)
  | cut (links : List Nat)
  | answered (links : List Nat) (old : Word)
  | migrate (pte : Nat) (old new : Word) (vbase : Nat) (bits : Nat) (copied : Bool) (installed : Bool)
  | invalidating (pins : List Pin)
  | fencing
  | barrierWait (b : Nat) (token : BitVec 32) (arrived : Bool)
  | slotWait
  deriving DecidableEq, Repr

/-- What a replay brings back of a hart (R359): its place among the recorded points, DICNT, its program-visible state, the members of its
convoy still to come, its seat, and its counters of the work that a replay repeats. -/
structure Point where
  pos : Nat
  count : Nat
  arch : Arch
  convoy : Nat
  seat : Option (Nat × Nat)
  hstall : Word
  hannul : Word
  hbeat : Word
  deriving DecidableEq, Repr

/-- A hart's debug registers (Tables 27.1, 27.2). icnt is DICNT; hist lists the point after each recorded instruction or trap, newest
first, and the checkpoint as count 0, and is empty before the first checkpoint; live is the point from before a replay, pos the place of the
point that a replay has reached; the log's next record goes to logPos and none reaches logEnd. -/
structure Debug where
  halted : Bool
  want : Bool
  stepping : Bool
  replay : Bool
  why : Nat
  brk : Nat
  err : Bool
  logFull : Bool
  inWait : Bool
  recording : Bool
  att : Bool
  icnt : Nat
  target : Nat
  hist : List Point
  pos : Nat
  live : Option Point
  logPos : Word
  logEnd : Word
  deriving DecidableEq, Repr

/-- A request of a hart over a link that is not acknowledged: the link, the store's pc, its number, its class, and its lowest element that
crosses the link. -/
structure Unacked where
  link : Nat
  pc : Word
  seq : Nat
  cls : BitVec 4
  idx : Nat
  deriving DecidableEq, Repr

/-- A hart frame that holds a hart. seq is the number of the hart's next instruction; seat is (partition, seat); landing lists the
registers of each load whose data have not landed, 64 standing for the vl and FTM of a `vld.ff`, landed those whose data landed in the
present clock (R50); awaited what a stall on data waits for: registers, or 128 + n for stream buffer n; an ending hart stops for good once its
instruction in progress completes (R120). -/
structure Hart where
  gid : Nat
  idx : Nat
  halted : Bool
  arch : Arch
  seat : Option (Nat × Nat)
  exits : List Exit
  held : List Held
  faults : List Recorded
  seq : Nat
  hclk : Word
  hstall : Word
  hannul : Word
  hbeat : Word
  async : List Async
  pending : Option Pending
  stalled : Bool
  memStall : Bool
  awaited : List Nat
  stopped : Bool
  ending : Bool
  landing : List (List Nat)
  landed : List Nat
  unacked : List Unacked
  convoy : Nat
  dbg : Debug
  deriving DecidableEq, Repr

/-- A stream buffer's stream (R231). base is the address of element 0; unit: the stride field was 0; fmt the memory-format
register; taken counts consumed elements. fetched lists the codes that the DAU holds from element first on, with the LEVEL of
their granule; none for an element whose fetch faults. want is the element up to which a waiting consumer needs them. -/
structure Stream where
  gid : Nat
  owner : Nat
  base : Word
  len : Nat
  stride : Int
  unit : Bool
  fmt : Word
  cls : BitVec 4
  space : Nat
  taken : Nat
  first : Nat
  fetched : List (Option (Nat × Nat))
  want : Nat
  deriving DecidableEq, Repr

/-- Consecutive bytes of a copy's range that lie at consecutive keys: offset in the copy and length, the page, and whether the grant
they go through has been revoked since (R100). -/
structure Run where
  off : Nat
  len : Nat
  key : Nat
  link : Option Nat
  grant : Option Nat
  revoked : Bool
  counted : Bool
  pte : Nat
  vbase : Nat
  deriving DecidableEq, Repr

/-- A copy tag (R235). hart is the issuing hart's index in group gid; landed has bit j set when chunk j has landed, sent when it has
performed behind a link and is not acknowledged, lost when its link failed first; order lists landed chunks, newest last; marked the
tag that each destination granule took with its first byte (Table 22.3); desc: the chunks land in this order; src and dst are the ranges as they were pinned. -/
structure CopyTag where
  gid : Nat
  hart : Nat
  ctx : Nat
  cls : BitVec 4
  scope : Nat
  len : Nat
  chunks : Nat
  landed : Nat
  sent : Nat
  lost : Nat
  order : List Nat
  marked : List (Nat × Byte)
  yielded : Nat
  busy : Bool
  revk : Bool
  desc : Option Bool
  src : List Run
  dst : List Run
  pins : List Pin
  deriving DecidableEq, Repr

/-- Subscription states (Table 18.1). -/
inductive SlotState where
  | free | arming | standing | parked | closing | closed
  deriving DecidableEq, Repr

/-- A queued item of a slot (Table 18.3). -/
structure Item where
  gone : Bool
  closed : Bool
  park : Bool
  cnt : Nat
  ent : Nat
  seq : BitVec 16
  deriving DecidableEq, Repr

/-- A subscription slot (R264, R269). depth 0 is LATEST; hart is the index of the hart whose stand or unstand the slot follows;
base is the offset of entry 0 in the span; line the line's key div 64; pins name the pages that the line was translated
by, none in the Belfry space; newest the newest entry. -/
structure Slot where
  state : SlotState
  gid : Nat
  hart : Nat
  depth : Nat
  base : Nat
  line : Nat
  pins : List Pin
  grant : Option Nat
  items : List Item
  heldEnt : Option Nat
  newest : Nat
  ovc : Nat
  lastSeq : BitVec 16
  gone : Bool
  deriving DecidableEq, Repr

/-- What travels from a home to a slot along the slot's ordered path (R265, R272, R274). -/
inductive Message where
  | push (line : List Byte) (mask : Nat) (hseq : BitVec 16)
  | reply (full : Bool) (line : List Byte) (hseq : BitVec 16)
  | ack
  deriving DecidableEq, Repr

/-- An entry of a home's subscription table: the slot's group, Spire and number, the line, and, while parked, the count of missed pushes
with the newest one's HSEQ and line (R274). -/
structure Sub where
  gid : Nat
  spire : Nat
  slot : Nat
  line : Nat
  parked : Bool
  missed : Nat
  newest : BitVec 16
  kept : List Byte
  deriving DecidableEq, Repr

/-- Barrier states (Table 10.1). -/
inductive BarState where
  | idle | counting | released
  deriving DecidableEq, Repr

/-- A barrier object (Table 10.1). -/
structure Barrier where
  gen : BitVec 32
  exp : Nat
  amask : BitVec 64
  state : BarState
  deriving DecidableEq, Repr

/-- Task states (Table 21.5); GONE is the absence of a task. -/
inductive TaskState where
  | queued | waiting | running | suspended | done | failed | aborted
  deriving DecidableEq, Repr

/-- A tile task (R301 to R306): record is its 64-byte record. -/
structure Task where
  num : BitVec 32
  record : List Byte
  hart : Nat
  cls : BitVec 4
  state : TaskState
  code : Nat
  kdone : Nat
  rsv : Nat
  stamp : Nat
  deriving DecidableEq, Repr

/-- A task fault record (R311). sent: its trap has been queued at TFH. -/
structure TaskFault where
  task : BitVec 32
  code : Nat
  pos : Nat
  operand : Nat
  kdone : Nat
  addr : Word
  sent : Bool
  deriving DecidableEq, Repr

/-- What a weight bank of a matrix array holds (R298): the format and codes of its rows, and whether one is an infinity or a NaN. -/
structure WeightBank where
  tag : Tag
  rows : List (List Nat)
  special : Bool
  deriving DecidableEq, Repr

/-- Group states (Table 9.1). -/
inductive GroupState where
  | forming | running | parked | draining | done
  deriving DecidableEq, Repr

/-- A parked group's saved state (R348): its harts by index, which of them sought a seat, what each Spire position held, the
start it belongs to, and its place in the pool. -/
structure Image where
  harts : List (Nat × Hart)
  sought : List Nat
  span : List (Store Byte)
  spanTags : List (Store Byte)
  acc : List (Store (BitVec 32))
  levels : List (Nat × Nat)
  claimed : Bool
  streams : List (Nat × Nat × Stream)
  tags : List (Nat × Nat × CopyTag)
  slots : List (Nat × Nat × Slot)
  start : Nat
  address : Nat
  deriving DecidableEq, Repr

/-- A group (spec/09). lanes, pair, shape and lspan are its kernel's; bases lists its span's base on each Spire; frames the
hart key of each hart index (4096 without one); reserved is the place in the pool that its pre-emption has reserved (R347). -/
structure Group where
  ctx : Nat
  kernel : Nat
  index : Nat
  quad : Nat
  state : GroupState
  nhart : Nat
  lanes : Nat
  pair : Bool
  shape : Nat
  lspan : Nat
  bases : List Nat
  frames : List Nat
  barriers : Store Barrier
  tokens : Store (BitVec 32)
  taskCount : BitVec 32
  nextTake : BitVec 32
  tasks : List Task
  tfh : Nat
  faults : List TaskFault
  claim : Bool
  aborted : Bool
  wantPark : Bool
  reserved : Option Nat
  image : Option Image
  deriving DecidableEq, Repr

/-- Kernel states (Table 8.1). -/
inductive KernelState where
  | queued | waiting | placing | running | draining | done | aborted
  deriving DecidableEq, Repr

/-- A kernel (spec/08), with the fields of its launch record (Table 7.5). -/
structure Kernel where
  ctx : Nat
  queue : Nat
  record : Nat
  state : KernelState
  status : Nat
  prio : Nat
  code : Word
  args : Word
  ngrp : Nat
  nhart : Nat
  lanes : Nat
  shape : Nat
  waitv : Bool
  sigv : Bool
  pair : Bool
  lspan : Nat
  wtok : Nat
  ctok : Nat
  wval : BitVec 32
  cookie : Word
  placed : Nat
  doneGroups : Nat
  deriving DecidableEq, Repr

/-- Queue states (Table 7.4). -/
inductive QState where
  | idle | armed | running | blocked | stopped
  deriving DecidableEq, Repr

/-- A queue's registers (Table 7.1); last is the kernel of the last record taken; clearing: a CLEAR waits. -/
structure Queue where
  base : Word
  cfg : BitVec 32
  wp : BitVec 32
  rp : BitVec 32
  done : BitVec 32
  state : QState
  err : Nat
  last : Option Nat
  clearing : Bool
  deriving DecidableEq, Repr

/-- Context states (Table 6.1). -/
inductive CtxState where
  | absent | forming | active | growing | shrinking | draining | faulted
  deriving DecidableEq, Repr

/-- A grant that a recipient context holds (R261). -/
structure Grant where
  owner : Nat
  base : Nat
  pages : Nat
  wr : Bool
  revoked : Bool
  deriving DecidableEq, Repr

/-- A bandwidth bucket (R99). -/
structure Bucket where
  limit : Nat
  pend : Option Nat
  tokens : Int
  deriving DecidableEq, Repr

/-- A notification or trace ring (Tables 17.5, R360). -/
structure Ring where
  base : Word
  cfg : BitVec 32
  thr : BitVec 32
  wp : BitVec 32
  rp : BitVec 32
  lost : Nat
  ovf : Bool
  deriving DecidableEq, Repr

/-- A context (spec/06) with the registers of its virtual function. quads lists its quads, granules its Belfry granules in
allocation order; counts holds the COUNT of host leaves, by the entry's address; suspended the quads that PARK names;
leaving the quads that SHRINK takes. -/
structure Ctx where
  state : CtxState
  quads : List Nat
  granules : List Nat
  queues : Store Queue
  ktok : Store (BitVec 32)
  ptbase : Word
  tvec : Word
  tsaveBase : Word
  saveBase : Word
  saveLen : Word
  nq : Ring
  trace : Ring
  revk : Bool
  grants : Store Grant
  buckets : Store Bucket
  counts : Store Nat
  noted : List Nat
  suspended : List Nat
  leaving : List Nat
  releasing : Nat
  cmd : Option Nat
  afterDrain : CtxState
  lastQueue : Nat
  parked : List Nat
  tctl : BitVec 32
  toff : Word
  tmul : BitVec 32
  tstolen : Word
  fullPark : Bool
  dsel : BitVec 32
  daddr : Word
  dlogb : Word
  dlogl : Word
  deriving DecidableEq, Repr

/-- Work that a pipe of a Spire has been given and has not completed (R130, R360): the context, the group and hart index and the frame it
is for, its cost, and what its trace TAG is made of. -/
structure PipeWork where
  ctx : Nat
  gid : Nat
  idx : Nat
  spire : Nat
  pipe : Nat
  frame : Nat
  cost : Nat
  unit : Nat
  item : Nat
  deriving DecidableEq, Repr

/-- Link states (Table 24.1). -/
inductive LinkState where
  | down | training | up | degraded | failed
  deriving DecidableEq, Repr

/-- A link's state and counters (Table 24.3); rate is the host link's trained rate in GT/s (R102), 0 on a fabric link. -/
structure Link where
  state : LinkState
  lanes : Nat
  rate : Nat
  replay : Nat
  corr : Nat
  retrain : Nat
  tries : Nat
  deriving DecidableEq, Repr

/-- A management command that the Crown has taken and not ended (Table 6.2); a refused one ends with INVAL in its turn (R93, R95). -/
structure Cmd where
  opc : Nat
  ctx : Nat
  seq : BitVec 32
  qmask : Word
  arg0 : Word
  arg1 : Word
  slot : Nat
  started : Bool
  refused : Bool
  deriving DecidableEq, Repr

/-- A journal entry (R370); its SEQ is its position. -/
structure Entry where
  kind : Nat
  ctx : Nat
  arg : Nat
  st : BitVec 32
  a : Word
  b : Word
  deriving DecidableEq, Repr

/-- A start-record entry (R367). -/
structure StartEntry where
  step : Nat
  unit : Nat
  outcome : Nat
  setting : Nat
  deriving DecidableEq, Repr

/-- STATUS.STATE (Table 28.2). -/
inductive ModuleState where
  | reset | starting | ready | recovery | fault
  deriving DecidableEq, Repr

/-- What flash holds: the image of manufacture, one that recovery wrote, or one whose write was cut off (R368). -/
inductive Firmware where
  | made
  | written (image : Store Byte)
  | spoiled
  deriving DecidableEq, Repr

/-- A cached translation (R250): context, virtual base and size, the leaf, and the entry's address. -/
structure Tlb where
  ctx : Nat
  base : Nat
  bits : Nat
  leaf : Word
  pte : Nat
  deriving DecidableEq, Repr

/-- What the schedule of a run asks for next: an event, one step of a hart, or a store of the host to the bytes of module memory from a
key on (R265, R292; log 72). -/
inductive Sched where
  | ev (i : Instr)
  | hart (key : Nat)
  | host (key : Nat) (bytes : List Byte)
  deriving DecidableEq, Repr

/-- The whole module. Keys: a hart by 16 × Spire + frame; a stream buffer, copy tag by 8 × Spire + number; a slot by
256 × Spire + number; an accumulator element by 2^17 × Spire + 2^16 × ac + 256 × row + column, a domain level by
2 × Spire + ac; a weight bank by 2 × Spire + its number, bankSel the bank that the last K-step of a Spire loaded; groups and kernels by the number of their creation. mem holds every byte by the keys of the address map
(Ops); what it does not list reads 0. gtag holds granule tags by key div 1024. window is the recovery window, by offset. pipeWork lists
work that waits for its pipe, pipeBusy what a pipe has accepted; deficits holds the counters D by group, hart index and pipe. held,
notices and traces are writes to host memory, notification records and trace records that wait while a link trains (R337). flash is the image in
flash and booted the one that step 1 of this start read; report is what the start goes on with once a recovery image stands in flash (R368);
recoveries lists the images accepted at this start (R369). softErrors counts corrected errors since the journal entry at clock softLast
(R370). agenda and cur belong to the model: the schedule, and the hart whose instruction executes. -/
structure State where
  mem : List Host.Cell
  gtag : Store Byte
  escaped : List Nat
  spilled : List Nat
  harts : Store Hart
  groups : Store Group
  kernels : Store Kernel
  ctxs : Store Ctx
  nextGroup : Nat
  nextKernel : Nat
  acc : Store (BitVec 32)
  accLevel : Store Nat
  banks : Store WeightBank
  bankSel : Store Nat
  streams : Store Stream
  copies : Store CopyTag
  slots : Store Slot
  subs : List Sub
  hseq : Store (BitVec 16)
  messages : List (Nat × Message)
  slotRequests : List (Nat × Bool)
  homeq : List HomeOp
  tlb : Store (List Tlb)
  mtlb : Store (List Tlb)
  issuing : Store Nat
  pipeWork : List PipeWork
  pipeBusy : List PipeWork
  deficits : Store Int
  lastGrant : Store Nat
  ticket : Nat
  blocked : List (Nat × Nat × Nat)
  links : Store Link
  held : List (Nat × List Byte)
  notices : List (Nat × Word × Nat × Nat)
  traces : List (Nat × List Byte)
  dclk : Word
  status : ModuleState
  step : Nat
  fcode : Nat
  devf : Bool
  limiting : Bool
  belowFor : Nat
  withhold : Nat
  stopped : List Nat
  starts : Nat
  flashOk : Bool
  flash : Firmware
  booted : Firmware
  writingFlash : Bool
  report : Option StartReport
  verifying : Bool
  window : Store Byte
  startRecord : List StartEntry
  fencedSpires : List Nat
  fencedShafts : List Nat
  fencedLinks : List Nat
  recoveries : List (Store Byte)
  attests : Nat
  softErrors : Nat
  softLast : Option Nat
  capGen : BitVec 32
  mqBase : Word
  mqCfg : BitVec 32
  mqWp : BitVec 32
  mqRp : BitVec 32
  mqDone : BitVec 32
  mqErr : Nat
  mqHalt : Bool
  msix : Nat
  cmds : Store Cmd
  journal : List Entry
  jnext : Nat
  lsImages : List (Nat × Word × List Byte)
  hostRead : Word
  stamp : Nat
  clockDue : Bool
  hartTurn : Bool
  agenda : List Sched
  cur : Nat
  deriving DecidableEq, Repr

/-- Why a step stops with a fault. -/
inductive Fault where
  /-- STATUS.STATE is FAULT (R366, step 2 to 7 failed): the module does nothing more until power is lost and returns. Raised by step
  alone, with an empty agenda. Safe: no further state is claimed. -/
  | moduleUnusable
  deriving DecidableEq, Repr

/-- Why an instruction is refused. -/
inductive Refusal where
  /-- An instruction that the model gives no meaning yet; named by its mnemonic. Raised by exec alone. Safe. -/
  | notModelled (mnemonic : String)
  deriving DecidableEq, Repr

/-- A loop register at hart entry (Table 3.1). -/
def Loop.zero : Loop := ⟨0, 0, 0, false, 0⟩

/-- The tag of a register that nothing has written (R39). -/
def VTag.zero : VTag := ⟨.i8, 0⟩

/-- The program-visible state of a hart at entry (Tables 3.1, 3.4, 25.1), before its kernel sets pc and s3 to s7. -/
def Arch.entry : Arch where
  pc := 0
  level := .user
  s := []
  vl := 0
  vspace := 0
  shape := 0
  xidx := 0
  ftm := 0
  ftmVl := 0
  fflags := 0
  hctl := 1
  lq := []
  lc0 := .zero
  lc1 := .zero
  armed := 0
  hinst := 0
  v := []
  vtag := []
  extent := []
  m := []
  mf := []
  hk := []
  qb := []
  tcause := 0
  tepc := 0
  tspc := 0
  taddr := 0
  tidx := 0
  ttag := 0
  tsave := 0
  tscr := 0

/-- Debug registers at reset (Tables 27.1, 27.2). -/
def Debug.zero : Debug :=
  ⟨false, false, false, false, 0, 0, false, false, false, false, false, 0, 0, [], 0, none, 0, 0⟩

/-- A hart of group gid with index idx at entry. -/
def Hart.entry (gid idx : Nat) (a : Arch) : Hart where
  gid := gid
  idx := idx
  halted := false
  arch := a
  seat := none
  exits := []
  held := []
  faults := []
  seq := 0
  hclk := 0
  hstall := 0
  hannul := 0
  hbeat := 0
  async := []
  pending := none
  stalled := false
  memStall := false
  awaited := []
  stopped := false
  ending := false
  landing := []
  landed := []
  unacked := []
  convoy := 0
  dbg := .zero

/-- A queue at reset (Table 7.1). -/
def Queue.zero : Queue := ⟨0, 0, 0, 0, 0, .idle, 0, none, false⟩

/-- A barrier at reset (Table 10.1). -/
def Barrier.zero : Barrier := ⟨0, 0, 0, .idle⟩

/-- The notification block at reset (Table 17.5): THR is 256. -/
def Ring.notify : Ring := ⟨0, 0, 256, 0, 0, 0, false⟩

/-- The trace block at reset (R360). -/
def Ring.trace : Ring := ⟨0, 0, 0, 0, 0, 0, false⟩

/-- A bucket after CREATE: unlimited (R99). -/
def Bucket.zero : Bucket := ⟨0, none, 0⟩

/-- An absent context: every register of its virtual function at reset. -/
def Ctx.zero : Ctx where
  state := .absent
  quads := []
  granules := []
  queues := []
  ktok := []
  ptbase := 0
  tvec := 0
  tsaveBase := 0
  saveBase := 0
  saveLen := 0
  nq := .notify
  trace := .trace
  revk := false
  grants := []
  buckets := []
  counts := []
  noted := []
  suspended := []
  leaving := []
  releasing := 0
  cmd := none
  afterDrain := .absent
  lastQueue := 15
  parked := []
  tctl := 0
  toff := 0
  tmul := 0x01000000
  tstolen := 0
  fullPark := false
  dsel := 0
  daddr := 0
  dlogb := 0
  dlogl := 0

/-- A link at reset (Table 24.3). -/
def Link.zero : Link := ⟨.down, 0, 0, 0, 0, 0, 0⟩

/-- The module at power-on, before the Crown's start (spec/28): STATUS reads 0, every register is at its reset value, no
context exists, the free pool holds zeros, and nothing is scheduled. -/
def State.reset : State where
  mem := []
  gtag := []
  escaped := []
  spilled := []
  harts := []
  groups := []
  kernels := []
  ctxs := []
  nextGroup := 0
  nextKernel := 0
  acc := []
  accLevel := []
  banks := []
  bankSel := []
  streams := []
  copies := []
  slots := []
  subs := []
  hseq := []
  messages := []
  slotRequests := []
  homeq := []
  tlb := []
  mtlb := []
  issuing := []
  pipeWork := []
  pipeBusy := []
  deficits := []
  lastGrant := []
  ticket := 0
  blocked := []
  links := []
  held := []
  notices := []
  traces := []
  dclk := 0
  status := .reset
  step := 0
  fcode := 0
  devf := false
  limiting := false
  belowFor := 0
  withhold := 0
  stopped := []
  starts := 0
  flashOk := true
  flash := .made
  booted := .made
  writingFlash := false
  report := none
  verifying := false
  window := []
  startRecord := []
  fencedSpires := []
  fencedShafts := []
  fencedLinks := []
  recoveries := []
  attests := 0
  softErrors := 0
  softLast := none
  capGen := 0
  mqBase := 0
  mqCfg := 0
  mqWp := 0
  mqRp := 0
  mqDone := 0
  mqErr := 0
  mqHalt := false
  msix := 0
  cmds := []
  journal := []
  jnext := 0
  lsImages := []
  hostRead := 0
  stamp := 0
  clockDue := false
  hartTurn := false
  agenda := []
  cur := 0

end Sys2Proof.Machine
end

