-- ==== Sys2Proof/Machine/Memory.lean ====
section
/-! DEFINITION. Bytes of memory: the map of every space to keys, reads, the step of a home with its pushes and granule tags,
and what the device writes to host memory. -/

namespace Sys2Proof.Machine

/-- What a byte that nothing has written reads as: the free pool holds zeros (R92); for host and remote memory see log 2. -/
def Memory.fill : Byte := 0

/-- The canonical form of memory. -/
abbrev Memory.wf (m : List Host.Cell) : Bool := Store.wf Memory.fill m

/-- Key of a shaft's physical address (R7). -/
def dramKey (p : Nat) : Nat := p

/-- Key of a Belfry byte by physical offset (R8). -/
def belKey (o : Nat) : Nat := 2 ^ 40 + o

/-- Key of a byte of a Spire's local store. -/
def lsKey (spire off : Nat) : Nat := 2 ^ 41 + spire * 2 ^ 20 + off

/-- Key of a host bus address. -/
def hostKey (a : Nat) : Nat := 2 ^ 60 + a

/-- Key of a remote address behind link l. -/
def linkKey (l a : Nat) : Nat := 2 ^ 70 + l * 2 ^ 60 + a

/-- A key of a shaft. -/
def isDram (k : Nat) : Bool := k < 2 ^ 39

/-- A key that carries granule tags: shaft, Belfry or local store (R320). -/
def isTagged (k : Nat) : Bool := k < 2 ^ 42

/-- The home of a line that can take subscriptions (R9, R265): shaft n, or 256 + bank. -/
def homeOf (k : Nat) : Option Nat :=
  if k < 2 ^ 39 then some (k / 2 ^ 31) else if 2 ^ 40 ≤ k && k < 2 ^ 41 then some (256 + (k - 2 ^ 40) / 64 % 256) else none

/-- One byte. -/
def State.byte (s : State) (k : Nat) : Byte := Store.get Memory.fill s.mem k

/-- Writes one byte. -/
def State.setByte (s : State) (k : Nat) (b : Byte) : State := { s with mem := Store.set Memory.fill s.mem k b }

/-- n bytes from key k. -/
def State.bytes (s : State) (k n : Nat) : List Byte := (List.range n).map fun i => s.byte (k + i)

/-- The number that bytes form, least significant first (R15). -/
def leValue : List Byte → Nat
  | [] => 0
  | b :: t => b.toNat + 256 * leValue t

/-- The n bytes of a number, least significant first (R15). -/
def bytesOf (v : Nat) : Nat → List Byte
  | 0 => []
  | n + 1 => BitVec.ofNat 8 v :: bytesOf (v / 256) n

/-- The little-endian number of n bytes at key k. -/
def State.load (s : State) (k n : Nat) : Nat := leValue (s.bytes k n)

/-- Writes bytes at consecutive keys. -/
def State.setBytes (s : State) (k : Nat) : List Byte → State
  | [] => s
  | b :: t => (s.setByte k b).setBytes (k + 1) t

/-- The merge of a masked write into a byte. -/
def ByteWrite.onto (w : ByteWrite) (old : Byte) : Byte := (old &&& ~~~w.mask) ||| (w.val &&& w.mask)

/-- Whole-byte writes of a list of bytes at consecutive keys. -/
def byteWrites (k : Nat) : List Byte → List ByteWrite
  | [] => []
  | b :: t => ⟨k, 0xFF, b⟩ :: byteWrites (k + 1) t

/-- Performs the writes in order: a later write to a byte stands (R227). -/
def State.writeAll (s : State) : List ByteWrite → State
  | [] => s
  | w :: t => (s.setByte w.key (w.onto (s.byte w.key))).writeAll t

/-- A sorted list of distinct numbers. -/
def insertNat (k : Nat) : List Nat → List Nat
  | [] => [k]
  | j :: t => if j = k then j :: t else if k < j then k :: j :: t else j :: insertNat k t

/-- The distinct values f takes on a list, ascending. -/
def distinct {α : Type} (f : α → Nat) (l : List α) : List Nat := l.foldl (fun acc a => insertNat (f a) acc) []

/-- Granule tag of a key (Table 22.2). -/
def State.granule (s : State) (k : Nat) : Byte := if isTagged k then Store.get 0 s.gtag (k / 1024) else 0

/-- LEVEL of a granule tag. -/
def tagLevel (t : Byte) : Nat := t.toNat % 8

/-- CMP of a granule tag. -/
def tagCmp (t : Byte) : Bool := t.getLsbD 3

/-- The 128 words of a granule (R243). -/
def State.granuleWords (s : State) (g : Nat) : List Nat := (List.range 128).map fun i => s.load (g * 1024 + 8 * i) 8

/-- Bursts of the compressed form of a granule with nz nonzero words (R243). -/
def bursts (nz : Nat) : Nat := (24 + 8 * nz + 63) / 64

/-- The byte offsets in the compressed form at which a stored word equals the marker without being it (R244). -/
def escapes (marker : Nat) (words : List Nat) : List Nat :=
  let nz := words.filter (· != 0)
  let k := bursts nz.length
  (List.range (k - 1)).filterMap fun b =>
    match (nz[8 * b + 5]? : Option Nat) with
    | some w => if w = marker then some (64 * b + 56) else none
    | none => none

/-- Marks granule g as a store leaves it (R243, R244, Table 22.3). -/
def State.markGranule (s : State) (m : GranuleMark) (g : Nat) : State :=
  if !isTagged (g * 1024) then s else
  let keep (p : Nat) : Bool := !(g * 1024 ≤ p && p < g * 1024 + 1024)
  let s := { s with escaped := s.escaped.filter keep, spilled := s.spilled.filter keep }
  match m with
  | .raw => { s with gtag := Store.set 0 s.gtag g (s.granule (g * 1024) &&& 0xF7) }
  | .copyOf t => { s with gtag := Store.set 0 s.gtag g (t &&& 0xF7) }
  | .task l => { s with gtag := Store.set 0 s.gtag g (BitVec.ofNat 8 l) }
  | .vector l hk cmp =>
    let base := BitVec.ofNat 8 (l + 16 * hk)
    if cmp && isDram (g * 1024) then
      let words := s.granuleWords g
      if bursts (words.filter (· != 0)).length < 16 then
        { s with
          gtag := Store.set 0 s.gtag g (base ||| 8)
          escaped := s.escaped ++ (escapes (Config.marker s.starts).toNat words).map (g * 1024 + ·) }
      else { s with gtag := Store.set 0 s.gtag g base }
    else { s with gtag := Store.set 0 s.gtag g base }

/-- Which bytes of line l the writes touch, as a 64-bit mask. -/
def lineMask (l : Nat) (ws : List ByteWrite) : Nat :=
  ws.foldl (fun m w => if w.key / 64 = l && w.mask != 0 then m ||| 2 ^ (w.key % 64) else m) 0

/-- Subscribers of line l. -/
def State.subscribers (s : State) (l : Nat) : List Sub := s.subs.filter fun u => u.line == l

/-- The home's part of a step on line l that has subscribers: HSEQ advances, each standing slot is sent a push, and a
parked one counts it (R265, R274). -/
def State.pushLine (s : State) (ws : List ByteWrite) (l : Nat) : State :=
  match homeOf (l * 64) with
  | none => s
  | some h =>
    if (s.subscribers l).isEmpty then s else
      let q := Store.get 0 s.hseq h + 1
      let msg := Message.push (s.bytes (l * 64) 64) (lineMask l ws) q
      { s with
        hseq := Store.set 0 s.hseq h q
        messages := s.messages ++ ((s.subscribers l).filter (!·.parked)).map fun u => (256 * u.spire + u.slot, msg)
        subs := s.subs.map fun u =>
          if u.line == l && u.parked then { u with missed := u.missed + 1, newest := q, kept := s.bytes (l * 64) 64 } else u }

/-- One step of homes: the writes perform, granules are marked, and subscribers of the lines are served (R9, R265). -/
def State.perform (s : State) (m : GranuleMark) (ws : List ByteWrite) : State :=
  let s := s.writeAll ws
  let s := (distinct (·.key / 1024) ws).foldl (·.markGranule m) s
  (distinct (·.key / 64) ws).foldl (·.pushLine ws) s

/-- The host link (R331): link 64. -/
def hostLink : Nat := 64

/-- Link l. -/
def State.link (s : State) (l : Nat) : Link := Store.get .zero s.links l

/-- Link l carries flits. -/
def State.linkUp (s : State) (l : Nat) : Bool := (s.link l).state == .up || (s.link l).state == .degraded

/-- Link l is DOWN or FAILED: an access over it faults at issue (R333, R337). -/
def State.linkDead (s : State) (l : Nat) : Bool := (s.link l).state == .down || (s.link l).state == .failed

/-- A write of the device to host memory: sent, held while the link trains, or dropped (R337). -/
def State.hostWrite (s : State) (a : Nat) (bs : List Byte) : State :=
  if s.linkUp hostLink then s.setBytes (hostKey a) bs
  else if s.linkDead hostLink then s else { s with held := s.held ++ [(a, bs)] }

/-- The host link carries flits again: what was held is sent in order. -/
def State.flushHeld (s : State) : State :=
  { s.held.foldl (fun s w => s.setBytes (hostKey w.1) w.2) s with held := [] }

/-- Appends a journal entry (R370, R371): the newest entry stands first, and 2^20 are kept. -/
def State.journalAdd (s : State) (e : Entry) : State :=
  { s with journal := (e :: s.journal).take (2 ^ 20), jnext := s.jnext + 1 }

/-- JOLD (R370). -/
def State.jold (s : State) : Nat := s.jnext - s.journal.length

/-- Clears all bytes and granule tags with keys in [lo, hi) (R92). -/
def State.zeroRange (s : State) (lo hi : Nat) : State :=
  { s with
    mem := Store.drop s.mem lo hi
    gtag := Store.drop s.gtag (lo / 1024) (hi / 1024)
    escaped := s.escaped.filter fun p => !(lo ≤ p && p < hi)
    spilled := s.spilled.filter fun p => !(lo ≤ p && p < hi) }

end Sys2Proof.Machine
end

