-- ==== Sys2Proof/Machine/Translate.lean ====
section
/-! DEFINITION. Address translation and access checks (R118, R219, R250 to R262, R333, R337). -/

namespace Sys2Proof.Machine

/-- The quad of a Spire (R5). -/
def quadOf (spire : Nat) : Nat := spire / 4

/-- The Spire of a hart key. -/
def spireOf (key : Nat) : Nat := key / 16

/-- The die of a Spire issues (R14). -/
def State.dieRuns (s : State) (spire : Nat) : Bool := !s.stopped.contains (spire / 64)

/-- Context c. -/
def State.ctx (s : State) (c : Nat) : Ctx := Store.get .zero s.ctxs c

/-- Writes context c. -/
def State.setCtx (s : State) (c : Nat) (x : Ctx) : State := { s with ctxs := Store.set .zero s.ctxs c x }

/-- Applies f to context c. -/
def State.modCtx (s : State) (c : Nat) (f : Ctx → Ctx) : State := s.setCtx c (f (s.ctx c))

/-- A physical address in one of the context's own shafts: shaft n lies beneath Spire n (R5, R7). -/
def Ctx.owns (x : Ctx) (p : Nat) : Bool := p < 2 ^ 39 && x.quads.contains (quadOf (p / 2 ^ 31))

/-- The physical Belfry offset of an offset in the context's allocation (Table 14.1). -/
def Ctx.belfry (x : Ctx) (o : Nat) : Option Nat := x.granules[o / 2 ^ 20]?.map fun g => g * 2 ^ 20 + o % 2 ^ 20

/-- Field bits [lo + n - 1 : lo] of a table entry. -/
def pteBits (e : Word) (lo n : Nat) : Nat := e.toNat / 2 ^ lo % 2 ^ n

/-- TGT (Table 17.2). -/
def pteTgt (e : Word) : Nat := pteBits e 61 3

/-- WB (Table 17.2). -/
def pteWb (e : Word) : Bool := e.getLsbD 60

/-- FRAME as an address (Table 17.2). -/
def pteFrame (e : Word) : Nat := pteBits e 0 40 * 4096

/-- The link number or the grant number, COUNT[56:51] (Table 17.2). -/
def pteNum (e : Word) : Nat := pteBits e 51 6

/-- What a walk ends in: a leaf with its entry's address and the page size in bits, or a fault code and SUB. -/
inductive Walk where
  | leaf (e : Word) (pte bits : Nat)
  | fault (code sub : Nat)
  deriving DecidableEq, Repr

/-- A field that Table 17.2 reserves for the entry's TGT holds a nonzero value; the WB and COUNT that the device keeps
apart. -/
def pteReserved (e : Word) : Bool :=
  let t := pteTgt e
  (t != 3 && e.getLsbD 40) ||
    (if t = 3 then false else if t = 4 || t = 5 then pteBits e 41 10 != 0 else pteBits e 41 16 != 0)

/-- The checks of a leaf of 2^bits bytes that do not depend on the access (R252). -/
def leafOk (x : Ctx) (e : Word) (bits : Nat) : Bool :=
  pteFrame e % 2 ^ bits = 0 &&
    (if pteTgt e = 1 then x.owns (pteFrame e)
     else if pteTgt e = 2 then pteFrame e + 2 ^ bits ≤ x.granules.length * 2 ^ 20
     else true)

/-- One level of the walk at a table; the levels below it follow in the list, as shifts of their index bits. -/
def walkFrom (s : State) (x : Ctx) (va table : Nat) : List Nat → Walk
  | [] => .fault 17 0
  | sh :: rest =>
    let n := if rest.isEmpty then 32 else 512
    let pte := table + 8 * (va / 2 ^ sh % n)
    if !x.owns table then .fault 17 0 else
      let e := BitVec.ofNat 64 (s.load (dramKey pte) 8)
      let t := pteTgt e
      if t = 0 then .fault 16 0
      else if t = 6 || pteReserved e then .fault 17 0
      else if t = 7 then
        if e.getLsbD 57 || rest.isEmpty then .fault 17 0 else walkFrom s x va (pteFrame e) rest
      else
        let leafBit := e.getLsbD 57
        let ok := if rest.isEmpty then !leafBit else leafBit && sh != 39
        if ok && leafOk x e sh then .leaf e pte sh else .fault 17 0

/-- The walk of a virtual address in context c (R250, R252). -/
def State.walk (s : State) (c : Nat) (va : Word) : Walk :=
  if va.toNat / 2 ^ 48 ≠ 0 then .fault 16 0
  else walkFrom s (s.ctx c) va.toNat (s.ctx c).ptbase.toNat [39, 30, 21, 16]

/-- Where an access of one byte lands. bits is 0 in a space without pages; owner is the owner's page of a grant, as a read pin. -/
structure Phys where
  key : Nat
  tgt : Nat
  leaf : Word
  pte : Nat
  vbase : Nat
  bits : Nat
  link : Option Nat
  grant : Option Nat
  counted : Bool
  owner : List Pin
  deriving DecidableEq, Repr

/-- The result of a check of one byte: a place, or a fault code and SUB. -/
inductive Place where
  | at (p : Phys)
  | fault (code sub : Nat)
  deriving DecidableEq, Repr

/-- The byte of a grant at offset o, through the owner's table (R261), with the owner's page. -/
def State.grantByte (s : State) (c g o : Nat) (write : Bool) : Except (Nat × Nat) (Nat × Pin) :=
  match (s.ctx c).grants.find g with
  | none => .error (17, 0)
  | some gr =>
    if gr.revoked then .error (18, 0)
    else if gr.pages * 65536 ≤ o || (write && !gr.wr) then .error (17, 0)
    else
      let va := BitVec.ofNat 64 (gr.base + o)
      match s.walk gr.owner va with
      | .fault code sub => .error (code, sub)
      | .leaf e _ bits =>
        let a := pteFrame e + va.toNat % 2 ^ bits
        let page : Pin := ⟨gr.owner, va.toNat - va.toNat % 2 ^ bits, bits, e, write⟩
        if pteTgt e = 1 then .ok (dramKey a, page)
        else if pteTgt e = 2 then
          match (s.ctx gr.owner).belfry a with
          | some p => .ok (belKey p, page)
          | none => .error (17, 0)
        else .error (17, 0)

/-- Translations cached at a Spire that cover an address of a context (R250). -/
def State.cached (s : State) (spire c : Nat) (va : Word) : Option Tlb :=
  (Store.get [] s.tlb spire).find? fun t => t.ctx = c && t.base = va.toNat / 2 ^ t.bits * 2 ^ t.bits

/-- The leaf that an access from a Spire uses: the cached one, or the walk's. -/
def State.leafFor (s : State) (spire c : Nat) (va : Word) : Walk :=
  match s.cached spire c va with
  | some t => .leaf t.leaf t.pte t.bits
  | none => s.walk c va

/-- One byte of global virtual memory: translation and the checks of R252, R261, R333 and R337. -/
def State.global (s : State) (spire c : Nat) (va : Word) (write fetch : Bool) : Place :=
  match s.leafFor spire c va with
  | .fault code sub => .fault code sub
  | .leaf e pte bits =>
    let off := va.toNat % 2 ^ bits
    let a := pteFrame e + off
    let t := pteTgt e
    let vbase := va.toNat - off
    if (write && !e.getLsbD 59) || (fetch && !e.getLsbD 58) then
      if t = 5 && (match (s.ctx c).grants.find (pteNum e) with | some g => g.revoked | none => false) then .fault 18 0
      else .fault 17 0
    else if t = 1 then .at ⟨dramKey a, 1, e, pte, vbase, bits, none, none, false, []⟩
    else if t = 2 then
      match (s.ctx c).belfry a with
      | some p => .at ⟨belKey p, 2, e, pte, vbase, bits, none, none, false, []⟩
      | none => .fault 17 0
    else if t = 3 then
      if s.linkDead hostLink then .fault 17 5
      else .at ⟨hostKey a, 3, e, pte, vbase, bits, some hostLink, none, e.getLsbD 40, []⟩
    else if t = 4 then
      if s.linkDead (pteNum e) then .fault 17 5
      else .at ⟨linkKey (pteNum e) a, 4, e, pte, vbase, bits, some (pteNum e), none, false, []⟩
    else match s.grantByte c (pteNum e) a write with
      | .ok k => .at ⟨k.1, 5, e, pte, vbase, bits, none, some (pteNum e), false, [k.2]⟩
      | .error (code, sub) => .fault code sub

/-- The n bytes at an address of a context that the device itself reads or writes; none where translation or access fails.
Spire 256 caches nothing. -/
def State.devicePlaces (s : State) (c : Nat) (va : Word) (write : Bool) : Nat → Option (List Phys)
  | 0 => some []
  | n + 1 => match s.global 256 c va write false with
    | .fault .. => none
    | .at p => (s.devicePlaces c (va + 1) write n).map (p :: ·)

/-- Group g. -/
def State.group (s : State) (g : Nat) : Option Group := s.groups.find g

/-- The hart in frame k. -/
def State.hart (s : State) (k : Nat) : Option Hart := s.harts.find k

/-- One byte of a space as a hart of group g on a Spire names it (Table 14.1). -/
def State.place (s : State) (g : Group) (spire sp : Nat) (a : Word) (write fetch : Bool) : Place :=
  let span (pos off : Nat) : Place :=
    if g.lspan ≤ off then .fault 19 0
    else .at ⟨lsKey (4 * g.quad + pos) (g.bases.getD pos 0 + off), 0, 0, 0, 0, 0, none, none, false, []⟩
  match sp with
  | 0 => s.global spire g.ctx a write fetch
  | 1 => span (spire % 4) a.toNat
  | 2 => if a.toNat / 2 ^ 22 ≠ 0 then .fault 17 0 else span (a.toNat / 2 ^ 20) (a.toNat % 2 ^ 20)
  | _ => match (s.ctx g.ctx).belfry a.toNat with
    | some p => .at ⟨belKey p, 2, 0, 0, 0, 0, none, none, false, []⟩
    | none => .fault 17 0

/-- The pins an access takes on a page, and on the owner's page of a grant; an access to another space than global memory
takes none (R254). -/
def Phys.pin (p : Phys) (c : Nat) (write : Bool) : List Pin :=
  if p.bits = 0 then [] else ⟨c, p.vbase, p.bits, p.leaf, write⟩ :: p.owner.map fun q => { q with write := write }

/-- The pins of an access, each once. -/
def pinsOf (c : Nat) (write : Bool) (ps : List Phys) : List Pin := (ps.flatMap fun p => p.pin c write).eraseDups

/-- A migration blocks new write pins on the page of an address (R257). -/
def State.writeBlocked (s : State) (c : Nat) (p : Phys) : Bool :=
  (p.pin c true).any fun q => s.blocked.any fun b => b.1 = q.ctx && b.2.1 = q.base

/-- The page of a pin holds an address. -/
def Pin.covers (p : Pin) (va : Word) : Bool := va.toNat / 2 ^ p.bits == p.base / 2 ^ p.bits

/-- Device writes of a table entry: its bits under a mask, with no tag and no pin. -/
def State.writeEntry (s : State) (pte : Nat) (mask val : Word) : State :=
  let old := BitVec.ofNat 64 (s.load (dramKey pte) 8)
  s.setBytes (dramKey pte) (bytesOf ((old &&& ~~~mask) ||| (val &&& mask)).toNat 8)

/-- WB, bit 60 of an entry (Table 17.2). -/
def wbBit : Word := BitVec.ofNat 64 (2 ^ 60)

/-- COUNT, bits [56:41] of an entry (Table 17.2). -/
def countField : Word := BitVec.ofNat 64 (0xFFFF * 2 ^ 41)

/-- A leaf whose accesses are counted (Table 17.2). -/
def countedLeaf (e : Word) : Bool := pteTgt e = 3 && e.getLsbD 40

/-- COUNT of the host leaf at pte: the device's copy, or the entry's field (R258). -/
def State.pageCount (s : State) (c pte : Nat) : Nat :=
  match (s.ctx c).counts.find pte with
  | some n => n
  | none => s.load (dramKey pte) 8 / 2 ^ 41 % 2 ^ 16

/-- The device's count of the entry at pte goes back to the table, while a counted leaf still stands there (R258). -/
def State.writeBack (s : State) (c pte : Nat) : State :=
  let s' := if countedLeaf (BitVec.ofNat 64 (s.load (dramKey pte) 8)) then
      s.writeEntry pte countField (BitVec.ofNat 64 (s.pageCount c pte * 2 ^ 41))
    else s
  s'.modCtx c fun x => { x with counts := Store.erase x.counts pte }

/-- A translation leaves a cache for want of room: its page's COUNT goes back to the table (R258). -/
def State.evict (s : State) (t : Tlb) : State := if countedLeaf t.leaf then s.writeBack t.ctx t.pte else s

/-- A place's translation is not among those of a cache, or it has none. -/
def missing (l : List Tlb) (c : Nat) (p : Phys) : Bool := p.bits != 0 && !l.any fun t => t.ctx = c && t.base = p.vbase

/-- The cached translation of a place. -/
def Phys.tlb (p : Phys) (c : Nat) : Tlb := ⟨c, p.vbase, p.bits, p.leaf, p.pte⟩

/-- Enters a translation in a Spire's cache, oldest leaving at 2 048 (R250; the order of leaving is log 8). -/
def State.cacheIn (s : State) (spire c : Nat) (p : Phys) : State :=
  let l := Store.get [] s.tlb spire
  if missing l c p then
    let l := p.tlb c :: l
    (l.drop 2048).foldl State.evict { s with tlb := Store.set [] s.tlb spire (l.take 2048) }
  else s

/-- Enters a translation in the matrix cache of a Spire, oldest leaving at 512 (R250). -/
def State.matrixIn (s : State) (spire c : Nat) (p : Phys) : State :=
  let l := Store.get [] s.mtlb spire
  if missing l c p then
    let l := p.tlb c :: l
    (l.drop 512).foldl State.evict { s with mtlb := Store.set [] s.mtlb spire (l.take 512) }
  else s

/-- Enters the translations of an access. -/
def State.cacheAll (s : State) (spire c : Nat) (ps : List Phys) : State := ps.foldl (fun s p => s.cacheIn spire c p) s

/-- Removes cached translations of a context, in every Spire and in the matrix caches (R255). -/
def State.uncache (s : State) (c : Nat) (drop : Tlb → Bool) : State :=
  let f (l : List Tlb) : List Tlb := l.filter fun t => !(t.ctx = c && drop t)
  { s with
    tlb := (s.tlb.map fun p => (p.1, f p.2)).filter fun p => !p.2.isEmpty
    mtlb := (s.mtlb.map fun p => (p.1, f p.2)).filter fun p => !p.2.isEmpty }

/-- The pins of an instruction in progress whose pages stay pinned until it completes (R254, R286). -/
def Pending.pins : Pending → List Pin
  | .ticket _ _ _ _ pins | .standSent _ _ pins | .remote _ _ _ pins => pins
  | _ => []

/-- The pins of a hart's instruction in progress and of its held stores. -/
def Hart.pins (h : Hart) : List Pin := (match h.pending with | some p => p.pins | none => []) ++ h.held.flatMap (·.pins)

/-- Some pin that is held satisfies p: an instruction's in progress, a held store's, a copy's, or a queued request's (R254). -/
def State.pinned (s : State) (p : Pin → Bool) : Bool :=
  s.harts.any (fun h => h.2.pins.any p) || s.copies.any (fun t => t.2.busy && t.2.pins.any p) || s.homeq.any fun q => q.pins.any p

/-- Units leave the buckets of ports, by their keys; an unlimited port charges none (R99). -/
def Ctx.spend (x : Ctx) (units : Nat → Nat) : Ctx :=
  { x with buckets := Store.mapVal (fun k b => if b.limit = 0 then b else { b with tokens := b.tokens - units k }) x.buckets }

/-- Key of a bucket: resource and instance, as ARG0 of LIMIT has them. -/
def bucketKey (rid inst : Nat) : Nat := 2 ^ 16 * rid + inst

/-- The bucket of requests over a link: resource 10, or 11 for the host link (R336, R337). -/
def linkPort (l : Nat) : Nat := if l = hostLink then bucketKey 11 0 else bucketKey 10 l

/-- One notification record of the device (R259): written to the ring, held while the host link trains (R337), or dropped and counted in
LOST. -/
def State.notify (s : State) (c : Nat) (first : Word) (cnt kind : Nat) : State :=
  let x := s.ctx c
  let r := x.nq
  let log2n := r.cfg.toNat / 2 ^ 16 % 16
  let lose (r : Ring) : Ring := { r with lost := min (r.lost + 1) 0xFFFF }
  if !r.cfg.getLsbD 0 || log2n < 4 || 12 < log2n || s.linkDead hostLink then s.setCtx c { x with nq := lose r }
  else if !s.linkUp hostLink then { s with notices := s.notices ++ [(c, first, cnt, kind)] }
  else if (r.wp - r.rp).toNat = 2 ^ log2n then s.setCtx c { x with nq := { lose r with ovf := true } }
  else
    let rec16 := bytesOf first.toNat 8 ++ bytesOf cnt 2 ++ [BitVec.ofNat 8 kind, 0] ++ bytesOf r.wp.toNat 4
    let s := s.hostWrite (r.base.toNat + 16 * (r.wp.toNat % 2 ^ log2n)) rec16
    s.setCtx c { x.spend (fun k => if k = linkPort hostLink then 1 else 0) with nq := { r with wp := r.wp + 1 } }

/-- Notification records that wait are tried again, in their order (R337). -/
def State.flushNotices (s : State) : State :=
  s.notices.foldl (fun s n => s.notify n.1 n.2.1 n.2.2.1 n.2.2.2) { s with notices := [] }

/-- One access performs on a counted host page (R258): COUNT rises, and a record is written when it reaches THR. -/
def State.countPage (s : State) (c pte vbase : Nat) : State :=
  let x := s.ctx c
  let n := min (s.pageCount c pte + 1) 0xFFFF
  let s := s.setCtx c { x with counts := Store.insert x.counts pte n }
  let thr := x.nq.thr.toNat % 2 ^ 16
  if n = thr && thr != 0 && !x.noted.contains pte then
    (s.modCtx c fun x => { x with noted := pte :: x.noted }).notify c (BitVec.ofNat 64 vbase) n 1
  else s

/-- Counts every counted page of an access once (R258). -/
def State.countAll (s : State) (c : Nat) (ps : List Phys) : State :=
  let ps := ps.filter (·.counted)
  (distinct (·.pte) ps).foldl (fun s pte => match ps.find? (·.pte == pte) with
    | some p => s.countPage c pte p.vbase
    | none => s) s

end Sys2Proof.Machine
end

