-- ==== Sys2Proof/Machine/Port.lean ====
section
/-! DEFINITION. Ports with bandwidth buckets: which ones an access passes, its charge, its wait for tokens, and the refill (R8, R12, R99, R102,
R336, R337). -/

namespace Sys2Proof.Machine

/-- Bucket of a context. -/
def Ctx.bucket (x : Ctx) (key : Nat) : Bucket := Store.get .zero x.buckets key

/-- The instances of a resource that carries a limit (Table 6.7). -/
def limitInstances : Nat → Nat
  | 5 => 4
  | 6 => 6
  | 10 => 64
  | 11 => 1
  | 12 => 1
  | _ => 0

/-- The die on which the byte at a key lies (R5 to R8); none behind a link. -/
def homeDie (k : Nat) : Option Nat :=
  if k < 2 ^ 39 then some (k / 2 ^ 37)
  else if 2 ^ 40 ≤ k && k < 2 ^ 41 then some ((k - 2 ^ 40) / 64 % 256 / 64)
  else if 2 ^ 41 ≤ k && k < 2 ^ 42 then some ((k - 2 ^ 41) / 2 ^ 26)
  else none

/-- The number of the die-bridge pair of two dies, in the order 0–1, 0–2, 0–3, 1–2, 1–3, 2–3 (R102). -/
def bridgePair (a b : Nat) : Nat := match min a b with
  | 0 => max a b - 1
  | 1 => max a b + 1
  | _ => 5

/-- The die that a link lies on: die l div 16, and die 0 for the host link (R5, spec/24). -/
def linkDie (l : Nat) : Nat := if l = hostLink then 0 else l / 16

/-- The bridge that a transfer between two dies crosses, none within one die (R12). -/
def bridgeOf (a b : Nat) : List Nat := if a = b then [] else [bucketKey 6 (bridgePair a b)]

/-- The ports with buckets that the transfer of one byte between a Spire and a key passes: the Belfry port of its bank's die, the bridge to the
die of its home or of its link (R5, R12), a link (R336, R337), and the shafts of other contexts, reached through a grant (log 69). -/
def portsOf (spire key : Nat) (link grant : Option Nat) : List Nat :=
  let belfry : List Nat := match homeDie key with
    | some d => if 2 ^ 40 ≤ key && key < 2 ^ 41 then [bucketKey 5 d] else []
    | none => []
  let bridge : List Nat := match link, homeDie key with
    | some l, _ => bridgeOf (spire / 64) (linkDie l)
    | none, some d => bridgeOf (spire / 64) d
    | none, none => []
  let out : List Nat := (link.map linkPort).toList
  let foreign : List Nat := if grant.isSome && isDram key then [bucketKey 12 0] else []
  belfry ++ bridge ++ out ++ foreign

/-- The ports of an access of a Spire, once for each byte. -/
def accessPorts (spire : Nat) (ps : List Phys) : List Nat := ps.flatMap fun p => portsOf spire p.key p.link p.grant

/-- The ports of links that places cross, once for each byte. -/
def linkPorts (ps : List Phys) : List Nat := ps.filterMap fun p => p.link.map linkPort

/-- The ports that the writes of a held or queued store pass, once for each byte. -/
def writePorts (spire : Nat) (link grant : Option Nat) (ws : List ByteWrite) : List Nat :=
  ws.flatMap fun w => portsOf spire w.key link grant

/-- A transfer through these ports waits for tokens (R99). -/
def Ctx.portWait (x : Ctx) (ports : List Nat) : Bool :=
  x.buckets.any fun b => b.2.limit != 0 && b.2.tokens < 1 && ports.contains b.1

/-- The charge of a transfer: ceil(n / 64) units at each port for the n bytes that pass it (R99). -/
def Ctx.charge (x : Ctx) (ports : List Nat) : Ctx := x.spend fun k => (ports.count k + 63) / 64

/-- A transfer of context c through these ports waits for tokens (R99). -/
def State.portWait (s : State) (c : Nat) (ports : List Nat) : Bool := (s.ctx c).portWait ports

/-- A transfer of context c through these ports is charged (R99). -/
def State.charge (s : State) (c : Nat) (ports : List Nat) : State :=
  if (s.ctx c).buckets.isEmpty then s else s.modCtx c fun x => x.charge ports

/-- An access of a Spire goes out: its translations are cached (R250), and its ports are charged (R99). -/
def State.access (s : State) (spire c : Nat) (ps : List Phys) : State := (s.cacheAll spire c ps).charge c (accessPorts spire ps)

/-- An access of the matrix arrays of a Spire goes out (R250, R99). -/
def State.matrixAccess (s : State) (spire c : Nat) (ps : List Phys) : State :=
  (ps.foldl (fun s p => s.matrixIn spire c p) s).charge c (accessPorts spire ps)

/-- One refill (R99): a new limit takes effect, and the tokens rise by it up to four times it; at the limit 0 a count below 0 stays. -/
def Bucket.refill (b : Bucket) : Bucket :=
  let l := b.pend.getD b.limit
  { limit := l, pend := none, tokens := min (b.tokens + l) (4 * l) }

/-- A bucket's limit changes at its next refill. -/
def Bucket.changes (b : Bucket) : Bool := match b.pend with
  | some l => l != b.limit
  | none => false

end Sys2Proof.Machine
end

