-- ==== Sys2Proof/Machine/Device.lean ====
section
/-! DEFINITION. Shared events of queues, kernels, groups, tasks, slots, seats and commands (spec/06 to 09, 18, 21, 28). -/

namespace Sys2Proof.Machine

/-- The device stores bytes to global virtual memory of a context: none where translation or access fails. What crosses a link joins the
requests of the links where that trains (R329, R337); 4096 stands for no hart. -/
def State.deviceStore (s : State) (c : Nat) (va : Word) (bs : List Byte) : Option State :=
  (s.devicePlaces c va true bs.length).map fun ps =>
    let ws (q : Phys → Bool) : List ByteWrite := ((ps.zip bs).filter fun x => q x.1).map fun x => ⟨x.1.key, 0xFF, x.2⟩
    let now (p : Phys) : Bool := match p.link with
      | some l => s.linkUp l
      | none => true
    let s' := s.perform .raw (ws now)
    (distinct id (ps.filterMap (·.link))).foldl (fun s l =>
      let w := ws fun p => p.link = some l && !now p
      if w.isEmpty then s else { s with homeq := s.homeq ++ [⟨4096, 0, false, c, some l, 0, 0, w, .raw, [], []⟩] }) s'

/-- The device stores bytes as a master of its own, and what crosses a link is charged (R336, R337). -/
def State.deviceWrite (s : State) (c : Nat) (va : Word) (bs : List Byte) : Option State :=
  (s.deviceStore c va bs).map fun t => t.charge c (linkPorts ((s.devicePlaces c va true bs.length).getD []))

/-- Applies f to group g. -/
def State.modGroup (s : State) (g : Nat) (f : Group → Group) : State := { s with groups := Store.modify s.groups g f }

/-- Applies f to kernel k. -/
def State.modKernel (s : State) (k : Nat) (f : Kernel → Kernel) : State := { s with kernels := Store.modify s.kernels k f }

/-- Writes the hart in frame k. -/
def State.setHart (s : State) (k : Nat) (h : Hart) : State := { s with harts := Store.insert s.harts k h }

/-- Applies f to the hart in frame k. -/
def State.modHart (s : State) (k : Nat) (f : Hart → Hart) : State := { s with harts := Store.modify s.harts k f }

/-- Queue q of context c. -/
def State.queue (s : State) (c q : Nat) : Queue := Store.get .zero (s.ctx c).queues q

/-- Writes queue q of context c. -/
def State.setQueue (s : State) (c q : Nat) (x : Queue) : State :=
  s.modCtx c fun y => { y with queues := Store.set .zero y.queues q x }

/-- Slots of a queue's ring. -/
def Queue.size (q : Queue) : Nat := 2 ^ (q.cfg.toNat / 2 ^ 16 % 16)

/-- Records produced and not taken (R106). -/
def Queue.count (q : Queue) : Nat := (q.wp - q.rp).toNat

/-- QCFG is one that ARM accepts (R105). -/
def Queue.cfgOk (q : Queue) : Bool := 4 ≤ q.cfg.toNat / 2 ^ 16 % 16 && q.base.toNat % 4096 = 0

/-- PRIO of QCFG (Table 7.2). -/
def Queue.prio (q : Queue) : Nat := q.cfg.toNat / 2 ^ 8 % 8

/-- The kernel of the last record taken from a queue is still WAITING. -/
def State.lastWaits (s : State) (q : Queue) : Bool := match q.last with
  | some k => (match s.kernels.find k with | some x => x.state == .waiting | none => false)
  | none => false

/-- The state that a queue goes to whose pending count was old, when that or its last kernel has changed (Table 7.6): a BLOCKED queue leaves
that state only as its kernel leaves WAITING, and a RUNNING one becomes ARMED only as its count reaches 0. -/
def State.queueGoes (s : State) (q : Queue) (old : Nat) : QState :=
  if q.state == .blocked then (if s.lastWaits q then .blocked else .running)
  else if q.count = 0 then (if q.state == .running && old = 0 then .running else .armed)
  else if s.lastWaits q then .blocked
  else .running

/-- A queue whose pending count was old, after a change of that or of its last kernel (R106, Table 7.6). -/
def State.queueStep (s : State) (c q old : Nat) : State :=
  let x := s.queue c q
  if x.state == .idle || x.state == .stopped then s
  else if x.size < x.count then s.setQueue c q { x with state := .stopped, err := 3 }
  else s.setQueue c q { x with state := s.queueGoes x old }

/-- QWP of queue q of context c becomes wp; a change is recorded (R112, Table 28.5). -/
def State.setQwp (s : State) (c q : Nat) (wp : BitVec 32) : State :=
  let x := s.queue c q
  let s := s.setQueue c q { x with wp := wp }
  if wp = x.wp then s else s.journalAdd ⟨3, c, q, 0, x.wp.setWidth 64, wp.setWidth 64⟩

/-- A write of QWP, by the host or by `launch`, with its journal entry (R106, R112). -/
def State.advanceQueue (s : State) (c q : Nat) (wp : BitVec 32) : State := (s.setQwp c q wp).queueStep c q (s.queue c q).count

/-- Every kernel that queue q of context c has taken is DONE or ABORTED. -/
def State.queueQuiet (s : State) (c q : Nat) : Bool :=
  s.kernels.all fun k => !(k.2.ctx = c && k.2.queue = q) || k.2.state == .done || k.2.state == .aborted

/-- CLEAR acts once every taken kernel has ended (Table 7.6). -/
def State.queueClear (s : State) (c q : Nat) : State :=
  let x := s.queue c q
  if x.clearing && x.state == .stopped && s.queueQuiet c q then
    (s.setQwp c q 0).setQueue c q { x with wp := 0, rp := 0, done := 0, state := .idle, clearing := false }
  else s

/-- A kernel ends (R113, R119, R120): state and status, journal entry, QDONE, and the queue's reaction. -/
def State.endKernel (s : State) (kid : Nat) (st : KernelState) (status : Nat) : State :=
  match s.kernels.find kid with
  | none => s
  | some k =>
    let s := s.modKernel kid fun k => { k with state := st, status := status }
    let s := s.journalAdd ⟨4, k.ctx, k.queue, BitVec.ofNat 32 status, k.cookie, BitVec.ofNat 64 k.record⟩
    let q := s.queue k.ctx k.queue
    let s := s.setQueue k.ctx k.queue { q with done := q.done + 1 }
    let q := s.queue k.ctx k.queue
    let s := if st == .aborted && q.cfg.getLsbD 0 && q.state != .idle && q.state != .stopped then
        s.setQueue k.ctx k.queue { q with state := .stopped, err := 4 }
      else s
    s.queueClear k.ctx k.queue

/-- Slot n of a Spire, by key. -/
def State.slot (s : State) (k : Nat) : Option Slot := s.slots.find k

/-- Applies f to a slot. -/
def State.modSlot (s : State) (k : Nat) (f : Slot → Slot) : State := { s with slots := Store.modify s.slots k f }

/-- A STANDING slot begins to close: the removal request goes out (Table 18.2). -/
def State.closeSlot (s : State) (k : Nat) (gone : Bool) : State :=
  match s.slot k with
  | some x =>
    if x.state == .standing then
      { s.modSlot k fun x => { x with state := .closing, gone := gone } with slotRequests := s.slotRequests ++ [(k, false)] }
    else s
  | none => s

/-- Keys of the slots that satisfy p. -/
def State.slotsWhere (s : State) (p : Slot → Bool) : List Nat := (s.slots.filter fun x => p x.2).map (·.1)

/-- The group's subscriptions close as `unstand` closes one (R119, R121). -/
def State.closeGroupSlots (s : State) (g : Nat) : State :=
  (s.slotsWhere fun x => x.gid = g).foldl (fun s k => s.closeSlot k false) s

/-- The slots and home entries of the groups that p accepts are removed, with what is on their paths (Table 18.2). -/
def State.dropSlots (s : State) (p : Nat → Bool) : State :=
  let keys := s.slotsWhere fun x => p x.gid
  { s with
    subs := s.subs.filter fun u => !p u.gid
    messages := s.messages.filter fun m => !keys.contains m.1
    slotRequests := s.slotRequests.filter fun m => !keys.contains m.1
    slots := s.slots.filter fun x => !p x.2.gid }

/-- The parked slots of group g become FREE: home entries and items go (Table 18.2). -/
def State.dropParked (s : State) (g : Nat) : State :=
  { s with
    subs := s.subs.filter fun u => !(u.gid == g && u.parked)
    slots := s.slots.filter fun x => !(x.2.gid == g && x.2.state == .parked) }

/-- The device closes the slots whose line meets p, marked GONE (R273). -/
def State.closeLines (s : State) (p : Slot → Bool) : State :=
  (s.slotsWhere fun x => x.state == .standing && p x).foldl (fun s k => s.closeSlot k true) s

/-- A queued trap of a task fault. -/
def Async.isTask (x : Async) : Bool := x.cause.code == 48

/-- Unfinished states of a task. -/
def TaskState.live : TaskState → Bool
  | .queued | .waiting | .running | .suspended => true
  | _ => false

/-- Applies f to the tasks of group g. -/
def State.mapTasks (s : State) (g : Nat) (f : Task → Task) : State :=
  s.modGroup g fun x => { x with tasks := x.tasks.map f }

/-- Aborts task n of group g with a code; its fault record leaves the queue (R310, R311). -/
def State.abortTask (s : State) (g : Nat) (n : BitVec 32) (code : Nat) : State :=
  s.modGroup g fun x => { x with
    tasks := x.tasks.map fun t => if t.num = n && t.state.live then { t with state := .aborted, code := code } else t
    faults := x.faults.filter fun f => f.task != n }

/-- QUEUED, WAITING and SUSPENDED tasks are abandoned with code 11 (Table 21.3). -/
def State.abandonTasks (s : State) (g : Nat) : State :=
  s.modGroup g fun x => { x with
    tasks := x.tasks.map fun t =>
      if t.state == .queued || t.state == .waiting || t.state == .suspended then { t with state := .aborted, code := 11 } else t
    faults := [] }

/-- The seat of a hart is free; issue passes to a partner (R125, R128). -/
def State.freeSeat (s : State) (k : Nat) : State := s.modHart k fun h => { h with seat := none }

/-- The vector state dies (R52): registers, tags, masks and bindings to stream buffers; vl, vspace, xidx and ftm become
0 (R47). -/
def Arch.killVector (a : Arch) (launchShape : Nat) : Arch :=
  { a with
    v := [], vtag := [], extent := [], m := []
    qb := a.qb.filter fun p => p.2.kind != 1
    vl := 0, vspace := 0, xidx := 0, ftm := 0, ftmVl := 0, shape := launchShape }

/-- A hart stops for good: open exits, held entries and work in progress are discarded (R120, R162). A store that it has sent over a link
performs all the same (log 81). -/
def Hart.stop (h : Hart) : Hart :=
  { h with halted := true, exits := [], held := [], faults := [], pending := none, landing := [], seat := none, async := [] }

/-- Some hart of group g has not halted. -/
def State.groupLive (s : State) (g : Nat) : Bool := s.harts.any fun h => h.2.gid = g && !h.2.halted

/-- Group g was aborted, so that its frames are freed when it is DONE (Table 9.2). -/
def State.abortedGroup (s : State) (g : Nat) : Bool := match s.group g with
  | some x => x.aborted
  | none => false

/-- Frames whose hart has halted and whose accesses have performed are freed (R162). -/
def State.reap (s : State) : State :=
  { s with harts := s.harts.filter fun h => !(h.2.halted && h.2.unacked.isEmpty && !s.abortedGroup h.2.gid) }

/-- What a group frees when it is DONE (Table 9.2): frames, barriers, tokens, its harts' counters at pipes, and its claim. -/
def State.freeGroup (s : State) (g : Nat) : State :=
  { s.modGroup g fun x => { x with state := .done, claim := false, barriers := [], tokens := [], image := none } with
    harts := s.harts.filter fun h => h.2.gid != g
    deficits := Store.drop s.deficits (512 * g) (512 * (g + 1)) }

/-- A parked group's image is discarded and the group is DONE (Table 9.2); its parked slots lose their home entries. -/
def State.discardParked (s : State) (g : Nat) : State :=
  match s.group g with
  | none => s
  | some x =>
    let s := s.dropSlots (· == g)
    let s := s.modCtx x.ctx fun c => { c with parked := c.parked.filter (· != g) }
    s.freeGroup g

/-- A wait that leaves the instruction unexecuted, so that a boundary stands before it (R257, R310, R342); a load that a failed link has cut
off takes its fault first (R335). -/
def Pending.boundary : Pending → Bool
  | .standSent .. | .ticket .. | .migrate .. | .invalidating _ | .fencing | .answered .. | .cut _ => false
  | _ => true

/-- The hart's instruction has begun what only its completion ends: a stop waits for it (R179, R257, R268). -/
def Hart.finishing (h : Hart) : Bool := match h.pending with
  | some p => !p.boundary
  | none => false

/-- A hart of an aborted kernel stops at its next instruction boundary: an instruction that a stop waits for completes first (R120, R179,
R268). -/
def Hart.abort (h : Hart) : Hart :=
  if h.finishing then { h with ending := true, stopped := true, exits := [], faults := [], held := [], async := [] } else h.stop

/-- The kernel's group g stops as R120 gives. -/
def State.abortGroup (s : State) (g : Nat) : State :=
  match s.group g with
  | none => s
  | some x =>
    match x.state with
    | .running =>
      let s := { s with harts := Store.mapVal (fun _ h => if h.gid = g then h.abort else h) s.harts }
      let s := s.abandonTasks g
      let s := (s.closeGroupSlots g).dropParked g
      s.modGroup g fun x => { x with state := .draining, aborted := true, wantPark := false, reserved := none }
    | .parked => s.discardParked g
    | _ => s.modGroup g fun x => { x with aborted := true }

/-- Groups of a kernel, by number. -/
def State.groupsOf (s : State) (kid : Nat) : List Nat := (s.groups.filter fun g => g.2.kernel = kid).map (·.1)

/-- The kernel is ABORTED at run time with a status (R120); a DRAINING kernel ends DONE instead. -/
def State.abortKernel (s : State) (kid status : Nat) : State :=
  match s.kernels.find kid with
  | none => s
  | some k =>
    if k.state == .placing || k.state == .running then
      let s := s.endKernel kid .aborted status
      (s.groupsOf kid).foldl (fun s g => s.abortGroup g) s
    else s

/-- An ending hart whose instruction has completed stops for good, and its group's subscriptions close (R120). -/
def State.endStop (s : State) (k : Nat) : State := match s.hart k with
  | some h => if h.ending && !h.finishing && !h.halted then (s.modHart k Hart.stop).closeGroupSlots h.gid else s
  | none => s

/-- The last hart of a running group has halted: its subscriptions close and it drains (Table 9.2). -/
def State.groupMaybeDrain (s : State) (g : Nat) : State :=
  match s.group g with
  | some x =>
    if x.state == .running && !s.groupLive g then (s.closeGroupSlots g).modGroup g fun x => { x with state := .draining } else s
  | none => s

/-- A wait condition on a counter (R116, R304): (t - v) mod 2^32 < 2^31. -/
def reached (t v : BitVec 32) : Bool := !(t - v).msb

/-- Token t of group g. -/
def Group.token (g : Group) (t : Nat) : BitVec 32 := Store.get 0 g.tokens t

/-- Kernel token t of context c (R115). -/
def Ctx.kt (x : Ctx) (t : Nat) : BitVec 32 := Store.get 0 x.ktok t

/-- A kernel that waits on a met condition enters PLACING and its queue resumes (R116). -/
def State.wakeKernels (s : State) (c : Nat) : State :=
  let met := s.kernels.filter fun k => k.2.ctx = c && k.2.state == .waiting && reached ((s.ctx c).kt k.2.wtok) k.2.wval
  met.foldl (fun s k => (s.modKernel k.1 fun k => { k with state := .placing }).queueStep c k.2.queue (s.queue c k.2.queue).count) s

/-- Writes kernel token t; WAITING kernels evaluate their conditions (R115, R116). -/
def State.setKtok (s : State) (c t : Nat) (v : BitVec 32) : State :=
  (s.modCtx c fun x => { x with ktok := Store.set 0 x.ktok t v }).wakeKernels c

/-- Writes token t of group g (R307). -/
def State.setToken (s : State) (g t : Nat) (v : BitVec 32) : State := s.modGroup g fun x => { x with tokens := Store.set 0 x.tokens t v }

/-- The group that holds the accumulator claim of a quad (R302). -/
def State.claimant (s : State) (quad : Nat) : Option Nat :=
  (s.groups.find? fun g => g.2.quad = quad && g.2.claim && g.2.state != .done && g.2.state != .parked).map (·.1)

/-- Group g takes the claim of its quad: every accumulator element becomes +0 and both levels 0 (R302). -/
def State.takeClaim (s : State) (g : Nat) : State :=
  match s.group g with
  | none => s
  | some x =>
    { s.modGroup g fun x => { x with claim := true } with
      acc := Store.drop s.acc (2 ^ 19 * x.quad) (2 ^ 19 * (x.quad + 1))
      accLevel := Store.drop s.accLevel (8 * x.quad) (8 * (x.quad + 1)) }

/-- A released claim passes to the group whose `task` began waiting earliest (R302). -/
def State.passClaim (s : State) (quad : Nat) : State :=
  if (s.claimant quad).isSome then s else
    let waiting := s.harts.filterMap fun h => match h.2.pending, s.group h.2.gid with
      | some (.claimWait t), some x => if x.quad = quad && !x.claim && x.state == .running && !x.wantPark then some (t, h.1, h.2.gid) else none
      | _, _ => none
    let best := waiting.foldl (fun (b : Option (Nat × Nat × Nat)) w => match b with
      | none => some w
      | some v => if w.1 < v.1 || (w.1 = v.1 && w.2.1 < v.2.1) then some w else b) none
    match best with
    | some w => s.takeClaim w.2.2
    | none => s

/-- STATUS of a management command (Table 6.2). -/
inductive CmdStatus where
  | ok | inval | state | nores | nospace | fault
  deriving DecidableEq, Repr

/-- The code of a STATUS (Table 6.2). -/
def CmdStatus.code : CmdStatus → Nat
  | .ok => 0 | .inval => 1 | .state => 2 | .nores => 3 | .nospace => 4 | .fault => 5

/-- Slots of the management ring. -/
def State.mqSize (s : State) : Nat := 2 ^ (s.mqCfg.toNat / 2 ^ 16 % 16)

/-- A command ends (R94, step 3): journal entry, STATUS into its slot, MQDONE, MSI-X. The slot lies where MQBASE and LOG2N put it now, which a
host that has set ENA to 0 may have changed since the take (log 47). -/
def State.endCmd (s : State) (n : Nat) (st : CmdStatus) : State :=
  match s.cmds.find n with
  | none => s
  | some c =>
    let s := s.journalAdd ⟨2, c.ctx, c.opc, BitVec.ofNat 32 st.code, c.seq.setWidth 64, 0⟩
    let s := s.hostWrite (s.mqBase.toNat + 64 * (c.slot % s.mqSize) + 56) (bytesOf st.code 4)
    { s with
      cmds := Store.erase s.cmds n
      mqDone := s.mqDone + 1
      msix := if s.mqCfg.getLsbD 1 then s.msix + 1 else s.msix }

/-- A group that holds frames and spans. -/
def GroupState.holds : GroupState → Bool
  | .forming | .running | .draining => true
  | _ => false

/-- A group whose tasks run: not one that is forming, parked or done (R313, Table 9.2). -/
def GroupState.works : GroupState → Bool
  | .running | .draining => true
  | _ => false

/-- Groups of context c on some quads that are RUNNING, FORMING or DRAINING, by number. -/
def State.groupsThere (s : State) (c : Nat) (qs : List Nat) (p : GroupState → Bool) : List Nat :=
  (s.groups.filter fun g => g.2.ctx = c && qs.contains g.2.quad && p g.2.state).map (·.1)

/-- The command in progress of context c ends. -/
def State.finishCmd (s : State) (c : Nat) (st : CmdStatus) : State := match (s.ctx c).cmd with
  | some n => (s.modCtx c fun x => { x with cmd := none }).endCmd n st
  | none => s

/-- No group of context c on the quads runs, forms or drains. -/
def State.quiet (s : State) (c : Nat) (qs : List Nat) : Bool := (s.groupsThere c qs GroupState.holds).isEmpty

/-- A PARK of context c completes once no group on its suspended quads runs (R344); when it leaves every quad suspended,
TSTOLEN begins to count (R362). -/
def State.parkSettle (s : State) (c : Nat) : State :=
  let x := s.ctx c
  match x.cmd.bind fun n => s.cmds.find n with
  | some m =>
    if m.opc = 0x0A && s.quiet c x.suspended then
      (s.modCtx c fun x => { x with fullPark := x.fullPark || x.quads.all x.suspended.contains }).finishCmd c .ok
    else s
  | none => s

/-- Copies of context r and held entries of its harts that go through grant g go on as accesses to a revoked page, even where a SHARE
replaces the grant before they perform (R100, R178, R236). -/
def State.revokeAccesses (s : State) (r g : Nat) : State :=
  let mine (gid : Nat) : Bool := match s.group gid with | some z => z.ctx = r | none => false
  let entry (e : Held) : Held := if e.grant = some g then { e with revoked := true } else e
  let run (x : Run) : Run := if x.grant = some g then { x with revoked := true } else x
  { s with
    harts := Store.mapVal (fun _ h => if mine h.gid then { h with held := h.held.map entry } else h) s.harts
    copies := Store.mapVal (fun _ t => if t.ctx = r then { t with src := t.src.map run, dst := t.dst.map run } else t) s.copies }

/-- The grant g of recipient r is revoked (R262): notification and CSTAT.REVK; its slots close with GONE (R273). -/
def State.revokeGrant (s : State) (r g : Nat) : State :=
  match (s.ctx r).grants.find g with
  | none => s
  | some x =>
    if x.revoked then s else
      let s := s.modCtx r fun c => { c with grants := Store.insert c.grants g { x with revoked := true }, revk := true }
      ((s.revokeAccesses r g).notify r (BitVec.ofNat 64 g) 0 2).closeLines fun y =>
        y.grant = some g && (match s.group y.gid with | some z => z.ctx = r | none => false)

/-- Entering DRAINING revokes what the context shared and what was shared into it (R100). -/
def State.revokeShares (s : State) (c : Nat) : State :=
  let s := (s.ctx c).grants.foldl (fun s g => s.revokeGrant c g.1) s
  s.ctxs.foldl (fun s x => x.2.grants.foldl (fun s g => if g.2.owner = c then s.revokeGrant x.1 g.1 else s) s) s

/-- All work of context c is discarded (R96, R100, R109, R113, R121, R350). -/
def State.discardWork (s : State) (c : Nat) : State :=
  let mine (g : Nat) : Bool := match s.group g with | some x => x.ctx = c | none => false
  let s' := s.dropSlots mine
  { s'.modCtx c fun x => { x with parked := [], suspended := [], leaving := [] } with
    harts := s.harts.filter fun h => !mine h.2.gid
    traces := s.traces.filter fun t => t.1 != c
    pipeWork := s.pipeWork.filter fun w => w.ctx != c
    pipeBusy := s.pipeBusy.filter fun w => w.ctx != c
    notices := s.notices.filter fun t => t.1 != c
    groups := s.groups.filter fun g => g.2.ctx != c
    kernels := s.kernels.filter fun k => k.2.ctx != c
    streams := s.streams.filter fun x => !mine x.2.gid
    copies := s.copies.filter fun x => !mine x.2.gid
    homeq := s.homeq.filter fun q => q.ctx != c
    blocked := s.blocked.filter fun b => b.1 != c }

end Sys2Proof.Machine
end

