-- ==== Sys2Proof/Machine/Ops.lean ====
section
/-! DEFINITION. The named operations of a hart: registers, the hardware loop, taking an exception and returning from one,
the checks at issue in the order of R90, and the completion of an instruction. -/

namespace Sys2Proof.Machine

/-- Scalar register r; s0 reads as zero (R35). -/
def Arch.reg (a : Arch) (r : Reg) : Word := if r = 0 then 0 else Store.get 0 a.s r.toNat

/-- Writes scalar register r; a write to s0 is discarded (R35). -/
def Arch.setReg (a : Arch) (r : Reg) (v : Word) : Arch := if r = 0 then a else { a with s := Store.set 0 a.s r.toNat v }

/-- Mask n as a number; m0 reads as all ones below w bits (R41). -/
def Arch.mask (a : Arch) (w n : Nat) : Nat := if n = 0 then 2 ^ w - 1 else Store.get 0 a.m n

/-- Writes mask n (never m0). -/
def Arch.setMask (a : Arch) (n v : Nat) : Arch := { a with m := Store.set 0 a.m n v }

/-- Adds flags to FFLAGS (R64). -/
def Arch.addFlags (a : Arch) (f : Flags) : Arch := { a with fflags := a.fflags ||| f.setWidth 32 }

/-- Applies f to the program-visible state. -/
def Hart.mapArch (h : Hart) (f : Arch → Arch) : Hart := { h with arch := f h.arch }

/-- Scalar register r of a hart. -/
def Hart.reg (h : Hart) (r : Reg) : Word := h.arch.reg r

/-- Writes scalar register r of a hart. -/
def Hart.setReg (h : Hart) (r : Reg) (v : Word) : Hart := h.mapArch fun a => a.setReg r v

/-- The seat count S of a group's kernel (R36). -/
def Group.seats (g : Group) : Nat := if g.pair then 2 else 1

/-- Bytes of a vector register of a group's hart at shape n (R36). -/
def Group.regBytes (g : Group) (n : Nat) : Nat := 262144 / (32 / g.lanes * g.seats) / n

/-- Register bytes of a hart (R36). -/
def State.regBytes (s : State) (h : Hart) : Nat := match s.group h.gid with
  | some g => g.regBytes h.arch.shape
  | none => 0

/-- Bit i of a number. -/
def bitOf (m i : Nat) : Bool := m / 2 ^ i % 2 == 1

/-- Loop n, 0 or 1. -/
def Arch.loop (a : Arch) (n : Bool) : Loop := if n then a.lc1 else a.lc0

/-- Writes loop n. -/
def Arch.setLoop (a : Arch) (n : Bool) (l : Loop) : Arch := if n then { a with lc1 := l } else { a with lc0 := l }

/-- One iteration test of loop n at its end (R149): the state, and whether the loop goes back. -/
def Arch.testLoop (a : Arch) (n : Bool) : Arch × Bool :=
  let l := a.loop n
  if l.count.toNat ≤ 1 then ({ a.setLoop n { l with count := 0, active := false } with pc := l.stop }, false)
  else ({ a.setLoop n { l with count := l.count - 1 } with pc := l.start }, true)

/-- Loop 1 is tested before loop 0 when both end at one address (R149). -/
def Arch.loop1First (a : Arch) : Bool :=
  a.lc0.start.toNat < a.lc1.start.toNat || (a.lc0.start = a.lc1.start && a.lc0.armseq < a.lc1.armseq)

/-- An instruction retires with next sequential pc t: the iteration tests of R149. -/
def Arch.retire (a : Arch) (t : Word) : Arch :=
  let a := { a with pc := t }
  let on (n : Bool) : Bool := (a.loop n).active && (a.loop n).stop = t
  if on true && on false then
    let first := a.loop1First
    let r := a.testLoop first
    if r.2 then r.1 else (r.1.testLoop (!first)).1
  else if on true then (a.testLoop true).1
  else if on false then (a.testLoop false).1
  else a

/-- A taken transfer of control to t; a loop whose end is t is left (R150). -/
def Arch.transfer (a : Arch) (t : Word) : Arch :=
  let off (l : Loop) : Loop := if l.active && l.stop = t then { l with active := false } else l
  { a with pc := t, lc0 := off a.lc0, lc1 := off a.lc1 }

/-- A cause without a fault address. -/
def Cause.plain (code idx : Nat) : Cause := ⟨code, 0, false, false, idx, 0⟩

/-- TCAUSE of a cause (Table 25.2). -/
def Cause.word (c : Cause) (deferred : Bool) : BitVec 32 :=
  BitVec.ofNat 32 (c.code + 256 * c.fetch.toNat + 512 * c.write.toNat + 1024 * deferred.toNat + 4096 * c.sub)

/-- TAKING AN EXCEPTION (R341, R342): the record of a trap of hart k and the move to the handler. tspc is the pc of the
instruction that caused it; a synchronous trap has deferred = false. -/
def Arch.enter (a : Arch) (x : Ctx) (k : Nat) (c : Cause) (syl : Syl) (deferred : Bool) (tspc : Word) : Arch :=
  { a with
    tcause := c.word deferred
    tepc := a.pc
    tspc := tspc
    taddr := c.addr
    tidx := BitVec.ofNat 32 c.idx
    ttag := syl
    tsave := x.tsaveBase + BitVec.ofNat 64 (512 * k)
    level := .context
    pc := x.tvec &&& ~~~3 }

/-- THE RETURN FROM AN EXCEPTION (R161, R343): eret 0 to tepc; eret 1 past the recorded instruction, with the iteration
test, or to tepc when the trap was asynchronous. -/
def Arch.leave (a : Arch) (after : Bool) : Arch :=
  let a := { a with level := .user }
  if after && !a.tcause.getLsbD 10 then a.retire (a.tepc + (if a.ttag.extractLsb' 30 2 = 2 then 8 else 4))
  else { a with pc := a.tepc }

/-- No handler takes a trap of this hart (R341). -/
def noHandler (a : Arch) (x : Ctx) : Bool := a.level == .context || x.tvec &&& ~~~3 = 0

/-- The context of a hart. -/
def State.ctxOf (s : State) (h : Hart) : Nat := match s.group h.gid with
  | some g => g.ctx
  | none => 0

/-- The hart ends by abort and its kernel becomes ABORTED (R338, R120). -/
def State.abortHart (s : State) (k : Nat) : State :=
  match s.hart k with
  | none => s
  | some h =>
    let s := s.modHart k Hart.stop
    match s.group h.gid with
    | some g => (s.abortKernel g.kernel 9).reap
    | none => s.reap

/-- A step that was asked for is done: the hart halts for its debugger, once its exits have resolved and its held stores drained (R180,
R355). -/
def Hart.stepDone (h : Hart) : Hart :=
  if !h.dbg.stepping then h
  else if h.exits.isEmpty && h.held.isEmpty then { h with dbg := { h.dbg with stepping := false, halted := true, why := 3 } }
  else { h with dbg := { h.dbg with want := true } }

/-- The point that hart h has reached, at DICNT n. -/
def Hart.point (h : Hart) (n : Nat) : Point := ⟨h.dbg.hist.length, n, h.arch, h.convoy, h.seat, h.hstall, h.hannul, h.hbeat⟩

/-- A recording keeps the point that hart h has reached (R358, R359). -/
def Hart.keep (h : Hart) : Hart :=
  if h.dbg.recording && !h.dbg.hist.isEmpty then { h with dbg := { h.dbg with hist := h.point h.dbg.icnt :: h.dbg.hist } } else h

/-- n instructions of hart h have retired: DICNT counts them since the checkpoint, and a recording keeps the point (R354, R358). -/
def Hart.record (h : Hart) (n : Nat) : Hart :=
  if n = 0 || h.dbg.hist.isEmpty then h else Hart.keep { h with dbg := { h.dbg with icnt := h.dbg.icnt + n } }

/-- Takes a trap of hart k, whose state is h (R341, R342). A trap in the wait of a `bar.aw` drops its token, and the instruction is examined
from the top when the handler returns to it (log 75). -/
def State.enterTrap (s : State) (k : Nat) (h : Hart) (c : Cause) (syl : Syl) (deferred : Bool) (tspc : Word) : State :=
  let x := s.ctx (s.ctxOf h)
  if noHandler h.arch x then (s.setHart k h).abortHart k
  else s.setHart k (Hart.stepDone <| Hart.keep { h with
    arch := h.arch.enter x k c syl deferred tspc
    exits := [], faults := [], pending := none, stalled := false, memStall := false, awaited := [], convoy := 0 })

/-- A synchronous cause of instruction i: taken, or recorded while the instruction is speculative (R175, R341). -/
def State.trap (s : State) (k : Nat) (h : Hart) (i : Instr) (c : Cause) : State :=
  if h.exits.isEmpty then s.enterTrap k h c i.firstSyllable false h.arch.pc
  else s.setHart k { h with faults := h.faults ++ [⟨h.seq, h.dbg.icnt, h.arch, true⟩], stalled := true, memStall := false, awaited := [] }

/-- What the checks at issue say. -/
inductive Gate where
  | idle
  | stall (mem : Bool)
  | trap (c : Cause)
  | go
  deriving DecidableEq, Repr

/-- The youngest open exit. -/
def Hart.youngest (h : Hart) : Option Exit := h.exits.getLast?

/-- Vector registers that instruction i must copy for the youngest open exit (R173). -/
def Hart.toCopy (h : Hart) (i : Instr) : List Nat := match h.youngest with
  | some e => i.vdests.filter fun r => !e.copied.contains r
  | none => []

/-- Copy slots in use (R173). -/
def Hart.copies (h : Hart) : Nat := (h.exits.map fun e => e.copied.length).sum

/-- The hart can issue at all: it runs, and neither a pre-emption nor its debugger stops it. -/
def Hart.live (h : Hart) : Bool := !h.halted && !h.dbg.halted && (h.finishing || (!h.stopped && !h.dbg.want))

/-- `setc` of VSPACE with SP from 4 to 7: an illegal instruction (Table 3.7). -/
def Hart.reservedSpace (h : Hart) : Instr → Bool
  | .setc a bank idx => bank == 0 && idx == 1 && (h.reg a).getLsbD 2
  | _ => false

/-- Instruction i reads or writes FFLAGS as `getc` and `setc` do (R49). -/
def Instr.namesFlags : Instr → Bool
  | .getc _ bank idx | .setc _ bank idx => bank == 0 && idx == 7
  | _ => false

/-- Instruction i reads vl or FTM, which a `vld.ff` still produces until its data have landed (R49, R140). -/
def Instr.readsLength : Instr → Bool
  | .getc _ bank idx => bank == 0 && (idx == 0 || idx == 6)
  | .bany .. | .bnone .. => true
  | .setc .. | .vacq .. | .vrel .. | .vshape .. | .vtype .. | .vstrip .. | .mfmt .. => false
  | i => i.needsLanes

/-- What instruction i needs of the loads whose data have not landed in an earlier clock: its vector registers, vl or FTM, the flags they set
(R49, R50, R140). -/
def Hart.dataFor (h : Hart) (i : Instr) : List Nat :=
  (h.landed ++ h.landing.flatten).filter fun r =>
    i.vregs.contains r || Instr.namesFlags i || (r == 64 && Instr.readsLength i)

/-- What a stall of instruction i on data waits for (R50): an element of a stream, every load before `vshape` and `vrel`, or its operands. -/
def Hart.awaits (h : Hart) (i : Instr) : List Nat := match i with
  | .vldStream f => [128 + f.sbn.toNat]
  | .vshape .. | .vrel .. => h.landing.flatten
  | _ => h.dataFor i

/-- The checks that come before an instruction's own, in the order of R90: held stores drain first, waits at issue
(R172), illegal, privileged, no lanes, register outside shape, the horizon (R171), data that have not landed in an earlier clock
(R50, R140). -/
def Hart.gate (h : Hart) (i : Instr) : Gate :=
  if !h.live then .idle
  else if h.exits.isEmpty && !h.held.isEmpty then .stall false
  else if h.faults.any (·.stops) then .stall false
  else if i.waitsAtIssue && !h.exits.isEmpty then .stall false
  else if !i.wellFormed || h.reservedSpace i then .trap (.plain 1 0)
  else if i.privileged && h.arch.level == .user then .trap (.plain 2 0)
  else if i.needsLanes && h.seat.isNone then .trap (.plain 3 0)
  else if i.vregs.any fun r => h.arch.shape ≤ r then .trap (.plain 4 0)
  else if !h.exits.isEmpty && h.arch.shape / 4 < h.copies + (h.toCopy i).length then .stall false
  else if !(h.dataFor i).isEmpty then .stall true
  else .go

/-- What a meaning does once it issues. -/
inductive Result where
  /-- The instruction has its effect; pc advances. -/
  | done (s : State) (h : Hart)
  /-- The instruction has its effect and transfers control. -/
  | jump (s : State) (h : Hart) (t : Word)
  /-- A precise trap; nothing has changed. -/
  | trap (c : Cause)
  /-- A speculative load or store met a fault that is suppressed (R175); it completes with the effect given. -/
  | soft (s : State) (h : Hart)
  /-- The instruction waits; only what the wait itself changes has changed. -/
  | stall (s : State) (h : Hart) (mem : Bool)
  /-- The meaning has written the hart itself. -/
  | left (s : State)

/-- The tag of vector register r. -/
def Arch.tagOf (a : Arch) (r : Nat) : Tag := (Store.get .zero a.vtag r).tag

/-- DOM of vector register r. -/
def Arch.domOf (a : Arch) (r : Nat) : Nat := (Store.get .zero a.vtag r).dom.toNat

/-- The tag field's result tag for destination vd (R188). -/
def Arch.result (a : Arch) (field : BitVec 4) (vd : Reg) : Tag := (Tag.ofCode field.toNat).getD (a.tagOf vd.toNat)

/-- When a two- or three-operand instruction keeps the domain (Table 13.1). -/
inductive Keeps where
  | never | vectorPair | scalarForm | scalarThird | unary
  deriving DecidableEq, Repr

/-- The condition of Table 13.1 on the operands' levels and on the result tag. -/
def Keeps.holds (k : Keeps) (a : Arch) (f : VA) (td : Tag) : Bool :=
  let l := a.domOf f.va.toNat
  l != 0 && td.carries && match k with
    | .never => false
    | .vectorPair => !f.scalar && a.domOf f.vb.toNat == l
    | .scalarForm => f.scalar
    | .scalarThird => f.scalar && a.domOf f.vc.toNat == l
    | .unary => true

/-- The operand registers that instruction i reads through their reconstruction (R190, Table 13.1): not those of an instruction
that keeps the domain, of `vxtr`, of a window, nor the data of a store. -/
def Arch.rebuilt (a : Arch) (i : Instr) : List Nat :=
  let fails (k : Keeps) (f : VA) : List Nat := if k.holds a f (a.result f.tag f.vd) then [] else i.vsrcs
  let olds (f : VA) : List Nat := if f.var.getLsbD 1 then i.vsrcs else i.vsrcs ++ [f.vd.toNat, f.vd.toNat + 1]
  let rs := match i with
    | .vadd f | .vsub f => fails .vectorPair f
    | .vmul f => fails .scalarForm f
    | .vfma f | .vfms f => fails .scalarThird f
    | .vneg f => fails .unary f
    | .vmov _ | .vxtr _ | .vldsr _ | .vst _ | .vsts _ | .vstSc _ | .vstseg _ => []
    | .vstx f => [f.f3.toNat]
    | .vdot2 f => f.vd.toNat :: i.vsrcs
    | .vsmxAcc f | .vtopkIns f => olds f
    | _ => i.vsrcs
  rs.filter fun r => a.domOf r != 0

/-- VLMAX of tag t, or vl where that is less (R36). -/
def Arch.upTo (a : Arch) (rb : Nat) (t : Tag) : Nat := min a.vl.toNat (rb / t.bytes)

/-- The elements that the reconstruction of operand r covers for instruction i, which leaves its hart at a' (R186, R200, R206, R215,
R216, R317). -/
def Arch.covered (a a' : Arch) (rb : Nat) (i : Instr) (r : Nat) : Nat :=
  let all := (i.vsrcs.map (a.tagOf ·) ++ i.vdests.map (a'.tagOf ·)).foldl (fun n t => min n (a.upTo rb t)) a.vl.toNat
  match i with
  | .vrsum f | .vrmax f | .vrmin f | .vrand f | .vrior f | .vrxor f | .vsmxAcc f | .vsamp f => a.upTo rb (a.tagOf f.va.toNat)
  | .vscan f => min (a.upTo rb (a.tagOf f.va.toNat)) (a.upTo rb (a'.tagOf f.vd.toNat))
  | .vdot2 f => if r = f.vd.toNat then a.upTo rb .i32 else 2 * a.upTo rb .i32
  | .vtopkIns f => if r = f.va.toNat then a.upTo rb (a.tagOf r) else f.vc.toNat + 1
  | .vtopkMrg f => f.vc.toNat + 1
  | .vsmxFin f => min (a.upTo rb (a.tagOf f.va.toNat)) (a.upTo rb (a'.tagOf f.vd.toNat))
  | _ => all

/-- Element-beats of the reconstruction of n elements of e bits at a level: the level times ceil(n × e / (64 × w)) × w (R325). -/
def passBeats (lanes level n e : Nat) : Nat := level * ((n * e + 64 * lanes - 1) / (64 * lanes) * lanes)

/-- Element-beats that reconstruction adds, for each operand over the elements that it covers (R325). -/
def Arch.rebuildBeats (a a' : Arch) (lanes rb : Nat) (i : Instr) : Nat :=
  if lanes = 0 then 0 else ((a.rebuilt i).map fun r => passBeats lanes (a.domOf r) (a.covered a' rb i r) (a.tagOf r).bits).sum

/-- Bits of the element that an instruction is charged by: the widest tag among its operands as it reads them and its
destinations as it leaves them, 8 without one (R129, log 12). -/
def beatBits (a₀ a : Arch) (i : Instr) : Nat :=
  (i.vsrcs.map (a₀.tagOf ·) ++ i.vdests.map (a.tagOf ·)).foldl (fun m t => max m t.bits) 8

/-- Element-beats charged for instruction i, which ran from a₀ to a (R129). A vector instruction has lane need L in Table 5.23. -/
def beats (a₀ a : Arch) (lanes : Nat) (i : Instr) : Nat :=
  match i with
  | .ldb .. | .ldbu .. | .ldh .. | .ldhu .. | .ldw .. | .ldwu .. | .ldd .. | .stb .. | .sth .. | .stw .. | .std .. | .aadd ..
  | .aswp .. | .acas .. | .amax .. | .amin .. | .aaddBel .. | .aswpBel .. | .acasBel .. | .amaxBel .. | .aminBel ..
  | .stream .. | .copy .. | .stand .. | .unstand .. | .bop .. => 1
  | .setc .. => 0
  | _ => if i.needsLanes && lanes != 0 then (a₀.vl.toNat * beatBits a₀ a i + 64 * lanes - 1) / (64 * lanes) * lanes else 0

/-- Lane width of a hart. -/
def State.lanesOf (s : State) (h : Hart) : Nat := match s.group h.gid with
  | some g => g.lanes
  | none => 0

/-- The retirement of i: hinst counts it, but for a convoy header (R87, R181). -/
def retired (i : Instr) : Nat := match i with
  | .convoy .. => 0
  | _ => 1

/-- The pipe that carries instruction i (Tables 27.4, 5.25): 0 lanes, 1 load, 2 store, 3 special functions, 4 Belfry port, 5 DAU, 6 copy
engine. -/
def Instr.pipe (i : Instr) : Option Nat := match i with
  | .ldb .. | .ldbu .. | .ldh .. | .ldhu .. | .ldw .. | .ldwu .. | .ldd .. | .stand .. => some 1
  | .stb .. | .sth .. | .stw .. | .std .. | .aadd .. | .aswp .. | .acas .. | .amax .. | .amin .. | .unstand .. => some 2
  | .aaddBel .. | .aswpBel .. | .acasBel .. | .amaxBel .. | .aminBel .. | .bop .. => some 4
  | .stream .. => some 5
  | .copy .. => some 6
  | _ =>
    let u := i.unit
    if u = 0 then none else if u = 5 then some 1 else if u = 6 then some 2 else if u = 4 then some 3 else some 0

/-- Gives a pipe of a Spire work for the hart in frame f with index idx of group gid (R129, R130). -/
def State.giveWork (s : State) (c gid idx spire f pipe cost unit item : Nat) : State :=
  { s with pipeWork := s.pipeWork ++ [⟨c, gid, idx, spire, pipe, f, cost, unit, item⟩] }

/-- What the trace TAG of the work of instruction i, at pc, is made of (Table 27.4). -/
def workTag (i : Instr) (pc : Word) : Nat × Nat := match i with
  | .stream n .. => (n.toNat, 0)
  | .copy n .. => (n.toNat, 0)
  | _ => (0, pc.toNat % 2 ^ 32)

/-- The work that instruction i, at pc, gives its pipe (R129, R130). -/
def State.pipeFor (s : State) (k : Nat) (h : Hart) (i : Instr) (pc : Word) (cost : Nat) : State := match Instr.pipe i with
  | some p => s.giveWork (s.ctxOf h) h.gid h.idx (spireOf k) (k % 16) p cost (workTag i pc).1 (workTag i pc).2
  | none => s

/-- What a recording hart logs of instruction i (R358): the sort of the value, and its bytes: a scalar result, or the first vl
elements of each register that i writes (log 50). -/
def Arch.logged (a : Arch) (i : Instr) : Option (Nat × List Byte) :=
  let word (n : Nat) (d : Reg) : Option (Nat × List Byte) := some (n, bytesOf (a.reg d).toNat 8)
  let elems (n : Nat) : Option (Nat × List Byte) :=
    some (n, i.vdests.flatMap fun r => bytesOf (Store.get 0 a.v r) (a.vl.toNat * (a.tagOf r).bytes))
  match i with
  | .ldb d .. | .ldbu d .. | .ldh d .. | .ldhu d .. | .ldw d .. | .ldwu d .. | .ldd d .. => word 0 d
  | .vld _ | .vlds _ | .vldseg _ | .vldx _ | .vldFf _ | .vldSc _ | .vldsr _ => elems 0
  | .vldStream _ => elems 1
  | .axt _ => elems 2
  | .vcfq _ => elems 3
  | .qrd d _ => word 4 d
  | .aadd d .. | .aswp d .. | .acas d .. | .amax d .. | .amin d .. | .aaddBel d .. | .aswpBel d .. | .acasBel d .. | .amaxBel d ..
  | .aminBel d .. => word 5 d
  | .bop d _ _ _ _ _ v _ => if v then none else word 6 d
  | .stand d .. => word 7 d
  | .task d .. => word 8 d
  | .launch d .. => word 9 d
  | .tflt d .. | .tfltSet d .. => word 10 d
  | .tprog d .. => word 11 d
  | .cptest d .. => word 12 d
  | .getc d bank idx => if bank = 0 && ((0x10 ≤ idx.toNat && idx.toNat ≤ 0x14) || idx = 0x18) then word 13 d else none
  | _ => none

/-- Hart k's debug log takes bytes, which are charged to its context (R99, R358; log 69). -/
def State.logWrite (s : State) (k c : Nat) (va : Word) (bs : List Byte) : Option State :=
  (s.deviceStore c va bs).map fun t => t.charge c (accessPorts (spireOf k) ((s.devicePlaces c va true bs.length).getD []))

/-- A record enters the log of a recording hart: header and payload, or the end of recording where it would pass the log's end
or its bytes cannot be written (R358, log 50). -/
def State.logValue (s : State) (k : Nat) (h : Hart) (sort : Nat) (bs : List Byte) : State × Hart :=
  let d := h.dbg
  let header := d.icnt % 2 ^ 32 * 2 ^ 32 + bs.length % 2 ^ 16 * 2 ^ 16 + (Config.logKind sort).toNat
  let r := bytesOf header 8 ++ bs ++ List.replicate ((8 - bs.length % 8) % 8) 0
  let full : State × Hart := (s, { h with dbg := { d with recording := false, logFull := true } })
  if d.logEnd.toNat < d.logPos.toNat + r.length then full
  else match s.logWrite k (s.ctxOf h) d.logPos r with
    | none => full
    | some s' => (s', { h with dbg := { d with logPos := d.logPos + BitVec.ofNat 64 r.length } })

/-- Logs what hart k, in state h, whose program's state after instruction i is a, took from outside (R358). -/
def State.logStep (s : State) (k : Nat) (h : Hart) (a : Arch) (i : Instr) : State × Hart :=
  if h.dbg.recording then match a.logged i with
    | some (n, bs) => s.logValue k h n bs
    | none => (s, h)
  else (s, h)

/-- Completes instruction i of hart k, whose state after its effect is h and was a₀ before it. It counts in hinst after its effect, a `setc`
of hinst too (log 83). -/
def State.complete (s : State) (k : Nat) (i : Instr) (a₀ : Arch) (h : Hart) (target : Option Word) : State :=
  let a := match target with
    | none => h.arch.retire (h.arch.pc + BitVec.ofNat 64 i.size)
    | some t => h.arch.transfer t
  let a := { a with hinst := a.hinst + BitVec.ofNat 64 (retired i) }
  let copy := h.toCopy i
  let exits := h.exits.dropLast ++ (h.exits.getLast?.map fun e => { e with copied := e.copied ++ copy }).toList
  let convoy := match i with
    | .convoy .. => h.convoy
    | _ => h.convoy - 1
  let r := s.logStep k h h.arch i
  let cost := beats a₀ a (s.lanesOf h) i + a₀.rebuildBeats a (s.lanesOf h) (s.regBytes { h with arch := a₀ }) i
  let h' := Hart.record { h with
    arch := a
    exits := exits
    seq := h.seq + 1
    pending := none
    stalled := false
    memStall := false
    awaited := []
    convoy := convoy
    hbeat := h.hbeat + BitVec.ofNat 64 cost
    dbg := r.2.dbg } (retired i)
  (r.1.pipeFor k h i a₀.pc cost).setHart k (if convoy = 0 then h'.stepDone else h')

/-- The hart's partner on its partition, if one is seated (R128). -/
def State.partner (s : State) (k : Nat) (h : Hart) : Option (Nat × Hart) :=
  match h.seat with
  | none => none
  | some (p, _) => s.harts.find? fun x =>
      x.1 != k && spireOf x.1 = spireOf k && (match x.2.seat with | some (q, _) => q = p | none => false)

/-- A partition's key. -/
def partKey (k p : Nat) : Nat := 8 * spireOf k + p

/-- A switch point of hart k: issue passes to its partner, whose next try shows whether it is ready; a partner that stalls does not
hold issue (R128, R131). -/
def State.pairSwitch (s : State) (k : Nat) : State :=
  match s.hart k with
  | none => s
  | some h => match h.seat, s.partner k h with
    | some (p, _), some (j, x) =>
      if x.live && h.convoy = 0 then
        { s.modHart j fun y => { y with stalled := false } with issuing := Store.set 0 s.issuing (partKey k p) (j + 1) }
      else s
    | _, _ => s

/-- A stall on instruction i is a switch point (R128). -/
def Instr.switches : Instr → Bool
  | .qrd .. | .wait .. | .cpwait .. | .twait .. | .barWt .. | .barAw .. => true
  | _ => false

/-- Hart k, whose state is h, stalls on instruction i: what it waits for, where that is data, and issue passes on at a switch point (R50,
R128, R131). -/
def State.stallOn (s : State) (k : Nat) (h : Hart) (i : Instr) (mem : Bool) (awaited : List Nat) : State :=
  let t := s.setHart k { h with stalled := true, memStall := mem, awaited := if mem then awaited else [] }
  if Instr.switches i then t.pairSwitch k else t

/-- What a meaning's result makes of the state. -/
def State.settle (s : State) (k : Nat) (h : Hart) (i : Instr) : Result → State
  | .done s' h' => s'.complete k i h.arch h' none
  | .jump s' h' t => s'.complete k i h.arch h' (some t)
  | .trap c => s.trap k h i c
  | .soft s' h' => s'.complete k i h.arch { h' with faults := h'.faults ++ [⟨h.seq, h.dbg.icnt, h.arch, false⟩] } none
  | .stall s' h' mem => s'.stallOn k h' i mem (h.awaits i)
  | .left s' => s'

/-- Runs instruction i on the current hart: the checks at issue, then its meaning. -/
def State.run (s : State) (i : Instr) (body : State → Hart → Result) : State :=
  match s.hart s.cur with
  | none => s
  | some h => match h.gate i with
    | .idle => s
    | .stall mem => s.stallOn s.cur h i mem (h.dataFor i)
    | .trap c => s.trap s.cur h i c
    | .go => s.settle s.cur h i (body s h)

/-- An instruction that only computes on its hart. -/
def State.compute (s : State) (i : Instr) (f : Arch → Arch) : State :=
  s.run i fun s h => .done s (h.mapArch f)

/-- Hart k may issue: it has no partner, holds issue, or the partner that holds it is not ready (R128, R131). -/
def State.mayIssue (s : State) (k : Nat) : Bool :=
  match s.hart k with
  | none => false
  | some h => match h.seat, s.partner k h with
    | some (p, _), some (j, x) =>
      Store.get 0 s.issuing (partKey k p) != j + 1 || !x.live || (x.stalled && x.convoy = 0)
    | _, _ => true

/-- Hart k holds issue of its partition. -/
def State.takeIssue (s : State) (k : Nat) : State :=
  match s.hart k with
  | some h => match h.seat with
    | some (p, _) => { s with issuing := Store.set 0 s.issuing (partKey k p) (k + 1) }
    | none => s
  | none => s

end Sys2Proof.Machine
end

