-- ==== Sys2Proof/Machine/Access.lean ====
section
/-! DEFINITION. Accesses of harts: checks in the seventh place of R90, reads through held stores (R154), stores that perform
or are held (R174), and accesses over a link (R333 to R337). -/

namespace Sys2Proof.Machine

/-- One element of an access: its number, its address, and its stored bytes. -/
structure Elem where
  idx : Nat
  addr : Word
  size : Nat
  deriving DecidableEq, Repr

/-- An element with the places of its bytes. -/
structure Placed where
  elem : Elem
  phys : List Phys
  deriving DecidableEq, Repr

/-- The fault of an element at a byte address (Table 25.3): translation faults and bounds carry the element's address. -/
def accessCause (e : Elem) (code sub : Nat) (write : Bool) : Cause := ⟨code, sub, write, false, e.idx, e.addr⟩

/-- The places of n bytes from address a, or the first fault. -/
def State.placeBytes (s : State) (g : Group) (spire sp : Nat) (a : Word) (write : Bool) : Nat → Except (Nat × Nat) (List Phys)
  | 0 => .ok []
  | n + 1 => match s.place g spire sp a write false with
    | .fault code sub => .error (code, sub)
    | .at p => match s.placeBytes g spire sp (a + 1) write n with
      | .ok t => .ok (p :: t)
      | .error e => .error e

/-- One element checked: alignment (R220), then bound, translation, access and revocation (R226). align 0 asks for none. -/
def State.placeElem (s : State) (g : Group) (spire sp align : Nat) (write : Bool) (e : Elem) : Except Cause Placed :=
  if align != 0 && e.addr.toNat % align != 0 then .error (accessCause e 20 0 write)
  else match s.placeBytes g spire sp e.addr write e.size with
    | .ok ps => .ok ⟨e, ps⟩
    | .error (code, sub) => .error (accessCause e code sub write)

/-- Elements checked in order: the placed ones, and the causes of the faulting ones, lowest first. -/
def State.placeAll (s : State) (g : Group) (spire sp align : Nat) (write : Bool) : List Elem → List Placed × List (Elem × Cause)
  | [] => ([], [])
  | e :: t =>
    let r := s.placeAll g spire sp align write t
    match s.placeElem g spire sp align write e with
    | .ok p => (p :: r.1, r.2)
    | .error c => (r.1, (e, c) :: r.2)

/-- One byte as the current hart, h, reads it: its youngest store to it that has not performed, bit by bit, over memory (R154, R227). -/
def State.readByte (s : State) (h : Hart) (k : Nat) : Byte :=
  let onto (b : Byte) (ws : List ByteWrite) : Byte := ws.foldl (fun b w => if w.key = k then w.onto b else b) b
  let queued := (s.homeq.filter fun q => q.hart == s.cur).foldl (fun b q => onto b q.writes) (s.byte k)
  h.held.foldl (fun b e => onto b e.writes) queued

/-- LEVEL of a granule as hart h sees it: its youngest held store into the granule, over memory's tag (R172, R322). -/
def State.levelSeen (s : State) (h : Hart) (k : Nat) : Nat :=
  h.held.foldl (fun l e => match e.mark with
    | .vector level _ _ => if isTagged k && e.writes.any fun w => w.key / 1024 == k / 1024 then level else l
    | _ => l) (tagLevel (s.granule k))

/-- The number of a placed element's bytes as hart h reads them. -/
def State.readPlaced (s : State) (h : Hart) (p : Placed) : Nat := leValue (p.phys.map fun q => s.readByte h q.key)

/-- The links an access crosses. -/
def linksOf (ps : List Phys) : List Nat := distinct id (ps.filterMap (·.link))

/-- A link that these places cross has failed while hart h waited on it (R335). -/
def Hart.cutOff (h : Hart) (ps : List Phys) : Bool := match h.pending with
  | some (.cut ls) => (linksOf ps).any ls.contains
  | _ => false

/-- A placed element of a load, or "link failed" where a link that it crosses has failed while the hart waited (R335). -/
def Hart.reached (h : Hart) (r : Except Cause Placed) : Except Cause Placed := match r with
  | .ok p => if h.cutOff p.phys then .error (accessCause p.elem 17 5 false) else .ok p
  | .error c => .error c

/-- Checked elements of a load, with "link failed" for those that cross a link which has failed while the hart waited (R335). -/
def Hart.reachedAll (h : Hart) (r : List Placed × List (Elem × Cause)) : List Placed × List (Elem × Cause) :=
  (r.1.filter fun p => !h.cutOff p.phys,
    r.2 ++ (r.1.filter fun p => h.cutOff p.phys).map fun p => (p.elem, accessCause p.elem 17 5 false))

/-- A request still has its place in a link's queue; a read's lasts while its hart waits for it (R276). -/
def State.queued (s : State) (q : HomeOp) : Bool := !q.read || (match s.hart q.hart with
  | some h => (match h.pending with
    | some (.remote ..) => true
    | _ => false)
  | none => false)

/-- No request stands before the read of hart k on these links (R276). -/
def State.firstOn (s : State) (k : Nat) (ls : List Nat) : Bool :=
  !(s.homeq.takeWhile fun q => !(q.read && q.hart == k)).any fun q =>
    s.queued q && (match q.link with | some l => ls.contains l | none => false)

/-- The place of hart k's read in the queues of some links (R276); an earlier place of the hart is gone. -/
def State.joinLinks (s : State) (k : Nat) (h : Hart) (cls : BitVec 4) (ls : List Nat) : State :=
  { s with homeq := (s.homeq.filter fun q => !(q.read && q.hart == k)) ++
      ls.map fun l => ⟨k, h.seq, true, s.ctxOf h, some l, h.arch.pc, cls, [], .raw, [], []⟩ }

/-- The wait of a load, or of an atomic (rmw), that crosses links: it joins their queues, and goes on once its data arrive and every
request before it has performed (R276, R277, R333, R337); one whose ports lack tokens waits for them (R99). None when it goes on. -/
def State.awaitLinks (s : State) (k : Nat) (h : Hart) (cls : BitVec 4) (rmw : Bool) (ps : List Phys) : Option (State × Hart) :=
  let ls := linksOf ps
  let waits := s.portWait (s.ctxOf h) (accessPorts (spireOf k) ps)
  if ls.isEmpty then (if waits then some (s, h) else none)
  else match h.pending with
    | some (.remote _ true _ _) => if s.firstOn k ls then none else some (s, h)
    | none | some (.cut _) =>
      if waits then some (s, h)
      else some (s.joinLinks k h cls ls, { h with pending := some (.remote ls false rmw (pinsOf (s.ctxOf h) rmw ps)) })
    | some _ => some (s, h)

/-- A store of class cls by hart k that is older and still queued on a link, other than the only one that these places cross: a store,
atomic or bank operation does not pass its ordering points before it (R280). -/
def State.classBehind (s : State) (k : Nat) (cls : BitVec 4) (ps : List Phys) : Bool :=
  s.homeq.any fun q => !q.read && q.hart == k && q.cls == cls && !ps.all fun p => p.link == q.link

/-- A store's data: the writes of each link, none for those within the module. -/
def byLink (ws : List (Phys × List ByteWrite)) (l : Option Nat) : List ByteWrite :=
  (ws.filter fun w => w.1.link = l).flatMap (·.2)

/-- Counted host pages of an access, each once, with their virtual bases (R258). -/
def countsOf (ps : List Phys) : List (Nat × Nat) :=
  let c := ps.filter (·.counted)
  (distinct (·.pte) c).filterMap fun pte => (c.find? (·.pte == pte)).map fun p => (p.pte, p.vbase)

/-- The lowest element of a store that crosses link l; els names the element of each place. -/
def firstElem (ws : List (Phys × List ByteWrite)) (els : List Elem) (l : Nat) : Nat :=
  (((ws.zip els).find? fun w => w.1.1.link = some l).map (·.2.idx)).getD 0

/-- Sends writes of hart k's store in class cls: those within the module perform in one step; those over a link join its queue and are not
performed until acknowledged (R334, R337). -/
def State.sendStore (s : State) (k : Nat) (h : Hart) (cls : BitVec 4) (mark : GranuleMark) (ws : List (Phys × List ByteWrite))
    (els : List Elem) : State × Hart :=
  let c := s.ctxOf h
  let s := s.perform mark (byLink ws none)
  (linksOf (ws.map (·.1))).foldl (fun (r : State × Hart) l =>
    let mine := byLink ws (some l)
    let ps := (ws.map (·.1)).filter fun p => p.link = some l
    ({ r.1 with homeq := r.1.homeq ++ [⟨k, h.seq, false, c, some l, h.arch.pc, cls, mine, mark, countsOf ps, pinsOf c true ps⟩] },
     { r.2 with unacked := r.2.unacked ++ [⟨l, h.arch.pc, h.seq, cls, firstElem ws els l⟩] })) (s, h)

/-- Held entries of one hart (Table 12.2). -/
def heldShare (g : Group) : Nat := 4 * g.lanes / g.seats

/-- The entries a store needs: one for each 256-byte block its data touch (R174). els names the element of each place. A counted page
counts in the first entry that touches it (R258). -/
def heldEntries (h : Hart) (c : Nat) (cls : BitVec 4) (mark : GranuleMark) (ws : List (Phys × List ByteWrite)) (els : List Elem) :
    List Held :=
  let all := (ws.zip els).filter fun w => !w.1.2.isEmpty
  let blocks := (all.map fun w => w.1.1.key / 256).eraseDups
  blocks.filterMap fun b =>
    let mine := all.filter fun w => w.1.1.key / 256 = b
    let older := blocks.takeWhile (· != b)
    let before (pte : Nat) : Bool := all.any fun w => older.contains (w.1.1.key / 256) && w.1.1.counted && w.1.1.pte == pte
    (mine.head?).map fun f =>
      { seq := h.seq, pc := h.arch.pc, cls := cls, idx := f.2.idx, addr := f.2.addr
        link := f.1.1.link
        writes := mine.flatMap (·.1.2)
        mark := mark
        counts := (countsOf (mine.map (·.1.1))).filter fun x => !before x.1
        grant := f.1.1.grant
        revoked := false
        pins := pinsOf c true (mine.map (·.1.1)) }

/-- A store of hart k: it performs, waits, or is held while speculative (R99, R171, R174, R257, R280). -/
def State.store (s : State) (k : Nat) (g : Group) (h : Hart) (cls : BitVec 4) (mark : GranuleMark)
    (ws : List (Phys × List ByteWrite)) (els : List Elem) : Result :=
  let ps := ws.map (·.1)
  if ps.any (s.writeBlocked g.ctx) then .stall s h false
  else
    if h.exits.isEmpty then
      if s.classBehind k cls ps || s.portWait g.ctx (accessPorts (spireOf k) ps) then .stall s h false
      else
        let r := (s.access (spireOf k) g.ctx ps).sendStore k h cls mark ws els
        .done r.1 r.2
    else
      let es := heldEntries h g.ctx cls mark ws els
      if heldShare g < es.length || heldShare g < h.held.length + es.length then .stall s h false
      else .done (s.cacheAll (spireOf k) g.ctx ps) { h with held := h.held ++ es }

/-- A fault in the seventh place: taken, or suppressed while speculative with the effect given (R175). -/
def suppress (s : State) (h : Hart) (c : Cause) (effect : Hart → Hart) : Result :=
  if h.exits.isEmpty then .trap c else .soft s (effect h)

/-- A read of stream register q by hart k finds it unbound: no binding, or a slot that is free or another group's (R42, R270). -/
def State.unboundStream (s : State) (k : Nat) (h : Hart) (q : Nat) : Bool := match h.arch.qb.find q with
  | none => true
  | some b => b.kind == 3 && (match s.slots.find (256 * spireOf k + b.idx) with
    | some x => x.gid != h.gid || x.state == .free
    | none => true)

/-- The group of a hart, for a meaning; a hart always has one. -/
def State.withGroup (s : State) (h : Hart) (f : Group → Result) : Result := match s.group h.gid with
  | some g => f g
  | none => .stall s h false

end Sys2Proof.Machine
end

