-- ==== Sys2Proof/Machine/Run.lean ====
section
/-! DEFINITION. Fetching a hart's instruction (R74), and the first instruction that withFetchWord places. -/

namespace Sys2Proof.Machine

/-- What a fetch finds: an instruction, a syllable sequence that is none, a fault, or a link that trains (R337). -/
inductive Fetched where
  | instr (i : Instr)
  | illegal (w : Syl)
  | fault (f : XFault)
  | held
  deriving DecidableEq, Repr

/-- The n bytes of code at an address, or the first fault. -/
def State.codeBytes (s : State) (g : Group) (spire : Nat) (a : Word) : Nat → Except XFault (List Byte)
  | 0 => .ok []
  | n + 1 => match s.place g spire 0 a false true with
    | .fault code sub => .error ⟨code, sub, false, true, a⟩
    | .at p => match s.codeBytes g spire (a + 1) n with
      | .ok t => .ok (s.byte p.key :: t)
      | .error e => .error e

/-- One syllable; a fault names the syllable's address (R74). -/
def State.syllable (s : State) (g : Group) (spire : Nat) (a : Word) : Except XFault (List Byte) :=
  match s.codeBytes g spire a 4 with
  | .ok l => .ok l
  | .error f => .error { f with addr := a }

/-- The places of the n bytes of code at an address, without those that fault. -/
def State.codePlaces (s : State) (g : Group) (spire : Nat) (a : Word) (n : Nat) : List Phys :=
  (List.range n).filterMap fun i => match s.place g spire 0 (a + BitVec.ofNat 64 i) false true with
    | .at p => some p
    | .fault .. => none

/-- No byte of a syllable lies behind a link that trains (R337), and its ports have tokens (R99, log 69). -/
def State.codeReady (s : State) (g : Group) (spire : Nat) (a : Word) : Bool :=
  let ps := s.codePlaces g spire a 4
  (ps.all fun p => p.link.all s.linkUp) && !s.portWait g.ctx (accessPorts spire ps)

/-- The instruction at the pc of the hart in frame k. Both syllables of class 10 are fetched before either is decoded. -/
def State.fetch (s : State) (k : Nat) (h : Hart) : Fetched :=
  match s.group h.gid with
  | none => .illegal 0
  | some g =>
    if !s.codeReady g (spireOf k) h.arch.pc then .held
    else match s.syllable g (spireOf k) h.arch.pc with
    | .error f => .fault f
    | .ok b =>
      let w := BitVec.ofNat 32 (leValue b)
      let read (bs : List Byte) : Fetched := match decode bs with
        | .ok r => .instr r.1
        | .error _ => .illegal w
      if w.extractLsb' 30 2 = 2 then
        if !s.codeReady g (spireOf k) (h.arch.pc + 4) then .held
        else match s.syllable g (spireOf k) (h.arch.pc + 4) with
        | .error f => .fault f
        | .ok b2 => read (b ++ b2)
      else read b

/-- The fetch of the n bytes at the pc of the hart in frame k is charged as one transfer (R99, log 69). -/
def State.fetched (s : State) (k : Nat) (h : Hart) (n : Nat) : State := match s.group h.gid with
  | none => s
  | some g => s.charge g.ctx (accessPorts (spireOf k) (s.codePlaces g (spireOf k) h.arch.pc n))

/-- The first instruction's place: a context whose 1 GiB leaf maps shaft 0, one group, one hart at user level without lanes,
its instruction at 0x10000. -/
def fetchBase : Nat := 0x10000

/-- The table entries that withFetchWord writes: level 0 at 0, level 1 at 0x1000 (Tables 17.1, 17.2). -/
def fetchTables : List Host.Cell :=
  (byteWrites 0 (bytesOf (7 * 2 ^ 61 + 1) 8) ++ byteWrites 0x1000 (bytesOf (2 ^ 61 + 2 ^ 59 + 2 ^ 58 + 2 ^ 57) 8)).map
    fun w => (w.key, w.val)

/-- Instruction bits as stored (R15, R73): n bytes, then zeros up to the longest instruction. -/
def fetchBytes (nbits w : Nat) : List Byte := bytesOf (w % 2 ^ nbits) 8

/-- The context, kernel, group and hart that run the placed instruction. -/
def fetchCtx : Ctx := { Ctx.zero with state := .active, quads := [0] }

/-- The kernel of the placed instruction. -/
def fetchKernel : Kernel where
  ctx := 0
  queue := 0
  record := 0
  state := .running
  status := 0
  prio := 0
  code := BitVec.ofNat 64 fetchBase
  args := 0
  ngrp := 1
  nhart := 1
  lanes := 0
  shape := 32
  waitv := false
  sigv := false
  pair := false
  lspan := 0
  wtok := 0
  ctok := 0
  wval := 0
  cookie := 0
  placed := 1
  doneGroups := 0

/-- A running group of one hart in frame 0. -/
def fetchGroup : Group where
  ctx := 0
  kernel := 0
  index := 0
  quad := 0
  state := .running
  nhart := 1
  lanes := 0
  pair := false
  shape := 32
  lspan := 0
  bases := [0, 0, 0, 0]
  frames := [0]
  barriers := []
  tokens := []
  taskCount := 0
  nextTake := 0
  tasks := []
  tfh := 0
  faults := []
  claim := false
  aborted := false
  wantPark := false
  reserved := none
  image := none

/-- The state in which the next step fetches and runs the instruction placed (log 1). -/
def State.place1 (s : State) (nbits w : Nat) : State :=
  let cells := fetchTables ++ (byteWrites fetchBase (fetchBytes nbits w)).map fun x => (x.key, x.val)
  { s with
    mem := cells.foldl (fun m c => Store.set Memory.fill m c.1 c.2) (Store.drop s.mem 0 (fetchBase + 8))
    status := .ready
    ctxs := Store.insert s.ctxs 0 fetchCtx
    kernels := Store.insert s.kernels 0 fetchKernel
    groups := Store.insert s.groups 0 fetchGroup
    nextKernel := max s.nextKernel 1
    nextGroup := max s.nextGroup 1
    harts := Store.insert s.harts 0 (Hart.entry 0 0 { Arch.entry with pc := BitVec.ofNat 64 fetchBase })
    tlb := Store.erase s.tlb 0
    stopped := []
    clockDue := false
    hartTurn := false
    agenda := [.hart 0] }

end Sys2Proof.Machine
end

