-- ==== Sys2Proof/Machine/Page.lean ====
section
/-! DEFINITION. Page instructions and migration (R250 to R260, R273). -/

namespace Sys2Proof.Machine

open Host (Outcome)

/-- A slot stands on a line of a page of context c that p accepts by its base and size, as its own page or as the owner's page of a grant
(R273). -/
def slotOn (c : Nat) (p : Pin → Bool) (y : Slot) : Bool := y.pins.any fun q => q.ctx == c && p q

/-- Removes the translations of the pages of context c that p accepts: counts go back to the table, standing slots on
them close with GONE (R255, R273). -/
def State.dropPages (s : State) (c : Nat) (p : Pin → Bool) : State :=
  let on (t : Tlb) : Bool := p ⟨t.ctx, t.base, t.bits, t.leaf, false⟩
  let ptes := ((s.tlb ++ s.mtlb).flatMap fun l => l.2.filter fun t => t.ctx = c && on t).map (·.pte)
  let s := (distinct id ptes).foldl (fun s pte => s.writeBack c pte) s
  (s.closeLines (slotOn c p)).uncache c on

/-- `pfence`: every older store of the hart has performed (R255); a stop waits for it (R257). -/
def execPfence (s : State) : Outcome State Fault Refusal :=
  .next (s.run .pfence fun s h =>
    if h.unacked.isEmpty then .done s h else .stall s { h with pending := some .fencing } false)

/-- A page of context c that p accepts is MIGRATING. -/
def State.migrating (s : State) (c : Nat) (p : Pin → Bool) : Bool := s.blocked.any fun b => b.1 == c && p ⟨c, b.2.1, b.2.2, 0, true⟩

/-- Every pin that is held. -/
def State.allPins (s : State) : List Pin :=
  (s.harts.flatMap fun h => h.2.pins) ++ ((s.copies.filter fun t => t.2.busy).flatMap fun t => t.2.pins) ++ s.homeq.flatMap (·.pins)

/-- `pinv`: as `pfence`, after a migration of the page; then the translations go, and it waits for the pins taken under them (R255,
R257). -/
def execPinv (a : Reg) (all : Bool) (s : State) : Outcome State Fault Refusal :=
  .next (s.run (.pinv a all) fun s h =>
    let c := s.ctxOf h
    let on (p : Pin) : Bool := all || p.covers (h.reg a)
    match h.pending with
    | some (.invalidating pins) => if s.pinned fun p => pins.contains p then .stall s h false else .done s h
    | _ =>
      if !h.unacked.isEmpty || s.migrating c on then .stall s { h with pending := some .fencing } false
      else
        let pins := s.allPins.filter fun p => p.ctx == c && on p
        let s' := s.dropPages c on
        if pins.isEmpty then .done s' h else .stall s' { h with pending := some (.invalidating pins) } false)

/-- `pcnt` (R260). -/
def execPcnt (d a : Reg) (clr : Bool) (s : State) : Outcome State Fault Refusal :=
  .next (s.run (.pcnt d a clr) fun s h =>
    let c := s.ctxOf h
    match s.walk c (h.reg a) with
    | .fault .. => .done s (h.setReg d (BitVec.allOnes 64))
    | .leaf e pte _ =>
      if !countedLeaf e then .done s (h.setReg d (BitVec.allOnes 64))
      else
        let n := s.pageCount c pte
        let s' := s.writeBack c pte
        let s' := if clr then
            (s'.writeEntry pte countField 0).modCtx c fun x => { x with noted := x.noted.filter (· != pte) }
          else s'
        .done s' (h.setReg d (BitVec.ofNat 64 n)))

/-- The status that `pmig` returns at once for a leaf and its new entry; none starts the migration (R256). -/
def State.pmigStatus (s : State) (c : Nat) (old new : Word) (bits : Nat) : Option Nat :=
  let t := pteTgt old
  let n := pteTgt new
  let leafBit := if bits = 16 then !new.getLsbD 57 else new.getLsbD 57
  if t != 1 && t != 3 then some 4
  else if pteWb old then some 1
  else if bits = 30 then some 2
  else if (n != 1 && n != 3) || pteWb new || new &&& countField != 0 || pteReserved new || !leafBit ||
      !leafOk (s.ctx c) new bits then some 3
  else if t = 1 && n = 3 && (List.range (2 ^ bits / 1024)).any (fun g => s.granule (pteFrame old + 1024 * g) != 0) then some 5
  else none

/-- Two readings of one leaf, whose WB and COUNT the device may have changed between. -/
def sameLeaf (a b : Word) : Bool := (a ^^^ b) &&& ~~~(wbBit ||| countField) == 0

/-- `pmig`: status at once, or WB and the wait for its migration (R256). -/
def execPmig (d a : Reg) (s : State) : Outcome State Fault Refusal :=
  .next (s.run (.pmig d a) fun s h =>
    let c := s.ctxOf h
    let va := h.reg a
    let status (n : Nat) : Result := .done s (h.setReg d (BitVec.ofNat 64 n))
    match h.pending with
    | some (.migrate _ old _ vbase _ _ true) =>
      if s.pinned fun p => p.ctx = c && p.base = vbase && sameLeaf p.leaf old then .stall s h false else status 0
    | some _ => .stall s h false
    | none =>
      match s.walk c va with
      | .fault .. => status 4
      | .leaf old pte bits =>
        match s.pmigStatus c old (h.reg d) bits with
        | some n => status n
        | none =>
          let vbase := va.toNat / 2 ^ bits * 2 ^ bits
          .stall { s.writeEntry pte wbBit wbBit with blocked := s.blocked ++ [(c, vbase, bits)] }
            { h with pending := some (.migrate pte old (h.reg d) vbase bits false false) } false)

/-- The key of offset 0 of a frame of TGT 1 or 3. -/
def frameKey (e : Word) : Nat := if pteTgt e = 1 then dramKey (pteFrame e) else hostKey (pteFrame e)

/-- The ports that a migration's copy passes, once for each time: the bridge between the dies of its frames, and the host link, on die 0, for a
frame in host memory (R5, R12, R99, R256). -/
def movePorts (old new : Word) : List Nat :=
  let die (e : Word) : Nat := if pteTgt e = 1 then pteFrame e / 2 ^ 37 else 0
  let host (e : Word) : List Nat := if pteTgt e = 3 then [linkPort hostLink] else []
  host old ++ host new ++ if pteTgt old = 3 && pteTgt new = 3 then [] else bridgeOf (die old) (die new)

/-- The copy of a migration begins once no write pin on the page remains and its ports have tokens, and is charged (R99, R256). -/
def execPmigCopyStart (k : Nat) (s : State) : Outcome State Fault Refusal :=
  .next <| match s.hart k with
    | some h => match h.pending with
      | some (.migrate pte old new vbase bits false false) =>
        let c := s.ctxOf h
        let ports := movePorts old new
        if (s.pinned fun p => p.write && p.ctx = c && p.base = vbase) || s.portWait c ports then s
        else (s.modCtx c fun x => x.spend fun k => ports.count k * (2 ^ bits / 64)).setHart k
          { h with pending := some (.migrate pte old new vbase bits true false) }
      | _ => s
    | none => s

/-- The bytes of a page and its granule tags go to a new frame; from host memory the tags are 0 (R256). -/
def State.movePage (s : State) (old new : Word) (bits : Nat) : State :=
  let src := frameKey old
  let dst := frameKey new
  let data := Store.range s.mem src (src + 2 ^ bits)
  let tags := Store.range s.gtag (src / 1024) ((src + 2 ^ bits) / 1024)
  let s := s.zeroRange dst (dst + 2 ^ bits)
  { s with
    mem := data.foldl (fun m c => Store.set Memory.fill m (c.1 - src + dst) c.2) s.mem
    gtag := if isTagged dst && isTagged src then
        tags.foldl (fun m c => Store.set 0 m (c.1 - src / 1024 + dst / 1024) (c.2 &&& 0xF7)) s.gtag
      else s.gtag }

/-- Both frames of a migration can be reached. -/
def State.frameReady (s : State) (e : Word) : Bool := pteTgt e != 3 || s.linkUp hostLink

/-- The copy ends: slots on the page close, the new leaf stands in the table, old translations go, and stalled writes
translate afresh (R256, R257, R273). -/
def execPmigLeafInstall (k : Nat) (s : State) : Outcome State Fault Refusal :=
  .next <| match s.hart k with
    | some h => match h.pending with
      | some (.migrate pte old new vbase bits true false) =>
        let c := s.ctxOf h
        if !(s.frameReady old && s.frameReady new) then s
        else
          let on (p : Pin) : Bool := p.base == vbase
          let s := s.closeLines (slotOn c on)
          let s := s.movePage old new bits
          let s := s.setBytes (dramKey pte) (bytesOf new.toNat 8)
          let s := s.modCtx c fun x => { x with counts := Store.erase x.counts pte, noted := x.noted.filter (· != pte) }
          let s := s.uncache c fun t => t.base == vbase
          { s.setHart k { h with pending := some (.migrate pte old new vbase bits true true) } with
            blocked := s.blocked.filter fun b => !(b.1 = c && b.2.1 = vbase) }
      | _ => s
    | none => s

/-- A write of PTBASE (R250): ignored when misaligned or while a kernel of the context is PLACING or RUNNING. -/
def execPtbaseWrite (c : Nat) (v : Word) (s : State) : Outcome State Fault Refusal :=
  .next <|
    if v.toNat % 4096 ≠ 0 then s
    else if s.kernels.any fun k => k.2.ctx = c && (k.2.state == .placing || k.2.state == .running) then s
    else if (s.ctx c).state == .absent || (s.ctx c).state == .forming then s
    else (s.dropPages c fun _ => true).modCtx c fun x => { x with ptbase := v }

end Sys2Proof.Machine
end

