-- ==== Sys2Proof/Machine/Barrier.lean ====
section
/-! DEFINITION. Barriers (spec/10): the object, its events and the six instructions. -/

namespace Sys2Proof.Machine

open Host (Outcome)

/-- Barrier b of a group. -/
def Group.bar (g : Group) (b : Nat) : Barrier := Store.get .zero g.barriers b

/-- Writes barrier b of group g. -/
def State.setBar (s : State) (g b : Nat) (x : Barrier) : State :=
  s.modGroup g fun y => { y with barriers := Store.set .zero y.barriers b x }

/-- Bits set among the lowest n of a number. -/
def popcount (m n : Nat) : Nat := ((List.range n).filter (bitOf m)).length

/-- ARR (Table 10.1). -/
def Barrier.arr (x : Barrier) : Nat := popcount x.amask.toNat 64

/-- The code of STATE (Table 10.1). -/
def BarState.code : BarState → Nat
  | .idle => 0 | .counting => 1 | .released => 2

/-- The word that `bar.rd` returns (Table 10.1). -/
def Barrier.word (x : Barrier) : Word :=
  BitVec.ofNat 64 (x.gen.toNat * 2 ^ 32 + x.exp * 2 ^ 16 + x.arr * 2 ^ 8 + x.state.code)

/-- Done(t) (R136). -/
def Barrier.done (x : Barrier) (t : BitVec 32) : Bool := x.gen != t && !(x.gen - t).msb

/-- Release (Table 10.2). -/
def Barrier.release (x : Barrier) : Barrier := { x with gen := x.gen + 1, amask := 0, state := .released }

/-- `bar.init` with count n (Table 10.2). -/
def Barrier.init (x : Barrier) (n : Nat) : Barrier := { x with exp := n, state := if n = 0 then .idle else .counting }

/-- AMASK with bit h. -/
def maskBit (h : Nat) : BitVec 64 := BitVec.ofNat 64 (2 ^ h)

/-- The arrival of hart h (Table 10.2). -/
def Barrier.arrive (x : Barrier) (h : Nat) : Barrier :=
  let y := { x with amask := x.amask ||| maskBit h, state := .counting }
  if y.exp ≤ y.arr then y.release else y

/-- `bar.drop` by hart h (Table 10.2). -/
def Barrier.drop (x : Barrier) (h : Nat) : Barrier :=
  let y := { x with exp := x.exp - 1, amask := x.amask &&& ~~~maskBit h }
  if y.exp = 0 then { y with amask := 0, state := .idle }
  else if y.exp ≤ y.arr then y.release
  else { y with state := .counting }

/-- Hart k waits at barrier b of group g, and the wait is over. -/
def Hart.barOver (h : Hart) (g b : Nat) (x : Barrier) : Bool :=
  h.gid = g && h.live && (match h.pending with | some (.barrierWait c t _) => c = b && x.done t | _ => false)

/-- Writes the barrier; every waiting `bar.wt` and `bar.aw` whose condition now holds completes in the same step (R134). -/
def State.barStep (s : State) (g b : Nat) (x : Barrier) : State :=
  let s := s.setBar g b x
  (s.harts.filter fun p => p.2.barOver g b x).foldl
    (fun s p => s.complete p.1 (.barWt 0 0 (BitVec.ofNat 6 b)) p.2.arch p.2 none) s

/-- Barrier misuse (R136): the record carries the barrier number. -/
def barMisuse (b : BitVec 6) : Result := .trap (.plain 33 b.toNat)

/-- Every older access of the hart has performed at group scope (R137). -/
def Hart.performed (h : Hart) : Bool := h.unacked.isEmpty

/-- The order field asks for release. -/
def isRelease (ord : BitVec 2) : Bool := ord.getLsbD 1

/-- `bar.init` (R136). -/
def execBarInit (a : Reg) (b : BitVec 6) (s : State) : Outcome State Fault Refusal :=
  .next (s.run (.barInit a b) fun s h => s.withGroup h fun g =>
    let n := (h.reg a).toNat
    let x := g.bar b.toNat
    if 64 < n || g.nhart < n then barMisuse b
    else if x.state == .counting && 0 < x.arr then barMisuse b
    else .done (s.barStep h.gid b.toNat (x.init n)) h)

/-- `bar.arr` (R136, R137). -/
def execBarArr (d : Reg) (ord : BitVec 2) (b : BitVec 6) (s : State) : Outcome State Fault Refusal :=
  .next (s.run (.barArr d ord b) fun s h => s.withGroup h fun g =>
    let x := g.bar b.toNat
    if isRelease ord && !h.performed then .stall s h false
    else if x.state == .idle then barMisuse b
    else .done (s.barStep h.gid b.toNat (x.arrive h.idx)) (h.setReg d (x.gen.setWidth 64)))

/-- `bar.wt` (R136): misuse is judged once, before the wait. -/
def execBarWt (a : Reg) (ord : BitVec 2) (b : BitVec 6) (s : State) : Outcome State Fault Refusal :=
  .next (s.run (.barWt a ord b) fun s h => s.withGroup h fun g =>
    let x := g.bar b.toNat
    let t := (h.reg a).setWidth 32
    if x.done t then .done s h
    else if h.pending.isNone && x.state == .idle then barMisuse b
    else .stall s { h with pending := some (.barrierWait b.toNat t false) } false)

/-- `bar.aw` (R136 to R138): the arrival, its token, and the wait. -/
def execBarAw (d : Reg) (ord : BitVec 2) (b : BitVec 6) (s : State) : Outcome State Fault Refusal :=
  .next (s.run (.barAw d ord b) fun s h => s.withGroup h fun g =>
    let x := g.bar b.toNat
    match h.pending with
    | some (.barrierWait _ t _) => if x.done t then .done s h else .stall s h false
    | _ =>
      if isRelease ord && !h.performed then .stall s h false
      else if x.state == .idle then barMisuse b
      else
        let y := x.arrive h.idx
        let h' := h.setReg d (x.gen.setWidth 64)
        let s' := s.barStep h.gid b.toNat y
        if y.done x.gen then .done s' h' else .stall s' { h' with pending := some (.barrierWait b.toNat x.gen true) } false)

/-- `bar.drop` (R136). -/
def execBarDrop (b : BitVec 6) (s : State) : Outcome State Fault Refusal :=
  .next (s.run (.barDrop b) fun s h => s.withGroup h fun g =>
    let x := g.bar b.toNat
    if x.state == .idle then barMisuse b else .done (s.barStep h.gid b.toNat (x.drop h.idx)) h)

/-- `bar.rd` (R136). -/
def execBarRd (d : Reg) (b : BitVec 6) (s : State) : Outcome State Fault Refusal :=
  .next (s.run (.barRd d b) fun s h => s.withGroup h fun g => .done s (h.setReg d (g.bar b.toNat).word))

end Sys2Proof.Machine
end

