-- ==== Sys2Proof/Machine/Scalar.lean ====
section
/-! DEFINITION. Integer and address instructions (R141 to R144). -/

namespace Sys2Proof.Machine

open Host (Outcome)

/-- A 0 or 1 in 64 bits. -/
def flagWord (b : Bool) : Word := if b then 1 else 0

/-- Signed division, truncated toward zero; by zero all ones; the overflow gives −2^63 (R142). -/
def sdiv (x y : Word) : Word := if y = 0 then -1 else BitVec.ofInt 64 (x.toInt.tdiv y.toInt)

/-- Unsigned division (R142). -/
def udiv (x y : Word) : Word := if y = 0 then -1 else BitVec.ofNat 64 (x.toNat / y.toNat)

/-- Signed remainder with the sign of the dividend (R142). -/
def srem (x y : Word) : Word := if y = 0 then x else BitVec.ofInt 64 (x.toInt.tmod y.toInt)

/-- Unsigned remainder (R142). -/
def urem (x y : Word) : Word := if y = 0 then x else BitVec.ofNat 64 (x.toNat % y.toNat)

/-- Bits [127:64] of the signed product. -/
def mulHigh (x y : Word) : Word := BitVec.ofInt 64 (x.toInt * y.toInt / 2 ^ 64)

/-- Bits [127:64] of the unsigned product. -/
def mulHighU (x y : Word) : Word := BitVec.ofNat 64 (x.toNat * y.toNat / 2 ^ 64)

/-- Zero bits above the highest one bit, of the low n bits. -/
def leadingZeros (x : Nat) : Nat → Nat
  | 0 => 0
  | n + 1 => if bitOf x n then 0 else leadingZeros x n + 1

/-- Zero bits below the lowest one bit, of n bits from bit i up. -/
def trailingZeros (x i : Nat) : Nat → Nat
  | 0 => 0
  | n + 1 => if bitOf x i then 0 else trailingZeros x (i + 1) n + 1

/-- One bits among the low n bits. -/
def popCount (x : Nat) : Nat → Nat
  | 0 => 0
  | n + 1 => popCount x n + (bitOf x n).toNat

/-- A shift amount in a register: its low six bits. -/
def shiftOf (y : Word) : Nat := y.toNat % 64

/-- An SR instruction with two sources (R141). -/
def State.alu (s : State) (i : Instr) (d a b : Reg) (f : Word → Word → Word) : State :=
  s.compute i fun r => r.setReg d (f (r.reg a) (r.reg b))

/-- An SR or SI instruction with one source (R141, R143). -/
def State.alu1 (s : State) (i : Instr) (d a : Reg) (f : Word → Word) : State :=
  s.compute i fun r => r.setReg d (f (r.reg a))

/-- `add`: s[sa] + s[sb] (Table 11.1). -/
def execAdd (d a b : Reg) (s : State) : Outcome State Fault Refusal :=
  .next (s.alu (.add d a b) d a b fun x y => x + y)

/-- `sub`: s[sa] − s[sb] (Table 11.1). -/
def execSub (d a b : Reg) (s : State) : Outcome State Fault Refusal :=
  .next (s.alu (.sub d a b) d a b fun x y => x - y)

/-- `mul`: the low 64 bits of the product (Table 11.1). -/
def execMul (d a b : Reg) (s : State) : Outcome State Fault Refusal :=
  .next (s.alu (.mul d a b) d a b fun x y => x * y)

/-- `mulh`: the high 64 bits of the signed product (Table 11.1). -/
def execMulh (d a b : Reg) (s : State) : Outcome State Fault Refusal :=
  .next (s.alu (.mulh d a b) d a b fun x y => mulHigh x y)

/-- `mulhu`: the high 64 bits of the unsigned product (Table 11.1). -/
def execMulhu (d a b : Reg) (s : State) : Outcome State Fault Refusal :=
  .next (s.alu (.mulhu d a b) d a b fun x y => mulHighU x y)

/-- `div`: the signed quotient (R142) (Table 11.1). -/
def execDiv (d a b : Reg) (s : State) : Outcome State Fault Refusal :=
  .next (s.alu (.div d a b) d a b fun x y => sdiv x y)

/-- `divu`: the unsigned quotient (R142) (Table 11.1). -/
def execDivu (d a b : Reg) (s : State) : Outcome State Fault Refusal :=
  .next (s.alu (.divu d a b) d a b fun x y => udiv x y)

/-- `rem`: the signed remainder (R142) (Table 11.1). -/
def execRem (d a b : Reg) (s : State) : Outcome State Fault Refusal :=
  .next (s.alu (.rem d a b) d a b fun x y => srem x y)

/-- `remu`: the unsigned remainder (R142) (Table 11.1). -/
def execRemu (d a b : Reg) (s : State) : Outcome State Fault Refusal :=
  .next (s.alu (.remu d a b) d a b fun x y => urem x y)

/-- `and`: bitwise AND (Table 11.1). -/
def execAnd (d a b : Reg) (s : State) : Outcome State Fault Refusal :=
  .next (s.alu (.and d a b) d a b fun x y => x &&& y)

/-- `or`: bitwise OR (Table 11.1). -/
def execOr (d a b : Reg) (s : State) : Outcome State Fault Refusal :=
  .next (s.alu (.or d a b) d a b fun x y => x ||| y)

/-- `xor`: bitwise XOR (Table 11.1). -/
def execXor (d a b : Reg) (s : State) : Outcome State Fault Refusal :=
  .next (s.alu (.xor d a b) d a b fun x y => x ^^^ y)

/-- `andn`: s[sa] AND NOT s[sb] (Table 11.1). -/
def execAndn (d a b : Reg) (s : State) : Outcome State Fault Refusal :=
  .next (s.alu (.andn d a b) d a b fun x y => x &&& ~~~y)

/-- `sll`: left shift by s[sb][5:0] (Table 11.1). -/
def execSll (d a b : Reg) (s : State) : Outcome State Fault Refusal :=
  .next (s.alu (.sll d a b) d a b fun x y => x <<< shiftOf y)

/-- `srl`: logical right shift by s[sb][5:0] (Table 11.1). -/
def execSrl (d a b : Reg) (s : State) : Outcome State Fault Refusal :=
  .next (s.alu (.srl d a b) d a b fun x y => x >>> shiftOf y)

/-- `sra`: arithmetic right shift by s[sb][5:0] (Table 11.1). -/
def execSra (d a b : Reg) (s : State) : Outcome State Fault Refusal :=
  .next (s.alu (.sra d a b) d a b fun x y => x.sshiftRight (shiftOf y))

/-- `slt`: signed less (Table 11.1). -/
def execSlt (d a b : Reg) (s : State) : Outcome State Fault Refusal :=
  .next (s.alu (.slt d a b) d a b fun x y => flagWord (x.slt y))

/-- `sltu`: unsigned less (Table 11.1). -/
def execSltu (d a b : Reg) (s : State) : Outcome State Fault Refusal :=
  .next (s.alu (.sltu d a b) d a b fun x y => flagWord (x.ult y))

/-- `min`: signed minimum (Table 11.1). -/
def execMin (d a b : Reg) (s : State) : Outcome State Fault Refusal :=
  .next (s.alu (.min d a b) d a b fun x y => if y.slt x then y else x)

/-- `max`: signed maximum (Table 11.1). -/
def execMax (d a b : Reg) (s : State) : Outcome State Fault Refusal :=
  .next (s.alu (.max d a b) d a b fun x y => if x.slt y then y else x)

/-- `minu`: unsigned minimum (Table 11.1). -/
def execMinu (d a b : Reg) (s : State) : Outcome State Fault Refusal :=
  .next (s.alu (.minu d a b) d a b fun x y => if y.ult x then y else x)

/-- `maxu`: unsigned maximum (Table 11.1). -/
def execMaxu (d a b : Reg) (s : State) : Outcome State Fault Refusal :=
  .next (s.alu (.maxu d a b) d a b fun x y => if x.ult y then y else x)

/-- `clz`: leading zero bits, 64 for 0 (Table 11.1). -/
def execClz (d a : Reg) (s : State) : Outcome State Fault Refusal :=
  .next (s.alu1 (.clz d a) d a fun x => BitVec.ofNat 64 (leadingZeros x.toNat 64))

/-- `ctz`: trailing zero bits, 64 for 0 (Table 11.1). -/
def execCtz (d a : Reg) (s : State) : Outcome State Fault Refusal :=
  .next (s.alu1 (.ctz d a) d a fun x => BitVec.ofNat 64 (trailingZeros x.toNat 0 64))

/-- `cnt`: one bits (Table 11.1). -/
def execCnt (d a : Reg) (s : State) : Outcome State Fault Refusal :=
  .next (s.alu1 (.cnt d a) d a fun x => BitVec.ofNat 64 (popCount x.toNat 64))

/-- `sextB`: sign-extends bits [7:0] (Table 11.1). -/
def execSextB (d a : Reg) (s : State) : Outcome State Fault Refusal :=
  .next (s.alu1 (.sextB d a) d a fun x => (x.setWidth 8).signExtend 64)

/-- `sextH`: sign-extends bits [15:0] (Table 11.1). -/
def execSextH (d a : Reg) (s : State) : Outcome State Fault Refusal :=
  .next (s.alu1 (.sextH d a) d a fun x => (x.setWidth 16).signExtend 64)

/-- `sextW`: sign-extends bits [31:0] (Table 11.1). -/
def execSextW (d a : Reg) (s : State) : Outcome State Fault Refusal :=
  .next (s.alu1 (.sextW d a) d a fun x => (x.setWidth 32).signExtend 64)

/-- `zextB`: zero-extends bits [7:0] (Table 11.1). -/
def execZextB (d a : Reg) (s : State) : Outcome State Fault Refusal :=
  .next (s.alu1 (.zextB d a) d a fun x => (x.setWidth 8).setWidth 64)

/-- `zextH`: zero-extends bits [15:0] (Table 11.1). -/
def execZextH (d a : Reg) (s : State) : Outcome State Fault Refusal :=
  .next (s.alu1 (.zextH d a) d a fun x => (x.setWidth 16).setWidth 64)

/-- `zextW`: zero-extends bits [31:0] (Table 11.1). -/
def execZextW (d a : Reg) (s : State) : Outcome State Fault Refusal :=
  .next (s.alu1 (.zextW d a) d a fun x => (x.setWidth 32).setWidth 64)

/-- `addi`: adds the immediate (Table 11.2). -/
def execAddi (d a : Reg) (imm : BitVec 12) (s : State) : Outcome State Fault Refusal :=
  .next (s.alu1 (.addi d a imm) d a fun x => x + imm.signExtend 64)

/-- `andi`: AND with the immediate (Table 11.2). -/
def execAndi (d a : Reg) (imm : BitVec 12) (s : State) : Outcome State Fault Refusal :=
  .next (s.alu1 (.andi d a imm) d a fun x => x &&& imm.signExtend 64)

/-- `ori`: OR with the immediate (Table 11.2). -/
def execOri (d a : Reg) (imm : BitVec 12) (s : State) : Outcome State Fault Refusal :=
  .next (s.alu1 (.ori d a imm) d a fun x => x ||| imm.signExtend 64)

/-- `xori`: XOR with the immediate (Table 11.2). -/
def execXori (d a : Reg) (imm : BitVec 12) (s : State) : Outcome State Fault Refusal :=
  .next (s.alu1 (.xori d a imm) d a fun x => x ^^^ imm.signExtend 64)

/-- `slti`: signed less than the immediate (Table 11.2). -/
def execSlti (d a : Reg) (imm : BitVec 12) (s : State) : Outcome State Fault Refusal :=
  .next (s.alu1 (.slti d a imm) d a fun x => flagWord (x.slt (imm.signExtend 64)))

/-- `sltiu`: unsigned less than the immediate (Table 11.2). -/
def execSltiu (d a : Reg) (imm : BitVec 12) (s : State) : Outcome State Fault Refusal :=
  .next (s.alu1 (.sltiu d a imm) d a fun x => flagWord (x.ult (imm.signExtend 64)))

/-- `slli`: left shift by n (Table 11.2). -/
def execSlli (d a : Reg) (n : BitVec 6) (s : State) : Outcome State Fault Refusal :=
  .next (s.alu1 (.slli d a n) d a fun x => x <<< n.toNat)

/-- `srli`: logical right shift by n (Table 11.2). -/
def execSrli (d a : Reg) (n : BitVec 6) (s : State) : Outcome State Fault Refusal :=
  .next (s.alu1 (.srli d a n) d a fun x => x >>> n.toNat)

/-- `srai`: arithmetic right shift by n (Table 11.2). -/
def execSrai (d a : Reg) (n : BitVec 6) (s : State) : Outcome State Fault Refusal :=
  .next (s.alu1 (.srai d a n) d a fun x => x.sshiftRight n.toNat)

/-- `bfx`: bits [lo + width − 1 : lo], zero-extended (Table 11.2). -/
def execBfx (d a : Reg) (lo wm1 : BitVec 6) (s : State) : Outcome State Fault Refusal :=
  .next (s.alu1 (.bfx d a lo wm1) d a fun x => BitVec.ofNat 64 (x.toNat / 2 ^ lo.toNat % 2 ^ (wm1.toNat + 1)))

/-- `lui`: sext(imm18) × 4 096 (R144). -/
def execLui (d : Reg) (imm : BitVec 18) (s : State) : Outcome State Fault Refusal :=
  .next (s.compute (.lui d imm) fun r => r.setReg d (imm.signExtend 64 <<< 12))

/-- `aupc`: pc + sext(imm18) × 4 096 (R144). -/
def execAupc (d : Reg) (imm : BitVec 18) (s : State) : Outcome State Fault Refusal :=
  .next (s.compute (.aupc d imm) fun r => r.setReg d (r.pc + imm.signExtend 64 <<< 12))

end Sys2Proof.Machine
end

