-- ==== Sys2Proof/Machine/MemoryScalar.lean ====
section
/-! DEFINITION. Scalar loads, stores and atomics (R153 to R156). -/

namespace Sys2Proof.Machine

open Host (Outcome)

/-- The writes of a placed element that receives the number v. -/
def placedWrites (p : Placed) (v : Nat) : List (Phys × List ByteWrite) :=
  (p.phys.zip (bytesOf v p.phys.length)).map fun x => (x.1, [⟨x.1.key, 0xFF, x.2⟩])

/-- The address of a scalar access: disp counts in units of its size (R153). -/
def Hart.scalarAddr (h : Hart) (a : Reg) (disp : BitVec 6) (size : Nat) : Word :=
  h.reg a + disp.signExtend 64 * BitVec.ofNat 64 size

/-- A scalar load of size bytes (R153, R154). -/
def State.loadScalar (s : State) (i : Instr) (d a : Reg) (cls : BitVec 4) (sp : BitVec 2) (disp : BitVec 6) (size : Nat)
    (ext : Nat → Word) : State :=
  s.run i fun s h => s.withGroup h fun g =>
    match h.reached (s.placeElem g (spireOf s.cur) sp.toNat size false ⟨0, h.scalarAddr a disp size, size⟩) with
    | .error c => suppress s h c fun h => h.setReg d 0
    | .ok p => match s.awaitLinks s.cur h cls false p.phys with
      | some w => .stall w.1 w.2 false
      | none => .done ((s.access (spireOf s.cur) g.ctx p.phys).countAll g.ctx p.phys) (h.setReg d (ext (s.readPlaced h p)))

/-- A scalar store of size bytes (R153, R174). -/
def State.storeScalar (s : State) (i : Instr) (d a : Reg) (cls : BitVec 4) (sp : BitVec 2) (disp : BitVec 6) (size : Nat) :
    State :=
  s.run i fun s h => s.withGroup h fun g =>
    match s.placeElem g (spireOf s.cur) sp.toNat size true ⟨0, h.scalarAddr a disp size, size⟩ with
    | .error c => suppress s h c id
    | .ok p => s.store s.cur g h cls .raw (placedWrites p ((h.reg d).toNat % 2 ^ (8 * size))) (p.phys.map fun _ => p.elem)

/-- The low n bits of a number, sign-extended. -/
def sext (n v : Nat) : Word := BitVec.ofInt 64 (if 2 ^ (n - 1) ≤ v then (v : Int) - 2 ^ n else v)

/-- The low bits of a number, zero-extended. -/
def zext (v : Nat) : Word := BitVec.ofNat 64 v

/-- A release waits until the hart's older accesses have performed (R155). -/
def releases (ord : BitVec 2) : Bool := ord.getLsbD 1

/-- An atomic on the 64-bit word at s[sa] in a space (R155, R156, R280). It reads and writes at the home in one step; behind a link its
old value then comes back over the link (R334). -/
def State.atomic (s : State) (i : Instr) (d a b : Reg) (ord : BitVec 2) (cls : BitVec 4) (sp : Nat) (hostOk : Bool)
    (f : Word → Word → Word → Word) : State :=
  s.run i fun s h => s.withGroup h fun g => match h.pending with
    | some (.answered ls old) => if ls.all s.linkUp then .done s (h.setReg d old) else .stall s h false
    | _ => match s.placeElem g (spireOf s.cur) sp 8 true ⟨0, h.reg a, 8⟩ with
      | .error c => .trap c
      | .ok p =>
        if p.phys.any (fun q => q.tgt = 3) && !hostOk then .trap ⟨17, 1, true, false, 0, h.reg a⟩
        else if p.phys.any (s.writeBlocked g.ctx) || (releases ord && !h.unacked.isEmpty) || s.classBehind s.cur cls p.phys then
          .stall s h false
        else match s.awaitLinks s.cur h cls true p.phys with
          | some w => .stall w.1 w.2 false
          | none =>
            let old := BitVec.ofNat 64 (s.readPlaced h p)
            let new := f old (h.reg d) (h.reg b)
            let s' := (s.access (spireOf s.cur) g.ctx p.phys).countAll g.ctx p.phys
            let s' := s'.perform .raw ((placedWrites p new.toNat).flatMap (·.2))
            let ls := linksOf p.phys
            if ls.isEmpty then .done s' (h.setReg d old) else .stall s' { h with pending := some (.answered ls old) } false

/-- `ldb`: a byte, sign-extended (R153). -/
def execLdb (d a : Reg) (cls : BitVec 4) (sp : BitVec 2) (disp : BitVec 6) (s : State) : Outcome State Fault Refusal :=
  .next (s.loadScalar (.ldb d a cls sp disp) d a cls sp disp 1 (sext 8))

/-- `ldbu`: a byte, zero-extended (R153). -/
def execLdbu (d a : Reg) (cls : BitVec 4) (sp : BitVec 2) (disp : BitVec 6) (s : State) : Outcome State Fault Refusal :=
  .next (s.loadScalar (.ldbu d a cls sp disp) d a cls sp disp 1 zext)

/-- `ldh`: two bytes, sign-extended (R153). -/
def execLdh (d a : Reg) (cls : BitVec 4) (sp : BitVec 2) (disp : BitVec 6) (s : State) : Outcome State Fault Refusal :=
  .next (s.loadScalar (.ldh d a cls sp disp) d a cls sp disp 2 (sext 16))

/-- `ldhu`: two bytes, zero-extended (R153). -/
def execLdhu (d a : Reg) (cls : BitVec 4) (sp : BitVec 2) (disp : BitVec 6) (s : State) : Outcome State Fault Refusal :=
  .next (s.loadScalar (.ldhu d a cls sp disp) d a cls sp disp 2 zext)

/-- `ldw`: four bytes, sign-extended (R153). -/
def execLdw (d a : Reg) (cls : BitVec 4) (sp : BitVec 2) (disp : BitVec 6) (s : State) : Outcome State Fault Refusal :=
  .next (s.loadScalar (.ldw d a cls sp disp) d a cls sp disp 4 (sext 32))

/-- `ldwu`: four bytes, zero-extended (R153). -/
def execLdwu (d a : Reg) (cls : BitVec 4) (sp : BitVec 2) (disp : BitVec 6) (s : State) : Outcome State Fault Refusal :=
  .next (s.loadScalar (.ldwu d a cls sp disp) d a cls sp disp 4 zext)

/-- `ldd`: eight bytes (R153). -/
def execLdd (d a : Reg) (cls : BitVec 4) (sp : BitVec 2) (disp : BitVec 6) (s : State) : Outcome State Fault Refusal :=
  .next (s.loadScalar (.ldd d a cls sp disp) d a cls sp disp 8 zext)

/-- `stb`: the low 8 bits of s[sd] (R153). -/
def execStb (d a : Reg) (cls : BitVec 4) (sp : BitVec 2) (disp : BitVec 6) (s : State) : Outcome State Fault Refusal :=
  .next (s.storeScalar (.stb d a cls sp disp) d a cls sp disp 1)

/-- `sth`: the low 16 bits of s[sd] (R153). -/
def execSth (d a : Reg) (cls : BitVec 4) (sp : BitVec 2) (disp : BitVec 6) (s : State) : Outcome State Fault Refusal :=
  .next (s.storeScalar (.sth d a cls sp disp) d a cls sp disp 2)

/-- `stw`: the low 32 bits of s[sd] (R153). -/
def execStw (d a : Reg) (cls : BitVec 4) (sp : BitVec 2) (disp : BitVec 6) (s : State) : Outcome State Fault Refusal :=
  .next (s.storeScalar (.stw d a cls sp disp) d a cls sp disp 4)

/-- `std`: the low 64 bits of s[sd] (R153). -/
def execStd (d a : Reg) (cls : BitVec 4) (sp : BitVec 2) (disp : BitVec 6) (s : State) : Outcome State Fault Refusal :=
  .next (s.storeScalar (.std d a cls sp disp) d a cls sp disp 8)

/-- `aadd`: the word becomes the word plus s[sb] (R155). -/
def execAadd (d a b : Reg) (ord : BitVec 2) (cls : BitVec 4) (s : State) : Outcome State Fault Refusal :=
  .next (s.atomic (.aadd d a b ord cls) d a b ord cls 0 true (fun old _ v => old + v))

/-- `aswp`: the word becomes s[sb] (R155). -/
def execAswp (d a b : Reg) (ord : BitVec 2) (cls : BitVec 4) (s : State) : Outcome State Fault Refusal :=
  .next (s.atomic (.aswp d a b ord cls) d a b ord cls 0 true (fun _ _ v => v))

/-- `acas`: the word becomes s[sb] if the word equals s[sd] (R155). -/
def execAcas (d a b : Reg) (ord : BitVec 2) (cls : BitVec 4) (s : State) : Outcome State Fault Refusal :=
  .next (s.atomic (.acas d a b ord cls) d a b ord cls 0 true (fun old e v => if old = e then v else old))

/-- `amax`: the word becomes the signed maximum (R155). -/
def execAmax (d a b : Reg) (ord : BitVec 2) (cls : BitVec 4) (s : State) : Outcome State Fault Refusal :=
  .next (s.atomic (.amax d a b ord cls) d a b ord cls 0 false (fun old _ v => if old.slt v then v else old))

/-- `amin`: the word becomes the signed minimum (R155). -/
def execAmin (d a b : Reg) (ord : BitVec 2) (cls : BitVec 4) (s : State) : Outcome State Fault Refusal :=
  .next (s.atomic (.amin d a b ord cls) d a b ord cls 0 false (fun old _ v => if v.slt old then v else old))

/-- `aadd.bel`: the word becomes the word plus s[sb] (R155). -/
def execAaddBel (d a b : Reg) (ord : BitVec 2) (cls : BitVec 4) (s : State) : Outcome State Fault Refusal :=
  .next (s.atomic (.aaddBel d a b ord cls) d a b ord cls 3 true (fun old _ v => old + v))

/-- `aswp.bel`: the word becomes s[sb] (R155). -/
def execAswpBel (d a b : Reg) (ord : BitVec 2) (cls : BitVec 4) (s : State) : Outcome State Fault Refusal :=
  .next (s.atomic (.aswpBel d a b ord cls) d a b ord cls 3 true (fun _ _ v => v))

/-- `acas.bel`: the word becomes s[sb] if the word equals s[sd] (R155). -/
def execAcasBel (d a b : Reg) (ord : BitVec 2) (cls : BitVec 4) (s : State) : Outcome State Fault Refusal :=
  .next (s.atomic (.acasBel d a b ord cls) d a b ord cls 3 true (fun old e v => if old = e then v else old))

/-- `amax.bel`: the word becomes the signed maximum (R155). -/
def execAmaxBel (d a b : Reg) (ord : BitVec 2) (cls : BitVec 4) (s : State) : Outcome State Fault Refusal :=
  .next (s.atomic (.amaxBel d a b ord cls) d a b ord cls 3 true (fun old _ v => if old.slt v then v else old))

/-- `amin.bel`: the word becomes the signed minimum (R155). -/
def execAminBel (d a b : Reg) (ord : BitVec 2) (cls : BitVec 4) (s : State) : Outcome State Fault Refusal :=
  .next (s.atomic (.aminBel d a b ord cls) d a b ord cls 3 true (fun old _ v => if v.slt old then v else old))

end Sys2Proof.Machine
end

