-- ==== Sys2Proof/Machine/Haar.lean ====
section
/-! DEFINITION. The Haar and InvHaar transforms of R33 and their use on the blocks of an access (spec/22). -/

namespace Sys2Proof

/-- The kind of a transform (Table 22.1): integer, or float in a tag; none where an unsigned or 64-bit tag sets no kind. -/
def haarKind (t : Tag) : Option Tag := if t.isTapered then some .f32 else if t.isFloat then some t else none

/-- Step of R33: approximation and detail of a pair. The levels of a transform set no flag, and range is applied only by the final
Encode (R318). -/
def haarStep (k : Option Tag) (x y : Num) : Num × Num :=
  match k with
  | none => (.ofInt ((x.floor + y.floor) / 2), .ofInt (x.floor - y.floor))
  | some t => ((roundFloat t .rne ((addNum .rne x y).val.scale (-1))).1, (roundFloat t .rne ((addNum .rne x y.neg).val.scale (-1))).1)

/-- The inverse of Step (R33). -/
def haarBack (k : Option Tag) (a d : Num) : Num × Num :=
  match k with
  | none => let x := a.floor + (d.floor + 1) / 2; (.ofInt x, .ofInt (x - d.floor))
  | some t => ((roundFloat t .rne (addNum .rne a d).val).1, (roundFloat t .rne (addNum .rne a d.neg).val).1)

/-- One level: the approximations and the details of consecutive pairs. -/
def haarPairs (k : Option Tag) : List Num → List Num × List Num
  | x :: y :: t =>
    let r := haarPairs k t
    let s := haarStep k x y
    (s.1 :: r.1, s.2 :: r.2)
  | _ => ([], [])

/-- Haar(x, L, k): the coefficient-tree layout, coarsest first (R33, R316). -/
def haar (k : Option Tag) (x : List Num) : Nat → List Num
  | 0 => x
  | l + 1 => let r := haarPairs k x; haar k r.1 l ++ r.2

/-- One level undone: approximations and details give the pairs. -/
def unpair (k : Option Tag) : List Num → List Num → List Num
  | a :: s, d :: t => let r := haarBack k a d; r.1 :: r.2 :: unpair k s t
  | _, _ => []

/-- InvHaar: the levels from the coarsest down; acc holds 2^(L - l) values and rest the remaining details. -/
def invHaarFrom (k : Option Tag) (acc rest : List Num) : Nat → List Num
  | 0 => acc
  | l + 1 => invHaarFrom k (unpair k acc rest) (rest.drop acc.length) l

/-- InvHaar(y, L, k) of R33. -/
def invHaar (k : Option Tag) (y : List Num) (l : Nat) : List Num := invHaarFrom k (y.take 1) (y.drop 1) l

/-- f applied to each of b whole blocks of w elements; what follows them stays plain (R317). -/
def onBlocks (f : List Num → List Num) (w : Nat) : Nat → List Num → List Num
  | 0, x => x
  | b + 1, x => f (x.take w) ++ onBlocks f w b (x.drop w)

/-- The forward transform of the whole blocks of a sequence at level l. -/
def haarAll (k : Option Tag) (l : Nat) (x : List Num) : List Num :=
  if l = 0 then x else onBlocks (fun b => haar k b l) (2 ^ l) (x.length / 2 ^ l) x

/-- The inverse transform of the whole blocks of a sequence at level l. -/
def invHaarAll (k : Option Tag) (l : Nat) (x : List Num) : List Num :=
  if l = 0 then x else onBlocks (fun b => invHaar k b l) (2 ^ l) (x.length / 2 ^ l) x

/-- Element i lies in a whole block of level l below n and is a detail coefficient (R316, R317). -/
def isDetail (l n i : Nat) : Bool := l != 0 && i % 2 ^ l != 0 && i / 2 ^ l < n / 2 ^ l

/-- A detail below the threshold becomes zero; the approximation and a plain element stay (R319, R46). -/
def thresholdAll (l : Nat) (theta : Num) (x : List Num) : List Num :=
  let n := x.length
  (x.zip (List.range n)).map fun p => if isDetail l n p.2 && p.1.abs.lt theta then .zero else p.1

end Sys2Proof
end

