-- ==== Sys2Proof/Machine/Special.lean ====
section
/-! DEFINITION. The special functions of R202 and R211, exact up to the one rounding the spec names. A transcendental value
is enclosed between two rationals, ever closer, until every rounding of the computing type treats both alike; the function
then answers a rational between them, which Round treats as it treats the exact value. -/

namespace Sys2Proof

/-- floor(sqrt n) by bits from 4^k downwards; r is the root found so far. -/
def sqrtBits (n r : Nat) : Nat → Nat
  | 0 => r
  | k + 1 => if (r + 2 ^ k) * (r + 2 ^ k) ≤ n then sqrtBits n (r + 2 ^ k) k else sqrtBits n r k

/-- floor(sqrt n). -/
def isqrt (n : Nat) : Nat := sqrtBits n 0 (Nat.log2 n / 2 + 1)

/-- The square root of n / d to 256 fraction bits beyond its leading one: exact when it is exact, otherwise a rational
strictly between two neighbours at that precision. -/
def sqrtQuot (n d : Nat) : Num :=
  let s := 256 + Nat.log2 d
  let r := isqrt (n * d * 4 ^ s)
  if r * r = n * d * 4 ^ s then .fin false r (d * 2 ^ s) else .fin false (2 * r + 1) (d * 2 ^ (s + 1))

/-- √x with the special values of Table 13.3. -/
def sqrtNum (x : Num) : Fl Num :=
  match x with
  | .nan _ => nanOf [x]
  | .inf s => if s then ⟨.qnan, .nv⟩ else .pure x
  | .fin s n d => if n = 0 then .pure x else if s then ⟨.qnan, .nv⟩ else .pure (sqrtQuot n d)

/-- 1 / x (Table 13.3). -/
def rcpNum (x : Num) : Fl Num := divNum (.ofNat 1) x

/-- 1 / √x (Table 13.3). -/
def rsqNum (x : Num) : Fl Num :=
  match x with
  | .nan _ => nanOf [x]
  | .inf s => if s then ⟨.qnan, .nv⟩ else .pure .zero
  | .fin s n d => if n = 0 then ⟨.inf s, .dz⟩ else if s then ⟨.qnan, .nv⟩ else .pure (sqrtQuot d n)

/-- An interval [lo, hi] of multiples of 2^-p. -/
structure Span where
  lo : Nat
  hi : Nat
  deriving DecidableEq, Repr

/-- Product of two intervals at precision p. -/
def Span.mul (p : Nat) (a b : Span) : Span := ⟨a.lo * b.lo / 2 ^ p, a.hi * b.hi / 2 ^ p + 1⟩

/-- Quotient of two intervals at precision p; b lies above 0. -/
def Span.div (p : Nat) (a b : Span) : Span := ⟨a.lo * 2 ^ p / b.hi, a.hi * 2 ^ p / (max b.lo 1) + 1⟩

/-- The square of an interval, j times over. -/
def Span.squares (p : Nat) (a : Span) : Nat → Span
  | 0 => a
  | j + 1 => Span.squares p (Span.mul p a a) j

/-- 1 + (y / k) (1 + (y / (k + 1)) ( … )), the series of e^y from term k on, for an interval y in [0, 1/2]. The last term
stands for the tail, which lies between 1 and 2. -/
def expSeries (p : Nat) (y : Span) (k : Nat) : Nat → Span
  | 0 => ⟨2 ^ p, 2 ^ (p + 1)⟩
  | n + 1 =>
    let t := Span.mul p y (expSeries p y (k + 1) n)
    ⟨2 ^ p + t.lo / k, 2 ^ p + t.hi / k + 1⟩

/-- e^(n / d) for n / d ≥ 0 as an interval of precision p: halve the argument j times, sum, square j times. -/
def expSpan (p n d : Nat) : Span :=
  let j := (ilog2 n d + 3).toNat
  let y : Span := ⟨n * 2 ^ p / (d * 2 ^ j), n * 2 ^ p / (d * 2 ^ j) + 1⟩
  Span.squares p (expSeries p y 1 (p / 3 + 8)) j

/-- z (1/k + z² (1/(k + 2) + … )), the series of atanh z from 1/k on, for z in [0, 1/3]. -/
def atanhSeries (p : Nat) (z2 : Span) (k : Nat) : Nat → Span
  | 0 => ⟨0, 2 ^ p⟩
  | n + 1 =>
    let t := Span.mul p z2 (atanhSeries p z2 (k + 2) n)
    ⟨2 ^ p / k + t.lo, 2 ^ p / k + 1 + t.hi⟩

/-- 2 atanh(a / b) for 0 ≤ a / b ≤ 1/3. -/
def atanhTwice (p a b : Nat) : Span :=
  let z : Span := ⟨a * 2 ^ p / b, a * 2 ^ p / b + 1⟩
  let r := Span.mul p z (atanhSeries p (Span.mul p z z) 1 (p / 3 + 4))
  ⟨2 * r.lo, 2 * r.hi⟩

/-- |ln (n / d)| as an interval of precision p, for n / d > 0. -/
def lnSpan (p n d : Nat) : Span :=
  let k := ilog2 n d
  let (a, b) := if 0 ≤ k then (n, d * 2 ^ k.natAbs) else (n * 2 ^ k.natAbs, d)
  let m := atanhTwice p (a - b) (a + b)
  let l := atanhTwice p 1 3
  if 0 ≤ k then ⟨k.natAbs * l.lo + m.lo, k.natAbs * l.hi + m.hi⟩ else ⟨k.natAbs * l.lo - m.hi, k.natAbs * l.hi - m.lo⟩

/-- The four functions that the intervals serve. -/
inductive Fn where
  | exp | ln | tanh | sig
  deriving DecidableEq, Repr

/-- |f x| as an interval of precision p, for a finite x = (-1)^neg n / d. -/
def Fn.span (f : Fn) (p : Nat) (neg : Bool) (n d : Nat) : Span :=
  let one : Span := ⟨2 ^ p, 2 ^ p⟩
  match f with
  | .exp => if neg then Span.div p one (expSpan p n d) else expSpan p n d
  | .ln => lnSpan p n d
  | .tanh => let e := expSpan p (2 * n) d; Span.div p ⟨e.lo - 2 ^ p, e.hi - 2 ^ p⟩ ⟨e.lo + 2 ^ p, e.hi + 2 ^ p⟩
  | .sig =>
    let e := expSpan p n d
    if neg then Span.div p one ⟨e.lo + 2 ^ p, e.hi + 2 ^ p⟩ else Span.div p e ⟨e.lo + 2 ^ p, e.hi + 2 ^ p⟩

/-- Every value strictly between lo / 2^p and hi / 2^p rounds alike in t: they lie within one half of one unit in the last
place. -/
def Span.settled (t : Tag) (p : Nat) (s : Span) : Bool :=
  s.lo != 0 &&
    (let q : Int := max (ilog2 s.lo (2 ^ p) - t.frac) (1 - (t.ebias : Int) - t.frac) - 1
     if q + p < 0 then false else s.hi ≤ (s.lo / 2 ^ (q + p).toNat + 1) * 2 ^ (q + p).toNat)

/-- A rational that rounds in t as |f x| does, by precisions p, 2p, … -/
def Fn.near (f : Fn) (t : Tag) (neg : Bool) (n d : Nat) (p : Nat) : Nat → Num
  | 0 =>
    let s := f.span p neg n d
    .fin false (if Config.pickUpper p then s.hi else s.lo) (2 ^ p)
  | fuel + 1 =>
    let s := f.span p neg n d
    if s.settled t p then .fin false (s.lo + s.hi) (2 ^ (p + 1)) else Fn.near f t neg n d (2 * p) fuel

/-- A value just below 1, nearer than any rounding boundary. -/
def belowOne : Num := .fin false (3 * 2 ^ 200 - 1) (3 * 2 ^ 200)

/-- A value just above 1. -/
def aboveOne : Num := .fin false (3 * 2 ^ 200 + 1) (3 * 2 ^ 200)

/-- A value above every float's range. -/
def huge : Num := .fin false (3 * 2 ^ 2000 + 1) 3

/-- A positive value below half of every float's least subnormal. -/
def tiny : Num := .fin false 1 (3 * 2 ^ 2000)

/-- Precision at which |f x| is first tried. -/
def Fn.start (f : Fn) (neg : Bool) (n d : Nat) : Nat :=
  match f with
  | .exp | .sig => if neg then 160 + 2 * (n / d) else 160
  | _ => 160

/-- e^x, as a rational that rounds in t as it does (Table 13.3). -/
def expNum (t : Tag) (x : Num) : Fl Num :=
  match x with
  | .nan _ => nanOf [x]
  | .inf s => .pure (if s then .zero else x)
  | .fin s n d =>
    .pure <| if n = 0 then .ofNat 1
      else if 1100 * d ≤ n then (if s then tiny else huge)
      else if ilog2 n d < -100 then (if s then belowOne else aboveOne)
      else Fn.near .exp t s n d (Fn.start .exp s n d) 4

/-- ln x (Table 13.3). -/
def lnNum (t : Tag) (x : Num) : Fl Num :=
  match x with
  | .nan _ => nanOf [x]
  | .inf s => if s then ⟨.qnan, .nv⟩ else .pure x
  | .fin s n d =>
    if n = 0 then ⟨.inf true, .dz⟩ else if s then ⟨.qnan, .nv⟩ else
      .pure <| if n = d then .zero
        else let r := Fn.near .ln t false n d (Fn.start .ln false n d) 4
          if n < d then r.neg else r

/-- tanh x (Table 13.3). -/
def tanhNum (t : Tag) (x : Num) : Fl Num :=
  match x with
  | .nan _ => nanOf [x]
  | .inf s => .pure (if s then Num.neg (.ofNat 1) else .ofNat 1)
  | .fin s n d =>
    let r := if n = 0 then .zero
      else if 60 * d ≤ n then belowOne
      else if ilog2 n d < -40 then .fin false (n * (3 * 2 ^ 200 - 1)) (d * (3 * 2 ^ 200))
      else Fn.near .tanh t false n d (Fn.start .tanh false n d) 4
    .pure (if s then r.neg else r)

/-- 1 / (1 + e^-x) (Table 13.3). -/
def sigNum (t : Tag) (x : Num) : Fl Num :=
  match x with
  | .nan _ => nanOf [x]
  | .inf s => .pure (if s then .zero else .ofNat 1)
  | .fin s n d =>
    .pure <| if n = 0 then .fin false 1 2
      else if 1100 * d ≤ n then (if s then tiny else belowOne)
      else if ilog2 n d < -100 then (if s then belowOne else aboveOne).scale (-1)
      else Fn.near .sig t s n d (Fn.start .sig s n d) 4

/-- ExpF of R211, its rounding's flags included. -/
def expF (x : Num) : Fl Num := (expNum .f32 x).bind (roundNE .f32)

/-- Diff of R211. -/
def diffF (a b : Num) : Fl Num :=
  if a == .inf true then .pure (.inf true)
  else if a.eq b then .pure .zero
  else (addNum .rne a b.neg).bind (roundNE .f32)

/-- The 64-bit constants of Mix (R209). -/
def mixRound (key x : BitVec 64) (j : Nat) : BitVec 64 :=
  let x := x ^^^ (key + BitVec.ofNat 64 j * 0x9E3779B97F4A7C15#64)
  let x := x * 0xA3C59AC2F1E36D27#64
  x ^^^ (x >>> 31)

/-- Mix(key, ctr) of R209. -/
def mix (key ctr : BitVec 64) : BitVec 64 := (List.range 6).foldl (mixRound key) ctr

/-- H1 and H2 of R217. -/
def filterHash (x : Nat) : Nat × Nat :=
  let x := x % 2 ^ 32
  (x * 0x2545F491 % 2 ^ 32 / 2 ^ 21, (x * 0x6C8E9CF5 + 0x3A7D1B43) % 2 ^ 32 / 2 ^ 21)

end Sys2Proof
end

