-- ==== Sys2Proof/Machine/Operands.lean ====
section
/-! DEFINITION. Vector operands and results: active elements (R186), reading a register (R187, R190), the scalar form, reserved
codes (R62), and writing codes, tags and masks (R40, R188). -/

namespace Sys2Proof.Machine

/-- n codes of w bits of a number, lowest first. -/
def codesOf (w : Nat) : Nat → Nat → List Nat
  | 0, _ => []
  | n + 1, v => v % 2 ^ w :: codesOf w n (v / 2 ^ w)

/-- The code of tag t in an element: a writer clears bits [7:6] of a t6 element and a reader ignores them (R58). -/
def cleanCode (t : Tag) (c : Nat) : Nat := if t = .t6 then c % 64 else c

/-- Elements 0 to n - 1 of register r as stored (R36). -/
def Arch.codes (a : Arch) (r n : Nat) : List Nat :=
  (codesOf (a.tagOf r).bits n (Store.get 0 a.v r)).map (cleanCode (a.tagOf r))

/-- Element i of register r as stored. -/
def Arch.code (a : Arch) (r i : Nat) : Nat :=
  let w := (a.tagOf r).bits
  cleanCode (a.tagOf r) (Store.get 0 a.v r / 2 ^ (w * i) % 2 ^ w)

/-- The number old with the codes of w bits that a list gives, lowest first; none keeps (R40). -/
def mergeCodes (w : Nat) (old : Nat) : List (Option Nat) → Nat
  | [] => old
  | c :: t => c.getD old % 2 ^ w + 2 ^ w * mergeCodes w (old / 2 ^ w) t

/-- Elements up to the highest one that a list gives. -/
def topElem : List (Option Nat) → Nat
  | [] => 0
  | c :: t => let r := topElem t; if r = 0 then (if c.isSome then 1 else 0) else r + 1

/-- Writes TAG and DOM of register r. -/
def Arch.setTag (a : Arch) (r : Nat) (t : Tag) (dom : Nat) : Arch :=
  { a with vtag := Store.set .zero a.vtag r ⟨t, BitVec.ofNat 3 dom⟩ }

/-- Writes codes into register r under tag t, with its written extent (R40, R188, R348). -/
def Arch.setCodes (a : Arch) (r : Nat) (t : Tag) (dom : Nat) (l : List (Option Nat)) : Arch :=
  let l := l.map fun c => c.map (cleanCode t)
  { a.setTag r t dom with
    v := Store.set 0 a.v r (mergeCodes t.bits (Store.get 0 a.v r) l)
    extent := Store.set 0 a.extent r (max (Store.get 0 a.extent r) (topElem l * t.bytes)) }

/-- n of R186: min of vl and VLMAX over tags, at register-bytes rb. -/
def Arch.count (a : Arch) (rb : Nat) (tags : List Tag) : Nat := tags.foldl (fun n t => min n (rb / t.bytes)) a.vl.toNat

/-- The active elements below n under mask m, as a number (R186). -/
def Arch.active (a : Arch) (m : BitVec 4) (n : Nat) : Nat := a.mask n m.toNat % 2 ^ n

/-- The rounding mode of an instruction's field. -/
def modeOf (f : VA) : Rnd := Rnd.ofField f.rnd

/-- Values of elements, with the flags of their reading and the lowest element with a reserved code (R62). -/
structure Vals where
  xs : List Num
  flags : Flags
  rsv : Option Nat
  deriving DecidableEq, Repr

/-- The lower of two element numbers, if any. -/
def lowest (a b : Option Nat) : Option Nat := match a, b with
  | some x, some y => some (min x y)
  | some x, none => some x
  | none, y => y

/-- A block of 2^l elements that holds element i, whole below n, has an active element. -/
def blockActive (act l n i : Nat) : Bool := i / 2 ^ l < n / 2 ^ l && act / 2 ^ (i / 2 ^ l * 2 ^ l) % 2 ^ 2 ^ l != 0

/-- Decodes numbered codes where need holds; other elements read as 0, a reserved code as +0. The second part is the lowest element
with a reserved code among those that rep names: an element with mask bit 0, or at or above vl, never traps or sets a flag
(R57, R62, R33; log 63). -/
def decodeAll (t : Tag) (need rep : Nat → Bool) : Nat → List Nat → List Num × Option Nat
  | _, [] => ([], none)
  | i, c :: l =>
    let r := decodeAll t need rep (i + 1) l
    if need i then
      match decodeNum t 0 c with
      | some x => (x :: r.1, r.2)
      | none => (.zero :: r.1, if rep i then some i else r.2)
    else (.zero :: r.1, r.2)

/-- Values encoded again in the operand's own tag where need holds (R190); the codes, with the flags of those that rep names (R33). -/
def encodeAll (t : Tag) (m : Rnd) (sat : Bool) (need rep : Nat) : List Num → Fl (List Nat)
  | [] => .pure []
  | x :: l =>
    let r := encodeAll t m sat (need / 2) (rep / 2) l
    if need % 2 = 1 then
      let c := encodeNum t m sat 0 x
      ⟨c.val :: r.val, (if rep % 2 = 1 then c.flags else 0) ||| r.flags⟩
    else ⟨0 :: r.val, r.flags⟩

/-- Elements in whole blocks of level l below n, as a number. -/
def wholeBlocks (l n : Nat) : Nat := 2 ^ (n / 2 ^ l * 2 ^ l) - 1

/-- The codes that reconstruction delivers for the elements of register r that need names; a plain register's own (R190, R317).
Only the elements that rep names set flags or report a reserved code. -/
def Arch.codesFor (a : Arch) (r need rep n : Nat) (m : Rnd) (sat : Bool) : Fl (List Nat) × Option Nat :=
  let t := a.tagOf r
  let l := a.domOf r
  let cs := a.codes r n
  if l = 0 then (.pure cs, none)
  else
    let whole := wholeBlocks l n
    let d := decodeAll t (fun i => blockActive need l n i) (bitOf rep) 0 cs
    let ys := encodeAll t m sat (need &&& whole) rep (invHaarAll (haarKind t) l d.1)
    (⟨((List.range n).zip (ys.val.zip cs)).map fun p => if bitOf whole p.1 then p.2.1 else p.2.2, ys.flags⟩, d.2)

/-- The codes that reconstruction delivers for the active elements of register r. -/
def Arch.plainCodes (a : Arch) (r act n : Nat) (m : Rnd) (sat : Bool) : Fl (List Nat) × Option Nat := a.codesFor r act act n m sat

/-- The values of the elements of register r that need names, reconstructed unless keep says that the instruction keeps the
domain; only those that rep names set flags or report a reserved code (R62, R33, R190). -/
def Arch.valuesFor (a : Arch) (r need rep n : Nat) (keep : Bool) (m : Rnd) (sat : Bool) : Vals :=
  if keep || a.domOf r = 0 then
    let d := decodeAll (a.tagOf r) (bitOf need) (bitOf rep) 0 (a.codes r n)
    ⟨d.1, 0, d.2⟩
  else
    let c := a.codesFor r need rep n m sat
    let d := decodeAll (a.tagOf r) (bitOf need) (bitOf rep) 0 c.1.val
    ⟨d.1, c.1.flags, lowest c.2 d.2⟩

/-- The values of the active elements of register r. -/
def Arch.values (a : Arch) (r act n : Nat) (keep : Bool) (m : Rnd) (sat : Bool) : Vals := a.valuesFor r act act n keep m sat

/-- The lowest set bit of a number below 2^n. -/
def lowBit (act n : Nat) : Option Nat := (List.range n).find? (bitOf act)

/-- The scalar form's B, the same for every element (R187): read only where some element is active. -/
def scalarVals (t : Tag) (w : Word) (act n : Nat) : Vals :=
  match decodeNum t 0 (w.toNat % 2 ^ t.bits) with
  | some x => ⟨List.replicate n x, 0, none⟩
  | none => ⟨List.replicate n .zero, 0, lowBit act n⟩

/-- Several operands' reserved codes judged together: the trap "reserved code" with the lowest element, or RSV (R62). -/
def Arch.judge (a : Arch) (l : List Vals) : Except Cause Flags :=
  let f := l.foldl (fun f v => f ||| v.flags) 0
  match l.foldl (fun r v => lowest r v.rsv) none with
  | none => .ok f
  | some i => if a.hctl.getLsbD 0 then .error (.plain 24 i) else .ok (f ||| .rsv)

/-- The trap "tag mismatch" (R189). -/
def tagMismatch : Cause := .plain 32 0

/-- Requires c, in the ninth place of R90. -/
def require (c : Bool) : Except Cause Unit := if c then .ok () else .error tagMismatch

/-- f on each active element of a list; none elsewhere. -/
def onActive {β : Type} (act : Nat) (f : β → Fl Nat) : List β → Fl (List (Option Nat))
  | [] => .pure []
  | b :: t =>
    let r := onActive (act / 2) f t
    if act % 2 = 1 then
      let c := f b
      ⟨some c.val :: r.val, c.flags ||| r.flags⟩
    else ⟨none :: r.val, r.flags⟩

/-- The codes of a result written to vd, with the flags of the reads. -/
def Arch.put (a : Arch) (vd : Nat) (t : Tag) (dom : Nat) (f : Flags) (c : Fl (List (Option Nat))) : Arch :=
  (a.setCodes vd t dom c.val).addFlags (f ||| c.flags)

/-- Active bits of mask md take bits of val; the others keep (R40). -/
def Arch.mergeMask (a : Arch) (md : BitVec 4) (act val : Nat) : Arch :=
  let old := Store.get 0 a.m md.toNat
  a.setMask md.toNat ((old ^^^ (old &&& act)) ||| (val &&& act))

/-- The number whose bit i is the i-th element of a list. -/
def bitsOf : List Bool → Nat
  | [] => 0
  | b :: t => b.toNat + 2 * bitsOf t

/-- A vector instruction that computes on its hart's registers, given register-bytes. -/
def State.vector (s : State) (i : Instr) (f : Arch → Nat → Except Cause Arch) : State :=
  s.run i fun s h => match f h.arch (s.regBytes h) with
    | .ok a => .done s { h with arch := a }
    | .error c => .trap c

end Sys2Proof.Machine
end

