-- ==== Sys2Proof/Machine/VectorMemory.lean ====
section
/-! DEFINITION. Vector loads and stores through memory formats, `.sc` accesses and the counting-filter query (R182 to R184, R217
to R230, R315 to R322). -/

namespace Sys2Proof.Machine

open Host (Outcome)

/-- How an access forms its addresses and converts (R219, R224): offs lists X(i) of an indexed access. -/
structure Plan where
  space : Nat
  base : Word
  stride : Int
  fields : Nat
  mf : Word
  packs : Bool
  offs : Option (List Int)
  deriving DecidableEq, Repr

namespace Plan

/-- FMT (Table 3.6). -/
def fmt (p : Plan) : Tag := (Tag.ofCode (p.mf.toNat % 16)).getD .i8

/-- Stored element size in bytes, 1 for t6 (Table 14.2). -/
def size (p : Plan) : Nat := p.fmt.bytes

/-- LEVEL (Table 3.6). -/
def level (p : Plan) : Nat := p.mf.toNat / 2 ^ 8 % 8

/-- BIAS, signed (Table 3.6). -/
def bias (p : Plan) : Int := (p.mf.extractLsb' 24 8).toInt

/-- HKSEL (Table 3.6). -/
def hksel (p : Plan) : Nat := p.mf.toNat / 2 ^ 16 % 16

/-- t6 codes lie packed six bits apart (R223). -/
def packed (p : Plan) : Bool := p.packs && p.fmt == .t6

end Plan

/-- One element of an access: field, index, first bit in its bytes, and address. -/
structure Touch where
  fld : Nat
  bit : Nat
  elem : Elem
  deriving DecidableEq, Repr

/-- Field j of element i (R223 to R225). -/
def touchAt (p : Plan) (i j : Nat) : Touch :=
  if p.packed then
    let b := 6 * i
    ⟨j, b % 8, ⟨i, p.base + BitVec.ofNat 64 (b / 8), (b % 8 + 13) / 8⟩⟩
  else
    let off : Int := match p.offs with
      | some l => l.getD i 0
      | none => i * p.stride + j * p.size
    ⟨j, 0, ⟨i, p.base + BitVec.ofInt 64 off, p.size⟩⟩

/-- The elements that need names, by ascending index and then field. -/
def touches (p : Plan) (need n : Nat) : List Touch :=
  ((List.range n).filter (bitOf need)).flatMap fun i => (List.range p.fields).map fun j => touchAt p i j

/-- Alignment that an element needs (R220). -/
def Plan.alignment (p : Plan) : Nat := if p.packed then 0 else min p.size 8

/-- What an access asks of each element's place beyond translation: no link for `.sc` or for a store at a level; one granule
level for a load, as hart h sees it through its held stores (R172, R229, R321, R322). -/
def State.touchFault (s : State) (h : Hart) (write sc : Bool) (level : Nat) (lg : Option Nat) (ps : List Phys) : Option Nat :=
  if sc && ps.any (·.link.isSome) then some 2
  else if write && level != 0 && ps.any (·.link.isSome) then some 3
  else match lg with
    | some l => if ps.any fun q => s.levelSeen h q.key != l then some 4 else none
    | none => none

/-- One element checked: alignment, bound, translation, access and revocation, then what the access asks (R226). -/
def State.checkTouch (s : State) (h : Hart) (g : Group) (spire : Nat) (p : Plan) (write sc : Bool) (lg : Option Nat) (t : Touch) :
    Except Cause (List Phys) :=
  let r := s.placeElem g spire p.space p.alignment write t.elem
  match if write then r else h.reached r with
  | .error c => .error c
  | .ok q => match s.touchFault h write sc p.level lg q.phys with
    | some sub => .error (accessCause t.elem 17 sub write)
    | none => .ok q.phys

/-- The first fault of checked elements. -/
def firstFault (l : List (Touch × Except Cause (List Phys))) : Option Cause :=
  l.findSome? fun x => match x.2 with
    | .error c => some c
    | .ok _ => none

/-- The places of checked elements. -/
def placesOf (l : List (Touch × Except Cause (List Phys))) : List Phys :=
  l.flatMap fun x => match x.2 with
    | .ok ps => ps
    | .error _ => []

/-- The code of an element from the number of its bytes (R223). -/
def touchCode (p : Plan) (t : Touch) (v : Nat) : Nat := if p.fmt = .t6 then v / 2 ^ t.bit % 64 else v

/-- Elements of whole blocks of level l below n that hold an active element (R317). -/
def blocksOf (act n l : Nat) : Nat :=
  if l = 0 then 0 else bitsOf ((List.range n).map fun i => blockActive act l n i)

/-- What a load delivers: result tag, level delivered and level stored, n, the active and the accessed elements. -/
structure Loading where
  td : Tag
  lm : Nat
  lg : Nat
  n : Nat
  act : Nat
  need : Nat
  deriving DecidableEq, Repr

/-- LEVEL of the granule that holds the lowest active element; 0 where that element faults (R322). -/
def State.lowestLevel (s : State) (h : Hart) (g : Group) (spire : Nat) (p : Plan) (act n : Nat) : Nat :=
  match lowBit act n with
  | none => 0
  | some i => match s.placeElem g spire p.space 0 false (touchAt p i 0).elem with
    | .ok q => (q.phys.head?.map fun x => s.levelSeen h x.key).getD 0
    | .error _ => 0

/-- The accessed elements of a load (R317, R322). -/
def loadNeed (act n lg lm : Nat) : Nat := if lg = lm then act else act ||| blocksOf act n lg ||| blocksOf act n lm

/-- What a load of n elements delivers. -/
def State.loading (s : State) (h : Hart) (g : Group) (spire : Nat) (p : Plan) (td : Tag) (n act : Nat) : Loading :=
  let lm := if td.carries then p.level else 0
  let lg := s.lowestLevel h g spire p act n
  ⟨td, lm, lg, n, act, loadNeed act n lg lm⟩

/-- The codes of field j of n elements, from the list of accessed ones. -/
def fieldCodes (fields j : Nat) (need : Nat) : Nat → List (Option Nat) → List (Option Nat)
  | 0, _ => []
  | n + 1, cs =>
    if need % 2 = 1 then cs.getD j none :: fieldCodes fields j (need / 2) n (cs.drop fields)
    else none :: fieldCodes fields j (need / 2) n cs

/-- Stored codes decoded at bias 0, from index i on; an absent code is 0, a reserved one +0; the lowest reserved one among the
elements that rep names (R221, R62; log 63). -/
def decodeStored (t : Tag) (rep : Nat → Bool) : Nat → List (Option Nat) → List Num × Option Nat
  | _, [] => ([], none)
  | i, c :: l =>
    let r := decodeStored t rep (i + 1) l
    match c with
    | none => (.zero :: r.1, r.2)
    | some c => match decodeNum t 0 c with
      | some x => (x :: r.1, r.2)
      | none => (.zero :: r.1, if rep i then some i else r.2)

/-- Conv_in with the conversion from stored level lg to level lm (R221, R322, Table 22.1); rep names the active elements. An element without a
code, such as one that faults in a speculative load, is +0 whatever the conversion makes of its place (R175). -/
def convIn (p : Plan) (lg lm rep : Nat) (cs : List (Option Nat)) : Vals :=
  let d := decodeStored p.fmt (bitOf rep) 0 cs
  let k := haarKind p.fmt
  let x := if lg = lm then d.1 else haarAll k lm (invHaarAll k lg d.1)
  ⟨(x.zip cs).map fun y => if y.2.isNone then .zero else y.1.scale p.bias, 0, d.2⟩

/-- Registers of a load after its codes have been read (R225, R226). -/
def Arch.loadFinish (a : Arch) (p : Plan) (l : Loading) (vd : Nat) (m : Rnd) (sat : Bool) (codes : List (Option Nat)) :
    Except Cause Arch := do
  let vals := (List.range p.fields).map fun j => convIn p l.lg l.lm l.act (fieldCodes p.fields j l.need l.n codes)
  let fl ← a.judge vals
  let r := (vals.zip (List.range p.fields)).foldl
    (fun (a : Arch) v => a.put (vd + v.2) l.td l.lm 0 (onActive l.act (encodeNum l.td m sat 0) v.1.xs)) a
  .ok (r.addFlags fl)

/-- The rounding mode of a VM instruction. -/
def modeVM (f : VM) : Rnd := Rnd.ofField f.rnd

/-- What a load does once its elements have been checked: it waits for what crosses a link, reads, and delivers. -/
def State.loadChecked (s : State) (k : Nat) (h : Hart) (g : Group) (f : VM) (p : Plan) (l : Loading)
    (cs : List (Touch × Except Cause (List Phys))) (land : List Nat) : Result :=
  let ps := placesOf cs
  match s.awaitLinks k h f.cls false ps with
  | some w => .stall w.1 w.2 true
  | none =>
    let codes := cs.map fun x => match x.2 with
      | .ok ps => some (touchCode p x.1 (s.readPlaced h ⟨x.1.elem, ps⟩))
      | .error _ => none
    match h.arch.loadFinish p l f.f1.toNat (modeVM f) f.sat codes with
    | .error c => .trap c
    | .ok a =>
      let s := (s.access (spireOf k) g.ctx ps).countAll g.ctx ps
      let h := { h with arch := a, landing := h.landing ++ (if land.isEmpty then [] else [land]) }
      if (firstFault cs).isSome then .soft s h else .done s h

/-- A load of the elements below vl (R226); speculative faults are suppressed (R175). also: what lands with its registers. -/
def State.loadVector (s : State) (h : Hart) (g : Group) (f : VM) (p : Plan) (tags : List Tag) (also : List Nat) : Result :=
  let a := h.arch
  let k := s.cur
  let td := a.result f.tag f.f1
  let n := a.count (g.regBytes a.shape) (td :: tags)
  let l := s.loading h g (spireOf k) p td n (a.active f.mask n)
  let cs := (touches p l.need n).map fun t => (t, s.checkTouch h g (spireOf k) p false false (some l.lg) t)
  match firstFault cs, h.exits.isEmpty with
  | some c, true => .trap c
  | _, _ => s.loadChecked k h g f p l cs (if l.need = 0 then [] else (List.range p.fields).map (f.f1.toNat + ·) ++ also)

/-- Adds flags to the hart of a completed result. -/
def Result.addFlags (f : Flags) : Result → Result
  | .done s h => .done s (h.mapArch fun a => a.addFlags f)
  | .soft s h => .soft s (h.mapArch fun a => a.addFlags f)
  | r => r

/-- The plan of a form (R224): packs for the unit-stride forms, seg for segments. -/
def Arch.plan (a : Arch) (f : VM) (packs seg : Bool) : Plan :=
  let mf := Store.get 0 a.mf f.mf.toNat
  let fields := if seg then f.nf.toNat + 1 else 1
  let z := ((Tag.ofCode (mf.toNat % 16)).getD .i8).bytes
  { space := a.vspace.toNat, base := a.reg f.sbase, stride := if f.sstr = 0 then (fields * z : Nat) else (a.reg f.sstr).toInt
    fields := fields, mf := mf, packs := packs, offs := none }

/-- The index register of vldx and vstx: its values, with the flags of a reconstruction for active elements (R224, R190, R33; log
14). -/
def Arch.indexes (a : Arch) (f : VM) (n : Nat) : Vals :=
  a.valuesFor f.f3.toNat (2 ^ n - 1) (a.active f.mask n) n false (modeVM f) f.sat

/-- X(i) of vldx and vstx (R224). -/
def Arch.offsets (a : Arch) (f : VM) (n : Nat) : List Int := (a.indexes f n).xs.map Num.floor

/-- `vld vd, 0(sb)` (R226). -/
def execVld (f : VM) (s : State) : Outcome State Fault Refusal :=
  .next (s.run (.vld f) fun s h => s.withGroup h fun g => s.loadVector h g f (h.arch.plan f true false) [] [])

/-- `vlds` (R224, R226). -/
def execVlds (f : VM) (s : State) : Outcome State Fault Refusal :=
  .next (s.run (.vlds f) fun s h => s.withGroup h fun g => s.loadVector h g f (h.arch.plan f false false) [] [])

/-- `vldseg` (R225, R226). -/
def execVldseg (f : VM) (s : State) : Outcome State Fault Refusal :=
  .next (s.run (.vldseg f) fun s h => s.withGroup h fun g => s.loadVector h g f (h.arch.plan f false true) [] [])

/-- `vldx` (R224, R226): the index tag is judged first (R189). -/
def execVldx (f : VM) (s : State) : Outcome State Fault Refusal :=
  .next (s.run (.vldx f) fun s h => s.withGroup h fun g =>
    let a := h.arch
    let ti := a.tagOf f.f3.toNat
    if !ti.isInt then .trap tagMismatch
    else
      let n := a.count (g.regBytes a.shape) [a.result f.tag f.f1, ti]
      (s.loadVector h g f { a.plan f false false with offs := some (a.offsets f n) } [ti] []).addFlags (a.indexes f n).flags)

/-- A load that waits leaves the registers of its hart as they were. -/
def Result.keepArch (a : Arch) : Result → Result
  | .stall s h mem => .stall s { h with arch := a } mem
  | r => r

/-- `vld.ff` (R182 to R184): vl is trimmed at the first fault above the first active element, and no element above a fault is
accessed. A speculative fault of the first element is suppressed: that element becomes +0 (R175; log 23). -/
def execVldFf (f : VM) (s : State) : Outcome State Fault Refusal :=
  .next (s.run (.vldFf f) fun s h => s.withGroup h fun g =>
    let a := h.arch
    let p := a.plan f true false
    let td := a.result f.tag f.f1
    let n := a.count (g.regBytes a.shape) [td]
    let act := a.active f.mask n
    let lg := s.lowestLevel h g (spireOf s.cur) p act n
    let bad := ((List.range n).filter (bitOf act)).findSome? fun i =>
      match s.checkTouch h g (spireOf s.cur) p false false (some lg) (touchAt p i 0) with
      | .error c => some (i, c)
      | .ok _ => none
    let load (a' : Arch) : Result := (s.loadVector { h with arch := a' } g f p [] [64]).keepArch a
    match lowBit act n, bad with
    | some i, some (j, c) =>
      if i = j then suppress s h c fun h => { h with
        arch := a.put f.f1.toNat td (if td.carries then p.level else 0) 0 (onActive (2 ^ i) (fun _ => Fl.pure 0) (List.range n)) }
      else load { a with ftm := BitVec.ofNat 32 (2 ^ 31 + j), ftmVl := a.vl.toNat, vl := BitVec.ofNat 32 j }
    | _, _ => load { a with ftm := 0, ftmVl := 0 })

/-- The threshold θ of a store (R46, R319). -/
def Arch.threshold (a : Arch) (p : Plan) : Num :=
  let v := (Store.get 0 a.hk p.hksel).toNat
  if p.fmt.isInt then .ofNat v else floatValue .f32 (v % 2 ^ 31)

/-- The elements of register r brought to the store's level, thresholded (R222 step 1). -/
def Arch.storeValues (a : Arch) (p : Plan) (r act wr n : Nat) : Vals :=
  let t := a.tagOf r
  let l := a.domOf r
  let need := wr ||| blocksOf wr n l
  let d := decodeAll t (bitOf need) (bitOf act) 0 (a.codes r n)
  let k := haarKind t
  let x := if l = p.level then d.1 else haarAll k p.level (invHaarAll k l d.1)
  ⟨if p.level = 0 then x else thresholdAll p.level (a.threshold p) x, 0, d.2⟩

/-- A stored code (R222 steps 2 and 3). -/
def storeCode (p : Plan) (m : Rnd) (sat : Bool) (x : Num) : Fl Nat :=
  if p.fmt.isTapered then encodeNum p.fmt m sat p.bias x else encodeNum p.fmt m sat 0 (x.scale (-p.bias))

/-- Codes of the written elements; only active ones set flags (R228). -/
def storeCodes (p : Plan) (m : Rnd) (sat : Bool) (act : Nat) : List Num → Fl (List Nat)
  | [] => .pure []
  | x :: t =>
    let c := storeCode p m sat x
    let r := storeCodes p m sat (act / 2) t
    ⟨c.val :: r.val, (if act % 2 = 1 then c.flags else 0) ||| r.flags⟩

/-- The byte writes of one element (R223). -/
def touchWrites (p : Plan) (t : Touch) (ps : List Phys) (code : Nat) : List (Phys × List ByteWrite) :=
  let bits := if p.packed then code % 64 * 2 ^ t.bit else if p.fmt = .t6 then code % 64 else code
  let mask := if p.packed then 63 * 2 ^ t.bit else 2 ^ (8 * ps.length) - 1
  (ps.zip (List.range ps.length)).map fun x =>
    (x.1, [⟨x.1.key, BitVec.ofNat 8 (mask / 2 ^ (8 * x.2)), BitVec.ofNat 8 (bits / 2 ^ (8 * x.2))⟩])

/-- The mark that a vector store leaves (Table 22.3). -/
def Plan.mark (p : Plan) : GranuleMark := .vector p.level p.hksel (p.mf.getLsbD 12)

/-- What a store writes once its elements are checked: codes for each checked element, with flags; or a cause of places 8
and 9 of R90 (R222, R225). -/
def Arch.storeData (a : Arch) (f : VM) (p : Plan) (n act wr : Nat) (ts : List Touch) : Except Cause (Fl (List Nat)) := do
  let regs := (List.range p.fields).map (f.f1.toNat + ·)
  let vals := regs.map fun r => a.storeValues p r act wr n
  let fl ← a.judge vals
  require (regs.all fun r => a.tagOf r == a.tagOf f.f1.toNat)
  let codes := vals.map fun v => storeCodes p (modeVM f) f.sat act v.xs
  .ok ⟨ts.map fun t => ((codes.map (·.val)).getD t.fld []).getD t.elem.idx 0, codes.foldl (fun m c => m ||| c.flags) fl⟩

/-- Elements a store writes: the active ones, and every coefficient of their blocks (R317). -/
def storeNeed (p : Plan) (act n : Nat) : Nat := act ||| blocksOf act n p.level

/-- A store of the elements below vl (R226); it is held while speculative (R174). -/
def State.storeVector (s : State) (h : Hart) (g : Group) (f : VM) (p : Plan) (tags : List Tag) : Result :=
  let a := h.arch
  let k := s.cur
  let n := a.count (g.regBytes a.shape) (((List.range p.fields).map fun j => a.tagOf (f.f1.toNat + j)) ++ tags)
  let act := a.active f.mask n
  let wr := storeNeed p act n
  let cs := (touches p wr n).map fun t => (t, s.checkTouch h g (spireOf k) p true false none t)
  match firstFault cs with
  | some c => suppress s h c id
  | none => match a.storeData f p n act wr (cs.map (·.1)) with
    | .error c => .trap c
    | .ok codes =>
      let ws := (cs.zip codes.val).flatMap fun x => match x.1.2 with
        | .ok ps => touchWrites p x.1.1 ps x.2
        | .error _ => []
      let els := cs.flatMap fun x => match x.2 with
        | .ok ps => ps.map fun _ => x.1.elem
        | .error _ => []
      (s.store k g h f.cls p.mark ws els).addFlags codes.flags

/-- `vst` (R226). -/
def execVst (f : VM) (s : State) : Outcome State Fault Refusal :=
  .next (s.run (.vst f) fun s h => s.withGroup h fun g => s.storeVector h g f (h.arch.plan f true false) [])

/-- `vsts` (R224, R226). -/
def execVsts (f : VM) (s : State) : Outcome State Fault Refusal :=
  .next (s.run (.vsts f) fun s h => s.withGroup h fun g => s.storeVector h g f (h.arch.plan f false false) [])

/-- `vstseg` (R225, R226). -/
def execVstseg (f : VM) (s : State) : Outcome State Fault Refusal :=
  .next (s.run (.vstseg f) fun s h => s.withGroup h fun g => s.storeVector h g f (h.arch.plan f false true) [])

/-- `vstx` (R224, R226): the index tag is judged first (R189). -/
def execVstx (f : VM) (s : State) : Outcome State Fault Refusal :=
  .next (s.run (.vstx f) fun s h => s.withGroup h fun g =>
    let a := h.arch
    let ti := a.tagOf f.f3.toNat
    if !ti.isInt then .trap tagMismatch
    else
      let n := a.count (g.regBytes a.shape) [a.tagOf f.f1.toNat, ti]
      (s.storeVector h g f { a.plan f false false with offs := some (a.offsets f n) } [ti]).addFlags (a.indexes f n).flags)

/-- `vld.sc` (R229): every check first, then one ticket an element, then the result. -/
def execVldSc (f : VM) (s : State) : Outcome State Fault Refusal :=
  .next (s.run (.vldSc f) fun s h => s.withGroup h fun g =>
    let a := h.arch
    let p := a.plan f false false
    let td := a.result f.tag f.f1
    let n := a.count (g.regBytes a.shape) [td]
    let act := a.active f.mask n
    match h.pending with
    | some (.ticket [] codes _ lg _) =>
      let lm := if td.carries then p.level else 0
      let l : Loading := ⟨td, lm, lg, n, act, loadNeed act n lg lm⟩
      let ts := touches p l.need n
      let codes := (ts.zip codes).map fun x => some (touchCode p x.1 x.2)
      match a.loadFinish p l f.f1.toNat (modeVM f) f.sat codes with
      | .error c => .trap c
      | .ok a => .done s { h with arch := a }
    | some _ => .stall s h true
    | none =>
      let l := s.loading h g (spireOf s.cur) p td n act
      let cs := (touches p l.need n).map fun t => (t, s.checkTouch h g (spireOf s.cur) p false true (some l.lg) t)
      match firstFault cs with
      | some c => .trap c
      | none =>
        if !h.unacked.isEmpty || s.portWait g.ctx (accessPorts (spireOf s.cur) (placesOf cs)) then .stall s h false
        else
          let todo := cs.map fun x => match x.2 with
            | .ok ps => (ps.map (·.key), [])
            | .error _ => ([], [])
          .stall (s.access (spireOf s.cur) g.ctx (placesOf cs)) { h with pending := some (.ticket todo [] .raw l.lg (pinsOf g.ctx false (placesOf cs))) } true)

/-- `vst.sc` (R229): every check first, then one ticket an element. -/
def execVstSc (f : VM) (s : State) : Outcome State Fault Refusal :=
  .next (s.run (.vstSc f) fun s h => s.withGroup h fun g =>
    let a := h.arch
    let p := a.plan f false false
    let n := a.count (g.regBytes a.shape) [a.tagOf f.f1.toNat]
    let act := a.active f.mask n
    let wr := storeNeed p act n
    match h.pending with
    | some (.ticket [] _ _ _ _) => match a.storeData f p n act wr [] with
      | .error c => .trap c
      | .ok codes => .done s (h.mapArch fun a => a.addFlags codes.flags)
    | some _ => .stall s h false
    | none =>
      let cs := (touches p wr n).map fun t => (t, s.checkTouch h g (spireOf s.cur) p true true none t)
      match firstFault cs with
      | some c => .trap c
      | none => match a.storeData f p n act wr (cs.map (·.1)) with
        | .error c => .trap c
        | .ok codes =>
          if !h.unacked.isEmpty || (placesOf cs).any (s.writeBlocked g.ctx) ||
              s.portWait g.ctx (accessPorts (spireOf s.cur) (placesOf cs)) then .stall s h false
          else
            let todo := (cs.zip codes.val).map fun x => match x.1.2 with
              | .ok ps => (([] : List Nat), (touchWrites p x.1.1 ps x.2).flatMap (·.2))
              | .error _ => ([], [])
            .stall (s.access (spireOf s.cur) g.ctx (placesOf cs)) { h with pending := some (.ticket todo [] p.mark 0 (pinsOf g.ctx true (placesOf cs))) } false)

/-- The sequencer grants the next ticket to hart k, and its next `.sc` element performs (R229, R285). -/
def execScTicketGrant (k : Nat) (s : State) : Outcome State Fault Refusal :=
  .next <| match s.hart k with
    | none => s
    | some h => match h.pending with
      | some (.ticket ((keys, ws) :: rest) codes mark lg pins) =>
        let v := leValue (keys.map s.byte)
        let s := if ws.isEmpty then s else s.perform mark ws
        { s.setHart k { h with pending := some (.ticket rest (codes ++ [v]) mark lg pins) } with ticket := s.ticket + 1 }
      | _ => s

/-- The window of `vldsr` after its slide: k codes fetched at its tail (R230). -/
def slideWindow (w : List Nat) (k : Nat) (tail : List Nat) : List Nat := w.drop k ++ tail

/-- Writes window codes back, L elements a register. -/
def Arch.putWindow (a : Arch) (d : Nat) (t : Tag) (dom len : Nat) : Nat → List Nat → Arch
  | 0, _ => a
  | g + 1, w => (a.setCodes d t dom ((w.take len).map some)).putWindow (d + 1) t dom len g (w.drop len)

/-- `vldsr` (R230): the window slides and its tail is loaded; the tail's registers land later (R277). -/
def execVldsr (f : VM) (s : State) : Outcome State Fault Refusal :=
  .next (s.run (.vldsr f) fun s h => s.withGroup h fun g =>
    let a := h.arch
    let regs := (List.range (f.nf.toNat + 1)).map (f.f1.toNat + ·)
    let td := a.result f.tag f.f1
    let len := a.count (g.regBytes a.shape) [td]
    let sk := if f.sstr = 0 then 0 else (a.reg f.sstr).toNat
    let k := min sk (regs.length * len)
    let q := a.plan f true false
    let p := { q with stride := q.size, fields := 1 }
    let l := s.loading h g (spireOf s.cur) p td k (2 ^ k - 1)
    let cs := (touches p l.need k).map fun t => (t, s.checkTouch h g (spireOf s.cur) p false false (some l.lg) t)
    let same := regs.all fun r => a.tagOf r == td
    match firstFault cs with
    | some c => .trap c
    | none => match s.awaitLinks s.cur h f.cls false (placesOf cs) with
      | some w => .stall w.1 w.2 true
      | none =>
        let codes := cs.map fun x => match x.2 with
          | .ok ps => some (touchCode p x.1 (s.readPlaced h ⟨x.1.elem, ps⟩))
          | .error _ => none
        let v := convIn p l.lg l.lm l.act (fieldCodes 1 0 l.need k codes)
        match a.judge [v] with
        | .error c => .trap c
        | .ok fl =>
          if !same then .trap tagMismatch
          else if k = 0 then .done s h
          else
            let tail := encodeAll td (modeVM f) f.sat (2 ^ k - 1) (2 ^ k - 1) v.xs
            let w := slideWindow (regs.flatMap fun r => a.codes r len) k tail.val
            let a' := (a.putWindow f.f1.toNat td l.lm len regs.length w).addFlags (fl ||| tail.flags)
            let s' := (s.access (spireOf s.cur) g.ctx (placesOf cs)).countAll g.ctx (placesOf cs)
            .done s' { h with arch := a', landing := h.landing ++ [regs] })

/-- Data of a load of hart k land: the oldest load's registers, or those of an access over a link, which needs the link up (R277, R333). -/
def execLoadDataArrives (k : Nat) (s : State) : Outcome State Fault Refusal :=
  .next <| match s.hart k with
    | none => s
    | some h => match h.landing with
      | l :: t => s.setHart k { h with landing := t, landed := h.landed ++ l }
      | [] => match h.pending with
        | some (.remote links false rmw pins) =>
          if links.all s.linkUp then s.setHart k { h with pending := some (.remote links true rmw pins) } else s
        | _ => s

/-- The nibble of counter j of a filter byte (R217). -/
def counterOf (b j : Nat) : Nat := b / 16 ^ (j % 2) % 16

/-- The two counter bytes of one token: elements of the access, lowest first. -/
def filterTouches (base : Word) (i x : Nat) : List Elem :=
  let c := filterHash x
  [⟨i, base + BitVec.ofNat 64 (c.1 / 2), 1⟩, ⟨i, base + BitVec.ofNat 64 (c.2 / 2), 1⟩]

/-- `vcfq` (R217, R218). -/
def execVcfq (f : VA) (s : State) : Outcome State Fault Refusal :=
  .next (s.run (.vcfq f) fun s h => s.withGroup h fun g =>
    let a := h.arch
    let ta := a.tagOf f.va.toNat
    let td := a.result f.tag f.vd
    let base := a.reg f.ss
    if !ta.isInt then .trap tagMismatch
    else if base.toNat % 1024 ≠ 0 then suppress s h ⟨20, 0, false, false, 0, base⟩ fun h =>
      { h with arch := a.put f.vd.toNat td 0 0 (onActive (a.active f.mask (a.count (g.regBytes a.shape) [ta, td]))
        (fun _ => Fl.pure 0) (List.range (a.count (g.regBytes a.shape) [ta, td]))) }
    else
      let n := a.count (g.regBytes a.shape) [ta, td]
      let act := a.active f.mask n
      let xs := a.values f.va.toNat act n false (modeOf f) f.sat
      let tokens := xs.xs.map fun x => (x.floor % 2 ^ 32).toNat
      let es := ((List.range n).filter (bitOf act)).map fun i => (i, filterTouches base i (tokens.getD i 0))
      let cs := es.map fun e => (e.1, h.reachedAll (s.placeAll g (spireOf s.cur) a.vspace.toNat 0 false e.2))
      let faults := cs.flatMap fun c => c.2.2.map (·.2)
      let ps := cs.flatMap fun c => c.2.1.flatMap (·.phys)
      match faults.head?, h.exits.isEmpty with
      | some c, true => .trap c
      | _, _ => match s.awaitLinks s.cur h f.cls false ps with
        | some w => .stall w.1 w.2 true
        | none =>
          let counts := cs.map fun c =>
            let x := filterHash (tokens.getD c.1 0)
            match c.2.1 with
            | [p, q] => min (counterOf (s.readPlaced h p) x.1) (counterOf (s.readPlaced h q) x.2)
            | _ => 0
          let vals := fieldCodes 1 0 act n (counts.map some)
          let r := onActive act (fun c : Option Nat => encodeNum td (modeOf f) f.sat 0 (.ofNat (c.getD 0))) vals
          let s' := (s.access (spireOf s.cur) g.ctx ps).countAll g.ctx ps
          let h' := { h with arch := a.put f.vd.toNat td 0 xs.flags r, landing := h.landing ++ [[f.vd.toNat]] }
          if faults.isEmpty then .done s' h' else .soft s' h')

end Sys2Proof.Machine
end

