-- ==== Sys2Proof/Machine/Engine.lean ====
section
/-! DEFINITION. Streams and the decoupled access unit, stream registers, copies, bank operations, `fence`, `wait`, and the step of
a home that an access over a link has reached (R9, R42, R159, R231 to R241, R258, R270, R287, R288, R333 to R337). -/

namespace Sys2Proof.Machine

open Host (Outcome)

/-- Key of stream buffer or copy tag n of a Spire. -/
def engineKey (spire n : Nat) : Nat := 8 * spire + n

/-- Key of slot n of a Spire. -/
def slotKey (spire n : Nat) : Nat := 256 * spire + n

/-- The hart with index idx of group gid, by frame. -/
def State.member (s : State) (gid idx : Nat) : Option (Nat × Hart) :=
  s.harts.find? fun h => h.2.gid == gid && h.2.idx == idx

/-- The frame key of a hart, or frame 0 of a Spire once the hart is gone. -/
def State.frameOf (s : State) (gid idx spire : Nat) : Nat := match s.member gid idx with
  | some (k, _) => k
  | none => 16 * spire

/-- Charges one element-beat to the hart with index idx of group gid for a fetch of stream n from an element on (R129). -/
def State.chargeBeat (s : State) (gid idx n item : Nat) : State := match s.member gid idx with
  | some (k, h) => (s.modHart k fun h => { h with hbeat := h.hbeat + 1 }).giveWork (s.ctxOf h) gid idx (spireOf k) (k % 16) 5 1 n item
  | none => s

/-- How a stream forms the addresses of its elements (R223, R231). -/
def Stream.plan (x : Stream) : Plan where
  space := x.space
  base := x.base
  stride := x.stride
  fields := 1
  mf := x.fmt
  packs := x.unit
  offs := none

/-- Number of the next element that the DAU has not fetched. -/
def Stream.next (x : Stream) : Nat := x.first + x.fetched.length

/-- `stream` (R231): the stream replaces an earlier one; nothing is translated. -/
def execStream (n : BitVec 3) (a l st : Reg) (o : Cm) (s : State) : Outcome State Fault Refusal :=
  .next (s.run (.stream n a l st o) fun s h =>
    let fmt := Store.get 0 h.arch.mf o.mf.toNat
    let z := ((Tag.ofCode (fmt.toNat % 16)).getD .i8).bytes
    let x : Stream := {
      gid := h.gid
      owner := h.idx
      base := h.reg a
      len := (h.reg l).toNat
      stride := if st = 0 then (z : Nat) else (h.reg st).toInt
      unit := st == 0
      fmt := fmt
      cls := o.cls
      space := h.arch.vspace.toNat
      taken := 0
      first := 0
      fetched := []
      want := 0 }
    .done { s with streams := Store.insert s.streams (engineKey (spireOf s.cur) n.toNat) x } h)

/-- One element of a stream as a reader meets it: code and LEVEL of its granule, or the cause of its fault (R226, R322). -/
def State.streamElem (s : State) (x : Stream) (g : Group) (spire i : Nat) : Except Cause (Nat × Nat) × List Phys :=
  let p := x.plan
  let t := touchAt p i 0
  match s.placeElem g spire p.space p.alignment false t.elem with
  | .error c => (.error c, [])
  | .ok q =>
    let l := (q.phys.head?.map fun y => tagLevel (s.granule y.key)).getD 0
    if q.phys.any fun y => tagLevel (s.granule y.key) != l then (.error (accessCause t.elem 17 4 false), q.phys)
    else (.ok (touchCode p t (leValue (q.phys.map fun y => s.byte y.key)), l), q.phys)

/-- Buffer bytes of each declared stream of a Spire (R231). -/
def State.bufferShare (s : State) (spire : Nat) : Nat :=
  65536 / max 1 (s.streams.filter fun x => x.1 / 8 == spire).length

/-- Elements that the next fetch of a stream may bring: those of one 1 KiB granule, while there is room or a reader waits. -/
def State.fetchList (s : State) (spire : Nat) (x : Stream) : List Nat :=
  let i := x.next
  if x.len ≤ i then []
  else if s.bufferShare spire ≤ (i - x.taken) * x.plan.size && x.want ≤ i then []
  else
    let a (j : Nat) : Nat := (touchAt x.plan j 0).elem.addr.toNat / 1024
    ((List.range (min 1024 (x.len - i))).map (i + ·)).takeWhile fun j => a j == a i

/-- The hart in frame k has issued an access of its own that has not performed and stands in no link's queue as a write: it waits for a ticket,
or in a queue to read. -/
def State.accessing (s : State) (k : Option Nat) : Bool := match k.bind s.hart with
  | some h => (match h.pending with
    | some (.ticket ..) | some (.remote ..) => true
    | _ => false)
  | none => false

/-- No request waits on these links, and no access of the hart in frame k: a queued write of class cls, or what the hart waits for, whose class
may be that too, or which holds back every younger access as an acquire does (R276, R280, R287, R288). -/
def State.clear (s : State) (k : Option Nat) (cls : BitVec 4) (ls : List Nat) : Bool :=
  !s.accessing k && !s.homeq.any fun q => s.queued q && ((match q.link with | some l => ls.contains l | none => false) ||
    (some q.hart == k && q.cls == cls))

/-- The DAU fetches elements of one granule ahead of consumption, for one element-beat of the owner (R129, R231, R233, R258). -/
def execDauFetch (spire n : Nat) (s : State) : Outcome State Fault Refusal :=
  .next <| match s.streams.find (engineKey spire n) with
    | none => s
    | some x => match s.group x.gid with
      | none => s
      | some g =>
        let l := (s.fetchList spire x).map fun i => s.streamElem x g spire i
        let ps := l.flatMap (·.2)
        let links := linksOf ps
        if l.isEmpty || !s.dieRuns spire || !s.clear ((s.member x.gid x.owner).map (·.1)) x.cls links || !links.all s.linkUp ||
            s.portWait g.ctx (accessPorts spire ps) then s
        else
          let keep := x.taken / 128 * 128
          let fetched := x.fetched ++ l.map fun e => (match e.1 with | .ok c => some c | .error _ => none)
          let x' := { x with first := max x.first keep, fetched := fetched.drop (keep - x.first) }
          let s := ((s.access spire g.ctx ps).countAll g.ctx ps).chargeBeat x.gid x.owner n x.next
          { s with streams := Store.insert s.streams (engineKey spire n) x' }

/-- Element i of a stream for a consumer: what the DAU holds, or the element afresh where its fetch had faulted (R233). -/
def State.streamAt (s : State) (x : Stream) (g : Group) (spire i : Nat) : Except Cause (Nat × Nat) :=
  match if x.first ≤ i then x.fetched.getD (i - x.first) none else none with
  | some c => .ok c
  | none => (s.streamElem x g spire i).1

/-- Element i must be read afresh, and waits for a link that trains, or for requests that stand before it (R276, R288, R329). -/
def State.streamHeld (s : State) (x : Stream) (g : Group) (spire i : Nat) : Bool :=
  let links := linksOf (s.streamElem x g spire i).2
  (if x.first ≤ i then x.fetched.getD (i - x.first) none else none).isNone &&
    (!links.all s.linkUp || !s.clear ((s.member x.gid x.owner).map (·.1)) x.cls links)

/-- The elements of a stream that a load of n elements reads: the first, and how many, in whole blocks of 2^l (R317). -/
def Stream.window (x : Stream) (n l : Nat) : Nat × Nat :=
  let b := 2 ^ l
  let a := x.taken / b * b
  (a, min x.len ((x.taken + n + b - 1) / b * b) - a)

/-- What a stream delivers to the active elements below n, or where it must be fetched to first, or a cause (R232, R322). -/
inductive Delivery where
  | want (upTo : Nat)
  | fault (c : Cause)
  | vals (v : Vals)

/-- Reads the active elements of a stream for a load with result tag td (R221, R232, R322). -/
def State.deliverStream (s : State) (x : Stream) (g : Group) (spire : Nat) (td : Tag) (n act : Nat) : Delivery :=
  let avail := min n (x.len - x.taken)
  let live := act % 2 ^ avail
  if x.next < x.taken + avail then .want (x.taken + avail)
  else match lowBit live avail with
    | none => .vals ⟨List.replicate n .zero, 0, none⟩
    | some i =>
      if s.streamHeld x g spire (x.taken + i) then .want x.want
      else match s.streamAt x g spire (x.taken + i) with
      | .error c => .fault { c with idx := i }
      | .ok (_, lg) =>
        let lm := if td.carries then x.plan.level else 0
        let w := if lg = lm then (x.taken, avail) else x.window n (max lg lm)
        if x.next < w.1 + w.2 then .want (w.1 + w.2)
        else if (List.range w.2).any fun j => s.streamHeld x g spire (w.1 + j) then .want x.want
        else
          let off := x.taken - w.1
          let need := loadNeed (live * 2 ^ off) w.2 lg lm
          let es := (List.range w.2).map fun j =>
            if bitOf need j then some (s.streamAt x g spire (w.1 + j), w.1 + j) else none
          let bad := es.findSome? fun e => match e with
            | some (.error c, j) => some { c with idx := j - x.taken }
            | some (.ok (_, l), j) =>
              if l = lg then none else some (accessCause ⟨j - x.taken, (touchAt x.plan j 0).elem.addr, 1⟩ 17 4 false)
            | none => none
          match bad with
          | some c => .fault c
          | none =>
            let codes := es.map fun e => match e with
              | some (.ok (c, _), _) => some c
              | _ => none
            let v := convIn x.plan lg lm (live * 2 ^ off) codes
            let xs := (v.xs.drop off).take avail
            .vals ⟨xs ++ List.replicate (n - xs.length) .zero, 0, v.rsv.map (· - off)⟩

/-- `vld vd, sbN` (R232): n elements are consumed whatever the mask; past the end, and without a stream, +0 is written. -/
def execVldStream (f : VM) (s : State) : Outcome State Fault Refusal :=
  .next (s.run (.vldStream f) fun s h => s.withGroup h fun g =>
    let a := h.arch
    let td := a.result f.tag f.f1
    let n := a.count (g.regBytes a.shape) [td]
    let act := a.active f.mask n
    let key := engineKey (spireOf s.cur) f.sbn.toNat
    let write (dom : Nat) (v : Vals) (s : State) : Result := match a.judge [v] with
      | .error c => .trap c
      | .ok fl => .done s { h with arch := a.put f.f1.toNat td dom fl (onActive act (encodeNum td (modeVM f) f.sat 0) v.xs) }
    match s.streams.find key with
    | none => write 0 ⟨List.replicate n .zero, 0, none⟩ s
    | some x => match s.group x.gid with
      | none => write 0 ⟨List.replicate n .zero, 0, none⟩ s
      | some own => match s.deliverStream x own (spireOf s.cur) td n act with
        | .want m => .stall { s with streams := Store.insert s.streams key { x with want := max x.want m } } h true
        | .fault c => .trap c
        | .vals v =>
          write (if td.carries then x.plan.level else 0) v
            { s with streams := Store.insert s.streams key { x with taken := min x.len (x.taken + n) } })

/-- `qbind` (R42, R234). -/
def execQbind (n : BitVec 3) (kind : BitVec 2) (idx : BitVec 8) (o : Cm) (s : State) : Outcome State Fault Refusal :=
  .next (s.compute (.qbind n kind idx o) fun a =>
    { a with qb := if kind = 0 then Store.erase a.qb n.toNat else Store.insert a.qb n.toNat ⟨kind.toNat, idx.toNat⟩ })

/-- The item word of Table 18.3. -/
def Item.word (i : Item) (ovc : Nat) : Word :=
  BitVec.ofNat 64 (i.gone.toNat * 2 ^ 51 + i.closed.toNat * 2 ^ 50 + i.park.toNat * 2 ^ 49 + (if ovc = 0 then 0 else 2 ^ 48) +
    i.cnt * 2 ^ 32 + ovc * 2 ^ 24 + i.ent * 2 ^ 16 + i.seq.toNat)

/-- What a read of a stream register finds: nothing yet, a cause, or an item with what taking it changes. -/
inductive QItem where
  | nothing (s : State)
  | cause (c : Cause)
  | item (v : Word) (s : State)

/-- A read of a stream buffer: the next element's stored code (R232, R234). -/
def State.readBuffer (s : State) (k n : Nat) : QItem :=
  let key := engineKey (spireOf k) n
  match s.streams.find key with
  | none => .nothing s
  | some x =>
    if x.len ≤ x.taken then .nothing s
    else if x.next ≤ x.taken then
      .nothing { s with streams := Store.insert s.streams key { x with want := max x.want (x.taken + 1) } }
    else match s.group x.gid with
      | none => .nothing s
      | some g =>
        if s.streamHeld x g (spireOf k) x.taken then .nothing s
        else match s.streamAt x g (spireOf k) x.taken with
        | .error c => .cause { c with idx := 0 }
        | .ok (c, _) =>
          .item (BitVec.ofNat 64 c) { s with streams := Store.insert s.streams key { x with taken := x.taken + 1 } }

/-- A read of a copy tag: the next chunk to land (R234). -/
def State.readTag (s : State) (k n : Nat) : QItem :=
  let key := engineKey (spireOf k) n
  match s.copies.find key with
  | none => .nothing s
  | some t => match (t.order[t.yielded]? : Option Nat) with
    | none => .nothing s
    | some j => .item (BitVec.ofNat 64 j) { s with copies := Store.insert s.copies key { t with yielded := t.yielded + 1 } }

/-- A read of a slot: its oldest item, whose entry is then held; a closed slot yields its close item again (R269, R270). -/
def State.readSlot (s : State) (k gid q n : Nat) : QItem :=
  let key := slotKey (spireOf k) n
  match s.slot key with
  | none => .cause (.plain 5 q)
  | some x =>
    if x.gid != gid || x.state == .free then .cause (.plain 5 q)
    else match x.items with
      | [] => .nothing s
      | i :: rest =>
        if i.closed then .item (i.word x.ovc) s
        else .item (i.word x.ovc) (s.modSlot key fun y => { y with items := rest, heldEnt := some i.ent })

/-- `qrd` (R42, R159, R270): the record of the unbound trap carries the register's number. -/
def execQrd (d : Reg) (q : BitVec 3) (s : State) : Outcome State Fault Refusal :=
  .next (s.run (.qrd d q) fun s h =>
    let found := match h.arch.qb.find q.toNat with
      | none => QItem.cause (.plain 5 q.toNat)
      | some b =>
        if b.kind = 1 then s.readBuffer s.cur b.idx
        else if b.kind = 2 then s.readTag s.cur b.idx
        else s.readSlot s.cur h.gid q.toNat b.idx
    match found with
    | .nothing s' => .stall s' { h with pending := some .waiting } false
    | .cause c => .trap c
    | .item v s' => .done s' (h.setReg d v))

/-- The parts of a range of len bytes from address a that start at 64 KiB boundaries: offset and length. -/
def pieces (a : Word) (len : Nat) : Nat → Nat → List (Nat × Nat)
  | 0, _ => []
  | fuel + 1, off =>
    if len ≤ off then []
    else
      let n := min (len - off) (65536 - (a.toNat + off) % 65536)
      (off, n) :: pieces a len fuel (off + n)

/-- A fault of a range, at its first faulting byte. -/
def rangeCause (a : Word) (code sub : Nat) (write : Bool) : Cause := ⟨code, sub, write, false, 0, a⟩

/-- One part of a range: the places of its first byte, with the run it forms. A span's bound may fall inside a part. -/
def State.pieceRun (s : State) (g : Group) (spire sp : Nat) (a : Word) (write : Bool) (p : Nat × Nat) :
    Except Cause (Run × Phys) :=
  let x := a + BitVec.ofNat 64 p.1
  match s.place g spire sp x write false with
  | .fault code sub => .error (rangeCause x code sub write)
  | .at q =>
    let o := x.toNat % 2 ^ 20
    if (sp = 1 || sp = 2) && g.lspan < o + p.2 then .error (rangeCause (x + BitVec.ofNat 64 (g.lspan - o)) 19 0 write)
    else .ok (⟨p.1, p.2, q.key, q.link, q.grant, false, q.counted, q.pte, q.vbase⟩, q)

/-- A range checked and placed, lowest fault first. -/
def State.placeRange (s : State) (g : Group) (spire sp : Nat) (a : Word) (write : Bool) :
    List (Nat × Nat) → Except Cause (List (Run × Phys))
  | [] => .ok []
  | p :: t => match s.pieceRun g spire sp a write p with
    | .error c => .error c
    | .ok r => match s.placeRange g spire sp a write t with
      | .error c => .error c
      | .ok l => .ok (r :: l)

/-- Two ranges of one space share a byte. -/
def overlap (sp tp : BitVec 3) (d a : Word) (len : Nat) : Bool :=
  sp == tp && d.toNat < a.toNat + len && a.toNat < d.toNat + len

/-- `copy` (R235): every check and pin first, the source range before the destination (log 85); the chunks land later, in order
when the ranges overlap. -/
def execCopy (n : BitVec 3) (d a b : Reg) (dst src scope : BitVec 3) (o : Cm) (s : State) : Outcome State Fault Refusal :=
  .next (s.run (.copy n d a b dst src scope o) fun s h => s.withGroup h fun g =>
    let len := (h.reg b).toNat
    let key := engineKey (spireOf s.cur) n.toNat
    let spire := spireOf s.cur
    if 2 ^ 20 < len then .trap ⟨35, 0, false, false, 0, h.reg b⟩
    else if (match s.copies.find key with | some t => t.busy | none => false) then
      .stall s { h with pending := some .waiting } false
    else match s.placeRange g spire src.toNat (h.reg a) false (pieces (h.reg a) len 32 0) with
      | .error c => .trap c
      | .ok rs => match s.placeRange g spire dst.toNat (h.reg d) true (pieces (h.reg d) len 32 0) with
        | .error c => .trap c
        | .ok ws =>
          if ws.any (fun w => s.writeBlocked g.ctx w.2) then .stall s h false
          else
            let t : CopyTag := {
              gid := h.gid
              hart := h.idx
              ctx := g.ctx
              cls := o.cls
              scope := scope.toNat
              len := len
              chunks := (len + 511) / 512
              landed := 0
              sent := 0
              lost := 0
              order := []
              marked := []
              yielded := 0
              busy := len != 0
              revk := false
              desc := if overlap dst src (h.reg d) (h.reg a) len then some ((h.reg a).toNat < (h.reg d).toNat) else none
              src := rs.map (·.1)
              dst := ws.map (·.1)
              pins := (pinsOf g.ctx false (rs.map (·.2)) ++ pinsOf g.ctx true (ws.map (·.2))) }
            let s := s.cacheAll spire g.ctx ((rs ++ ws).map (·.2))
            .done { s with copies := Store.insert s.copies key t } h)

/-- The run that holds offset o of a range. -/
def runAt (l : List Run) (o : Nat) : Option Run := l.find? fun r => r.off ≤ o && o < r.off + r.len

/-- Offsets of chunk j. -/
def CopyTag.offsets (t : CopyTag) (j : Nat) : List Nat := (List.range (min 512 (t.len - 512 * j))).map (512 * j + ·)

/-- The runs that chunk j touches. -/
def CopyTag.runs (t : CopyTag) (j : Nat) : List Run :=
  (t.src ++ t.dst).filter fun r => r.off < 512 * j + 512 && 512 * j < r.off + r.len

/-- The chunks that have landed or have been lost. -/
def CopyTag.over (t : CopyTag) : Nat := t.landed ||| t.lost

/-- Chunk j is the one that lands next in an order that R235 fixes. -/
def CopyTag.mayLand (t : CopyTag) (j : Nat) : Bool :=
  t.busy && j < t.chunks && !bitOf t.over j &&
    match t.desc with
    | none => true
    | some true => t.over / 2 ^ (j + 1) == 2 ^ (t.chunks - (j + 1)) - 1
    | some false => t.over % 2 ^ j == 2 ^ j - 1

/-- The copy is over once no chunk is left, which releases its pins (R235, R254). -/
def CopyTag.settle (t : CopyTag) : CopyTag :=
  if t.over == 2 ^ t.chunks - 1 then { t with busy := false, pins := [] } else t

/-- Chunk j has landed, or was skipped for a revoked page (R235, R236). -/
def CopyTag.land (t : CopyTag) (j : Nat) (revk : Bool) : CopyTag :=
  { t with landed := t.landed ||| 2 ^ j, order := t.order ++ [j], revk := t.revk || revk }.settle

/-- Chunk j has ended without an acknowledgement: its bit stays 0, and REVK is set (R334, R335; log 43). -/
def CopyTag.lose (t : CopyTag) (j : Nat) : CopyTag := { t with lost := t.lost ||| 2 ^ j, revk := true }.settle

/-- The bytes of chunk j: from and to which key each goes, in the order in which they move (R235). -/
def CopyTag.moves (t : CopyTag) (j : Nat) : List (Nat × Nat) :=
  let l := (t.offsets j).filterMap fun o => match runAt t.src o, runAt t.dst o with
    | some r, some w => some (r.key + (o - r.off), w.key + (o - w.off))
    | _, _ => none
  if t.desc = some true then l.reverse else l

/-- The tags that the destination granules of chunk j take: of the source granule that supplied their first byte (Table 22.3). -/
def State.copyMarks (s : State) (t : CopyTag) (j : Nat) : List (Nat × Byte) :=
  let ms := t.moves j
  (distinct (fun m : Nat × Nat => m.2 / 1024) ms).filterMap fun g => match t.marked.find? fun m => m.1 == g with
    | some m => some m
    | none => (ms.find? fun m => m.2 / 1024 == g).map fun m => (g, s.granule m.1)

/-- The bytes of chunk j at their destination, in one step of homes, with the granule marks of Table 22.3. -/
def State.moveChunk (s : State) (t : CopyTag) (j : Nat) : State :=
  let ws := (t.moves j).map fun m => (⟨m.2, 0xFF, s.byte m.1⟩ : ByteWrite)
  let marks := s.copyMarks t j
  let s := s.writeAll ws
  let s := marks.foldl (fun s m => s.markGranule (.copyOf m.2) m.1) s
  (distinct (fun w : ByteWrite => w.key / 64) ws).foldl (fun s l => s.pushLine ws l) s

/-- The granules that chunk j has marked are marked. -/
def CopyTag.addMarks (t : CopyTag) (ms : List (Nat × Byte)) : CopyTag :=
  { t with marked := t.marked ++ ms.filter fun m => !t.marked.contains m }

/-- Counted host pages that chunk j touches (R258). -/
def State.countChunk (s : State) (t : CopyTag) (j : Nat) : State :=
  let rs := (t.runs j).filter (·.counted)
  (distinct (·.pte) rs).foldl (fun s pte => match rs.find? (·.pte == pte) with
    | some r => s.countPage t.ctx pte r.vbase
    | none => s) s

/-- A page of chunk j has become REVOKED (R236). -/
def CopyTag.revoked (t : CopyTag) (j : Nat) : Bool := (t.runs j).any (·.revoked)

/-- The links that chunk j crosses. -/
def CopyTag.links (t : CopyTag) (j : Nat) : List Nat := (t.runs j).filterMap (·.link)

/-- A link of chunk j is DOWN or FAILED (R335, R337). -/
def State.chunkLost (s : State) (t : CopyTag) (j : Nat) : Bool := (t.links j).any s.linkDead

/-- The ports that chunk j of a copy of a Spire passes at one of its ranges, once for each byte. -/
def CopyTag.portsOn (t : CopyTag) (spire j : Nat) (l : List Run) : List Nat := (t.offsets j).flatMap fun o => match runAt l o with
  | some r => portsOf spire (r.key + (o - r.off)) r.link r.grant
  | none => []

/-- The ports that chunk j of a copy of a Spire passes: at each, its read and its write are requests of their own. -/
def CopyTag.ports (t : CopyTag) (spire j : Nat) : List Nat := t.portsOn spire j t.src ++ t.portsOn spire j t.dst

/-- Chunk j of a copy is charged, its read and its write each for itself (R99, R336). -/
def State.chargeChunk (s : State) (t : CopyTag) (spire j : Nat) : State :=
  (s.charge t.ctx (t.portsOn spire j t.src)).charge t.ctx (t.portsOn spire j t.dst)

/-- The links of chunk j carry it, what goes before it has performed, and its ports have tokens (R99, R236, R276, R287, R330, R334). -/
def State.chunkReady (s : State) (t : CopyTag) (spire j : Nat) : Bool :=
  (t.links j).all s.linkUp && (bitOf t.sent j ||
    s.clear ((s.member t.gid t.hart).map (·.1)) t.cls (t.links j) && !s.portWait t.ctx (t.ports spire j))

/-- The destination of chunk j lies behind a link. -/
def CopyTag.far (t : CopyTag) (j : Nat) : Bool := t.dst.any fun r => r.link.isSome && r.off < 512 * j + 512 && 512 * j < r.off + r.len

/-- Chunk j of the copy on a Spire's tag lands (R235, R236): its bytes perform, and behind a link its bit waits for the acknowledgement
(R334); for a revoked page it is skipped with REVK and its bit set, and on a dead link it is lost (R335). -/
def execCopyChunkLands (spire tag chunk : Nat) (s : State) : Outcome State Fault Refusal :=
  .next <| match s.copies.find (engineKey spire tag) with
    | none => s
    | some t =>
      let put (s : State) (t : CopyTag) : State := { s with copies := Store.insert s.copies (engineKey spire tag) t }
      let work (s : State) : State := s.giveWork t.ctx t.gid t.hart spire (s.frameOf t.gid t.hart spire % 16) 6 0 tag chunk
      if !t.mayLand chunk || !s.dieRuns spire then s
      else if t.revoked chunk && !bitOf t.sent chunk then put (work s) (t.land chunk true)
      else if s.chunkLost t chunk then put (work s) (t.lose chunk)
      else if !s.chunkReady t spire chunk then s
      else if bitOf t.sent chunk then put s (t.land chunk false)
      else
        let ms := s.copyMarks t chunk
        let s := work (((s.chargeChunk t spire chunk).countChunk t chunk).moveChunk t chunk)
        let t := t.addMarks ms
        put s (if t.far chunk then { t with sent := t.sent ||| 2 ^ chunk } else t.land chunk false)

/-- Window word w of a copy tag; chunks past the copy's count read as 1 (R237). -/
def windowWord (t : Option CopyTag) (w : Nat) : Word :=
  match t with
  | none => BitVec.allOnes 64
  | some t => BitVec.ofNat 64 (bitsOf ((List.range 64).map fun b => t.chunks ≤ 64 * w + b || bitOf t.landed (64 * w + b)))

/-- The status word of a copy tag (R237). -/
def statusWord (t : Option CopyTag) : Word :=
  match t with
  | none => 0
  | some t => BitVec.ofNat 64 (t.busy.toNat + 2 * t.revk.toNat)

/-- `cptest` (R237). -/
def execCptest (d : Reg) (n : BitVec 3) (w : BitVec 6) (o : Cm) (s : State) : Outcome State Fault Refusal :=
  .next (s.run (.cptest d n w o) fun s h =>
    let t := s.copies.find (engineKey (spireOf s.cur) n.toNat)
    .done s (h.setReg d (if w = 32 then statusWord t else windowWord t w.toNat)))

/-- `cpwait` (R237). -/
def execCpwait (n : BitVec 3) (w : BitVec 6) (m : Reg) (o : Cm) (s : State) : Outcome State Fault Refusal :=
  .next (s.run (.cpwait n w m o) fun s h =>
    let t := s.copies.find (engineKey (spireOf s.cur) n.toNat)
    let sm := h.reg m
    let past : Bool := sm == 0 || (if w = 32 then !(statusWord t).getLsbD 0 else windowWord t w.toNat &&& sm == sm)
    if past then .done s h else .stall s { h with pending := some .waiting } false)

/-- The new value at the bank for ops 0 to 5 and 7 on codes of w bits (Table 14.4). -/
def bankOp (op w old v : Nat) : Nat :=
  let m := 2 ^ w
  let sgn (x : Nat) : Int := if m / 2 ≤ x then (x : Int) - m else x
  match op with
  | 0 => (old + v) % m
  | 1 =>
    let z := sgn old + sgn v
    let z := if z < -(m / 2 : Nat) then -((m / 2 : Nat) : Int) else if (m / 2 : Nat) ≤ z then ((m / 2 : Nat) : Int) - 1 else z
    (z % m).toNat
  | 2 => if sgn v < sgn old then v else old
  | 3 => if sgn old < sgn v then v else old
  | 4 => v
  | 5 => min (old + v) (m - 1)
  | _ =>
    let t : Tag := if w = 64 then .f64 else .f32
    ((addNum .rne (floatValue t old) (floatValue t v)).bind (encodeNum t .rne false 0)).val

/-- One element operation at its bank: the old value, and what it writes (R238). -/
def State.bankWrites (s : State) (op : Nat) (p : Placed) (v : Nat) : Nat × List ByteWrite :=
  let old := leValue (p.phys.map fun q => s.byte q.key)
  (old, (placedWrites p (bankOp op (8 * p.phys.length) old v)).flatMap (·.2))

/-- One counter of a filter byte goes up by one, at most to 15 (R239). -/
def State.nibStep (s : State) (p : Placed) (j : Nat) : Nat × State :=
  let old := leValue (p.phys.map fun q => s.byte q.key)
  let c := counterOf old j
  let new := if c = 15 then old else old + 16 ^ (j % 2)
  (c, s.perform .raw ((placedWrites p new).flatMap (·.2)))

/-- A bank operation of the current hart waits for its older accesses: all of them under a release, a store of its class that is queued
on a link in any case (R238, R280); and for the tokens of its ports (R99). -/
def State.bankBehind (s : State) (h : Hart) (ord : BitVec 2) (cls : BitVec 4) (ps : List Phys) : Bool :=
  releases ord && !h.unacked.isEmpty || (s.homeq.any fun q => !q.read && q.hart == s.cur && q.cls == cls) ||
    s.portWait (s.ctxOf h) (accessPorts (spireOf s.cur) ps)

/-- A bank operation of the current hart goes out to its places (R99). -/
def State.bankAccess (s : State) (h : Hart) (ps : List Phys) : State := s.charge (s.ctxOf h) (accessPorts (spireOf s.cur) ps)

/-- The saturating-nibble operation (R239): two steps, one for each counter. -/
def State.bopNib (s : State) (h : Hart) (g : Group) (d : Reg) (base : Word) (x : Nat) (ord : BitVec 2) (cls : BitVec 4) : Result :=
  if base.toNat % 1024 ≠ 0 then .trap ⟨20, 0, true, false, 0, base⟩
  else
    let c := filterHash x
    match s.placeAll g (spireOf s.cur) 3 0 true (⟨0, base, 1⟩ :: filterTouches base 0 x) with
    | ([_, p, q], []) =>
      if s.bankBehind h ord cls (p.phys ++ q.phys) then .stall s h false
      else
        let s := s.bankAccess h (p.phys ++ q.phys)
        let old2 := counterOf (leValue (q.phys.map fun y => s.byte y.key)) c.2
        let r := s.nibStep p c.1
        let s' := if c.2 = c.1 then r.2 else (r.2.nibStep q c.2).2
        .done s' (h.setReg d (BitVec.ofNat 64 (min r.1 old2)))
    | (_, e :: _) => .trap e.2
    | _ => .stall s h false

/-- The element-wise form (R238): the active elements lie apart, and what falls in one line performs as one step (R265). It sets no
flag. -/
def State.bopVector (s : State) (h : Hart) (g : Group) (base : Word) (vb : Nat) (op w : Nat) (ord : BitVec 2) (m cls : BitVec 4) :
    Result :=
  let a := h.arch
  let t := a.tagOf vb
  let n := a.count (g.regBytes a.shape) [t]
  let act := a.active m n
  let on := (List.range n).filter (bitOf act)
  let es := on.map fun i => (⟨i, base + BitVec.ofNat 64 (i * (w / 8)), w / 8⟩ : Elem)
  let r := s.placeAll g (spireOf s.cur) 3 (w / 8) true es
  match r.2 with
  | e :: _ => .trap e.2
  | [] =>
    let c := a.plainCodes vb act n .rne false
    match a.judge [⟨[], 0, c.2⟩] with
    | .error e => .trap e
    | .ok _ =>
      if t.bits != w then .trap tagMismatch
      else if s.bankBehind h ord cls (r.1.flatMap (·.phys)) then .stall s h false
      else
        let vs := on.map fun i => c.1.val.getD i 0
        .done ((s.bankAccess h (r.1.flatMap (·.phys))).perform .raw ((r.1.zip vs).flatMap fun x => (s.bankWrites op x.1 x.2).2)) h

/-- `bop` (R238, R239). -/
def execBop (d a b : Reg) (op : BitVec 4) (w ord : BitVec 2) (v : Bool) (o : MaskCm) (s : State) :
    Outcome State Fault Refusal :=
  .next (s.run (.bop d a b op w ord v o) fun s h => s.withGroup h fun g =>
    let bits := 8 * 2 ^ w.toNat
    let base := h.reg a
    if op = 6 then s.bopNib h g d base ((h.reg b).toNat % 2 ^ 32) ord o.cls
    else if v then s.bopVector h g base b.toNat op.toNat bits ord o.mask o.cls
    else match s.placeElem g (spireOf s.cur) 3 (bits / 8) true ⟨0, base, bits / 8⟩ with
      | .error c => .trap c
      | .ok p =>
        if s.bankBehind h ord o.cls p.phys then .stall s h false
        else
          let r := s.bankWrites op.toNat p ((h.reg b).toNat % 2 ^ bits)
          .done ((s.bankAccess h p.phys).perform .raw r.2) (h.setReg d (BitVec.ofNat 64 r.1)))

/-- Busy copies of a hart whose class p accepts. -/
def State.copiesOf (s : State) (h : Hart) (p : BitVec 4 → Bool) : Nat :=
  (s.copies.filter fun t => t.2.busy && t.2.gid == h.gid && t.2.hart == h.idx && p t.2.cls).length

/-- `fence` (R240): the hart's older accesses and copy chunks of the classes have performed before it goes on. -/
def execFence (cmask : BitVec 16) (scope : BitVec 3) (o : Cm) (s : State) : Outcome State Fault Refusal :=
  .next (s.run (.fence cmask scope o) fun s h =>
    if (h.unacked.any fun u => cmask.getLsbD u.cls.toNat) || s.copiesOf h (fun c => cmask.getLsbD c.toNat) != 0 then
      .stall s { h with pending := some .waiting } false
    else .done s h)

/-- Slots whose `unstand` by this hart awaits its acknowledgement (R272). -/
def State.closingOf (s : State) (h : Hart) : Nat :=
  (s.slots.filter fun x => x.2.gid == h.gid && x.2.hart == h.idx && x.2.state == .closing && !x.2.gone).length

/-- Unfinished tile tasks of a hart. -/
def State.tasksOf (s : State) (h : Hart) : Nat := match s.group h.gid with
  | some g => (g.tasks.filter fun t => t.hart == h.idx && t.state.live).length
  | none => 0

/-- A count is at or below its immediate; 31 waits on nothing (R241). -/
def within (n : Nat) (imm : BitVec 5) : Bool := imm == 31 || n ≤ imm.toNat

/-- The stores of a hart that have not performed: each store once, on however many links it waits (R241). -/
def Hart.storesOut (h : Hart) : Nat := (h.unacked.map (·.seq)).eraseDups.length

/-- `wait` (R241). -/
def execWait (l st c t : BitVec 5) (o : Cm) (s : State) : Outcome State Fault Refusal :=
  .next (s.run (.wait l st c t o) fun s h =>
    if within h.landing.length l && within (h.storesOut + s.closingOf h) st && within (s.copiesOf h fun _ => true) c &&
        within (s.tasksOf h) t then .done s h
    else .stall s { h with pending := some .waiting } false)

/-- The oldest write request that stands first in the queue of a link which carries it (R276, R329). -/
def State.nextRequest (s : State) : Option HomeOp :=
  s.homeq.find? fun q => !q.read && (match q.link with | some l => s.linkUp l | none => true) &&
    (s.homeq.find? fun r => s.queued r && r.link == q.link) == some q

/-- The byte at a key of a shaft or of the Belfry belongs to a context. -/
def State.allotted (s : State) (k : Nat) : Bool := s.ctxs.any fun x =>
  if isDram k then x.2.owns k else 2 ^ 40 ≤ k && k < 2 ^ 41 && x.2.granules.contains ((k - 2 ^ 40) / 2 ^ 20)

/-- The host stores bytes to module memory over the host link, and they perform at their homes (R265, R292; log 72). -/
def State.hostStore (s : State) (k : Nat) (bs : List Byte) : State :=
  let ws := byteWrites k bs
  if s.status == .ready && s.linkUp hostLink && ws.all fun w => s.allotted w.key then s.perform .raw ws else s

/-- A home performs the next request of a link (R9, R258, R265, R334, R337). -/
def execHomeAccessStep (s : State) : Outcome State Fault Refusal :=
  .next <| match s.nextRequest with
    | none => s
    | some q =>
      let s := { s with homeq := (s.homeq.erase q).filter s.queued }
      (q.counts.foldl (fun s c => s.countPage q.ctx c.1 c.2) s).perform q.mark q.writes

end Sys2Proof.Machine
end

