-- ==== Sys2Proof/Machine/Kernel.lean ====
section
/-! DEFINITION. Queues, kernels, groups and pipes (spec/07, spec/08, spec/09, R360). -/

namespace Sys2Proof.Machine

open Host (Outcome)

/-- The context takes doorbell writes (R103). -/
def State.doorbells (s : State) (c : Nat) : Bool :=
  match (s.ctx c).state with
  | .active | .growing | .shrinking => true
  | _ => false

/-- The host writes QWP (R106, R112). -/
def execQwpWrite (c q : Nat) (v : BitVec 32) (s : State) : Outcome State Fault Refusal :=
  .next (if s.doorbells c then s.advanceQueue c q v else s)

/-- ARM in IDLE or STOPPED: ERR = CFG, or the count is checked and the queue goes (R105, R106, Table 7.6). -/
def execQctlArm (c q : Nat) (s : State) : Outcome State Fault Refusal :=
  .next <|
    let x := s.queue c q
    if !s.doorbells c || !(x.state == .idle || x.state == .stopped) then s
    else if !x.cfgOk then s.setQueue c q { x with err := 1 }
    else (s.setQueue c q { x with state := .armed, err := 0, clearing := false }).queueStep c q x.count

/-- STOP in ARMED, RUNNING or BLOCKED (Table 7.6). -/
def execQctlStop (c q : Nat) (s : State) : Outcome State Fault Refusal :=
  .next <|
    let x := s.queue c q
    if !s.doorbells c || x.state == .idle || x.state == .stopped then s else s.setQueue c q { x with state := .stopped }

/-- CLEAR in STOPPED, applied once every taken kernel has ended (Table 7.6). -/
def execQctlClear (c q : Nat) (s : State) : Outcome State Fault Refusal :=
  .next <|
    let x := s.queue c q
    if s.doorbells c && x.state == .stopped then (s.setQueue c q { x with clearing := true }).queueClear c q else s

/-- A field of a launch record (Table 7.5). -/
def recField (r : List Byte) (o n : Nat) : Nat := leValue ((r.drop o).take n)

/-- The checks of Table 8.3, in order: the status of the first that fails, 0 when all pass. -/
def recordStatus (r : List Byte) : Nat :=
  let flags := recField r 23 1
  let lanes := recField r 21 1
  if recField r 36 4 != 0 || recField r 48 80 != 0 || flags / 8 != 0 then 1
  else if recField r 0 8 % 4 != 0 then 2
  else if recField r 16 4 == 0 then 3
  else if recField r 20 1 == 0 || 64 < recField r 20 1 then 4
  else if !([0, 4, 8, 16, 32].contains lanes) || (lanes == 0 && flags / 4 % 2 == 1) then 5
  else if !([8, 16, 32, 64].contains (recField r 22 1)) then 6
  else if recField r 24 4 % 4096 != 0 || 1048576 < recField r 24 4 then 7
  else if (flags % 2 == 1 && 256 ≤ recField r 28 2) || (flags / 2 % 2 == 1 && 256 ≤ recField r 30 2) then 8
  else 0

/-- The kernel of a launch record taken from a queue (Table 7.5). -/
def kernelOf (c q record prio : Nat) (r : List Byte) : Kernel where
  ctx := c
  queue := q
  record := record
  state := .queued
  status := 0
  prio := prio
  code := BitVec.ofNat 64 (recField r 0 8)
  args := BitVec.ofNat 64 (recField r 8 8)
  ngrp := recField r 16 4
  nhart := recField r 20 1
  lanes := recField r 21 1
  shape := recField r 22 1
  waitv := recField r 23 1 % 2 == 1
  sigv := recField r 23 1 / 2 % 2 == 1
  pair := recField r 23 1 / 4 % 2 == 1
  lspan := recField r 24 4
  wtok := recField r 28 2
  ctok := recField r 30 2
  wval := BitVec.ofNat 32 (recField r 32 4)
  cookie := BitVec.ofNat 64 (recField r 40 8)
  placed := 0
  doneGroups := 0

/-- The last taken kernel of a queue has left QUEUED and WAITING (R108). -/
def State.lastSettled (s : State) (q : Queue) : Bool := match q.last with
  | some k => (match s.kernels.find k with | some x => x.state != .queued && x.state != .waiting | none => true)
  | none => true

/-- The kernel leaves QUEUED (Table 8.2). -/
def State.checkKernel (s : State) (kid : Nat) (k : Kernel) (status : Nat) : State :=
  if status != 0 then s.endKernel kid .aborted status
  else if k.waitv && !reached ((s.ctx k.ctx).kt k.wtok) k.wval then s.modKernel kid fun k => { k with state := .waiting }
  else s.modKernel kid fun k => { k with state := .placing }

/-- Queue q of context c takes record QRP whole, and its kernel makes its checks (R107, R108, R113 to R116). -/
def execQueueTake (c q : Nat) (s : State) : Outcome State Fault Refusal :=
  .next <|
    let x := s.queue c q
    if !s.doorbells c || x.state != .running || x.count == 0 || !s.lastSettled x then s
    else match s.devicePlaces c (x.base + BitVec.ofNat 64 (128 * (x.rp.toNat % x.size))) false 128 with
      | none => s.setQueue c q { x with state := .stopped, err := 2 }
      | some ps =>
        if !(linksOf ps).all s.linkUp || s.portWait c (linkPorts ps) then s
        else
          let s := s.charge c (linkPorts ps)
          let r := ps.map fun p => s.byte p.key
          let kid := s.nextKernel
          let k := kernelOf c q x.rp.toNat x.prio r
          let s := { s with kernels := Store.insert s.kernels kid k, nextKernel := kid + 1 }
          let s := s.setQueue c q { x with rp := x.rp + 1, last := some kid }
          (s.checkKernel kid k (recordStatus r)).queueStep c q x.count

/-- The host writes a kernel token (R115, R116). -/
def execKtokWrite (c t : Nat) (v : BitVec 32) (s : State) : Outcome State Fault Refusal :=
  .next (if s.doorbells c then s.setKtok c t v else s)

/-- Groups that hold resources of a quad. -/
def State.groupsOn (s : State) (quad : Nat) : List Group :=
  (s.groups.filter fun g => g.2.quad == quad && g.2.state.holds).map (·.2)

/-- Free frames of a Spire, lowest first (R123). -/
def State.freeFrames (s : State) (spire : Nat) : List Nat :=
  ((List.range 16).map (16 * spire + ·)).filter fun k => (s.harts.find k).isNone

/-- Harts of a group at position p (R117). -/
def hartsAt (nhart p : Nat) : Nat := (nhart + 3 - p) / 4

/-- The lowest base, a multiple of 4 096, from which len bytes of a Spire's local store are free (R117). -/
def freeBase (len : Nat) (held : List (Nat × Nat)) : Option Nat :=
  ((List.range 257).map (4096 * ·)).find? fun b =>
    b + len ≤ 2 ^ 20 && held.all fun h => h.2 == 0 || len == 0 || b + len ≤ h.1 || h.1 + h.2 ≤ b

/-- The bases of a span on the four Spires of a quad. -/
def State.spanBases (s : State) (quad len : Nat) : Option (List Nat) :=
  (List.range 4).mapM fun p => freeBase len ((s.groupsOn quad).map fun g => (g.bases.getD p 0, g.lspan))

/-- The conditions of R117 for a group of these harts, lanes, pairing and span on a quad. -/
def State.quadFits (s : State) (quad nhart lanes lspan : Nat) (pair : Bool) : Bool :=
  (List.range 4).all (fun p => hartsAt nhart p ≤ (s.freeFrames (4 * quad + p)).length) &&
    (s.spanBases quad lspan).isSome &&
    (lanes == 0 || (s.groupsOn quad).all fun g => g.lanes == 0 || (g.lanes == lanes && g.pair == pair))

/-- Free frames of a quad. -/
def State.quadFrames (s : State) (quad : Nat) : Nat := ((List.range 4).map fun p => (s.freeFrames (4 * quad + p)).length).sum

/-- Quads on which a context may place (R97, R344). -/
def Ctx.open (x : Ctx) : List Nat := x.quads.filter fun q => !x.suspended.contains q && !x.leaving.contains q

/-- The quad with the most free frames, the lowest of them (R117). -/
def State.bestQuad (s : State) (qs : List Nat) : Option Nat :=
  (qs.foldl (fun (b : Option (Nat × Nat)) q =>
    let n := s.quadFrames q
    match b with
    | none => some (q, n)
    | some y => if y.2 < n || (y.2 = n && q < y.1) then some (q, n) else b) none).map (·.1)

/-- The frames that the harts with these indexes, of nhart, take: each in ascending order the lowest free frame of its position; 4096 for
an index that is not among them (R122, R123). -/
def State.takeFrames (s : State) (quad nhart : Nat) (idxs : List Nat) : List Nat :=
  (List.range nhart).map fun h =>
    if idxs.contains h then (s.freeFrames (4 * quad + h % 4)).getD (idxs.filter fun i => i % 4 == h % 4 && i < h).length 4096 else 4096

/-- Rank of a PLACING kernel: PRIO, then its queue's turn, then age (R110). -/
def placeRank (last : Nat) (k : Nat × Kernel) : Nat × Nat × Nat := (7 - k.2.prio, (k.2.queue + 15 - last) % 16, k.1)

/-- One rank comes before another. -/
def rankLt (a b : Nat × Nat × Nat) : Bool :=
  a.1 < b.1 || (a.1 == b.1 && (a.2.1 < b.2.1 || (a.2.1 == b.2.1 && a.2.2 < b.2.2)))

/-- The kernel of a context whose next group is placed, with its quad: the first in order whose group fits (R110, R117). -/
def State.nextPlacement (s : State) (c : Nat) : Option (Nat × Kernel × Nat) :=
  let x := s.ctx c
  let cand := (s.kernels.filter fun k => k.2.ctx == c && k.2.state == .placing).filterMap fun k =>
    (s.bestQuad (x.open.filter fun q => s.quadFits q k.2.nhart k.2.lanes k.2.lspan k.2.pair)).map fun q => (k, q)
  let best := cand.foldl (fun (b : Option ((Nat × Kernel) × Nat)) y => match b with
    | none => some y
    | some z => if rankLt (placeRank x.lastQueue y.1) (placeRank x.lastQueue z.1) then some y else b) none
  best.map fun y => (y.1.1, y.1.2, y.2)

/-- Scalar registers of a hart at entry (Table 8.4). -/
def entryRegs (k : Kernel) (g h : Nat) (a : Arch) : Arch :=
  ((((a.setReg 3 k.args).setReg 4 (BitVec.ofNat 64 g)).setReg 5 (BitVec.ofNat 64 h)).setReg 6 (BitVec.ofNat 64 k.ngrp)).setReg 7
    (BitVec.ofNat 64 k.nhart)

/-- The state of hart h of group g of a kernel at entry (R119). -/
def entryArch (k : Kernel) (g h : Nat) : Arch :=
  entryRegs k g h { Arch.entry with pc := k.code, shape := if k.lanes = 0 then 0 else k.shape }

/-- Group g of kernel kid takes its frames and spans on a quad: FORMING (R117, Table 9.1). -/
def State.formGroup (s : State) (kid : Nat) (k : Kernel) (quad : Nat) : State :=
  let gid := s.nextGroup
  let frames := s.takeFrames quad k.nhart (List.range k.nhart)
  let g : Group := {
    ctx := k.ctx
    kernel := kid
    index := k.placed
    quad := quad
    state := .forming
    nhart := k.nhart
    lanes := k.lanes
    pair := k.pair
    shape := k.shape
    lspan := k.lspan
    bases := (s.spanBases quad k.lspan).getD []
    frames := frames
    barriers := []
    tokens := []
    taskCount := 0
    nextTake := 0
    tasks := []
    tfh := 0
    faults := []
    claim := false
    aborted := false
    wantPark := false
    reserved := none
    image := none }
  let harts := (frames.zip (List.range frames.length)).foldl (fun m f =>
    Store.insert m f.1 { Hart.entry gid f.2 (entryArch k k.placed f.2) with stopped := true }) s.harts
  { s with groups := Store.insert s.groups gid g, nextGroup := gid + 1, harts := harts }

/-- The next group of a context is placed (R110, R117); parked groups resume first (R122). -/
def execGroupPlacement (c : Nat) (s : State) : Outcome State Fault Refusal :=
  .next <|
    if !s.doorbells c || !(s.ctx c).parked.isEmpty then s
    else match s.nextPlacement c with
      | none => s
      | some (kid, k, quad) =>
        let s := (s.formGroup kid k quad).modKernel kid fun k =>
          { k with placed := k.placed + 1, state := if k.placed + 1 = k.ngrp then .running else k.state }
        s.modCtx c fun x => { x with lastQueue := k.queue }

/-- The ls image registered for the code that a kernel runs (R118); its bytes are the loader's. -/
def State.lsImage (s : State) (c : Nat) (code : Word) : List Byte :=
  ((s.lsImages.find? fun i => i.1 == c && i.2.1 == code).map (·.2.2)).getD []

/-- Harts of a group may issue, or not. -/
def State.setStopped (s : State) (gid : Nat) (b : Bool) : State :=
  { s with harts := Store.mapVal (fun _ h => if h.gid = gid then { h with stopped := b } else h) s.harts }

/-- The ls image lands in the four spans and the harts start (R118, Table 9.2); an abort or a pre-emption that came meanwhile
acts now (R121). The domain tags of the spans' granules stay as they are (log 80). -/
def execGroupLsImageCopied (gid : Nat) (s : State) : Outcome State Fault Refusal :=
  .next <| match s.group gid with
    | none => s
    | some g =>
      if g.state != .forming then s
      else
        let code := match s.kernels.find g.kernel with
          | some k => k.code
          | none => 0
        let img := (s.lsImage g.ctx code).take g.lspan
        let s := (List.range 4).foldl (fun s p => s.setBytes (lsKey (4 * g.quad + p) (g.bases.getD p 0)) img) s
        let x := s.ctx g.ctx
        let park := x.suspended.contains g.quad || x.leaving.contains g.quad
        let s := s.modGroup gid fun g => { g with state := .running, wantPark := park }
        if g.aborted then s.abortGroup gid else s.setStopped gid park

/-- A busy copy touches local store. -/
def CopyTag.touchesSpan (t : CopyTag) : Bool := t.busy && (t.src ++ t.dst).any fun r => 2 ^ 41 ≤ r.key && r.key < 2 ^ 42

/-- Everything of a DRAINING group is finished (Table 9.2): its tasks, its subscriptions, and every access to its spans. -/
def State.drained (s : State) (gid : Nat) (g : Group) : Bool :=
  g.state == .draining && g.tasks.all (fun t => t.state != .running) && s.slots.all (fun x => x.2.gid != gid || x.2.state == .closed) &&
    s.copies.all (fun t => !(t.2.gid == gid && t.2.touchesSpan)) && s.harts.all (fun h => h.2.gid != gid || h.2.halted && h.2.unacked.isEmpty)

/-- A DRAINING group is DONE: its resources are free, its claim passes, and its kernel counts it (R119, R121, R302). -/
def execGroupDrainDone (gid : Nat) (s : State) : Outcome State Fault Refusal :=
  .next <| match s.group gid with
    | none => s
    | some g =>
      if !s.drained gid g then s
      else
        let s := s.dropSlots (· == gid)
        let s := { s with streams := s.streams.filter fun x => x.2.gid != gid }
        let s := (s.abandonTasks gid).freeGroup gid
        let s := (s.passClaim g.quad).parkSettle g.ctx
        let s := s.modKernel g.kernel fun k => { k with doneGroups := k.doneGroups + 1 }
        match s.kernels.find g.kernel with
        | none => s
        | some k =>
          if k.doneGroups = k.ngrp && (k.state == .placing || k.state == .running) then
            s.modKernel g.kernel fun k => { k with state := .draining }
          else s

/-- A kernel's closing work is complete: the signal, DONE, QDONE and the journal (R119). -/
def execKernelDone (kid : Nat) (s : State) : Outcome State Fault Refusal :=
  .next <| match s.kernels.find kid with
    | none => s
    | some k =>
      let quiet : Bool := (s.groupsOf kid).all fun g => s.copies.all fun t => !(t.2.gid == g && t.2.busy)
      if k.state != .draining || !quiet then s
      else
        let s := if k.sigv then s.setKtok k.ctx k.ctok ((s.ctx k.ctx).kt k.ctok + 1) else s
        s.endKernel kid .done 0

/-- Key of the counter at a pipe of the hart with index idx of a group (R130). -/
def deficitKey (gid idx pipe : Nat) : Nat := 8 * (64 * gid + idx) + pipe

/-- Key of a pipe. -/
def pipeKey (spire pipe : Nat) : Nat := 8 * spire + pipe

/-- The pipes that several harts share are 1 to 5 (R130); pipes 0, 6 and 7 serve one user. -/
def sharedPipe (pipe : Nat) : Bool := 1 ≤ pipe && pipe ≤ 5

/-- The oldest request of each frame at a pipe, by frame. -/
def State.requests (s : State) (spire pipe : Nat) : List PipeWork :=
  (List.range 16).filterMap fun f => s.pipeWork.find? fun w => w.spire == spire && w.pipe == pipe && w.frame == f

/-- The key of the counter that some work is charged to. -/
def PipeWork.key (w : PipeWork) : Nat := deficitKey w.gid w.idx w.pipe

/-- D of a hart at a pipe, by its key. -/
def State.deficit (s : State) (key : Nat) : Int := Store.get 0 s.deficits key

/-- Writes D of a hart at a pipe. -/
def State.setDeficit (s : State) (key : Nat) (d : Int) : State := { s with deficits := Store.set 0 s.deficits key d }

/-- Q of the harts of a group (R130). -/
def State.quantum (s : State) (gid : Nat) : Int := match s.group gid with
  | some g => (match s.kernels.find g.kernel with | some x => 256 * (x.prio + 1) | none => 256)
  | none => 256

/-- One refill of a pipe's counters (R130). -/
def State.refill (s : State) (spire pipe : Nat) (reqs : List PipeWork) : State :=
  (List.range 16).foldl (fun s f => match reqs.find? (·.frame == f), s.hart (16 * spire + f) with
    | some w, _ => s.setDeficit w.key (s.deficit w.key + s.quantum w.gid)
    | none, some h => let key := deficitKey h.gid h.idx pipe; s.setDeficit key (min (s.deficit key) 0)
    | none, none => s) s

/-- The first request with D > 0 after the frame last granted, wrapping (R130). -/
def State.pick (s : State) (spire pipe : Nat) (reqs : List PipeWork) : Option PipeWork :=
  let last := Store.get 0 s.lastGrant (pipeKey spire pipe)
  let ok := reqs.filter fun w => 0 < s.deficit w.key
  match ok.find? fun w => last ≤ w.frame with
  | some w => some w
  | none => ok.head?

/-- The trace TAG of some work (Table 27.4). -/
def PipeWork.tag (w : PipeWork) : BitVec 32 :=
  if w.pipe = 5 then Config.dauTag w.unit w.item
  else if w.pipe = 6 then BitVec.ofNat 32 (w.unit * 2 ^ 29 + w.item)
  else BitVec.ofNat 32 w.item

/-- One trace record (R360). -/
def traceRecord (d : Word) (w : PipeWork) (done : Bool) : List Byte :=
  bytesOf (d.toNat % 2 ^ 48) 6 ++ [BitVec.ofNat 8 w.spire, BitVec.ofNat 8 (done.toNat * 128 + w.pipe), BitVec.ofNat 8 w.frame, 0, 0, 0] ++
    bytesOf w.tag.toNat 4

/-- A record enters the trace ring, waits while a link to the ring trains (R337, R361), or is dropped and counted (R259, R360). -/
def State.traceAdd (s : State) (c : Nat) (rec16 : List Byte) : State :=
  let x := s.ctx c
  let r := x.trace
  let log2n := r.cfg.toNat / 2 ^ 16 % 16
  let n := 2 ^ log2n
  let lose (r : Ring) : Ring := { r with lost := min (r.lost + 1) 0xFFFF }
  let at_ := r.base + BitVec.ofNat 64 (16 * (r.wp.toNat % n))
  if !r.cfg.getLsbD 0 || log2n < 8 then s.setCtx c { x with trace := lose r }
  else if s.traces.any (·.1 == c) then { s with traces := s.traces ++ [(c, rec16)] }
  else if (r.wp - r.rp).toNat = n then s.setCtx c { x with trace := { lose r with ovf := true } }
  else match s.devicePlaces c at_ true 16 with
    | none => s.setCtx c { x with trace := lose r }
    | some ps =>
      if !(linksOf ps).all s.linkUp then { s with traces := s.traces ++ [(c, rec16)] }
      else match s.deviceWrite c at_ rec16 with
        | none => s
        | some s => s.modCtx c fun x => { x with trace := { r with wp := r.wp + 1 } }

/-- Trace records that wait are tried again, in their order (R337). -/
def State.flushTraces (s : State) : State := s.traces.foldl (fun s t => s.traceAdd t.1 t.2) { s with traces := [] }

/-- The begin or end record of one piece of work, where the context's mask names the pipe (R360). -/
def State.traceWork (s : State) (w : PipeWork) (done : Bool) : State :=
  if (s.ctx w.ctx).trace.cfg.getLsbD (8 + w.pipe) then s.traceAdd w.ctx (traceRecord s.dclk w done) else s

/-- A pipe accepts work, which ends with the next clock (R360, log 65). -/
def State.acceptWork (s : State) (w : PipeWork) : State :=
  State.traceWork { s with pipeWork := s.pipeWork.erase w, pipeBusy := s.pipeBusy ++ [w] } w false

/-- The work that pipes have accepted ends (R360, log 65). -/
def State.endWork (s : State) : State := s.pipeBusy.foldl (fun s w => s.traceWork w true) { s with pipeBusy := [] }

/-- A pipe of a Spire grants a request by deficit round robin and accepts its work (R130, R360). Where one refill leaves every D at 0 or
below, this step grants nothing, and the next refills again (log 82). -/
def execPipeGrant (spire pipe : Nat) (s : State) : Outcome State Fault Refusal :=
  .next <|
    let reqs := s.requests spire pipe
    if !s.dieRuns spire then s
    else if !sharedPipe pipe then
      match reqs.head? with
      | none => s
      | some w => s.acceptWork w
    else
      let s := if reqs.isEmpty || (s.pick spire pipe reqs).isSome then s else s.refill spire pipe reqs
      match s.pick spire pipe reqs with
      | none => s
      | some w =>
        let s := s.setDeficit w.key (s.deficit w.key - w.cost)
        State.acceptWork { s with lastGrant := Store.set 0 s.lastGrant (pipeKey spire pipe) (w.frame + 1) } w

end Sys2Proof.Machine
end

