-- ==== Sys2Proof/Machine/Command.lean ====
section
/-! DEFINITION. The management queue (R93 to R95) and what its commands share. -/

namespace Sys2Proof.Machine

open Host (Outcome)

/-- MQCFG.ENA. -/
def State.mqEna (s : State) : Bool := s.mqCfg.getLsbD 0

/-- The host writes MQWP (R94). -/
def execMqwpWrite (v : BitVec 32) (s : State) : Outcome State Fault Refusal :=
  .next (if s.status == .ready then { s with mqWp := v } else s)

/-- MQBASE and LOG2N are such that ENA may become 1 (R94). -/
def mqValid (base : Word) (cfg : BitVec 32) : Bool :=
  let n := cfg.toNat / 2 ^ 16 % 16
  4 ≤ n && n ≤ 12 && base.toNat % 4096 == 0

/-- The host writes MQCFG (R94, Table 6.9): reserved bits are discarded, LOG2N and IRQ change only while ENA = 0, a valid
setting of ENA clears HALT and ERR, and an invalid one leaves ENA at 0 with ERR = CFG. -/
def execMqcfgWrite (v : BitVec 32) (s : State) : Outcome State Fault Refusal :=
  .next <|
    if s.status != .ready then s
    else if s.mqEna then { s with mqCfg := (s.mqCfg &&& 0xF0002) ||| (v &&& 1) }
    else
      let cfg := v &&& 0xF0002
      if !v.getLsbD 0 then { s with mqCfg := cfg }
      else if mqValid s.mqBase v then { s with mqCfg := cfg ||| 1, mqErr := 0, mqHalt := false }
      else { s with mqCfg := cfg, mqErr := 1 }

/-- OPCs that Tables 6.3 and 17.6 and R332, R344 and R369 assign. -/
def opcKnown (opc : Nat) : Bool := 1 ≤ opc && opc ≤ 0x0C

/-- A reserved field of the command record holds a nonzero value (Table 6.2). -/
def cmdReserved (r : List Byte) : Bool := recField r 1 1 != 0 || recField r 3 1 != 0 || recField r 32 24 != 0 || recField r 60 4 != 0

/-- The command of a record (Table 6.2). -/
def cmdOf (r : List Byte) (slot : Nat) : Cmd where
  opc := recField r 0 1
  ctx := recField r 2 1
  seq := BitVec.ofNat 32 (recField r 4 4)
  qmask := BitVec.ofNat 64 (recField r 8 8)
  arg0 := BitVec.ofNat 64 (recField r 16 8)
  arg1 := BitVec.ofNat 64 (recField r 24 8)
  slot := slot
  started := false
  refused := cmdReserved r || !opcKnown (recField r 0 1) || 64 ≤ recField r 2 1

/-- Command n is first in the order of its context (R93). -/
def State.inOrder (s : State) (n : Nat) (c : Cmd) : Bool := s.cmds.all fun x => x.2.ctx != c.ctx || n ≤ x.1

/-- A refused record ends with INVAL in its turn (R93, R95). -/
def State.endRefused (s : State) (n : Nat) : State := match s.cmds.find n with
  | some c => if c.refused && s.inOrder n c then s.endCmd n .inval else s
  | none => s

/-- The Crown takes record MQRP (R94): overflow and a dead host link halt the queue, a slot waits for its earlier command, and
a record that R95 refuses has no effect but its end. Commands carry ascending numbers. -/
def execMqRecordTake (s : State) : Outcome State Fault Refusal :=
  .next <|
    let count := (s.mqWp - s.mqRp).toNat
    let slot := s.mqRp.toNat
    if s.status != .ready || !s.mqEna || s.mqHalt || count = 0 then s
    else if s.mqSize < count then { s with mqHalt := true, mqErr := 3 }
    else if s.linkDead hostLink then { s with mqHalt := true, mqErr := 2 }
    else if !s.linkUp hostLink || s.cmds.any fun c => c.2.slot % s.mqSize == slot % s.mqSize then s
    else
      let r := s.bytes (hostKey (s.mqBase.toNat + 64 * (slot % s.mqSize))) 64
      let c := cmdOf r slot
      let s := s.journalAdd ⟨1, c.ctx, c.opc, 0, c.seq.setWidth 64, c.qmask⟩
      let n := s.stamp
      State.endRefused { s with mqRp := s.mqRp + 1, stamp := s.stamp + 1, cmds := Store.insert s.cmds n c } n

/-- Command n, of this OPC, is next in its context's order and has not begun (R93). -/
def State.turn (s : State) (n opc : Nat) : Option Cmd := match s.cmds.find n with
  | some c => if c.opc = opc && !c.started && !c.refused && s.inOrder n c then some c else none
  | none => none

/-- States in which a command that requires ACTIVE waits (R93). -/
def CtxState.waits : CtxState → Bool
  | .forming | .growing | .shrinking | .draining => true
  | _ => false

/-- Command n has begun a transition of context c, and ends with it. -/
def State.beginCmd (s : State) (n c : Nat) : State :=
  { s.modCtx c fun x => { x with cmd := some n } with cmds := Store.modify s.cmds n fun m => { m with started := true } }

/-- A change of some capability entry: GEN counts its beginning and its end (R101). -/
def State.capChange (s : State) : State := { s with capGen := s.capGen + 2 }

/-- The quads that a QMASK names. -/
def quadsOf (m : Word) : List Nat := (List.range 64).filter fun q => m.getLsbD q

/-- A quad that the start record fences: one of its Spires or shafts is fenced (R102). -/
def State.quadFenced (s : State) (q : Nat) : Bool :=
  (List.range 4).any fun p => s.fencedSpires.contains (4 * q + p) || s.fencedShafts.contains (4 * q + p)

/-- A quad in the free pool. -/
def State.quadFree (s : State) (q : Nat) : Bool := s.ctxs.all fun x => !x.2.quads.contains q

/-- Belfry granules in the free pool, lowest first. -/
def State.granulesFree (s : State) : List Nat := (List.range 128).filter fun g => s.ctxs.all fun x => !x.2.granules.contains g

/-- Quads and granules can leave the pool (Table 6.3). -/
def State.canTake (s : State) (m : Word) (granules : Nat) : Bool :=
  m != 0 && (quadsOf m).all (fun q => s.quadFree q && !s.quadFenced q) && granules ≤ s.granulesFree.length

/-- A command of an ACTIVE context: it waits in a transition (R93), and any other state ends it with STATE (R95). -/
def State.inActive (s : State) (n : Nat) (c : Cmd) (body : State) : State :=
  let st := (s.ctx c.ctx).state
  if st.waits then s else if st == .active then body else s.endCmd n .state

/-- A quad holds only zeros (R92): shafts, local stores, accumulators, subscription tables and translation caches. -/
def State.zeroQuad (s : State) (q : Nat) : State :=
  let s := (s.zeroRange (dramKey (2 ^ 33 * q)) (dramKey (2 ^ 33 * (q + 1)))).zeroRange (lsKey (4 * q) 0) (lsKey (4 * (q + 1)) 0)
  { s with
    acc := Store.drop s.acc (2 ^ 19 * q) (2 ^ 19 * (q + 1))
    accLevel := Store.drop s.accLevel (8 * q) (8 * (q + 1))
    banks := Store.drop s.banks (8 * q) (8 * (q + 1))
    bankSel := Store.drop s.bankSel (4 * q) (4 * (q + 1))
    subs := s.subs.filter fun u => u.line / 2 ^ 27 != q
    hseq := Store.drop s.hseq (4 * q) (4 * (q + 1))
    tlb := Store.drop s.tlb (4 * q) (4 * (q + 1))
    mtlb := Store.drop s.mtlb (4 * q) (4 * (q + 1))
    copies := Store.drop s.copies (32 * q) (32 * (q + 1))
    streams := Store.drop s.streams (32 * q) (32 * (q + 1))
    issuing := Store.drop s.issuing (32 * q) (32 * (q + 1))
    pipeWork := s.pipeWork.filter fun w => w.spire / 4 != q
    pipeBusy := s.pipeBusy.filter fun w => w.spire / 4 != q
    lastGrant := Store.drop s.lastGrant (32 * q) (32 * (q + 1)) }

/-- A Belfry granule holds only zeros, and no home entry stands on its lines (R92). -/
def State.zeroGranule (s : State) (g : Nat) : State :=
  { s.zeroRange (belKey (2 ^ 20 * g)) (belKey (2 ^ 20 * (g + 1))) with
    subs := s.subs.filter fun u => u.line / 2 ^ 14 != belKey (2 ^ 20 * g) / 2 ^ 20 }

/-- Quads and granules hold only zeros. -/
def State.zeroAll (s : State) (qs gs : List Nat) : State := gs.foldl State.zeroGranule (qs.foldl State.zeroQuad s)

end Sys2Proof.Machine
end

