-- ==== Sys2Proof/Machine/Shake.lean ====
section
/-! DEFINITION. SHAKE256, which the measurement chain, the signed digest, KEYID and the check word of a save image name (R349, R369, R372).
The spec names it and does not define it: the function is that of FIPS 202, with its tables derived as that standard derives them (log
68). -/

namespace Sys2Proof.Machine

/-- The 1 600 bits of a sponge: lane (x, y) is word x + 5 y. -/
abbrev Sponge : Type := BitVec 1600

/-- Lane (x, y), with both numbers taken modulo 5. -/
def Sponge.at (a : Sponge) (x y : Nat) : Word := a.extractLsb' (64 * (x % 5 + 5 * (y % 5))) 64

/-- The sponge whose lanes f gives: the last lane's bits stand highest. -/
def Sponge.build (f : Nat → Nat → Word) : Sponge :=
  (List.range 25).foldr (fun i b => b <<< 64 ||| (f (i % 5) (i / 5)).setWidth 1600) 0

/-- Step t of the walk over the lanes beside (0, 0), from (1, 0): (x, y) is followed by (y, 2 x + 3 y). -/
def spongeWalk : Nat → Nat × Nat
  | 0 => (1, 0)
  | t + 1 => let p := spongeWalk t; (p.2, (2 * p.1 + 3 * p.2) % 5)

/-- How far lane (x, y) turns: a triangular number of its step in the walk; lane (0, 0) stays. -/
def spongeTurn (x y : Nat) : Nat := match (List.range 24).find? fun t => spongeWalk t == (x % 5, y % 5) with
  | some t => (t + 1) * (t + 2) / 2 % 64
  | none => 0

/-- The parity of column x. -/
def Sponge.parity (a : Sponge) (x : Nat) : Word := (List.range 5).foldl (fun w y => w ^^^ a.at x y) 0

/-- Every lane takes in the parities of two columns: the one before it, and the one after it turned by one bit. -/
def Sponge.mix (a : Sponge) : Sponge :=
  .build fun x y => a.at x y ^^^ a.parity (x + 4) ^^^ (a.parity (x + 1)).rotateLeft 1

/-- Every lane turns and goes to its next place: what lands at (x, y) comes from (x + 3 y, x). -/
def Sponge.scatter (a : Sponge) : Sponge := .build fun x y => (a.at (x + 3 * y) x).rotateLeft (spongeTurn (x + 3 * y) x)

/-- Every lane is changed by the two that follow it in its row. -/
def Sponge.bend (a : Sponge) : Sponge := .build fun x y => a.at x y ^^^ (a.at (x + 2) y &&& ~~~a.at (x + 1) y)

/-- The next state of the shift register that round constants come from: times x modulo x^8 + x^6 + x^5 + x^4 + 1. -/
def spongeShift (r : Nat) : Nat := if 128 ≤ r then (2 * r) ^^^ 0x171 else 2 * r

/-- A round's constant from the register's state r: seven outputs, at bits 0, 1, 3, 7, 15, 31 and 63; and the register after them. -/
def roundMark (r : Nat) : Word × Nat :=
  (List.range 7).foldl (fun (c : Word × Nat) j => (if c.2 % 2 = 1 then c.1 ||| BitVec.ofNat 64 (2 ^ (2 ^ j - 1)) else c.1, spongeShift c.2))
    (0, r)

/-- n rounds from the register's state r on. -/
def Sponge.rounds : Nat → Nat → Sponge → Sponge
  | 0, _, a => a
  | n + 1, r, a => let c := roundMark r; Sponge.rounds n c.2 (a.mix.scatter.bend ^^^ c.1.setWidth 1600)

/-- Takes in n blocks of 136 bytes, with 24 rounds after each. -/
def Sponge.absorb (a : Sponge) (b : List Byte) : Nat → Sponge
  | 0 => a
  | n + 1 => Sponge.absorb (Sponge.rounds 24 1 (a ^^^ BitVec.ofNat 1600 (leValue (b.take 136)))) (b.drop 136) n

/-- A message with its suffix bits, filled up to whole blocks: the first byte after it gains 0x1F and the last of its block 0x80. -/
def shakeFill (m : List Byte) : List Byte :=
  let gap := 136 - m.length % 136
  m ++ bytesOf (0x1F + 2 ^ (8 * gap - 1)) gap

/-- The first n bytes of SHAKE256 over a message, for n up to 136. -/
def shake256 (m : List Byte) (n : Nat) : List Byte := bytesOf (Sponge.absorb 0 (shakeFill m) (m.length / 136 + 1)).toNat n

end Sys2Proof.Machine
end

