-- ==== Sys2Proof/Machine/Standing.lean ====
section
/-! DEFINITION. The standing load (R264 to R274). -/

namespace Sys2Proof.Machine

open Host (Outcome)

/-- Lines of storage of a slot by the DEP field (R268). -/
def slotLines (dep : BitVec 6) : Nat := if dep = 0 then 2 else dep.toNat + 1

/-- A slot that `stand` may take: FREE, or CLOSED and held by the hart's group (R268). -/
def State.slotOpen (s : State) (key gid : Nat) : Bool := match s.slot key with
  | none => true
  | some x => x.state == .free || (x.gid == gid && x.state == .closed)

/-- Slot key becomes ARMING for a hart, and its request goes to the home (Table 18.2). -/
def State.armSlot (s : State) (key : Nat) (x : Slot) : State :=
  { s with slots := Store.insert s.slots key x, slotRequests := s.slotRequests ++ [(key, true)] }

/-- `stand` (R268). -/
def execStand (d a b : Reg) (dep : BitVec 6) (sp : Bool) (slot : BitVec 8) (o : Cm) (s : State) :
    Outcome State Fault Refusal :=
  .next (s.run (.stand d a b dep sp slot o) fun s h => s.withGroup h fun g =>
    let va := h.reg a
    let off := h.reg b
    let key := slotKey (spireOf s.cur) slot.toNat
    let status (n : Nat) : Result := .done s (h.setReg d (BitVec.ofNat 64 n))
    match h.pending with
    | some _ => .stall s h false
    | none =>
      if va.toNat % 64 ≠ 0 then .trap ⟨20, 0, false, false, 0, va⟩
      else if off.toNat % 64 ≠ 0 then .trap ⟨20, 0, false, false, 0, off⟩
      else if g.lspan < off.toNat + 64 * slotLines dep then .trap ⟨19, 0, false, false, 0, off⟩
      else match s.placeElem g (spireOf s.cur) (if sp then 3 else 0) 0 false ⟨0, va, 64⟩ with
        | .error c => .trap c
        | .ok p =>
          if !s.slotOpen key h.gid then status 3
          else match p.phys.head? with
            | none => status 2
            | some q =>
              if q.tgt = 3 || q.tgt = 4 then status 2
              else
                let x : Slot := {
                  state := .arming
                  gid := h.gid
                  hart := h.idx
                  depth := if dep = 0 then 0 else dep.toNat + 1
                  base := off.toNat
                  line := q.key / 64
                  pins := pinsOf g.ctx false p.phys
                  grant := q.grant
                  items := []
                  heldEnt := none
                  newest := 0
                  ovc := 0
                  lastSeq := 0
                  gone := false }
                if s.portWait g.ctx (accessPorts (spireOf s.cur) p.phys) then .stall s h false
                else .stall ((s.access (spireOf s.cur) g.ctx p.phys).armSlot key x)
                  { h with pending := some (.standSent slot.toNat d (pinsOf g.ctx false p.phys)) } false)

/-- Entries of a home's subscription table (R265): 1 024 at a shaft, 256 at a bank. -/
def tableSize (home : Nat) : Nat := if home < 256 then 1024 else 256

/-- Subscriptions entered at a home. -/
def State.tableUsed (s : State) (home : Nat) : Nat := (s.subs.filter fun u => homeOf (u.line * 64) == some home).length

/-- Takes a slot's request of one kind off the paths. -/
def State.takeRequest (s : State) (key : Nat) (enter : Bool) : State :=
  { s with slotRequests := s.slotRequests.erase (key, enter) }

/-- The home enters a slot and replies with the line and HSEQ, or replies FULL, in one step (R268). -/
def execHomeSubscribe (spire slot : Nat) (s : State) : Outcome State Fault Refusal :=
  .next <|
    let key := slotKey spire slot
    if !s.slotRequests.contains (key, true) then s
    else match s.slot key with
      | none => s
      | some x => match homeOf (x.line * 64) with
        | none => s
        | some home =>
          let s := s.takeRequest key true
          if tableSize home ≤ s.tableUsed home then { s with messages := s.messages ++ [(key, .reply true [] 0)] }
          else
            { s with
              subs := s.subs ++ [⟨x.gid, spire, slot, x.line, false, 0, 0, []⟩]
              messages := s.messages ++ [(key, .reply false (s.bytes (x.line * 64) 64) (Store.get 0 s.hseq home))] }

/-- The oldest message on the way to a slot. -/
def State.firstMessage (s : State) (key : Nat) : Option Message := (s.messages.find? fun m => m.1 == key).map (·.2)

/-- Takes the oldest message to a slot off its path. -/
def State.takeMessage (s : State) (key : Nat) : State :=
  { s with messages := s.messages.eraseP fun m => m.1 == key }

/-- Key of byte 0 of entry e of a slot in its Spire's local store (R264). -/
def State.entryKey (s : State) (spire : Nat) (x : Slot) (e : Nat) : Nat := match s.group x.gid with
  | some g => lsKey spire (g.bases.getD (spire % 4) 0 + x.base + 64 * e)
  | none => lsKey spire (x.base + 64 * e)

/-- The hart whose `stand` waits for a slot, with its destination. -/
def State.standing (s : State) (spire slot : Nat) : Option (Nat × Hart × Reg) :=
  s.harts.findSome? fun h => match h.2.pending with
    | some (.standSent n d _) => if spireOf h.1 == spire && n == slot then some (h.1, h.2, d) else none
    | _ => none

/-- `stand` of a slot completes with a status (R268). -/
def State.standDone (s : State) (spire slot status : Nat) : State := match s.standing spire slot with
  | some (k, h, d) => s.complete k (.stand d 0 0 0 false 0 ⟨0, 0⟩) h.arch (h.setReg d (BitVec.ofNat 64 status)) none
  | none => s

/-- The home's reply reaches an ARMING slot and completes `stand` (R268, R271). -/
def execStandReplyArrives (spire slot : Nat) (s : State) : Outcome State Fault Refusal :=
  .next <|
    let key := slotKey spire slot
    match s.firstMessage key, s.slot key with
    | some (.reply full line q), some x =>
      if x.state != .arming then s
      else if full then
        ({ s.takeMessage key with slots := Store.erase s.slots key }).standDone spire slot 1
      else
        let item : Item := ⟨false, false, false, 0, 0, q⟩
        (((s.takeMessage key).setBytes (s.entryKey spire x 0) line).modSlot key fun y =>
          { y with state := .standing, items := [item], lastSeq := q, newest := 0 }).standDone spire slot 0
    | _, _ => s

/-- An entry's item is queued and not taken (R269). -/
def Slot.unread (x : Slot) (e : Nat) : Bool := x.items.any fun i => !i.closed && i.ent == e

/-- More pushes folded into the item of entry e; SEQ is that of the last (R269). -/
def Slot.fold (x : Slot) (e n : Nat) (park : Bool) (q : BitVec 16) : Slot :=
  { x with
    items := x.items.map fun i =>
      if i.ent = e && !i.closed then { i with cnt := min (i.cnt + n) 0xFFFF, seq := q, park := i.park || park } else i
    lastSeq := q }

/-- An item of entry e joins the queue. -/
def Slot.queue (x : Slot) (e cnt : Nat) (park : Bool) (q : BitVec 16) : Slot :=
  { x with items := x.items ++ [⟨false, false, park, min cnt 0xFFFF, e, q⟩], newest := e, lastSeq := q }

/-- Where a push of cnt + 1 stores goes (R269): the slot after it, the entry, and whether only the masked bytes are written. -/
def Slot.push (x : Slot) (cnt : Nat) (park : Bool) (q : BitVec 16) : Slot × Nat × Bool :=
  if x.depth = 0 then
    let e := match x.heldEnt with
      | some e => 1 - e
      | none => 0
    if x.unread e then (x.fold e (cnt + 1) park q, e, false) else (x.queue e cnt park q, e, false)
  else
    let e := (x.newest + 1) % x.depth
    if x.heldEnt != some e && !x.unread e then (x.queue e cnt park q, e, false)
    else ({ x.fold x.newest (cnt + 1) park q with ovc := min (x.ovc + 1) 255 }, x.newest, true)

/-- Bytes of a line under a mask over the bytes that stand there. -/
def maskLine (mask i : Nat) : List Byte → List Byte → List Byte
  | b :: l, o :: t => (if bitOf mask i then b else o) :: maskLine mask (i + 1) l t
  | _, _ => []

/-- A push is placed in a slot: the line is written before its item is queued (R269, R271). -/
def State.placePush (s : State) (spire slot : Nat) (x : Slot) (line : List Byte) (mask cnt : Nat) (park : Bool) (q : BitVec 16) :
    State :=
  let r := x.push cnt park q
  let key := s.entryKey spire x r.2.1
  let bytes := if r.2.2 then maskLine mask 0 line (s.bytes key 64) else line
  { s.setBytes key bytes with slots := Store.insert s.slots (slotKey spire slot) r.1 }

/-- The context of a slot's group. -/
def State.slotCtx (s : State) (x : Slot) : Nat := match s.group x.gid with
  | some g => g.ctx
  | none => 0

/-- The ports that a push to a slot of a Spire passes, once for each byte of the line. -/
def Slot.ports (x : Slot) (spire : Nat) : List Nat := (List.range 64).flatMap fun i => portsOf spire (64 * x.line + i) none x.grant

/-- A slot of a Spire can take a push: it stands or closes, and the push's ports have tokens (R99, R269). -/
def State.takesPush (s : State) (spire : Nat) (x : Slot) : Bool :=
  (x.state == .standing || x.state == .closing) && !s.portWait (s.slotCtx x) (x.ports spire)

/-- A push arrives at its slot (R269); it is charged to the subscriber's context (R99). -/
def execPushArrives (spire slot : Nat) (s : State) : Outcome State Fault Refusal :=
  .next <|
    let key := slotKey spire slot
    match s.firstMessage key, s.slot key with
    | some (.push line mask q), some x =>
      if s.takesPush spire x then
        ((s.takeMessage key).charge (s.slotCtx x) (x.ports spire)).placePush spire slot x line mask 0 false q
      else s
    | _, _ => s

/-- `unstand` (R272): the slot begins to close; its `unstand` is this hart's. -/
def execUnstand (slot : BitVec 8) (o : Cm) (s : State) : Outcome State Fault Refusal :=
  .next (s.run (.unstand slot o) fun s h =>
    let key := slotKey (spireOf s.cur) slot.toNat
    match s.slot key with
    | some x =>
      if x.state == .standing && x.gid == h.gid then .done ((s.modSlot key fun y => { y with hart := h.idx }).closeSlot key false) h
      else .done s h
    | none => .done s h)

/-- The home removes a slot's entry and acknowledges on the slot's path (R272). -/
def execHomeUnsubscribe (spire slot : Nat) (s : State) : Outcome State Fault Refusal :=
  .next <|
    let key := slotKey spire slot
    if !s.slotRequests.contains (key, false) then s
    else
      { s.takeRequest key false with
        subs := s.subs.filter fun u => !(u.spire == spire && u.slot == slot && !u.parked)
        messages := s.messages ++ [(key, .ack)] }

/-- The acknowledgement reaches a CLOSING slot, which queues its close item (Table 18.2, Table 18.3). -/
def execSubscriptionAckArrives (spire slot : Nat) (s : State) : Outcome State Fault Refusal :=
  .next <|
    let key := slotKey spire slot
    match s.firstMessage key, s.slot key with
    | some .ack, some x =>
      if x.state == .closing then
        (s.takeMessage key).modSlot key fun y =>
          { y with state := .closed, items := y.items ++ [⟨y.gone, true, false, 0, 0, y.lastSeq⟩] }
      else s
    | _, _ => s

/-- A home answers the park request of a slot of a group that is being pre-empted, once every earlier push has landed (R274). -/
def execHomeParkSlot (spire slot : Nat) (s : State) : Outcome State Fault Refusal :=
  .next <|
    let key := slotKey spire slot
    match s.slot key with
    | none => s
    | some x =>
      let stopping : Bool := match s.group x.gid with
        | some g => g.state == .running && g.wantPark
        | none => false
      if x.state == .standing && stopping && (s.firstMessage key).isNone then
        { s.modSlot key fun y => { y with state := .parked } with
          subs := s.subs.map fun u =>
            if u.gid == x.gid && u.spire == spire && u.slot == slot then { u with parked := true, missed := 0, newest := 0 } else u }
      else s

/-- A parked slot goes back to its home's pushes on a Spire; missed pushes become one handover item (R274). -/
def State.unparkSlot (s : State) (spire slot oldSpire : Nat) (x : Slot) : State :=
  let key := slotKey spire slot
  let x := { x with state := .standing }
  let missed := s.subs.find? fun u => u.gid == x.gid && u.spire == oldSpire && u.slot == slot && u.parked
  let s := { s with
    slots := Store.insert s.slots key x
    subs := s.subs.map fun u =>
      if u.gid == x.gid && u.spire == oldSpire && u.slot == slot && u.parked then
          { u with spire := spire, parked := false, missed := 0, kept := [] } else u }
  match missed with
  | some u =>
    if u.missed = 0 then s
    else s.placePush spire slot x u.kept (2 ^ 64 - 1) (u.missed - 1) true u.newest
  | none => s

end Sys2Proof.Machine
end

