-- ==== Sys2Proof/Machine/Strip.lean ====
section
/-! DEFINITION. Shape, tags, strips, the length queue, memory formats, lanes, convoys, exits and held stores (R85 to R88, R124 to
R127, R163 to R178, R245). -/

namespace Sys2Proof.Machine

open Host (Outcome)

/-- The vector state afresh at a shape: registers, tags, masks and vl (R165, R39, R41). -/
def Arch.freshVector (a : Arch) (shape : Nat) : Arch :=
  { a with v := [], vtag := [], extent := [], m := [], vl := 0, shape := shape }

/-- `vshape` (R165): once older vector data have landed. -/
def execVshape (n : BitVec 2) (o : Cm) (s : State) : Outcome State Fault Refusal :=
  .next (s.run (.vshape n o) fun s h =>
    if !h.landing.isEmpty then .stall s h true
    else .done s (h.mapArch fun a => a.freshVector (8 * 2 ^ n.toNat)))

/-- `vtype` (R166). -/
def execVtype (vd : Reg) (tag : BitVec 4) (dom : BitVec 3) (o : Cm) (s : State) : Outcome State Fault Refusal :=
  .next (s.compute (.vtype vd tag dom o) fun a => a.setTag vd.toNat ((Tag.ofCode tag.toNat).getD .i8) dom.toNat)

/-- n of `vstrip`: the remaining count, VLMAX for ew and the cap (R163). -/
def stripLength (rem vmax : Nat) (cap : Option Nat) : Nat := min (min rem vmax) (cap.getD rem)

/-- `vstrip` (R163); its retirement is a switch point (R128). -/
def execVstrip (d a b : Reg) (lq : Bool) (ew : BitVec 2) (o : Cm) (s : State) : Outcome State Fault Refusal :=
  .next (s.run (.vstrip d a b lq ew o) fun s h =>
    let cap := if b = 0 then none else some (h.reg b).toNat
    let go (rem : Nat) (h : Hart) : Result :=
      let n := stripLength rem (s.regBytes h / 2 ^ ew.toNat) cap
      .done (s.pairSwitch s.cur) (h.mapArch fun x => { x.setReg d (BitVec.ofNat 64 n) with vl := BitVec.ofNat 32 n })
    if lq then
      match h.arch.lq with
      | [] => .trap (.plain 7 0)
      | c :: t => go c.toNat (h.mapArch fun x => { x with lq := t })
    else go (h.reg a).toNat h)

/-- `vpopq` (R164). -/
def execVpopq (m : BitVec 4) (o : Cm) (s : State) : Outcome State Fault Refusal :=
  .next (s.run (.vpopq m o) fun s h =>
    if h.arch.lq.length = 8 then .trap (.plain 6 0)
    else
      let n := h.arch.vl.toNat
      let c := ((List.range n).filter (bitOf (h.arch.active m n))).length
      .done s (h.mapArch fun x => { x with lq := x.lq ++ [BitVec.ofNat 32 c] }))

/-- A memory-format value that `mfmt` refuses (R45). -/
def badFormat (v : Word) : Bool :=
  let fmt := v.toNat % 16
  fmt == 14 || fmt == 15 || v &&& 0xFFFFFFFF00F0E8F0 != 0 || (v.toNat / 256 % 8 != 0 && !tagCodeCarries fmt)

/-- `mfmt` (R45, R245). -/
def execMfmt (n : BitVec 2) (a : Reg) (o : Cm) (s : State) : Outcome State Fault Refusal :=
  .next (s.run (.mfmt n a o) fun s h =>
    let v := h.reg a
    if badFormat v then .trap (.plain 34 0)
    else .done s (h.mapArch fun x => { x with mf := Store.set 0 x.mf n.toNat v }))

/-- What `vacq` returns for a seat. -/
def seatWord (p seat : Nat) : Word := BitVec.ofNat 64 (p + 256 * seat)

/-- Seated harts of a Spire. -/
def State.seated (s : State) (spire : Nat) : List (Nat × Nat) :=
  s.harts.filterMap fun h => if spireOf h.1 = spire then h.2.seat else none

/-- Free seats of a Spire's cut, in the order in which harts take them: empty partitions first (R127). -/
def freeSeats (lanes seats : Nat) (held : List (Nat × Nat)) : List (Nat × Nat) :=
  let parts := List.range (if lanes = 0 then 0 else 32 / lanes)
  let used (p : Nat) : Bool := held.any fun x => x.1 == p
  (parts.filter fun p => !used p).map (fun p => (p, 0)) ++
    (parts.filter used).flatMap fun p => ((List.range seats).map fun k => (p, k)).filter fun x => !held.contains x

/-- `vacq` (R124): the seat it holds, or the wait for one. -/
def execVacq (d : Reg) (nb : Bool) (o : Cm) (s : State) : Outcome State Fault Refusal :=
  .next (s.run (.vacq d nb o) fun s h => s.withGroup h fun g =>
    if g.lanes = 0 then .trap (.plain 3 0)
    else match h.seat, h.pending with
      | some (p, k), _ => .done s (h.setReg d (seatWord p k))
      | none, some _ => .stall s h false
      | none, none =>
        if nb && (freeSeats g.lanes g.seats (s.seated (spireOf s.cur))).isEmpty then .done s (h.setReg d (BitVec.allOnes 64))
        else .stall s { h with pending := some (.seeking s.dclk.toNat d) } false)

/-- A seeking hart of a Spire: PRIO, stamp, frame, its register. -/
def State.seekers (s : State) (spire : Nat) : List (Nat × Nat × Nat × Reg) :=
  s.harts.filterMap fun h =>
    if spireOf h.1 = spire && h.2.live then
      match h.2.pending with
      | some (.seeking t d) =>
        let prio := match s.group h.2.gid with
          | some g => (match s.kernels.find g.kernel with | some k => k.prio | none => 0)
          | none => 0
        some (prio, t, h.1, d)
      | _ => none
    else none

/-- The seeking hart that is seated first (R127). -/
def firstSeeker (l : List (Nat × Nat × Nat × Reg)) : Option (Nat × Nat × Nat × Reg) :=
  l.foldl (fun b x => match b with
    | none => some x
    | some y => if y.1 < x.1 || (y.1 = x.1 && (x.2.1 < y.2.1 || (x.2.1 = y.2.1 && x.2.2.1 < y.2.2.1))) then some x else b) none

/-- The Escapement seats one seeking hart, and its `vacq` completes (R124, R127); its q registers keep their bindings. -/
def execSeatGrant (spire : Nat) (s : State) : Outcome State Fault Refusal :=
  .next <| match firstSeeker (s.seekers spire) with
    | none => s
    | some (_, _, k, d) => match s.hart k with
      | none => s
      | some h => match s.group h.gid with
        | none => s
        | some g => match freeSeats g.lanes g.seats (s.seated spire) with
          | [] => s
          | (p, n) :: _ =>
            let a := { (h.arch.killVector g.shape) with qb := h.arch.qb }.setReg d (seatWord p n)
            s.complete k (.vacq d false ⟨0, 0⟩) h.arch { h with seat := some (p, n), arch := a } none

/-- `vrel` (R125): the seat is free, the vector state dead, and issue passes to the partner (R128). -/
def execVrel (o : Cm) (s : State) : Outcome State Fault Refusal :=
  .next (s.run (.vrel o) fun s h => s.withGroup h fun g =>
    if !h.landing.isEmpty then .stall s h true
    else .done (s.pairSwitch s.cur) { h with arch := h.arch.killVector g.shape, seat := none })

/-- The members of a convoy, or what stands in their place: the first one that is no class-10 instruction makes the header illegal
(R86); none while a link to one trains (R337). -/
def State.members (s : State) (k : Nat) (h : Hart) : Nat → Word → Except (Option Cause) (List Instr)
  | 0, _ => .ok []
  | n + 1, pc => match s.fetch k (h.mapArch fun a => { a with pc := pc }) with
    | .instr i =>
      if i.size != 8 then .error (some (.plain 1 0))
      else match s.members k h n (pc + 8) with
        | .ok l => .ok (i :: l)
        | .error c => .error c
    | .illegal _ => .error (some (.plain 1 0))
    | .fault f => .error (some ⟨f.code, f.sub, false, true, 0, f.addr⟩)
    | .held => .error none

/-- An active loop ends after the header and before the end of the last member (R86). -/
def loopInside (a : Arch) (size : Nat) : Bool :=
  let hit (l : Loop) : Bool := l.active && a.pc.toNat < l.stop.toNat && l.stop.toNat < a.pc.toNat + 4 + size
  hit a.lc0 || hit a.lc1

/-- The cause that the header of a convoy of hart k meets, if any (R86): a member's, or an illegal instruction; an error while a link to a
member trains. -/
def State.convoyCause (s : State) (k : Nat) (h : Hart) (n : BitVec 3) (slots : BitVec 24) : Except Unit (Option Cause) :=
  let c := n.toNat + 2
  match s.members k h c (h.arch.pc + 4) with
  | .error none => .error ()
  | .error c => .ok c
  | .ok l =>
    if (l.zip (convoySlots slots)).all (fun p => p.1.wellFormed && unitMatches p.1.unit p.2) && !loopInside h.arch (8 * c) then .ok none
    else .ok (some (.plain 1 0))

/-- `convoy`: the header checks the members (R86) and changes no state of its program (R87). -/
def execConvoy (n : BitVec 3) (slots : BitVec 24) (s : State) : Outcome State Fault Refusal :=
  .next (s.run (.convoy n slots) fun s h => match s.convoyCause s.cur h n slots with
    | .error () => .stall s h false
    | .ok (some c) => .trap c
    | .ok none => .done s { h with convoy := n.toNat + 2 })

/-- `vexit`: opens an exit, with its checkpoint (R170, R173); it waits while four are open (R171). -/
def execVexit (m : BitVec 4) (b : Reg) (off : BitVec 20) (o : Cm) (s : State) : Outcome State Fault Refusal :=
  .next (s.run (.vexit m b off o) fun s h =>
    if h.exits.length = 4 then .stall s h false
    else
      let vl := h.arch.vl.toNat
      let e : Exit := {
        vl := vl
        mask := h.arch.active m vl
        base := h.reg b
        target := h.arch.pc + 4 * off.signExtend 64
        seq := h.seq + 1
        icnt := (Hart.record h 1).dbg.icnt
        arch := { h.arch with hinst := h.arch.hinst + 1 }
        copied := [] }
      .done s { h with exits := h.exits ++ [e] })

/-- The number after the hart's youngest issued instruction: one that recorded a cause has issued and has not executed (R175). -/
def Hart.issued (h : Hart) : Nat := if h.faults.any (·.stops) then h.seq + 1 else h.seq

/-- The hart goes back to state a before instruction number seq, with DICNT as it was there: younger work is annulled, n instructions of
it counted, a convoy header as one (R176, R181, log 84). -/
def Hart.annul (h : Hart) (a : Arch) (seq icnt n : Nat) : Hart :=
  { h with
    arch := a
    seq := seq
    exits := []
    held := h.held.filter fun e => e.seq < seq
    faults := h.faults.filter fun f => f.seq < seq
    hannul := h.hannul + BitVec.ofNat 64 n
    pending := none
    stalled := false
    memStall := false
    awaited := []
    convoy := 0
    dbg := { h.dbg with icnt := icnt, hist := h.dbg.hist.filter fun p => p.count ≤ icnt } }

/-- The recorded point of an instruction whose exit has fired is the state after that (R359). -/
def Hart.repoint (h : Hart) : Hart := match h.dbg.hist with
  | p :: t => if p.count = h.dbg.icnt then
      { h with dbg := { h.dbg with hist := { h.point h.dbg.icnt with pos := p.pos } :: t } } else h
  | [] => h

/-- The oldest recorded fault or cause between exit E and the next open exit (R176). -/
def exposed (e : Exit) (next : Option Exit) (l : List Recorded) : Option Recorded :=
  (l.filter fun f => e.seq ≤ f.seq && (match next with | some x => f.seq < x.seq | none => true)).head?

/-- The oldest open exit acts on its mask (R176, R177). -/
def Hart.resolve (h : Hart) : Hart :=
  match h.exits with
  | [] => h
  | e :: rest =>
    match lowBit e.mask e.vl with
    | some i =>
      (h.annul { e.arch with pc := e.target, xidx := e.base + BitVec.ofNat 64 i } e.seq e.icnt (h.issued - e.seq)).repoint
    | none =>
      match exposed e rest.head? h.faults with
      | some f => h.annul f.arch f.seq f.icnt (h.issued - (f.seq + 1))
      | none => { h with exits := rest, stalled := false }

/-- The oldest open exit of hart k resolves (R176). -/
def execExitResolution (k : Nat) (s : State) : Outcome State Fault Refusal :=
  .next <| match s.hart k with
    | none => s
    | some h => s.setHart k h.resolve

/-- A deferred fault of hart h from a held store (R178, R335, R342): one for each store. -/
def Hart.defer (h : Hart) (e : Held) (c : Cause) : Hart :=
  if h.async.any fun a => a.store == some e.seq then h else { h with async := h.async ++ [⟨c, e.pc, some e.seq⟩] }

/-- A held entry older than every open exit. -/
def Hart.drainable (h : Hart) : Option Held := match h.held with
  | [] => none
  | e :: _ => match h.exits with
    | [] => some e
    | x :: _ => if e.seq < x.seq then some e else none

/-- The ports that a held entry passes. -/
def Held.ports (e : Held) (spire : Nat) : List Nat := writePorts spire e.link e.grant e.writes

/-- A held entry of hart k, of context c, waits: an older store of its class still waits on another link (R280), or its ports lack tokens
(R99). -/
def State.heldBehind (s : State) (k c : Nat) (e : Held) : Bool :=
  (s.homeq.any fun q => !q.read && q.hart == k && q.cls == e.cls && q.link != e.link) || s.portWait c (e.ports (spireOf k))

/-- The oldest held entry performs as its store would have (R174); on a revoked page, or over a dead link, it does not and a
deferred fault of its store is queued once (R178, R335). -/
def execHeldEntryDrain (k : Nat) (s : State) : Outcome State Fault Refusal :=
  .next <| match s.hart k with
    | none => s
    | some h => match h.drainable with
      | none => s
      | some e =>
        let c := s.ctxOf h
        let h := { h with held := h.held.tail }
        let late (code sub : Nat) (addr : Word) : State := s.setHart k (h.defer e ⟨code, sub, true, false, e.idx, addr⟩)
        if e.revoked then late 18 0 e.addr
        else if s.heldBehind k c e then s
        else match e.link with
          | none => ((s.charge c (e.ports (spireOf k))).perform e.mark e.writes).setHart k h
          | some l =>
            if s.linkDead l then late 17 5 (BitVec.ofNat 64 l)
            else { (s.charge c (e.ports (spireOf k))).setHart k { h with unacked := h.unacked ++ [⟨l, e.pc, e.seq, e.cls, e.idx⟩] } with
              homeq := s.homeq ++ [⟨k, e.seq, false, c, some l, e.pc, e.cls, e.writes, e.mark, e.counts, e.pins⟩] }

end Sys2Proof.Machine
end

