-- ==== Sys2Proof/Machine/Switch.lean ====
section
/-! DEFINITION. Pre-emption, the save pool, PARK and UNPARK, and the resume of a parked group (R122, R274, R313, R344 to
R349). -/

namespace Sys2Proof.Machine

open Host (Outcome)

/-- Bytes of the pool that the image of a group takes (R347). -/
def imageSize (nhart lanes lspan : Nat) (pair : Bool) : Nat :=
  let vec := if lanes = 0 then 0 else 5 * nhart * 65536 / (32 / lanes * (if pair then 2 else 1))
  let b := 16384 + 4096 * nhart + 4 * lspan + 2 ^ 21 + vec
  (b + 65535) / 65536 * 65536

/-- The image bytes of a group. -/
def Group.imageSize (g : Group) : Nat := Machine.imageSize g.nhart g.lanes g.lspan g.pair

/-- The pool ranges that images of context c hold or that a pre-emption has reserved (R347). -/
def State.poolHeld (s : State) (c : Nat) : List (Nat × Nat) :=
  s.groups.filterMap fun g =>
    if g.2.ctx != c then none
    else match g.2.image with
      | some i => some (i.address, g.2.imageSize)
      | none => if g.2.state == .running || g.2.state == .forming then g.2.reserved.map fun a => (a, g.2.imageSize) else none

/-- The lowest place in a pool of len bytes at which size bytes are free. -/
def poolPlace (base len size : Nat) (held : List (Nat × Nat)) : Option Nat :=
  let ok (a : Nat) : Bool := base ≤ a && a + size ≤ base + len && held.all fun h => a + size ≤ h.1 || h.1 + h.2 ≤ a
  ((base :: held.map fun h => h.1 + h.2).filter ok).foldl (fun b a => match b with
    | none => some a
    | some x => some (min x a)) none

/-- Places for images of these groups and sizes beside what the pool holds; none when they do not fit. -/
def poolPlan (base len : Nat) : List (Nat × Nat) → List (Nat × Nat) → Option (List (Nat × Nat))
  | _, [] => some []
  | held, (g, z) :: t => match poolPlace base len z held with
    | some a => (poolPlan base len ((a, z) :: held) t).map ((g, a) :: ·)
    | none => none

/-- The image slots of the groups that a pre-emption of these quads parks, by group; none when the pool has no room (R344, R347). -/
def State.poolRoom (s : State) (c : Nat) (qs : List Nat) : Option (List (Nat × Nat)) :=
  let x := s.ctx c
  let gs := (s.groupsThere c qs fun st => st == .running || st == .forming).filterMap fun gid => match s.group gid with
    | some g => if g.reserved.isNone then some (gid, g.imageSize) else none
    | none => none
  poolPlan x.saveBase.toNat x.saveLen.toNat (s.poolHeld c) gs

/-- The groups' image slots are reserved (R347). -/
def State.reserve (s : State) (plan : List (Nat × Nat)) : State :=
  plan.foldl (fun s p => s.modGroup p.1 fun g => { g with reserved := some p.2 }) s

/-- A RUNNING group is pre-empted: its harts stop issue and it goes on to PARKED (R345); other states defer or ignore it. -/
def State.preempt (s : State) (gid : Nat) : State := match s.group gid with
  | some g => if g.state == .running then (s.modGroup gid fun g => { g with wantPark := true }).setStopped gid true else s
  | none => s

/-- Every group on some quads is pre-empted. -/
def State.preemptAll (s : State) (c : Nat) (qs : List Nat) : State :=
  (s.groupsThere c qs (· == .running)).foldl State.preempt s

/-- The quads that PARK and UNPARK name: 0 names all. -/
def parkQuads (x : Ctx) (m : Word) : List Nat := if m = 0 then x.quads else quadsOf m

/-- PARK (R344). -/
def execPark (k : Nat) (s : State) : Outcome State Fault Refusal :=
  .next <| match s.turn k 0x0A with
    | none => s
    | some m => s.inActive k m <|
      let x := s.ctx m.ctx
      let qs := parkQuads x m.qmask
      if !qs.all x.quads.contains then s.endCmd k .inval
      else match s.poolRoom m.ctx qs with
      | none => s.endCmd k .nospace
      | some plan =>
        let s := (s.reserve plan).modCtx m.ctx fun x => { x with suspended := x.suspended ++ qs.filter fun q => !x.suspended.contains q }
        ((s.preemptAll m.ctx qs).beginCmd k m.ctx).parkSettle m.ctx

/-- UNPARK (R344): the suspension goes, and TSTOLEN stops (R362). -/
def execUnpark (k : Nat) (s : State) : Outcome State Fault Refusal :=
  .next <| match s.turn k 0x0B with
    | none => s
    | some m => s.inActive k m <|
      let x := s.ctx m.ctx
      let qs := parkQuads x m.qmask
      if !qs.all x.quads.contains then s.endCmd k .inval
      else (s.modCtx m.ctx fun x =>
        { x with suspended := x.suspended.filter fun q => !qs.contains q, fullPark := false }).endCmd k .ok

/-- A hart of a group under pre-emption has reached its stop point: exits resolved, held stores drained, accesses performed
(R180, R345). -/
def Hart.stopReached (h : Hart) : Bool :=
  h.exits.isEmpty && h.held.isEmpty && h.unacked.isEmpty && h.landing.isEmpty && !h.finishing

/-- The hart waits in `bar.aw`, whose arrival has counted (R138, R356). -/
def Hart.inBarAw (h : Hart) : Bool := match h.pending with
  | some (.barrierWait _ _ arrived) => arrived
  | _ => false

/-- What a parked hart keeps: its instruction executes again from its start (R124, R345), but a `bar.aw` whose arrival has counted goes on
with its token, so that it arrives once (R138, R356). -/
def Hart.parked (h : Hart) : Hart :=
  { h with
    pending := if h.inBarAw then h.pending else none, faults := [], stalled := false, memStall := false, awaited := [], convoy := 0 }

/-- The hart waits in `vacq` (Table 25.5, seat sought). -/
def Hart.seeks (h : Hart) : Bool := match h.pending with
  | some (.seeking ..) => true
  | _ => false

/-- A section of a save image with what it holds, but for the spans and the accumulators (Table 25.5). -/
inductive Section where
  | header (record : Nat) (cookie : Word) (group nhart lanes shape lspan : Nat) (offsets : List Nat)
  | group (barriers : Store Barrier) (tokens : Store (BitVec 32)) (count : BitVec 32) (tasks : List (BitVec 32 × TaskState × Nat × Nat))
      (tfh : Nat) (faults : List TaskFault)
  | engines (streams : List (Nat × Nat × Stream)) (tags : List (Nat × Nat × Nat × Bool))
  | subscriptions (slots : List (Nat × Nat × Slot))
  | hart (arch : Arch) (async : List Async) (seated sought : Bool)
  | vector (harts : List (BitVec 32 × Nat × Store VTag × Store Nat × List (Nat × Nat × Nat)))
  | empty
  deriving Repr

end Sys2Proof.Machine

namespace Sys2Proof

/-- Byte j of a section. R348 gives what each section holds and no layout within it, so the byte is a free value of that content. -/
opaque Config.sectionByte : Machine.Section → Nat → Byte

end Sys2Proof

namespace Sys2Proof.Machine

open Host (Outcome)

/-- A hart's own section: its scalar state, queued asynchronous causes, and the seat held or sought. -/
def Hart.section (h : Hart) : Section :=
  .hart { h.arch with v := [], vtag := [], extent := [], m := [] } h.async h.seat.isSome h.seeks

/-- A seated hart's part of the vector section: vl, shape, tags, masks, and each dirty register over its extent. -/
def Hart.vectorPart (h : Hart) : BitVec 32 × Nat × Store VTag × Store Nat × List (Nat × Nat × Nat) :=
  let a := h.arch
  (a.vl, a.shape, a.vtag, a.m, a.extent.map fun x => (x.1, x.2, Store.get 0 a.v x.1))

/-- The part of a store with keys in [lo, hi), from key 0. -/
def rebase {α : Type} (m : Store α) (lo hi : Nat) : Store α := (Store.range m lo hi).map fun c => (c.1 - lo, c.2)

/-- Position and number of what group gid holds in a table keyed by n × Spire + number. -/
def heldBy {α : Type} (m : Store α) (n gid : Nat) (f : α → Nat) : List (Nat × Nat × α) :=
  m.filterMap fun x => if f x.2 = gid then some (x.1 / n % 4, x.1 % n, x.2) else none

/-- The image of a group (R348). -/
def State.imageOf (s : State) (gid : Nat) (g : Group) (address : Nat) : Image where
  harts := (s.harts.filter fun h => h.2.gid == gid && !h.2.halted).map fun h => (h.2.idx, h.2.parked)
  sought := (s.harts.filter fun h => h.2.gid == gid && h.2.seeks).map (·.2.idx)
  span := (List.range 4).map fun p => let k := lsKey (4 * g.quad + p) (g.bases.getD p 0); rebase s.mem k (k + g.lspan)
  spanTags := (List.range 4).map fun p =>
    let k := lsKey (4 * g.quad + p) (g.bases.getD p 0)
    rebase s.gtag (k / 1024) ((k + g.lspan) / 1024)
  acc := if g.claim then (List.range 4).map fun p => rebase s.acc (2 ^ 17 * (4 * g.quad + p)) (2 ^ 17 * (4 * g.quad + p + 1)) else []
  levels := if g.claim then rebase s.accLevel (8 * g.quad) (8 * (g.quad + 1)) else []
  claimed := g.claim
  streams := heldBy s.streams 8 gid (·.gid)
  tags := heldBy s.copies 8 gid (·.gid)
  slots := heldBy s.slots 256 gid (·.gid)
  start := s.starts
  address := address

/-- Bytes from key k on take these values, and every granule they lie in loses CMP. -/
def State.fillRange (s : State) (k : Nat) (bs : List Byte) : State :=
  let n := bs.length
  let cells := ((List.range n).zip bs |>.map fun x => (k + x.1, x.2)).filter fun c => c.2 != Memory.fill
  let s := { s with mem := (s.mem.filter fun c => c.1 < k) ++ cells ++ s.mem.filter fun c => k + n ≤ c.1 }
  (List.range (n / 1024)).foldl (fun s i => s.markGranule .raw (k / 1024 + i)) s

/-- Offsets in an image of its local-store and accumulator sections (R347, Table 25.5; log 51). -/
def Group.spanSection (g : Group) : Nat :=
  16384 + 4096 * g.nhart + if g.lanes = 0 then 0 else 5 * g.nhart * 65536 / (32 / g.lanes * g.seats)

def Group.accSection (g : Group) : Nat := g.spanSection + 4 * g.lspan

/-- Offsets of the eight sections (Table 25.5): each of the first four takes 4 096 of the 16 KiB that R347 counts for them (log 51). -/
def Group.offsets (g : Group) : List Nat :=
  [0, 4096, 8192, 12288, 16384, 16384 + 4096 * g.nhart, g.spanSection, g.accSection]

/-- The header of a group's image. -/
def State.header (s : State) (g : Group) : Section := match s.kernels.find g.kernel with
  | some k => .header k.record k.cookie g.index g.nhart g.lanes g.shape g.lspan g.offsets
  | none => .empty

/-- Byte j of a group's image, but for the check word (R348, log 51): the spans and the accumulators stand in their sections, and of the
others the spec lays out no byte. -/
def State.parkedByte (s : State) (g : Group) (i : Image) (j : Nat) : Byte :=
  let a := j - g.spanSection
  let b := j - g.accSection
  let h := j - 16384
  if j < 4096 then Config.sectionByte (s.header g) j
  else if j < 8192 then
    Config.sectionByte (.group g.barriers g.tokens g.taskCount (g.tasks.map fun t => (t.num, t.state, t.code, t.kdone)) g.tfh g.faults) (j - 4096)
  else if j < 12288 then
    Config.sectionByte (.engines (i.streams.map fun x => (x.1, x.2.1, { x.2.2 with first := 0, fetched := [], want := 0 }))
      (i.tags.map fun x => (x.1, x.2.1, x.2.2.chunks, x.2.2.revk))) (j - 8192)
  else if j < 16384 then Config.sectionByte (.subscriptions i.slots) (j - 12288)
  else if h < 4096 * g.nhart then match i.harts.find? fun x => x.1 == h / 4096 with
    | some x => Config.sectionByte x.2.section (h % 4096)
    | none => Config.sectionByte .empty j
  else if j < g.spanSection then
    Config.sectionByte (.vector ((i.harts.filter fun x => x.2.seat.isSome).map fun x => x.2.vectorPart)) (h - 4096 * g.nhart)
  else if j < g.accSection then Store.get Memory.fill (i.span.getD (a / g.lspan) []) (a % g.lspan)
  else if i.claimed && b < 2 ^ 21 then
    BitVec.ofNat 8 ((Store.get 0 (i.acc.getD (b / 2 ^ 19) []) (b % 2 ^ 19 / 4)).toNat / 256 ^ (b % 4))
  else Config.sectionByte .empty j

/-- Where the check word stands in the header. -/
def checkOffset : Nat := Config.checkPlace % 4089

/-- Bytes of an image with other 8 bytes at the place of its check word. -/
def putCheck (l w : List Byte) : List Byte := l.take checkOffset ++ w ++ l.drop (checkOffset + 8)

/-- The check word of an image: the first 64 bits of SHAKE256 over it, with zeros for the check word itself, after the secret of a start
(R349; log 51). -/
def checkWord (start : Nat) (l : List Byte) : List Byte := shake256 (Config.imageKey start ++ putCheck l (List.replicate 8 0)) 8

/-- The bytes of a group's image with its check word (R348, R349). -/
def State.parkedBytes (s : State) (g : Group) (i : Image) : List Byte :=
  let l := (List.range g.imageSize).map (s.parkedByte g i)
  putCheck l (checkWord s.starts l)

/-- The place of byte 0 of each 64 KiB of an image, none where the pool maps no writable TGT 1 or TGT 3 page. -/
def State.poolPages (s : State) (g : Group) (address : Nat) : List (Option Phys) :=
  (List.range (g.imageSize / 65536)).map fun i => match s.global 256 g.ctx (BitVec.ofNat 64 (address + 65536 * i)) true false with
    | .at p => if p.tgt = 1 || p.tgt = 3 then some p else none
    | .fault .. => none

/-- No page of an image waits for the host link to train (R337). -/
def State.poolReady (s : State) (g : Group) (address : Nat) : Bool :=
  (s.poolPages g address).all fun p => match p with
    | some q => q.link.all s.linkUp
    | none => true

/-- The pages of an image that lie in host memory are charged (R99, R337). -/
def State.chargePool (s : State) (g : Group) (address : Nat) : State :=
  let n := ((s.poolPages g address).filter fun p => p.any fun q => q.link.isSome).length
  s.modCtx g.ctx fun x => x.spend fun k => if k = linkPort hostLink then 1024 * n else 0

/-- The image's bytes go to the pool; a page that cannot be written takes nothing. -/
def State.writeImage (s : State) (g : Group) (i : Image) : State :=
  let ps := s.poolPages g i.address
  let bs := s.parkedBytes g i
  (ps.zip (List.range ps.length)).foldl (fun s p => match p.1 with
    | some q => s.fillRange q.key ((bs.drop (65536 * p.2)).take 65536)
    | none => s) s

/-- The pool holds an image whose check word matches under the secret of this start (R349). -/
def State.imageIntact (s : State) (g : Group) (i : Image) : Bool :=
  let ps := s.poolPages g i.address
  let l := ps.flatMap fun p => match p with
    | some q => s.bytes q.key 65536
    | none => []
  ps.all Option.isSome && (l.drop checkOffset).take 8 == checkWord s.starts l

/-- The slot of the pool that a group's image takes (R347). -/
def Group.slotAt (g : Group) (x : Ctx) : Nat := g.reserved.getD x.saveBase.toNat

/-- The sequence of R345 before the image is written has ended for group gid. -/
def State.parkReady (s : State) (gid : Nat) (g : Group) : Bool :=
  g.state == .running && g.wantPark && s.harts.all (fun h => h.2.gid != gid || h.2.halted && h.2.unacked.isEmpty || h.2.stopReached) &&
    s.copies.all (fun t => !(t.2.gid == gid && t.2.busy)) &&
    s.slots.all (fun x => x.2.gid != gid || x.2.state == .parked || x.2.state == .closed || x.2.state == .free) &&
    s.poolReady g (g.slotAt (s.ctx g.ctx))

/-- A group that is being pre-empted is PARKED (R121, R345): its image is written; frames, seats and spans are free; its claim
passes (R302). -/
def execGroupParked (gid : Nat) (s : State) : Outcome State Fault Refusal :=
  .next <| match s.group gid with
    | none => s
    | some g =>
      if !s.parkReady gid g then s
      else
        let image := s.imageOf gid g (g.slotAt (s.ctx g.ctx))
        let s := (s.writeImage g image).chargePool g image.address
        let s := { s with
          harts := s.harts.filter fun h => h.2.gid != gid
          streams := s.streams.filter fun t => t.2.gid != gid
          copies := s.copies.filter fun t => t.2.gid != gid
          slots := s.slots.filter fun t => t.2.gid != gid }
        let s := s.modGroup gid fun g => { g with
          state := .parked, wantPark := false, claim := false, reserved := none, image := some image }
        let s := s.modCtx g.ctx fun x => { x with parked := x.parked ++ [gid] }
        (s.passClaim g.quad).parkSettle g.ctx

/-- Seats for the image's seated harts on a quad, by hart index: each takes the first free seat of its Spire (R122, R127). -/
def seatPlan (lanes seats : Nat) : List (Nat × Hart) → (Nat → List (Nat × Nat)) → Option (List (Nat × (Nat × Nat)))
  | [], _ => some []
  | (i, h) :: t, held =>
    if h.seat.isNone then seatPlan lanes seats t held
    else match freeSeats lanes seats (held (i % 4)) with
      | [] => none
      | x :: _ => (seatPlan lanes seats t fun p => if p = i % 4 then x :: held p else held p).map ((i, x) :: ·)

/-- The seats of an image's harts on a quad. -/
def State.seatsOn (s : State) (g : Group) (image : Image) (quad : Nat) : Option (List (Nat × (Nat × Nat))) :=
  seatPlan g.lanes g.seats image.harts fun p => s.seated (4 * quad + p)

/-- A quad on which a parked group can resume (R122, R274, R349). -/
def State.resumeFits (s : State) (g : Group) (image : Image) (quad : Nat) : Bool :=
  s.quadFits quad g.nhart g.lanes g.lspan g.pair && (s.seatsOn g image quad).isSome &&
    (!image.claimed || (s.claimant quad).isNone) &&
    image.slots.all (fun x => (s.slot (slotKey (4 * quad + x.1) x.2.1)).isNone) &&
    image.tags.all (fun x => match s.copies.find (engineKey (4 * quad + x.1) x.2.1) with
      | some t => !t.busy
      | none => true)

/-- A stream of an image, declared again at its base plus the elements consumed times its stride (R349); one of packed 6-bit elements
keeps its base and its count (log 74). -/
def Stream.renew (x : Stream) : Stream :=
  if x.plan.packs && x.plan.fmt == .t6 then { x with first := x.taken, fetched := [], want := x.taken }
  else { x with base := x.base + BitVec.ofInt 64 (x.taken * x.stride), len := x.len - x.taken, taken := 0, first := 0, fetched := [], want := 0 }

/-- The harts of an image in their new frames, with their seats; they may issue again. -/
def resumeHarts (image : Image) (frames : List Nat) (seats : List (Nat × (Nat × Nat))) (m : Store Hart) : Store Hart :=
  image.harts.foldl (fun m h =>
    Store.insert m (frames.getD h.1 0)
      { h.2 with stopped := false, seat := (seats.find? fun x => x.1 == h.1).map (·.2) }) m

/-- Spans, accumulators, streams and copy tags of an image on a quad. -/
def State.restoreUnits (s : State) (image : Image) (quad lspan : Nat) (bases : List Nat) : State :=
  let key (p : Nat) : Nat := lsKey (4 * quad + p) (bases.getD p 0)
  let put {α : Type} [DecidableEq α] (d : α) (m : Store α) (base : Nat) (c : Store α) : Store α :=
    c.foldl (fun m x => Store.set d m (base + x.1) x.2) m
  { s with
    mem := (image.span.zip (List.range 4)).foldl
      (fun m x => put Memory.fill (Store.drop m (key x.2) (key x.2 + lspan)) (key x.2) x.1) s.mem
    gtag := (image.spanTags.zip (List.range 4)).foldl
      (fun m x => put 0 (Store.drop m (key x.2 / 1024) ((key x.2 + lspan) / 1024)) (key x.2 / 1024) x.1) s.gtag
    acc := (image.acc.zip (List.range 4)).foldl (fun m x => put 0 m (2 ^ 17 * (4 * quad + x.2)) x.1) s.acc
    accLevel := put 0 s.accLevel (8 * quad) image.levels
    streams := image.streams.foldl (fun m x =>
      Store.insert m (engineKey (4 * quad + x.1) x.2.1) x.2.2.renew) s.streams
    copies := image.tags.foldl (fun m x => Store.insert m (engineKey (4 * quad + x.1) x.2.1) x.2.2) s.copies }

/-- The traps of task faults in a hart's queue, where the first of them stands, or at its end, become those of these records, in fault order. -/
def Hart.queueFaults (h : Hart) (l : List TaskFault) : Hart :=
  { h with async := (h.async.takeWhile fun a => !a.isTask) ++ l.map (fun f => ⟨.plain 48 f.task.toNat, 0, none⟩) ++
      (h.async.dropWhile fun a => !a.isTask).filter fun a => !a.isTask }

/-- Every fault record that is pending is delivered again at TFH, in fault order (R310, R313). -/
def State.redeliver (s : State) (gid : Nat) (g : Group) : State := match s.member gid g.tfh with
  | none => s
  | some (k, _) => if g.faults.isEmpty then s else s.modHart k fun h => h.queueFaults g.faults

/-- The parked group gid resumes on a quad (R122, R349). -/
def State.resumeOn (s : State) (gid : Nat) (g : Group) (image : Image) (quad : Nat) : State :=
  let frames := s.takeFrames quad g.nhart (image.harts.map (·.1))
  let bases := (s.spanBases quad g.lspan).getD []
  let seats := (s.seatsOn g image quad).getD []
  let s := { s with harts := resumeHarts image frames seats s.harts }
  let s := s.modGroup gid fun g => { g with state := .running, quad := quad, bases := bases, frames := frames, image := none }
  let s := if image.claimed then s.takeClaim gid else s
  let s := s.restoreUnits image quad g.lspan bases
  let s := image.slots.foldl (fun s x =>
    if x.2.2.state == .parked then s.unparkSlot (4 * quad + x.1) x.2.1 (4 * g.quad + x.1) x.2.2
    else { s with slots := Store.insert s.slots (slotKey (4 * quad + x.1) x.2.1) x.2.2 }) s
  let s := s.modCtx g.ctx fun x => { x with parked := x.parked.filter (· != gid) }
  s.redeliver gid g

/-- The quad with the most free frames on which a parked group can resume. -/
def State.resumeQuad (s : State) (g : Group) : Option Nat := match g.image with
  | some image => s.bestQuad ((s.ctx g.ctx).open.filter fun q => s.resumeFits g image q)
  | none => none

/-- The earliest parked group of its context resumes on a quad that fits, once its image is verified; an image that fails, or of an earlier
start, ends the group and its kernel (R122, R349). -/
def execGroupResume (gid quad : Nat) (s : State) : Outcome State Fault Refusal :=
  .next <| match s.group gid with
    | none => s
    | some g => match g.image with
      | none => s
      | some image =>
        let x := s.ctx g.ctx
        if g.state != .parked || !s.doorbells g.ctx || x.parked.head? != some gid then s
        else if !x.open.contains quad || !s.resumeFits g image quad || !s.poolReady g image.address then s
        else if image.start = s.starts && s.imageIntact g image then (s.chargePool g image.address).resumeOn gid g image quad
        else ((s.chargePool g image.address).discardParked gid).abortKernel g.kernel 10

end Sys2Proof.Machine
end

