-- ==== Sys2Proof/Machine/Context.lean ====
section
/-! DEFINITION. The context commands and events (R91 to R100, R261, R262). -/

namespace Sys2Proof.Machine

open Host (Outcome)

/-- A context's quads and granules after it takes more, in ascending order of quads and in allocation order of granules. -/
def Ctx.take (x : Ctx) (qs gs : List Nat) : Ctx :=
  { x with quads := distinct id (x.quads ++ qs), granules := x.granules ++ gs }

/-- CREATE (Table 6.3, Table 6.4): the context takes its quads and the lowest free granules, and is FORMING. -/
def execCreate (k : Nat) (s : State) : Outcome State Fault Refusal :=
  .next <| match s.turn k 0x01 with
    | none => s
    | some m =>
      if (s.ctx m.ctx).state != .absent then s.endCmd k .state
      else if !s.canTake m.qmask m.arg0.toNat then s.endCmd k .nores
      else
        let x := { Ctx.zero with state := .forming }
        ((s.setCtx m.ctx (x.take (quadsOf m.qmask) (s.granulesFree.take m.arg0.toNat))).beginCmd k m.ctx).capChange

/-- Construction of a FORMING context ends: it is ACTIVE, and the command that formed it ends OK (Table 6.4). -/
def execContextConstructionDone (c : Nat) (s : State) : Outcome State Fault Refusal :=
  .next (if (s.ctx c).state == .forming then (s.modCtx c fun x => { x with state := .active }).finishCmd c .ok else s)

/-- GROW (Tables 6.3, 6.4). -/
def execGrow (k : Nat) (s : State) : Outcome State Fault Refusal :=
  .next <| match s.turn k 0x02 with
    | none => s
    | some m => s.inActive k m <|
      if !s.canTake m.qmask m.arg0.toNat then s.endCmd k .nores
      else
        let gs := s.granulesFree.take m.arg0.toNat
        ((s.modCtx m.ctx fun x => { x.take (quadsOf m.qmask) gs with state := .growing }).beginCmd k m.ctx).capChange

/-- The quads of GROW are joined (Table 6.4). -/
def execGrowQuadsJoined (c : Nat) (s : State) : Outcome State Fault Refusal :=
  .next (if (s.ctx c).state == .growing then (s.modCtx c fun x => { x with state := .active }).finishCmd c .ok else s)

/-- A leaf of a page table, or a table (bits 12), with the address of its entry. -/
structure Mapped where
  va : Nat
  pte : Nat
  entry : Word
  bits : Nat
  table : Bool
  deriving DecidableEq, Repr

/-- The frame of a mapped page or table. -/
def Mapped.frame (l : Mapped) : Nat := pteFrame l.entry

/-- Every leaf and table that a table of context x reaches. -/
def State.mappedFrom (s : State) (x : Ctx) (va table : Nat) : List Nat → List Mapped
  | [] => []
  | sh :: rest =>
    let n := if rest.isEmpty then 32 else 512
    let used := distinct (fun c : Nat × Byte => (c.1 - dramKey table) / 8) (Store.range s.mem (dramKey table) (dramKey table + 8 * n))
    used.flatMap fun i =>
      let pte := table + 8 * i
      let e := BitVec.ofNat 64 (s.load (dramKey pte) 8)
      let at_ := va + i * 2 ^ sh
      let leafBit := e.getLsbD 57
      if pteTgt e = 7 && !leafBit && !rest.isEmpty && !pteReserved e && x.owns (pteFrame e) then
        ⟨at_, pte, e, 12, true⟩ :: s.mappedFrom x at_ (pteFrame e) rest
      else if pteTgt e ≠ 0 && pteTgt e < 6 && !pteReserved e && (leafBit != rest.isEmpty) && leafOk x e sh then [⟨at_, pte, e, sh, false⟩]
      else []

/-- The leaves and tables of context c. -/
def State.mapped (s : State) (c : Nat) : List Mapped :=
  let x := s.ctx c
  if x.owns x.ptbase.toNat then s.mappedFrom x 0 x.ptbase.toNat [39, 30, 21, 16] else []

/-- A frame that moves: from, to, size in bits. -/
structure Move where
  old : Nat
  new : Nat
  bits : Nat
  deriving DecidableEq, Repr

/-- The lowest free frame of 2^bits bytes on some quads. -/
def freeFrame (qs : List Nat) (bits : Nat) (used : List (Nat × Nat)) : Option Nat :=
  let size := 2 ^ bits
  let ok (a : Nat) : Bool := qs.contains (a / 2 ^ 33) && used.all fun u => a + size ≤ u.1 || u.1 + u.2 ≤ a
  let ends := used.map fun u => (u.1 + u.2 + size - 1) / size * size
  ((qs.map (2 ^ 33 * ·) ++ ends).filter ok).foldl (fun b a => match b with
    | none => some a
    | some x => some (min x a)) none

/-- Plans the moves of frames, largest first; a frame inside one that moves goes with it. -/
def planMoves (qs : List Nat) : List (Nat × Nat) → List Move → List (Nat × Nat) → Option (List Move)
  | _, done, [] => some done
  | used, done, (f, bits) :: t =>
    if done.any fun m => m.old ≤ f && f < m.old + 2 ^ m.bits then planMoves qs used done t
    else match freeFrame qs bits used with
      | none => none
      | some a => planMoves qs ((a, 2 ^ bits) :: used) (⟨f, a, bits⟩ :: done) t

/-- The leaves of context c on the shafts of some quads. -/
def State.leavesOn (s : State) (c : Nat) (qs : List Nat) : List Mapped :=
  (s.mapped c).filter fun l => !l.table && pteTgt l.entry = 1 && qs.contains (l.frame / 2 ^ 33)

/-- The moves that empty the shafts of some quads, none when the staying shafts lack room (R97, step 1). -/
def State.moves (s : State) (c : Nat) (qs : List Nat) : Option (List Move) :=
  let all := s.mapped c
  let x := s.ctx c
  let stay := x.quads.filter fun q => !qs.contains q
  let used := (x.ptbase.toNat, 4096) ::
    (all.filter fun l => (l.table || pteTgt l.entry = 1) && !qs.contains (l.frame / 2 ^ 33)).map fun l => (l.frame, 2 ^ l.bits)
  let leaves := s.leavesOn c qs
  let ofSize (b : Nat) : List (Nat × Nat) := (distinct id ((leaves.filter fun l => l.bits = b).map Mapped.frame)).map fun f => (f, b)
  planMoves stay used [] (ofSize 30 ++ ofSize 21 ++ ofSize 16)

/-- Where a physical address lies after the moves. -/
def movedTo (ms : List Move) (a : Nat) : Nat := match ms.find? fun m => m.old ≤ a && a < m.old + 2 ^ m.bits with
  | some m => m.new + (a - m.old)
  | none => a

/-- FRAME, bits [39:0] of an entry (Table 17.2). -/
def frameField : Word := BitVec.ofNat 64 (2 ^ 40 - 1)

/-- A leaf of TGT 1 that names a frame. -/
def frameLeaf (a : Nat) : Word := BitVec.ofNat 64 (2 ^ 61 + a / 4096)

/-- The leaves of context c on the shafts of some quads that are not under migration. -/
def State.unblocked (s : State) (c : Nat) (qs : List Nat) : List Mapped :=
  (s.leavesOn c qs).filter fun l => !s.blocked.contains (c, l.va, l.bits)

/-- The Crown puts leaves under the write-blocking bit (R97, step 4): WB is set, and new writes wait (R257). -/
def State.blockLeaves (s : State) (c : Nat) (ls : List Mapped) : State :=
  let t := ls.foldl (fun s l => s.writeEntry l.pte wbBit wbBit) s
  { t with blocked := s.blocked ++ ls.map fun l => (c, l.va, l.bits) }

/-- A hart of context c migrates one of these leaves, or a page to a frame on one of some quads. -/
def State.pmigOn (s : State) (c : Nat) (qs : List Nat) (ls : List Mapped) : Bool := s.harts.any fun h => match h.2.pending with
  | some (.migrate _ _ new vbase _ _ false) =>
    s.ctxOf h.2 == c && (ls.any (fun l => l.va == vbase) || (pteTgt new == 1 && qs.contains (pteFrame new / 2 ^ 33)))
  | _ => false

/-- The Crown migrates every page of context c off the shafts of some quads (R97, step 4): slots on them close, data and tags
move, the leaves name the new frames without WB, and old translations go. -/
def State.migrateAll (s : State) (c : Nat) (qs : List Nat) (ms : List Move) : State :=
  let leaves := s.leavesOn c qs
  let on (base : Nat) : Bool := leaves.any fun l => base == l.va
  let s := s.closeLines (slotOn c fun p => on p.base)
  let s := ms.foldl (fun s m => s.movePage (frameLeaf m.old) (frameLeaf m.new) m.bits) s
  let s := leaves.foldl (fun s l =>
    s.writeEntry (movedTo ms l.pte) (frameField ||| wbBit) (BitVec.ofNat 64 (movedTo ms l.frame / 4096))) s
  s.uncache c fun t => on t.base

/-- The topmost n granules of context c leave it: leaves that map them become UNMAPPED, slots on their lines close, and they are
zeroed (R97, step 5, R273). -/
def State.releaseGranules (s : State) (c n : Nat) : State :=
  let x := s.ctx c
  let keep := x.granules.length - n
  let gone := x.granules.drop keep
  let leaves := (s.mapped c).filter fun l => !l.table && pteTgt l.entry = 2 && keep * 2 ^ 20 < l.frame + 2 ^ l.bits
  let on (base : Nat) : Bool := leaves.any fun l => base == l.va
  let s := s.closeLines fun y => slotOn c (fun p => on p.base) y || gone.any fun g => y.line / 2 ^ 14 = belKey (2 ^ 20 * g) / 2 ^ 20
  let s := leaves.foldl (fun s l => s.setBytes (dramKey l.pte) (List.replicate 8 0)) s
  let s := s.uncache c fun t => on t.base
  (s.modCtx c fun x => { x with granules := x.granules.take keep }).zeroAll [] gone

/-- SHRINK (R97, steps 1 to 3): the checks, the quads leave placement, and their groups are pre-empted. -/
def execShrink (k : Nat) (s : State) : Outcome State Fault Refusal :=
  .next <| match s.turn k 0x03 with
    | none => s
    | some m => s.inActive k m <|
      let x := s.ctx m.ctx
      let qs := quadsOf m.qmask
      if !qs.all x.quads.contains || x.quads.all qs.contains then s.endCmd k .inval
      else match s.moves m.ctx qs, s.poolRoom m.ctx qs with
      | none, _ | _, none => s.endCmd k .nospace
      | some _, some plan =>
        let s := (s.reserve plan).modCtx m.ctx fun x => { x with state := .shrinking, leaving := qs, releasing := min m.arg0.toNat x.granules.length }
        (s.preemptAll m.ctx qs).beginCmd k m.ctx

/-- The granules that SHRINK releases (R97, step 5). -/
def Ctx.released (x : Ctx) : List Nat := x.granules.drop (x.granules.length - x.releasing)

/-- A key lies in one of some Belfry granules. -/
def inGranules (gs : List Nat) (key : Nat) : Bool := 2 ^ 40 ≤ key && gs.contains ((key - 2 ^ 40) / 2 ^ 20)

/-- A key lies on a shaft or in a local store of one of some quads. -/
def inQuads (qs : List Nat) (key : Nat) : Bool :=
  (isDram key && qs.contains (key / 2 ^ 33)) || (2 ^ 41 ≤ key && key < 2 ^ 42 && qs.contains ((key - 2 ^ 41) / 2 ^ 22))

/-- An access that has been checked and has not performed reaches a key that p accepts: a held store's, a ticket's, a queued request's, a
copy's, or a subscription's that is on its way. -/
def State.reaches (s : State) (p : Nat → Bool) : Bool :=
  let on (ws : List ByteWrite) : Bool := ws.any fun w => p w.key
  s.harts.any (fun h => h.2.held.any (fun e => on e.writes) || (match h.2.pending with
    | some (.ticket todo _ _ _ _) => todo.any fun x => x.1.any p || on x.2
    | _ => false)) ||
  s.homeq.any (fun q => on q.writes) ||
  s.copies.any (fun t => t.2.busy && (t.2.src ++ t.2.dst).any fun r => p r.key) ||
  s.slots.any fun x => x.2.state == .arming && p (64 * x.2.line)

/-- Pages of context c on the leaving shafts are not pinned, and no access under way reaches them or a granule that leaves (R92, R97; log
70). -/
def State.leavingUnpinned (s : State) (c : Nat) (qs : List Nat) : Bool :=
  let leaves := s.leavesOn c qs
  let on (va : Nat) : Bool := leaves.any fun l => l.va ≤ va && va < l.va + 2 ^ l.bits
  !(s.pinned fun p => p.ctx = c && on p.base) && !s.reaches fun k => inGranules (s.ctx c).released k || inQuads qs k

/-- The sequence of R97 goes on once the groups on the leaving quads have parked: the pages on the leaving shafts come under the
write-blocking bit, once no `pmig` moves one (step 4); then, once no access holds them, they move, granules are released, and the leaving
quads are zeroed and pooled (steps 4 to 6). -/
def execShrinkSequenceDone (c : Nat) (s : State) : Outcome State Fault Refusal :=
  .next <|
    let x := s.ctx c
    if x.state != .shrinking || !s.quiet c x.leaving || s.pmigOn c x.leaving (s.leavesOn c x.leaving) then s
    else if !(s.unblocked c x.leaving).isEmpty then s.blockLeaves c (s.unblocked c x.leaving)
    else if !s.leavingUnpinned c x.leaving then s
    else match s.moves c x.leaving with
      | none => s
      | some ms =>
        let s := (s.migrateAll c x.leaving ms).releaseGranules c x.releasing
        let s := s.zeroAll x.leaving []
        let s := s.modCtx c fun y =>
          { y with state := .active, quads := y.quads.filter fun q => !x.leaving.contains q, leaving := [], releasing := 0 }
        let s := if x.leaving.isEmpty && x.released.isEmpty then s else s.capChange
        { s.finishCmd c .ok with blocked := s.blocked.filter fun b => b.1 != c }

/-- A context enters DRAINING: its work is discarded and its shares revoked (R100, Table 6.4). -/
def State.drain (s : State) (c : Nat) (after : CtxState) : State :=
  ((s.revokeShares c).discardWork c).modCtx c fun x => { x with state := .draining, afterDrain := after }

/-- DESTROY: it waits in GROWING and SHRINKING (R96), and is accepted in any other state but ABSENT. -/
def execDestroy (k : Nat) (s : State) : Outcome State Fault Refusal :=
  .next <| match s.turn k 0x04 with
    | none => s
    | some m =>
      match (s.ctx m.ctx).state with
      | .absent => s.endCmd k .state
      | .growing | .shrinking => s
      | _ => (s.drain m.ctx .absent).beginCmd k m.ctx

/-- RESET of an ACTIVE or FAULTED context (Table 6.4). -/
def execReset (k : Nat) (s : State) : Outcome State Fault Refusal :=
  .next <| match s.turn k 0x05 with
    | none => s
    | some m =>
      let st := (s.ctx m.ctx).state
      if st.waits then s
      else if st == .absent then s.endCmd k .state
      else (s.drain m.ctx .forming).beginCmd k m.ctx

/-- A function-level reset acts as RESET in ACTIVE and FAULTED (Table 6.4); a PARK in progress completes. -/
def execFunctionLevelReset (c : Nat) (s : State) : Outcome State Fault Refusal :=
  .next <|
    let st := (s.ctx c).state
    if st == .active || st == .faulted then (s.drain c .forming).parkSettle c else s

/-- A context rebuilt by RESET: the same quads and granules, every register at its reset value, REVK as it stands. -/
def Ctx.rebuilt (x : Ctx) : Ctx :=
  { Ctx.zero with state := .forming, quads := x.quads, granules := x.granules, revk := x.revk, cmd := x.cmd }

/-- The queues of context c are built afresh: the journal records each QWP that goes back to 0 (R109, R112; log 78). -/
def State.clearQueues (s : State) (c : Nat) : State := (s.ctx c).queues.foldl (fun s q => s.setQwp c q.1 0) s

/-- Zeroing of a DRAINING context ends (Table 6.4, R92), once no access of a recipient of its shares that is under way reaches what it holds
(log 70). -/
def execDrainingZeroingDone (c : Nat) (s : State) : Outcome State Fault Refusal :=
  .next <|
    let x := s.ctx c
    if x.state != .draining || s.reaches (fun k => inGranules x.granules k || inQuads x.quads k) then s
    else
      let s := s.zeroAll x.quads x.granules
      let s := s.uncache c fun _ => true
      if x.afterDrain == .forming then
        ((if x.buckets.any fun b => b.2.limit != 0 then s.capChange else s).clearQueues c).setCtx c x.rebuilt
      else ((s.finishCmd c .ok).setCtx c .zero).capChange

/-- LIMIT: the limit takes effect at the next refill (R99). ARG0 above the resource's number and ARG1 above the limit are not looked at, and
an instance that Table 6.7 does not have ends it with INVAL (log 47). -/
def execLimit (k : Nat) (s : State) : Outcome State Fault Refusal :=
  .next <| match s.turn k 0x06 with
    | none => s
    | some m => s.inActive k m <|
      let rid := m.arg0.toNat / 2 ^ 16 % 2 ^ 16
      let inst := m.arg0.toNat % 2 ^ 16
      if limitInstances rid ≤ inst then s.endCmd k .inval
      else
        let key := bucketKey rid inst
        (s.modCtx m.ctx fun x =>
          { x with buckets := Store.set .zero x.buckets key { x.bucket key with pend := some (m.arg1.toNat % 2 ^ 32) } }).endCmd k .ok

/-- Every bucket is refilled (R99); where that changes a limit, the context's view changes (R101). -/
def execBucketRefill (s : State) : Outcome State Fault Refusal :=
  let s := if s.ctxs.any fun x => x.2.buckets.any fun b => b.2.changes then s.capChange else s
  .next { s with ctxs := Store.mapVal (fun _ x =>
    { x with buckets := x.buckets.foldl (fun m b => Store.set .zero m b.1 b.2.refill) [] }) s.ctxs }

/-- Grant number and recipient of ARG1 (Table 17.6). -/
def shareGrant (a : Word) : Nat := a.toNat / 2 ^ 32 % 64
def shareTo (a : Word) : Nat := a.toNat / 2 ^ 40 % 64

/-- ARG1 bits that Table 17.6 leaves reserved for SHARE. -/
def shareReserved : Word := BitVec.ofNat 64 (3 * 2 ^ 38 + 3 * 2 ^ 46 + (2 ^ 15 - 1) * 2 ^ 49)

/-- SHARE (R261): a grant that is REVOKED is replaced, and the recipient's cached translations that name it go. -/
def execShare (k : Nat) (s : State) : Outcome State Fault Refusal :=
  .next <| match s.turn k 0x07 with
    | none => s
    | some m => s.inActive k m <|
      let g := shareGrant m.arg1
      let r := shareTo m.arg1
      let pages := m.arg1.toNat % 2 ^ 32
      let busy : Bool := match (s.ctx r).grants.find g with
        | some x => !x.revoked
        | none => false
      if m.arg0.toNat % 65536 != 0 || pages = 0 || r = m.ctx || m.arg1 &&& shareReserved != 0 then s.endCmd k .inval
      else if (s.ctx r).state != .active then s.endCmd k .state
      else if busy then s.endCmd k .nores
      else
        let x : Grant := ⟨m.ctx, m.arg0.toNat, pages, m.arg1.getLsbD 48, false⟩
        let s := s.modCtx r fun y => { y with grants := Store.insert y.grants g x }
        (s.uncache r fun t => pteTgt t.leaf == 5 && pteNum t.leaf == g).endCmd k .ok

/-- UNSHARE (R262); the bits of ARG1 beside the grant and the recipient are not looked at (log 47). -/
def execUnshare (k : Nat) (s : State) : Outcome State Fault Refusal :=
  .next <| match s.turn k 0x08 with
    | none => s
    | some m => s.inActive k m <|
      let g := shareGrant m.arg1
      let r := shareTo m.arg1
      match (s.ctx r).grants.find g with
      | some x => if x.owner = m.ctx then (s.revokeGrant r g).endCmd k .ok else s.endCmd k .inval
      | none => s.endCmd k .inval

/-- A read of CSTAT clears REVK (Table 6.8). -/
def Ctx.cstat (x : Ctx) : BitVec 32 :=
  let st := match x.state with
    | .absent => 0 | .forming => 1 | .active => 2 | .growing => 3 | .shrinking => 4 | .draining => 5 | .faulted => 6
  BitVec.ofNat 32 (x.quads.length * 256 + x.revk.toNat * 32 + (x.state == .faulted).toNat * 16 + st)

/-- The host reads CSTAT (R103). -/
def execCstatRead (c : Nat) (s : State) : Outcome State Fault Refusal :=
  .next <|
    if s.status != .ready then { s with hostRead := 0 }
    else { s.modCtx c fun x => { x with revk := false } with hostRead := ((s.ctx c).cstat).setWidth 64 }

/-- The context's registers other than CSTAT can be read and written (R103, R365), those of a FAULTED context too, but for its doorbells (log
79). -/
def State.vfEnabled (s : State) (c : Nat) : Bool := s.status == .ready && (s.ctx c).state != .absent && (s.ctx c).state != .forming

/-- NQSTAT and TRSTAT (Tables 17.5, R360). -/
def Ring.stat (r : Ring) : BitVec 32 := BitVec.ofNat 32 (r.lost * 2 ^ 16 + r.ovf.toNat)

/-- The host reads NQSTAT, which clears (R259). -/
def execNqstatRead (c : Nat) (s : State) : Outcome State Fault Refusal :=
  .next <|
    if !s.vfEnabled c then { s with hostRead := 0 }
    else { s.modCtx c fun x => { x with nq := { x.nq with lost := 0, ovf := false } } with hostRead := ((s.ctx c).nq.stat).setWidth 64 }

/-- The host reads TRSTAT, which clears (R360). -/
def execTrstatRead (c : Nat) (s : State) : Outcome State Fault Refusal :=
  .next <|
    if !s.vfEnabled c then { s with hostRead := 0 }
    else { s.modCtx c fun x => { x with trace := { x.trace with lost := 0, ovf := false } } with
      hostRead := ((s.ctx c).trace.stat).setWidth 64 }

/-- The context's work is discarded and it is FAULTED; its running command ends with FAULT (R350, Table 6.4). -/
def State.faultCtx (s : State) (c : Nat) : State :=
  ((s.discardWork c).modCtx c fun x => { x with state := .faulted }).finishCmd c .fault

/-- An uncorrectable fault in a quad or shaft of context c (R350): the journal records it, and a context in a state from which Table 6.4
leads there is FAULTED. -/
def execUncorrectableFault (c unit fcode : Nat) (a : Word) (s : State) : Outcome State Fault Refusal :=
  let e : Entry := ⟨7, c, unit, BitVec.ofNat 32 fcode, a, 0⟩
  .next <| match (s.ctx c).state with
    | .active | .growing | .shrinking => (s.faultCtx c).journalAdd e
    | .absent => s
    | _ => s.journalAdd e

/-- A device-wide fault (R351): DEVF, every context that is not ABSENT FAULTED, and all work discarded. -/
def State.deviceFault (s : State) (unit fcode : Nat) (a : Word) : State :=
  let s := s.ctxs.foldl (fun s x => if x.2.state == .absent then s else s.faultCtx x.1) s
  { s.journalAdd ⟨7, 0xFF, unit, BitVec.ofNat 32 fcode, a, 0⟩ with devf := true }

/-- The Crown runs: power is on, and no start has failed for good. -/
def State.crownRuns (s : State) : Bool := s.status != .reset && s.status != .fault

/-- A shared part meets an uncorrectable fault (R351), before READY too: DEVF then stands when READY comes. -/
def execDeviceWideFault (unit fcode : Nat) (a : Word) (s : State) : Outcome State Fault Refusal :=
  .next (if s.crownRuns then s.deviceFault unit fcode a else s)

/-- A junction reaches 115 °C: a device-wide fault (R14). Its journal entry has a unit and a code that the spec does not state, and the
address 0 (log 36). -/
def execThermalTrip (die : Nat) (s : State) : Outcome State Fault Refusal :=
  .next (if s.crownRuns then s.deviceFault (Config.faultCode (2 * die)) (Config.faultCode (2 * die + 1)) 0 else s)

end Sys2Proof.Machine
end

