-- ==== Sys2Proof/Machine/Fabric.lean ====
section
/-! DEFINITION. Link states, replay, acknowledgements and the failure of a link (spec/24). -/

namespace Sys2Proof.Machine

open Host (Outcome)

/-- Writes link l. -/
def State.setLink (s : State) (l : Nat) (x : Link) : State := { s with links := Store.set .zero s.links l x }

/-- A link that carries flits. -/
def LinkState.carries : LinkState → Bool
  | .up | .degraded => true
  | _ => false

/-- A link that is DOWN or FAILED. -/
def LinkState.dead : LinkState → Bool
  | .down | .failed => true
  | _ => false

/-- The code of STATE (Table 24.3). -/
def LinkState.code : LinkState → Nat
  | .down => 0 | .training => 1 | .up => 2 | .degraded => 3 | .failed => 4

/-- A hart when link l fails (R335): a load that waits for the link takes the fault at its own pc, whatever the link does until then; where it holds a store
or an atomic that is not acknowledged, one deferred fault with the link's number is queued, at the oldest store or else the atomic, which
ends without a result (log 48). -/
def Hart.failLink (h : Hart) (l : Nat) : Hart :=
  let on (ls : List Nat) : Bool := ls.contains l
  let load : Bool := match h.pending with
    | some (.remote ls _ rmw _) => on ls && !rmw
    | _ => false
  let atomic : Bool := match h.pending with
    | some (.remote ls _ rmw _) => on ls && rmw
    | some (.answered ls _) => on ls
    | _ => false
  let at_ : Option (Word × Nat) := match h.unacked.find? fun u => u.link == l with
    | some u => some (u.pc, u.idx)
    | none => if atomic then some (h.arch.pc, 0) else none
  { h with
    pending := if load then some (.cut [l]) else if atomic then none else h.pending
    unacked := h.unacked.filter fun u => u.link != l
    async := match at_ with
      | some (pc, i) => if h.halted then h.async else h.async ++ [⟨⟨17, 5, true, false, i, BitVec.ofNat 64 l⟩, pc, none⟩]
      | none => h.async }

/-- The chunks of a copy that cross link l and have neither landed nor been lost. -/
def CopyTag.crossing (t : CopyTag) (l : Nat) : List Nat :=
  if t.busy then (List.range t.chunks).filter fun j => !bitOf t.over j && (t.links j).contains l else []

/-- The copy after link l has failed: every chunk that crosses it and has not landed is lost, whatever the link does later (R334, R335; log
43). -/
def CopyTag.failLink (t : CopyTag) (l : Nat) : CopyTag := (t.crossing l).foldl CopyTag.lose t

/-- Every request on link l that is not acknowledged ends (R335): those that have not performed do not. -/
def State.failLink (s : State) (l : Nat) : State :=
  State.reap { s with
    homeq := s.homeq.filter fun q => q.link != some l
    harts := Store.mapVal (fun _ h => h.failLink l) s.harts
    copies := Store.mapVal (fun _ t => t.failLink l) s.copies }

/-- The link after a change of state: counters clear when it leaves DOWN or FAILED, and RETRAIN counts entries into TRAINING from UP
or DEGRADED (R331). -/
def Link.enter (x : Link) (st : LinkState) (lanes : Nat) : Link :=
  let x := if x.state.dead && !st.dead then { x with replay := 0, corr := 0, retrain := 0 } else x
  { x with
    state := st
    lanes := lanes
    tries := 0
    retrain := if st == .training && x.state.carries then min (x.retrain + 1) 255 else x.retrain }

/-- Units of a fabric link per microsecond (Table 6.7). -/
def State.linkRate (s : State) (l : Nat) : Nat :=
  if s.fencedLinks.contains l then 0 else if (s.link l).state == .degraded then 2500 * (s.link l).lanes / 4 else 2500

/-- Units of the host link per microsecond, from its lanes and its rate in GT/s: a lane carries that many bits a nanosecond, without what the
encoding of the link takes (Table 6.7; log 69). -/
def hostRate (x : Link) : Nat := x.lanes * x.rate * 250 / 128

/-- TOTAL of a link's capability entry (R102). -/
def State.linkUnits (s : State) (l : Nat) : Nat :=
  if l = hostLink then (if s.linkUp l then hostRate (s.link l) else 0) else s.linkRate l

/-- Link l changes state (Table 24.2): the journal records it (R332, R337), held requests go on or end, and GEN advances where the link's
capability entry changes (R101). -/
def State.linkGo (s₀ : State) (l : Nat) (st : LinkState) (lanes : Nat) : State :=
  let s := s₀
  let s := (s.setLink l ((s.link l).enter st lanes)).journalAdd ⟨6, 0xFF, l, BitVec.ofNat 32 st.code, 0, 0⟩
  let s := if st.dead then s.failLink l else s
  let s := if l = hostLink && st.carries then s.flushHeld
    else if l = hostLink && st.dead then { s with held := [] } else s
  let s := if st == .training then s else s.flushNotices.flushTraces
  if s.linkUnits l = s₀.linkUnits l then s else s.capChange

/-- What a LINK command asks for (R332): the link, when the command is valid. -/
def State.linkArg (s : State) (m : Cmd) : Option Nat :=
  let l := m.arg0.toNat
  if m.ctx = 0 && m.qmask = 0 && l < 64 && m.arg1.toNat < 3 && !s.fencedLinks.contains l then some l else none

/-- A LINK command of one action: INVAL, STATE, or the change of state (R332). -/
def State.linkCommand (s : State) (n action : Nat) (accepts : LinkState → Bool) (st : LinkState) : State :=
  match s.turn n 0x09 with
  | none => s
  | some m => match s.linkArg m with
    | none => s.endCmd n .inval
    | some l =>
      if m.arg1.toNat ≠ action then s
      else if accepts (s.link l).state then (s.linkGo l st 0).endCmd n .ok
      else s.endCmd n .state

/-- LINK TRAIN (R332, Table 24.2). -/
def execLinkTrain (k : Nat) (s : State) : Outcome State Fault Refusal :=
  .next (s.linkCommand k 0 LinkState.dead .training)

/-- LINK DOWN (R332, Table 24.2). -/
def execLinkDown (k : Nat) (s : State) : Outcome State Fault Refusal :=
  .next (s.linkCommand k 1 (fun x => !x.dead) .down)

/-- LINK RETRAIN (R332, Table 24.2). -/
def execLinkRetrain (k : Nat) (s : State) : Outcome State Fault Refusal :=
  .next (s.linkCommand k 2 LinkState.carries .training)

/-- A link has trained on some lanes (Table 24.2). -/
def execLinkTrainingDone (l lanes : Nat) (s : State) : Outcome State Fault Refusal :=
  .next <|
    if 64 ≤ l || (s.link l).state != .training || lanes = 0 || 4 < lanes then s
    else s.linkGo l (if lanes = 4 then .up else .degraded) lanes

/-- No lane has trained within 50 ms (Table 24.2). -/
def execLinkTrainingTimeout (l : Nat) (s : State) : Outcome State Fault Refusal :=
  .next (if l < 64 && (s.link l).state == .training then s.linkGo l .failed 0 else s)

/-- Flits of a link are corrected or replayed (R328): CORR counts those that forward error correction has corrected, REPLAY the one that is
replayed, if any (log 37), and the eighth failure of one flit retrains the link. -/
def execFlitReplay (l : Nat) (r : ReplayReport) (s : State) : Outcome State Fault Refusal :=
  .next <|
    let x := { s.link l with corr := min ((s.link l).corr + r.corrected) 0xFFFF }
    if !s.linkUp l then s
    else match r.replay with
    | none => s.setLink l x
    | some ok =>
      let x := { x with replay := min (x.replay + 1) 0xFFFF }
      if ok then s.setLink l { x with tries := 0 }
      else if x.tries = 7 then (s.setLink l x).linkGo l .training 0
      else s.setLink l { x with tries := x.tries + 1 }

/-- The oldest request of hart h on a link that p accepts which has performed and is not acknowledged. -/
def State.ackable (s : State) (k : Nat) (h : Hart) (p : Nat → Bool) : Option Unacked :=
  h.unacked.find? fun u => p u.link && s.linkUp u.link &&
    (s.homeq.filter fun q => !q.read && q.hart == k && q.link == some u.link).length <
      (h.unacked.filter fun v => v.link == u.link).length

/-- An acknowledgement of hart k's request arrives over a link that p accepts. -/
def State.ack (s : State) (k : Nat) (p : Nat → Bool) : State := match s.hart k with
  | none => s
  | some h => match s.ackable k h p with
    | none => s
    | some u => (s.setHart k { h with unacked := h.unacked.erase u }).reap

/-- A remote home's acknowledgement returns (R334). -/
def execRemoteResponse (k : Nat) (s : State) : Outcome State Fault Refusal := .next (s.ack k fun l => l != hostLink)

/-- The host link acknowledges a posted write, which then counts as performed (R337). -/
def execHostWriteAck (k : Nat) (s : State) : Outcome State Fault Refusal := .next (s.ack k fun l => l == hostLink)

/-- The host link's new state is one that Table 24.2 gives from its state; lanes as Table 24.1 gives. -/
def hostGoes (from_ : LinkState) (st lanes : Nat) : Option LinkState :=
  match from_, st with
  | .down, 1 | .failed, 1 | .up, 1 | .degraded, 1 => some .training
  | .training, 2 => if lanes = 16 then some .up else none
  | .training, 3 => if [1, 2, 4, 8].contains lanes then some .degraded else none
  | .training, 4 => some .failed
  | .training, 0 | .up, 0 | .degraded, 0 => some .down
  | _, _ => none

/-- PCI Express changes the state of the host link (R337); the rate in GT/s that it trains at counts while it is up (R102). -/
def execHostLinkStateChange (st : Nat) (width : LinkWidth) (s : State) : Outcome State Fault Refusal :=
  .next <|
    if s.status == .reset then s
    else match hostGoes (s.link hostLink).state st width.lanes with
      | some x =>
        if x.carries then (s.setLink hostLink { s.link hostLink with rate := width.rate }).linkGo hostLink x width.lanes
        else s.linkGo hostLink x 0
      | none => s

end Sys2Proof.Machine
end

