-- ==== Sys2Proof/Machine/Crown.lean ====
section
/-! DEFINITION. The Crown: start steps and start record, recovery, attestation, power and temperature, soft errors, and the
clock (R10, R13, R14, R50, R244, R329, R362, R364 to R371). -/

namespace Sys2Proof.Machine

open Host (Outcome)

/-- The entry that the previous start wrote for an instance of a step. -/
def State.previous (s : State) (step unit : Nat) : Option StartEntry :=
  s.startRecord.find? fun e => e.step == step && e.unit == unit

/-- The rate at which the training of a shaft begins (R367): the rate below the one it last used, when it then failed or retried. -/
def firstRate (p : Option StartEntry) : Nat := match p with
  | some e => if e.outcome = 0 then 0 else min 2 (e.setting + 1)
  | none => 0

/-- The start-record entry of a shaft that trains at rate best and below (Table 28.4, step 2): best 3 means at no rate. -/
def shaftEntry (prev : Option StartEntry) (n best : Nat) : StartEntry :=
  let first := firstRate prev
  if 2 < best then ⟨2, n, 2, 2⟩
  else ⟨2, n, if best ≤ first then 0 else 1, max first best⟩

/-- The value of a list of pairs at n, or a default. -/
def lookupD (l : List (Nat × Nat)) (n d : Nat) : Nat := ((l.find? fun x => x.1 == n).map (·.2)).getD d

/-- Entries of steps that pass or fence (Table 28.4, steps 3 and 6). -/
def fenceEntry (step n : Nat) (ok : Bool) : StartEntry := ⟨step, n, if ok then 0 else 2, 0⟩

/-- Entries of a step with n instances that all pass. -/
def passAll (step n : Nat) : List StartEntry := (List.range n).map fun i => ⟨step, i, 0, 0⟩

/-- The instances that a step fences. -/
def fencedOf (l : List StartEntry) : List Nat := (l.filter fun e => e.outcome == 2).map (·.unit)

/-- The lowest of some instances below n, at which a step that leaves the module unusable ends (R366). -/
def firstFail (l : List Nat) (n : Nat) : Option Nat := (List.range n).find? fun i => l.contains i

/-- A step that leaves the module unusable fails at an instance, after those before it have passed (R366). -/
def State.startFails (s : State) (step unit : Nat) (done : List StartEntry) : State :=
  { s with status := .fault, step := step, fcode := step, startRecord := done ++ passAll step unit ++ [⟨step, unit, 3, 0⟩] }

/-- A link after training at start (R329). -/
def trained (lanes full rate : Nat) : Link :=
  if lanes = 0 then .zero
  else { Link.zero with state := if full ≤ lanes then .up else .degraded, lanes := min lanes full, rate := rate }

/-- Lanes of the host link as training left them: 16 unless a smaller width of Table 24.1 is reported. -/
def hostLanesOf (n : Nat) : Nat := if [1, 2, 4, 8].contains n then n else 16

/-- Steps 2 to 7 of the start (R366, R367): `done` holds the entry of step 1. -/
def State.startFrom2 (s : State) (r : StartReport) (done : List StartEntry) : State :=
  let e2 : List StartEntry := (List.range 256).map fun n => shaftEntry (s.previous 2 n) n (lookupD r.shaftRate n 0)
  let e3 : List StartEntry := (List.range 256).map fun n => fenceEntry 3 n (!r.spireFail.contains n)
  let s := { s with
    fencedShafts := fencedOf e2, fencedSpires := fencedOf e3 }
  let done := done ++ e2 ++ e3
  match firstFail r.banksFail 256, firstFail r.pairsFail 6 with
  | some b, _ => s.startFails 4 b done
  | none, some p => s.startFails 5 p (done ++ passAll 4 256)
  | none, none =>
      let done := done ++ passAll 4 256 ++ passAll 5 6
      let lanes (l : Nat) : Nat := lookupD r.linkLanes l 4
      let e6 : List StartEntry := (List.range 64).map fun l => fenceEntry 6 l (lanes l != 0)
      let links := (List.range 64).foldl (fun m l => Store.set .zero m l (trained (lanes l) 4 0)) []
      let s := { s with
        fencedLinks := fencedOf e6
        links := Store.set .zero links hostLink (trained (hostLanesOf r.hostLanes) 16 r.hostRate) }
      let done := done ++ e6 ++ [⟨6, 64, 0, 0⟩]
      if !r.secretsOk then s.startFails 7 0 done
      else { s with
        status := .ready, step := 0, fcode := 0, startRecord := done ++ [⟨7, 0, 0, 0⟩]
        journal := [], jnext := 0, dclk := 0 }

/-- At power-on the Crown runs the start steps (R366); the entries of step 2 look at the record of the start before. -/
def execCrownStart (r : StartReport) (s : State) : Outcome State Fault Refusal :=
  .next <|
    if s.status != .reset then s
    else
      let s := { s with
        status := .starting, step := 1, starts := s.starts + 1, booted := if s.flashOk then s.flash else .spoiled, recoveries := [] }
      if s.flashOk && r.firmwareOk then s.startFrom2 r [⟨1, 0, 0, 0⟩]
      else { s with status := .recovery, startRecord := ⟨1, 0, 3, 0⟩ :: s.startRecord.filter fun e => e.step != 1 }

/-- In RECOVERY a write of 1 to STATUS starts the verification of the image in the window (R368). -/
def execRecoveryStatusWrite (v : BitVec 32) (s : State) : Outcome State Fault Refusal :=
  .next (if s.status == .recovery && !s.verifying && v = 1 then { s with verifying := true } else s)

/-- Verification ends (R368): a good image goes to flash, and the start continues at step 2 once it stands there, at the next clock (log
52); otherwise FCODE is 1. -/
def execRecoveryImageVerified (ok : Bool) (r : StartReport) (s : State) : Outcome State Fault Refusal :=
  .next <|
    if s.status != .recovery || !s.verifying then s
    else if !ok then { s with verifying := false, fcode := 1 }
    else { s with
      verifying := false, flashOk := false, flash := .written s.window, writingFlash := true, report := some r
      recoveries := s.recoveries ++ [s.window], status := .starting, fcode := 0 }

/-- A flash write ends: the image stands in flash, and the start continues (R368). -/
def State.flashDone (s : State) : State :=
  let t := { s with writingFlash := false, flashOk := true, report := none }
  match s.report with
  | some r => t.startFrom2 r [⟨1, 0, 3, 0⟩]
  | none => t

/-- Power is lost (R368): everything but flash, the start record and what lies outside the module goes; a flash image that is being
written stays half written. -/
def execPowerLoss (s : State) : Outcome State Fault Refusal :=
  .next { State.reset with
    mem := s.mem.filter fun c => 2 ^ 60 ≤ c.1
    flashOk := s.flashOk
    flash := s.flash
    startRecord := s.startRecord
    starts := s.starts
    attests := s.attests
    stamp := s.stamp
    agenda := s.agenda }

/-- The identity block (Table 28.3, R372). -/
def identity : List Byte :=
  bytesOf 0x900 4 ++ bytesOf 0x10000 4 ++ bytesOf Config.serial.toNat 16 ++ shake256 Config.publicKey.toList 32 ++ List.replicate 8 0

/-- A start-record entry as bytes (R367). -/
def State.startBytes (s : State) (e : StartEntry) : List Byte :=
  bytesOf e.step 2 ++ bytesOf e.unit 2 ++ [BitVec.ofNat 8 e.outcome, BitVec.ofNat 8 e.setting, 0, 0] ++
    bytesOf (Config.startNumber s.starts).toNat 8

/-- The 16 MiB of an image as the recovery window has it (R368). -/
def imageBytes (w : Store Byte) : List Byte := (List.range (2 ^ 24)).map (Store.get 0 w)

/-- The firmware image that step 1 of this start read (R369): the spec gives no content of the image of manufacture, nor of one whose write was
cut off. -/
def State.firmwareBytes (s : State) : List Byte := match s.booted with
  | .made => Config.firmware
  | .written w => imageBytes w
  | .spoiled => Config.spoiledImage s.starts

/-- The start record as it stands in its region: 4 096 entries of 16 bytes (R367). -/
def State.recordBytes (s : State) : List Byte :=
  let l := s.startRecord.flatMap s.startBytes
  l ++ List.replicate (65536 - l.length) 0

/-- The components of the measurement chain, in their order (R369). -/
def State.components (s : State) : List (List Byte) :=
  [s.firmwareBytes, s.recordBytes, Config.fused] ++ s.recoveries.map imageBytes

/-- The measurement chain over some components (R369). -/
def chainValue (l : List (List Byte)) : List Byte := l.foldl (fun m c => shake256 (m ++ shake256 c 64) 64) (List.replicate 64 0)

/-- The buffer that ATTEST fills (R369): chain value and count of measurements from byte 64, the signature's length and the signature
from byte 192. The signature is over nonce, chain and identity block. -/
def State.attestWrites (s : State) (a : Nat) : State :=
  let chain := chainValue s.components
  let digest := shake256 (s.bytes (hostKey a) 32 ++ chain ++ identity) 64
  let sig := (Config.signature s.attests digest).take (4096 - 194)
  { (s.hostWrite (a + 64) (chain ++ bytesOf s.components.length 8)).hostWrite (a + 192) (bytesOf sig.length 2 ++ sig) with
    attests := s.attests + 1 }

/-- ATTEST (R369): the nonce is read once the host link carries flits, and reads as it stands where the link is dead (log 68). -/
def execAttest (k : Nat) (s : State) : Outcome State Fault Refusal :=
  .next <| match s.turn k 0x0C with
    | none => s
    | some m =>
      if m.ctx != 0 || m.arg0.toNat % 4096 != 0 || m.arg1 != 0 || m.qmask != 0 then s.endCmd k .inval
      else if !s.linkUp hostLink && !s.linkDead hostLink then s
      else (s.attestWrites m.arg0.toNat).endCmd k .ok

/-- One measurement of module power (R13): above 3 200 W limiting begins or goes further, at the first such measurement for the arrays and at
the second for the lanes too; measurements below 3 100 W in a row count towards its end. A measurement before READY counts for nothing (log
71). -/
def execPowerMeasurement (mw : Nat) (s : State) : Outcome State Fault Refusal :=
  .next <|
    if s.status != .ready then s
    else if 3200000 < mw then
      let s := if s.limiting then s else s.journalAdd ⟨5, 0xFF, 0, 1, 0, 0⟩
      { s with limiting := true, withhold := min 2 (s.withhold + 1), belowFor := 0 }
    else { s with belowFor := if mw < 3100000 then s.belowFor + 1 else 0 }

/-- Limiting ends after 10 ms below 3 100 W (R13): ten measurements in a row (log 71). -/
def execPowerLimitRelease (s : State) : Outcome State Fault Refusal :=
  .next <|
    if s.limiting && 10 ≤ s.belowFor then { s.journalAdd ⟨5, 0xFF, 0, 0, 0, 0⟩ with limiting := false, withhold := 0 } else s

/-- A die at 105 °C stops all its issue (R14). -/
def execThermalStop (die : Nat) (s : State) : Outcome State Fault Refusal :=
  .next (if die < 4 then { s with stopped := insertNat die s.stopped } else s)

/-- A die below 95 °C issues again (R14). -/
def execThermalRestart (die : Nat) (s : State) : Outcome State Fault Refusal :=
  .next { s with stopped := s.stopped.filter (· != die) }

/-- The corrected errors counted since the last journal entry of theirs are recorded, once a second has passed since it (R350, R370). -/
def State.recordErrors (s : State) : State :=
  let due : Bool := match s.softLast with
    | some d => d + 700000000 ≤ s.dclk.toNat
    | none => true
  if s.softErrors != 0 && due then
    { s.journalAdd ⟨8, 0xFF, 0, 0, BitVec.ofNat 64 s.softErrors, 0⟩ with softErrors := 0, softLast := some s.dclk.toNat }
  else s

/-- Corrected soft errors change nothing and are counted in the journal (R350), at most once a second (R370). -/
def execCorrectedSoftError (count : Nat) (s : State) : Outcome State Fault Refusal :=
  .next (if s.status == .ready then State.recordErrors { s with softErrors := s.softErrors + count } else s)

/-- A full exception table of a shaft is spilled to the overflow list (R244). -/
def execExceptionTableSpill (shaft : Nat) (s : State) : Outcome State Fault Refusal :=
  .next <|
    let mine := s.escaped.filter fun p => p / 2 ^ 31 == shaft
    if mine.length < 256 then s
    else { s with escaped := s.escaped.filter fun p => p / 2 ^ 31 != shaft, spilled := s.spilled ++ mine }

/-- A hart whose group runs: its clocks count (R50). -/
def State.counting (s : State) (h : Hart) : Bool := !h.halted && (match s.group h.gid with
  | some g => g.state == .running
  | none => false)

/-- What the stall of hart k waits for has come: the data of a load's register, vl or FTM, or elements that the DAU has fetched. -/
def State.hasCome (s : State) (k : Nat) (h : Hart) (r : Nat) : Bool :=
  if r < 128 then !h.landing.any (·.contains r)
  else match s.streams.find (engineKey (spireOf k) (r - 128)) with
    | some x => x.want ≤ x.next
    | none => true

/-- The data that hart k's next instruction waits for have landed, in this clock or before (R50). -/
def State.dataCame (s : State) (k : Nat) (h : Hart) : Bool := match h.pending with
  | some (.remote _ here _ _) => here
  | some (.ticket todo _ _ _ _) => todo.isEmpty
  | _ => !h.awaited.isEmpty && h.awaited.all (s.hasCome k h)

/-- A hart after one clock (R50): hclk, and hstall where its next instruction waits only for data, up to the clock in which they land, as came
says; free: neither its partner's issue nor a stop of the hart or its die keeps it from issuing. Data that landed in this clock can be used
from the next one on. -/
def Hart.tick (h : Hart) (free came : Bool) : Hart :=
  { h with
    hclk := h.hclk + 1
    hstall := if h.memStall && free then h.hstall + 1 else h.hstall
    memStall := h.memStall && !came
    landed := [] }

/-- Nothing but its next instruction's operands keeps hart k from issuing. -/
def State.freeToIssue (s : State) (k : Nat) (h : Hart) : Bool := h.live && s.mayIssue k && s.dieRuns (spireOf k)

/-- One clock: D since READY, the counters of the harts, and TSTOLEN of contexts parked whole (R10, R50, R362); a flash write ends. -/
def execClock (s : State) : Outcome State Fault Refusal :=
  .next <|
    if s.writingFlash then s.flashDone
    else if s.status != .ready then s
    else State.recordErrors <| State.endWork { s with
      dclk := s.dclk + 1
      harts := Store.mapVal (fun k h => if s.counting h then h.tick (s.freeToIssue k h) (s.dataCame k h) else h) s.harts
      ctxs := Store.mapVal (fun _ x => if x.fullPark then { x with tstolen := x.tstolen + 1 } else x) s.ctxs }

end Sys2Proof.Machine
end

