-- ==== Sys2Proof/Machine/VectorArith.lean ====
section
/-! DEFINITION. Element-wise vector arithmetic, carries, the packed dot product, compares and special functions (R192 to
R202). -/

namespace Sys2Proof.Machine

open Host (Outcome)

/-- The tag of B: va's in the scalar form (R187). -/
def Arch.tagB (a : Arch) (f : VA) : Tag := if f.scalar then a.tagOf f.va.toNat else a.tagOf f.vb.toNat

/-- The values of B (R187). -/
def Arch.valuesB (a : Arch) (f : VA) (act n : Nat) (keep : Bool) (m : Rnd) (sat : Bool) : Vals :=
  if f.scalar then scalarVals (a.tagOf f.va.toNat) (a.reg f.ss) act n else a.values f.vb.toNat act n keep m sat

/-- A two-operand element-wise instruction: each active element is op of A and B, delivered through P (R188, R192). ok is its
tag requirement on Ta, Tb and Td. -/
def Arch.binaryOp (a : Arch) (rb : Nat) (f : VA) (keeps : Keeps) (ok : Tag → Tag → Bool) (op : Tag → Num → Num → Fl Num) :
    Except Cause Arch := do
  let ta := a.tagOf f.va.toNat
  let tb := a.tagB f
  let td := a.result f.tag f.vd
  let n := a.count rb [ta, tb, td]
  let act := a.active f.mask n
  let keep := keeps.holds a f td
  let x := a.values f.va.toNat act n keep (modeOf f) f.sat
  let y := a.valuesB f act n keep (modeOf f) f.sat
  let fl ← a.judge [x, y]
  require (ok ta tb)
  let p := promote ta tb
  let r := onActive act (fun v : Num × Num => (op p v.1 v.2).bind (deliver p td (modeOf f) f.sat)) (x.xs.zip y.xs)
  .ok (a.put f.vd.toNat td (if keep then a.domOf f.va.toNat else 0) fl r)

/-- A one-operand element-wise instruction: code gives the result's code in Td from the element, under Ta and Td. -/
def Arch.unaryOp (a : Arch) (rb : Nat) (f : VA) (keeps : Keeps) (ok : Tag → Tag → Bool) (code : Tag → Tag → Num → Fl Nat) :
    Except Cause Arch := do
  let ta := a.tagOf f.va.toNat
  let td := a.result f.tag f.vd
  let n := a.count rb [ta, td]
  let act := a.active f.mask n
  let keep := keeps.holds a f td
  let x := a.values f.va.toNat act n keep (modeOf f) f.sat
  let fl ← a.judge [x]
  require (ok ta td)
  let r := onActive act (code ta td) x.xs
  .ok (a.put f.vd.toNat td (if keep then a.domOf f.va.toNat else 0) fl r)

/-- vfma and vfms: op of A, B and C, exact, rounded once; P from A and B and then C (R192). -/
def Arch.fusedOp (a : Arch) (rb : Nat) (f : VA) (op : Num → Num → Num → Fl Num) : Except Cause Arch := do
  let ta := a.tagOf f.va.toNat
  let tb := a.tagB f
  let tc := a.tagOf f.vc.toNat
  let td := a.result f.tag f.vd
  let n := a.count rb [ta, tb, tc, td]
  let act := a.active f.mask n
  let keep := Keeps.scalarThird.holds a f td
  let x := a.values f.va.toNat act n keep (modeOf f) f.sat
  let y := a.valuesB f act n keep (modeOf f) f.sat
  let z := a.values f.vc.toNat act n keep (modeOf f) f.sat
  let fl ← a.judge [x, y, z]
  let p := promote (promote ta tb) tc
  let r := onActive act (fun v : Num × Num × Num => (op v.1 v.2.1 v.2.2).bind (deliver p td (modeOf f) f.sat))
    (x.xs.zip (y.xs.zip z.xs))
  .ok (a.put f.vd.toNat td (if keep then a.domOf f.va.toNat else 0) fl r)

/-- Any tags. -/
def anyTags (_ _ : Tag) : Bool := true

/-- Both tags are integer tags. -/
def bothInt (a b : Tag) : Bool := a.isInt && b.isInt

/-- `vadd` (Table 13.2). -/
def execVadd (f : VA) (s : State) : Outcome State Fault Refusal :=
  .next (s.vector (.vadd f) fun a rb => a.binaryOp rb f .vectorPair anyTags fun _ x y => addNum (modeOf f) x y)

/-- `vsub` (Table 13.2). -/
def execVsub (f : VA) (s : State) : Outcome State Fault Refusal :=
  .next (s.vector (.vsub f) fun a rb => a.binaryOp rb f .vectorPair anyTags fun _ x y => addNum (modeOf f) x y.neg)

/-- `vmin` (R193). -/
def execVmin (f : VA) (s : State) : Outcome State Fault Refusal :=
  .next (s.vector (.vmin f) fun a rb => a.binaryOp rb f .never anyTags fun _ x y => pickNum false x y)

/-- `vmax` (R193). -/
def execVmax (f : VA) (s : State) : Outcome State Fault Refusal :=
  .next (s.vector (.vmax f) fun a rb => a.binaryOp rb f .never anyTags fun _ x y => pickNum true x y)

/-- `vmul` (Table 13.2). -/
def execVmul (f : VA) (s : State) : Outcome State Fault Refusal :=
  .next (s.vector (.vmul f) fun a rb => a.binaryOp rb f .scalarForm anyTags fun _ x y => mulNum x y)

/-- The high w bits of an exact product, taken as a 2w-bit value in P (R194). -/
def highHalf (p : Tag) (z : Int) : Int := (if p.isSigned then z else z % 2 ^ (2 * p.bits)) / 2 ^ p.bits

/-- `vmulh` (R194). -/
def execVmulh (f : VA) (s : State) : Outcome State Fault Refusal :=
  .next (s.vector (.vmulh f) fun a rb => a.binaryOp rb f .never bothInt fun p x y =>
    (mulNum x y).map fun z => .ofInt (highHalf p z.floor))

/-- Integer division truncating toward zero; all ones and DZ for a zero divisor (R194). The exact operand values are divided, also
where the promoted type cannot hold one of them (log 62). -/
def divInt (p : Tag) (x y : Int) : Fl Num :=
  if y = 0 then ⟨.ofInt (if p.isSigned then -1 else 2 ^ p.bits - 1), .dz⟩ else .pure (.ofInt (x.tdiv y))

/-- `vdiv` (R194). -/
def execVdiv (f : VA) (s : State) : Outcome State Fault Refusal :=
  .next (s.vector (.vdiv f) fun a rb => a.binaryOp rb f .never anyTags fun p x y =>
    if p.isInt then divInt p x.floor y.floor else divNum x y)

/-- `vfma`: A × B + C (Table 13.2). -/
def execVfma (f : VA) (s : State) : Outcome State Fault Refusal :=
  .next (s.vector (.vfma f) fun a rb => a.fusedOp rb f fun x y z => fmaNum (modeOf f) x y z)

/-- `vfms`: C − A × B (Table 13.2). -/
def execVfms (f : VA) (s : State) : Outcome State Fault Refusal :=
  .next (s.vector (.vfms f) fun a rb => a.fusedOp rb f fun x y z => fmaNum (modeOf f) x.neg y z)

/-- `vabs`: P = Ta (Table 13.2). -/
def execVabs (f : VA) (s : State) : Outcome State Fault Refusal :=
  .next (s.vector (.vabs f) fun a rb => a.unaryOp rb f .never anyTags fun ta td x =>
    deliver (promote ta ta) td (modeOf f) f.sat x.abs)

/-- `vneg`: P = Ta (Table 13.2). -/
def execVneg (f : VA) (s : State) : Outcome State Fault Refusal :=
  .next (s.vector (.vneg f) fun a rb => a.unaryOp rb f .unary anyTags fun ta td x =>
    deliver (promote ta ta) td (modeOf f) f.sat x.neg)

/-- `vcvt`: A in P = Td (R197). -/
def execVcvt (f : VA) (s : State) : Outcome State Fault Refusal :=
  .next (s.vector (.vcvt f) fun a rb => a.unaryOp rb f .never anyTags fun _ td x => encodeNum td (modeOf f) f.sat 0 x)

/-- `vnsat`: integer narrowing, saturation always on (R197). -/
def execVnsat (f : VA) (s : State) : Outcome State Fault Refusal :=
  .next (s.vector (.vnsat f) fun a rb => a.unaryOp rb f .never (fun ta td => bothInt ta td && td.bits < ta.bits)
    fun _ td x => encodeNum td .rne true 0 x)

/-- Computing type of a unary SFU instruction (R202). -/
def sfuType (t : Tag) : Tag :=
  if t.isFloat then t else if t.isTapered || t.bits ≤ 16 then .f32 else .f64

/-- A unary SFU instruction: the exact value rounded once in the computing type, then Encode (R202). -/
def Arch.sfuOp (a : Arch) (rb : Nat) (f : VA) (g : Tag → Num → Fl Num) : Except Cause Arch :=
  a.unaryOp rb f .never anyTags fun ta td x =>
    let p := sfuType ta
    (g p x).bind (deliver p td (modeOf f) f.sat)

/-- `vsqrt` (Table 13.3). -/
def execVsqrt (f : VA) (s : State) : Outcome State Fault Refusal :=
  .next (s.vector (.vsqrt f) fun a rb => a.sfuOp rb f fun _ x => sqrtNum x)

/-- `vrcp` (Table 13.3). -/
def execVrcp (f : VA) (s : State) : Outcome State Fault Refusal :=
  .next (s.vector (.vrcp f) fun a rb => a.sfuOp rb f fun _ x => rcpNum x)

/-- `vrsq` (Table 13.3). -/
def execVrsq (f : VA) (s : State) : Outcome State Fault Refusal :=
  .next (s.vector (.vrsq f) fun a rb => a.sfuOp rb f fun _ x => rsqNum x)

/-- `vexp` (Table 13.3). -/
def execVexp (f : VA) (s : State) : Outcome State Fault Refusal :=
  .next (s.vector (.vexp f) fun a rb => a.sfuOp rb f expNum)

/-- `vlog` (Table 13.3). -/
def execVlog (f : VA) (s : State) : Outcome State Fault Refusal :=
  .next (s.vector (.vlog f) fun a rb => a.sfuOp rb f lnNum)

/-- `vtanh` (Table 13.3). -/
def execVtanh (f : VA) (s : State) : Outcome State Fault Refusal :=
  .next (s.vector (.vtanh f) fun a rb => a.sfuOp rb f tanhNum)

/-- `vsig` (Table 13.3). -/
def execVsig (f : VA) (s : State) : Outcome State Fault Refusal :=
  .next (s.vector (.vsig f) fun a rb => a.sfuOp rb f sigNum)

/-- The codes of B: the scalar's low bits, or vb's plain codes. -/
def Arch.codesB (a : Arch) (f : VA) (act n : Nat) (m : Rnd) (sat : Bool) : Fl (List Nat) × Option Nat :=
  if f.scalar then (.pure (List.replicate n ((a.reg f.ss).toNat % 2 ^ (a.tagOf f.va.toNat).bits)), none)
  else a.plainCodes f.vb.toNat act n m sat

/-- What reading codes adds to the judgement of reserved codes. -/
def codeRead (c : Fl (List Nat) × Option Nat) : Vals := ⟨[], c.1.flags, c.2⟩

/-- vand, vor, vxor and vandn on element codes (R195). -/
def Arch.bitwiseOp (a : Arch) (rb : Nat) (f : VA) (op : Nat → Nat → Nat → Nat) : Except Cause Arch := do
  let ta := a.tagOf f.va.toNat
  let tb := a.tagB f
  let td := a.result f.tag f.vd
  let n := a.count rb [ta, tb, td]
  let act := a.active f.mask n
  let x := a.plainCodes f.va.toNat act n .rne false
  let y := a.codesB f act n .rne false
  let fl ← a.judge [codeRead x, codeRead y]
  require (ta.bits = tb.bits && ta.bits = td.bits)
  let r := onActive act (fun v : Nat × Nat => Fl.pure (op td.bits v.1 v.2)) (x.1.val.zip y.1.val)
  .ok (a.put f.vd.toNat td 0 fl r)

/-- `vand` (R195). -/
def execVand (f : VA) (s : State) : Outcome State Fault Refusal :=
  .next (s.vector (.vand f) fun a rb => a.bitwiseOp rb f fun _ x y => x &&& y)

/-- `vor` (R195). -/
def execVor (f : VA) (s : State) : Outcome State Fault Refusal :=
  .next (s.vector (.vor f) fun a rb => a.bitwiseOp rb f fun _ x y => x ||| y)

/-- `vxor` (R195). -/
def execVxor (f : VA) (s : State) : Outcome State Fault Refusal :=
  .next (s.vector (.vxor f) fun a rb => a.bitwiseOp rb f fun _ x y => x ^^^ y)

/-- `vandn`: A AND NOT B (R195). -/
def execVandn (f : VA) (s : State) : Outcome State Fault Refusal :=
  .next (s.vector (.vandn f) fun a rb => a.bitwiseOp rb f fun w x y => x &&& (2 ^ w - 1 - y % 2 ^ w))

/-- The shifts: op of Ta, the element's value and k gives r(i) (R196). -/
def Arch.shiftOp (a : Arch) (rb : Nat) (f : VA) (op : Tag → Int → Nat → Num) : Except Cause Arch := do
  let ta := a.tagOf f.va.toNat
  let tb := a.tagB f
  let td := a.result f.tag f.vd
  let n := a.count rb [ta, tb, td]
  let act := a.active f.mask n
  let x := a.values f.va.toNat act n false (modeOf f) f.sat
  let yv := a.valuesB f act n false (modeOf f) f.sat
  let y := a.codesB f act n (modeOf f) f.sat
  let fl ← a.judge [x, yv]
  require (bothInt ta tb)
  let r := onActive act (fun v : Num × Nat => deliver ta td (modeOf f) f.sat (op ta v.1.floor (v.2 % ta.bits)))
    (x.xs.zip y.1.val)
  .ok (a.put f.vd.toNat td 0 fl r)

/-- `vsll`: A × 2^k in P = Ta (R196). -/
def execVsll (f : VA) (s : State) : Outcome State Fault Refusal :=
  .next (s.vector (.vsll f) fun a rb => a.shiftOp rb f fun _ x k => .ofInt (x * 2 ^ k))

/-- `vsrl`: A's bits right by k, zeros in (R196). -/
def execVsrl (f : VA) (s : State) : Outcome State Fault Refusal :=
  .next (s.vector (.vsrl f) fun a rb => a.shiftOp rb f fun ta x k => .ofInt (intValue ta (intCode ta x / 2 ^ k)))

/-- `vsra`: copies of the sign in, on a signed tag (R196). -/
def execVsra (f : VA) (s : State) : Outcome State Fault Refusal :=
  .next (s.vector (.vsra f) fun a rb => a.shiftOp rb f fun _ x k => .ofInt (x / 2 ^ k))

/-- `vrshr`: A ÷ 2^k rounded to an integer by rnd (R196). -/
def execVrshr (f : VA) (s : State) : Outcome State Fault Refusal :=
  .next (s.vector (.vrshr f) fun a rb => a.shiftOp rb f fun _ x k => .fin (x < 0) x.natAbs (2 ^ k))

/-- vadc and vsbc: op of a, b and the carry in gives the result and the carry out, at width w (R199). -/
def Arch.carryOp (a : Arch) (rb : Nat) (f : VA) (op : Nat → Nat → Nat → Nat → Nat × Bool) : Except Cause Arch := do
  let ta := a.tagOf f.va.toNat
  let tb := a.tagB f
  let td := a.result f.tag f.vd
  let n := a.count rb [ta, tb, td]
  let act := a.active f.mask n
  let x := a.plainCodes f.va.toNat act n .rne false
  let y := a.codesB f act n .rne false
  let fl ← a.judge [codeRead x, codeRead y]
  require (bothInt ta tb && td.isInt && ta.bits = tb.bits && ta.bits = td.bits)
  let ci := if f.var.getLsbD 1 then 0 else a.mask n f.vc.toNat
  let r := ((List.range n).zip (x.1.val.zip y.1.val)).map fun v => op ta.bits v.2.1 v.2.2 (bitOf ci v.1).toNat
  let codes := onActive act (fun v : Nat × Bool => Fl.pure v.1) r
  .ok ((a.put f.vd.toNat td 0 fl codes).mergeMask f.md act (bitsOf (r.map (·.2))))

/-- `vadc` (R199). -/
def execVadc (f : VA) (s : State) : Outcome State Fault Refusal :=
  .next (s.vector (.vadc f) fun a rb => a.carryOp rb f fun w x y c => ((x + y + c) % 2 ^ w, 2 ^ w ≤ x + y + c))

/-- `vsbc` (R199). -/
def execVsbc (f : VA) (s : State) : Outcome State Fault Refusal :=
  .next (s.vector (.vsbc f) fun a rb => a.carryOp rb f fun w x y c => ((x + 2 ^ (w + 1) - y - c) % 2 ^ w, decide (x < y + c)))

/-- Bits doubled: element i becomes elements 2i and 2i + 1. -/
def spread (act : Nat) : Nat → Nat
  | 0 => 0
  | n + 1 => (if act % 2 = 1 then 3 else 0) + 4 * spread (act / 2) n

/-- Sums of neighbouring products. -/
def pairSums : List Int → List Int → List Int
  | x :: x' :: t, y :: y' :: u => (x * y + x' * y') :: pairSums t u
  | _, _ => []

/-- The scalar form of `vdot2`: B(0), B(1), B(0), … (R200). -/
def dotScalar (t : Tag) (w : Word) : Nat → List Num
  | 0 => []
  | n + 1 =>
    let e := t.bits
    let lo := w.toNat % 2 ^ e
    let hi := w.toNat / 2 ^ e % 2 ^ e
    (decodeNum t 0 lo).getD .zero :: (decodeNum t 0 hi).getD .zero :: dotScalar t w n

/-- The lowest element of the scalar form of `vdot2` whose code is reserved, where element i is the lowest active one (R62). -/
def dotReserved (t : Tag) (w : Word) (i : Option Nat) : Option Nat := i.bind fun i =>
  if decodeNum t 0 (w.toNat % 2 ^ t.bits) = none then some (2 * i)
  else if decodeNum t 0 (w.toNat / 2 ^ t.bits % 2 ^ t.bits) = none then some (2 * i + 1) else none

/-- `vdot2` (R200). -/
def Arch.dot2 (a : Arch) (rb : Nat) (f : VA) : Except Cause Arch := do
  let ta := a.tagOf f.va.toNat
  let tb := a.tagB f
  let n := a.count rb [.i32]
  let act := a.active f.mask n
  let wide := spread act n
  let x := a.values f.va.toNat wide (2 * n) false .rne false
  let y := if f.scalar then ⟨dotScalar ta (a.reg f.ss) n, 0, dotReserved ta (a.reg f.ss) (lowBit act n)⟩ else a.values f.vb.toNat wide (2 * n) false .rne false
  let z := a.values f.vd.toNat act n false .rne false
  let fl ← a.judge [x, y, z]
  require (ta.isInt && ta.bits ≤ 16 && tb.isInt && tb.bits ≤ 16 && a.tagOf f.vd.toNat = .i32 && (f.tag = 4 || f.tag = 15))
  let sums := pairSums (x.xs.map Num.floor) (y.xs.map Num.floor)
  let r := onActive act (fun v : Num × Int => (satInt .i32 (v.1.floor + v.2)).map (intCode .i32)) (z.xs.zip sums)
  .ok (a.put f.vd.toNat .i32 0 fl r)

/-- `vdot2` (R200). -/
def execVdot2 (f : VA) (s : State) : Outcome State Fault Refusal :=
  .next (s.vector (.vdot2 f) fun a rb => a.dot2 rb f)

/-- The compares: md[i] is the relation of A and B, or of B and A under rev (R201). The exact values are compared, also where
the promoted integer type cannot hold one of them (log 62). -/
def Arch.compareOp (a : Arch) (rb : Nat) (f : VA) (rel : Nat) : Except Cause Arch := do
  let ta := a.tagOf f.va.toNat
  let n := a.count rb [ta, a.tagB f]
  let act := a.active f.mask n
  let x := a.values f.va.toNat act n false .rne false
  let y := a.valuesB f act n false .rne false
  let fl ← a.judge [x, y]
  let rev := f.var.getLsbD 1
  let r := onActive act (fun v : Num × Num =>
    (if rev then relNum rel v.2 v.1 else relNum rel v.1 v.2).map Bool.toNat) (x.xs.zip y.xs)
  .ok ((a.mergeMask f.md act (bitsOf (r.val.map fun c => c == some 1))).addFlags (fl ||| r.flags))

/-- `vceq` (R201). -/
def execVceq (f : VA) (s : State) : Outcome State Fault Refusal :=
  .next (s.vector (.vceq f) fun a rb => a.compareOp rb f 0)

/-- `vcne` (R201). -/
def execVcne (f : VA) (s : State) : Outcome State Fault Refusal :=
  .next (s.vector (.vcne f) fun a rb => a.compareOp rb f 1)

/-- `vclt` (R201). -/
def execVclt (f : VA) (s : State) : Outcome State Fault Refusal :=
  .next (s.vector (.vclt f) fun a rb => a.compareOp rb f 2)

/-- `vcle` (R201). -/
def execVcle (f : VA) (s : State) : Outcome State Fault Refusal :=
  .next (s.vector (.vcle f) fun a rb => a.compareOp rb f 3)

/-- `vsel`: A where mc is set, otherwise B; both operands are decoded (Table 13.2, R62). -/
def Arch.selectOp (a : Arch) (rb : Nat) (f : VA) : Except Cause Arch := do
  let ta := a.tagOf f.va.toNat
  let tb := a.tagB f
  let td := a.result f.tag f.vd
  let n := a.count rb [ta, tb, td]
  let act := a.active f.mask n
  let x := a.values f.va.toNat act n false (modeOf f) f.sat
  let y := a.valuesB f act n false (modeOf f) f.sat
  let fl ← a.judge [x, y]
  let mc := a.mask n f.vc.toNat
  let p := promote ta tb
  let pick := ((List.range n).zip (x.xs.zip y.xs)).map fun v => if bitOf mc v.1 then v.2.1 else v.2.2
  .ok (a.put f.vd.toNat td 0 fl (onActive act (deliver p td (modeOf f) f.sat) pick))

/-- `vsel` (Table 13.2). -/
def execVsel (f : VA) (s : State) : Outcome State Fault Refusal :=
  .next (s.vector (.vsel f) fun a rb => a.selectOp rb f)

/-- `vmov`: element bits with their TAG and DOM, or the scalar's low bits as codes of Td (R197). -/
def Arch.moveOp (a : Arch) (rb : Nat) (f : VA) : Arch :=
  if f.scalar then
    let td := a.result f.tag f.vd
    let n := a.count rb [td]
    let c := (a.reg f.ss).toNat % 2 ^ td.bits
    a.setCodes f.vd.toNat td 0 (onActive (a.active f.mask n) Fl.pure (List.replicate n c)).val
  else
    let ta := a.tagOf f.va.toNat
    let n := a.count rb [ta]
    a.setCodes f.vd.toNat ta (a.domOf f.va.toNat) (onActive (a.active f.mask n) Fl.pure (a.codes f.va.toNat n)).val

/-- `vmov` (R197). -/
def execVmov (f : VA) (s : State) : Outcome State Fault Refusal :=
  .next (s.vector (.vmov f) fun a rb => .ok (a.moveOp rb f))

/-- `vid`: base + i in P = Td (R197). -/
def Arch.indexOp (a : Arch) (rb : Nat) (f : VA) : Arch :=
  let td := a.result f.tag f.vd
  let n := a.count rb [td]
  let base := if f.scalar then (a.reg f.ss).toInt else 0
  a.put f.vd.toNat td 0 0
    (onActive (a.active f.mask n) (fun i : Nat => encodeNum td (modeOf f) f.sat 0 (.ofInt (base + i))) (List.range n))

/-- `vid` (R197). -/
def execVid (f : VA) (s : State) : Outcome State Fault Refusal :=
  .next (s.vector (.vid f) fun a rb => .ok (a.indexOp rb f))

end Sys2Proof.Machine
end

