-- ==== Sys2Proof/Machine/Matrix.lean ====
section
/-! DEFINITION. Tile tasks, the Fusee and the matrix array, group tokens and `axt` (R51, R69 to R71, R296 to R314). -/

namespace Sys2Proof.Machine

open Host (Outcome)

/-- A field of a tile-task record, n bytes from offset o (Table 21.1). -/
def taskField (r : List Byte) (o n : Nat) : Nat := leValue ((r.drop o).take n)

/-- A signed byte of a record. -/
def taskSigned (r : List Byte) (o : Nat) : Int := (r.getD o 0).toInt

/-- Bit i of byte o of a record. -/
def taskBit (r : List Byte) (o i : Nat) : Bool := (r.getD o 0).getLsbD i

/-- The tag whose code stands in byte o of a record. -/
def taskTag (r : List Byte) (o : Nat) : Tag := (Tag.ofCode (taskField r o 1)).getD .i8

/-- M, N, KS, ALVL, and the named accumulator of a record (Table 21.1). -/
def taskM (r : List Byte) : Nat := taskField r 36 2
def taskN (r : List Byte) : Nat := taskField r 38 2
def taskKS (r : List Byte) : Nat := taskField r 40 2
def taskLevel (r : List Byte) : Nat := taskField r 51 1 % 8
def taskAcc (r : List Byte) : Nat := (taskBit r 46 1).toNat

/-- DEST = 1: the result goes to memory. -/
def taskNarrows (r : List Byte) : Bool := taskBit r 46 0

/-- ZERO = 1 or DEST = 1: the accumulator starts from zero (R306). -/
def taskZeroes (r : List Byte) : Bool := taskBit r 46 2 || taskNarrows r

/-- Rows and columns that the Spire at position p computes: first ones and counts (R296). -/
def quarter (r : List Byte) (p : Nat) : (Nat × Nat) × (Nat × Nat) :=
  let r0 := 256 * (p / 2)
  let c0 := 256 * (p % 2)
  ((r0, min 256 (taskM r - r0)), (c0, min 256 (taskN r - c0)))

/-- The participating positions (R296). -/
def takesPart (r : List Byte) : List Nat :=
  (List.range 4).filter fun p => (quarter r p).1.2 != 0 && (quarter r p).2.2 != 0

/-- The formats of the matrix array (R69). -/
def matrixTag (c : Nat) : Bool := [0, 1, 8, 9, 12, 13].contains c

/-- A base or stride suits a format: a multiple of its stored size, t6 excepted (Table 21.2). -/
def suits (r : List Byte) (o n f : Nat) : Bool :=
  let t := taskTag r f
  t == .t6 || taskField r o n % t.bytes == 0

/-- The record checks of Table 21.2, in order: the code of the first that fails. -/
def taskCheck (r : List Byte) : Nat :=
  let z (o n : Nat) : Bool := taskField r o n == 0
  let dest := taskNarrows r
  let ctl := taskField r 46 1
  let spc := taskField r 50 1
  if !(ctl / 32 == 0 && taskField r 48 1 / 8 == 0 && spc / 64 == 0 && taskField r 51 1 / 8 == 0 && taskField r 52 1 / 64 == 0 &&
      taskField r 53 1 / 64 == 0 && z 54 2 && z 60 4 &&
      (dest || (z 16 8 && z 32 4 && z 47 1 && z 48 1 && z 49 1 && spc / 16 % 4 == 0))) then 1
  else if !(1 ≤ taskM r && taskM r ≤ 512 && 1 ≤ taskN r && taskN r ≤ 512 && 1 ≤ taskKS r) then 2
  else
    let biasOk (f b : Nat) : Bool := (taskTag r f).isTapered || z b 1
    let afmt := taskField r 42 1
    let cfmt := taskField r 47 1
    if !(matrixTag afmt && matrixTag (taskField r 43 1) && biasOk 42 44 && biasOk 43 45 && (afmt != 1 || taskLevel r == 0) &&
        (!dest || (cfmt < 14 && (taskLevel r == 0 || tagCodeCarries cfmt)))) then 3
    else if spc % 4 == 1 || spc / 4 % 4 == 1 || spc / 16 % 4 == 1 then 4
    else if !(suits r 0 8 42 && suits r 24 4 42 && suits r 8 8 43 && suits r 28 4 43 &&
        (!dest || (suits r 16 8 47 && suits r 32 4 47))) then 5
    else 0

/-- Key of byte 0 of a group's task-queue slot for task n (R301). -/
def Group.taskSlot (g : Group) (n : Nat) : Nat := lsKey (4 * g.quad) (g.bases.getD 0 0 + (g.lspan - 4096) + 64 * (n % 64))

/-- The task that holds number n. -/
def Group.taskAt (g : Group) (n : BitVec 32) : Option Task := g.tasks.find? fun t => t.num == n

/-- The task that holds slot n mod 64. -/
def Group.slotTask (g : Group) (n : BitVec 32) : Option Task := g.tasks.find? fun t => t.num.toNat % 64 == n.toNat % 64

/-- The record of a task: what the Fusee took, or what its slot holds until then (R301). -/
def State.taskRecord (s : State) (g : Group) (t : Task) : List Byte :=
  if t.record.isEmpty then s.bytes (g.taskSlot t.num.toNat) 64 else t.record

/-- Applies f to task n of group gid. -/
def State.modTask (s : State) (gid : Nat) (n : BitVec 32) (f : Task → Task) : State :=
  s.mapTasks gid fun t => if t.num = n then f t else t

/-- `task` after its claim: the release, the slot, the record (R303). -/
def State.queueTask (s : State) (h : Hart) (g : Group) (d : Reg) (a : Word) (cm : BitVec 16) (cls : BitVec 4) : Result :=
  let n := g.taskCount
  if h.unacked.any (fun u => cm.getLsbD u.cls.toNat) then .stall s { h with pending := some .slotWait } false
  else if (match g.slotTask n with | some t => t.state.live | none => false) then
    .stall s { h with pending := some .slotWait } false
  else
    let rec64 := s.bytes (lsKey (spireOf s.cur) (g.bases.getD (spireOf s.cur % 4) 0 + a.toNat)) 64
    let t : Task := ⟨n, [], h.idx, cls, .queued, 0, 0, 0, s.stamp⟩
    let s := (s.perform .raw (byteWrites (g.taskSlot n.toNat) rec64)).modGroup h.gid fun g =>
      { g with tasks := g.tasks.filter (fun x => x.num.toNat % 64 != n.toNat % 64) ++ [t], taskCount := n + 1 }
    .done { s with stamp := s.stamp + 1 } (h.setReg d (n.setWidth 64))

/-- `task` (R302, R303). -/
def execTask (d a : Reg) (cm : BitVec 16) (o : Cm) (s : State) : Outcome State Fault Refusal :=
  .next (s.run (.task d a cm o) fun s h => s.withGroup h fun g =>
    let x := h.reg a
    if x.toNat % 64 ≠ 0 then .trap ⟨20, 0, false, false, 0, x⟩
    else if g.lspan < x.toNat + 64 || g.lspan < 4096 then .trap ⟨19, 0, false, false, 0, x⟩
    else if g.claim then s.queueTask h g d x cm o.cls
    else if (s.claimant g.quad).isSome then
      match h.pending with
      | some _ => .stall s h false
      | none => .stall s { h with pending := some (.claimWait s.dclk.toNat) } false
    else
      let s := s.takeClaim h.gid
      match s.group h.gid with
      | some g => s.queueTask h g d x cm o.cls
      | none => .stall s h false)

/-- The task before n has started or ended, so that the Fusee takes record n (R304). -/
def Group.mayTake (g : Group) (n : BitVec 32) : Bool := match g.taskAt (n - 1) with
  | some t => t.state != .queued && t.state != .waiting
  | none => true

/-- The wait condition of a record holds, or it has none (R304). -/
def Group.taskReady (g : Group) (r : List Byte) : Bool :=
  !taskBit r 46 3 || reached (g.token (taskField r 52 1 % 64)) (BitVec.ofNat 32 (taskField r 56 4))

/-- The Fusee of group gid takes the next record (R304). -/
def execFuseeTakeRecord (gid : Nat) (s : State) : Outcome State Fault Refusal :=
  .next <| match s.group gid with
    | none => s
    | some g =>
      let n := g.nextTake
      match g.taskAt n with
      | none => if n = g.taskCount then s else s.modGroup gid fun g => { g with nextTake := n + 1 }
      | some t =>
        if !g.state.works || !g.mayTake n then s
        else
          let s := s.modGroup gid fun g => { g with nextTake := n + 1 }
          if t.state != .queued then s
          else
            let r := s.bytes (g.taskSlot n.toNat) 64
            s.modTask gid n fun t =>
              if taskCheck r != 0 then { t with record := r, state := .failed, code := taskCheck r }
              else { t with record := r, state := if g.taskReady r then .queued else .waiting }

/-- An array of a task's quad that a RUNNING or SUSPENDED task of its group holds (R305, R310). -/
def Group.arrayBusy (g : Group) (p : Nat) : Bool :=
  g.tasks.any fun t => (t.state == .running || t.state == .suspended) && (takesPart t.record).contains p

/-- The domain level of accumulator ac at position p of a quad. -/
def State.levelAt (s : State) (quad p ac : Nat) : Nat := Store.get 0 s.accLevel (2 * (4 * quad + p) + ac)

/-- Task n of group gid starts: its condition holds and its arrays are free; the level check may fail it (R305). The condition is looked at
here, with the tokens as they stand (log 76). -/
def execTaskStart (gid n : Nat) (s : State) : Outcome State Fault Refusal :=
  .next <| match s.group gid with
    | none => s
    | some g => match g.taskAt (BitVec.ofNat 32 n) with
      | none => s
      | some t =>
        let r := t.record
        let ps := takesPart r
        let may : Bool := (t.state == .queued || t.state == .waiting) && !r.isEmpty && g.taskReady r && g.claim && !g.aborted && !g.wantPark &&
          g.state.works && s.dieRuns (4 * g.quad) && !ps.any g.arrayBusy
        if !may then s
        else
          let bad : Bool := !taskZeroes r && ps.any fun p => s.levelAt g.quad p (taskAcc r) != taskLevel r
          s.modTask gid t.num fun t => if bad then { t with state := .failed, code := 6 } else { t with state := .running }

/-- The task code of a fault (Table 21.4). -/
def faultTaskCode (code : Nat) : Nat :=
  if code = 16 then 7 else if code = 18 then 9 else if code = 19 then 10 else 8

/-- A stretch of consecutive operand bytes. -/
structure Stretch where
  addr : Word
  len : Nat
  deriving DecidableEq, Repr

/-- Bytes before element k of a packed row, and bytes of n elements from there (R300). -/
def rowBytes (t : Tag) (k : Nat) : Nat := t.memBits * k / 8
def spanBytes (t : Tag) (n : Nat) : Nat := (t.memBits * n + 7) / 8

/-- Row i of an operand in format t, n elements from element k on: base at o, stride at so of the record. -/
def stretchOf (r : List Byte) (o so : Nat) (t : Tag) (i k n : Nat) : Stretch :=
  ⟨BitVec.ofNat 64 (taskField r o 8 + i * taskField r so 4 + rowBytes t k), spanBytes t n⟩

/-- The places of a stretch, or its lowest faulting address with the task code; want is the level its granules must have. -/
def State.stretchPlaces (s : State) (g : Group) (spire sp : Nat) (write : Bool) (want : Option Nat) :
    Word → Nat → Except (Word × Nat) (List Phys)
  | _, 0 => .ok []
  | a, n + 1 => match s.place g spire sp a write false with
    | .fault code _ => .error (a, faultTaskCode code)
    | .at p =>
      let bad : Option Nat :=
        if write then (if want != some 0 && p.link.isSome then some 8 else none)
        else if some (tagLevel (s.granule p.key)) != want then some 6 else none
      match bad with
      | some c => .error (a, c)
      | none => match s.stretchPlaces g spire sp write want (a + 1) n with
        | .ok t => .ok (p :: t)
        | .error e => .error e

/-- The lowest faulting address of some stretches with its code. -/
def lowestFault {α : Type} (l : List (Except (Word × Nat) α)) : Option (Word × Nat) :=
  l.foldl (fun b x => match x, b with
    | .error e, some y => if e.1.toNat < y.1.toNat then some e else b
    | .error e, none => some e
    | .ok _, _ => b) none

/-- The places of an operand's stretches, in the matrix cache's view of translation. -/
def State.operand (s : State) (g : Group) (p sp : Nat) (write : Bool) (want : Nat) (l : List Stretch) :
    List (Except (Word × Nat) (List Phys)) :=
  let v := { s with tlb := s.mtlb }
  l.map fun x => v.stretchPlaces g (4 * g.quad + p) sp write (some want) x.addr x.len

/-- Stretches of A and W that position p reads in K-step k (R297, R300). -/
def stretchesA (r : List Byte) (p k : Nat) : List Stretch :=
  let q := quarter r p
  (List.range q.1.2).map fun i => stretchOf r 0 24 (taskTag r 42) (q.1.1 + i) (256 * k) 256
def stretchesW (r : List Byte) (p k : Nat) : List Stretch :=
  let q := quarter r p
  (List.range 256).map fun i => stretchOf r 8 28 (taskTag r 43) (256 * k + i) q.2.1 q.2.2
def stretchesC (r : List Byte) (p : Nat) : List Stretch :=
  let q := quarter r p
  (List.range q.1.2).map fun i => stretchOf r 16 32 (taskTag r 47) (q.1.1 + i) q.2.1 q.2.2

/-- The fault of a K-step: lowest position, then A before W, then the lowest address (R311). -/
def State.stepFault (s : State) (g : Group) (r : List Byte) (k : Nat) : Option (Nat × Nat × Word × Nat) :=
  let spc := taskField r 50 1
  (takesPart r).findSome? fun p =>
    match lowestFault (s.operand g p (spc % 4) false (taskLevel r) (stretchesA r p k)) with
    | some e => some (p, 0, e.1, e.2)
    | none => (lowestFault (s.operand g p (spc / 4 % 4) false 0 (stretchesW r p k))).map fun e => (p, 1, e.1, e.2)

/-- The pages of an operand, once it has no fault. -/
def okPlaces (l : List (Except (Word × Nat) (List Phys))) : List (List Phys) :=
  l.map fun x => match x with
    | .ok ps => ps
    | .error _ => []

/-- The codes of n elements of a stretch. -/
def State.rowCodes (s : State) (t : Tag) (n : Nat) (ps : List Phys) : List Nat :=
  codesOf t.memBits n (leValue (ps.map fun p => s.byte p.key))

/-- Decoded operands, scaled by the format's bias, and the reserved codes counted (R69, R306). -/
def decodeRow (t : Tag) (bias : Int) (cs : List Nat) : List Num × Nat :=
  let d := cs.map (decodeNum t 0)
  (d.map fun x => ((x.getD .zero).scale bias), (d.filter (·.isNone)).length)

/-- The product of R69, as an f32 value unless both operands are integers; one that an f32 subnormal cannot hold is rounded to the nearest
(log 73). -/
def productOf (x y : Num) : Num := (((mulNum x y).bind (roundNE .f32)).val)

/-- The partial sum of one result element over the 256 products of a K-step, on floats (R70). -/
def foldFloat (a w : List Num) : Num :=
  (a.zip w).foldl (fun p v => ((addNum .rne p (productOf v.1 v.2)).bind (roundNE .f32)).val) .zero

/-- The same sum on integers; wrapping commutes with it (R70). -/
def foldInt (a w : List Num) : Int := (a.zip w).foldl (fun p v => p + v.1.floor * v.2.floor) 0

/-- An accumulator element after a K-step (R70). A row that R71 skips gives the same bits. -/
def foldElem (ints : Bool) (c : BitVec 32) (a w : List Num) : BitVec 32 :=
  if ints then c + BitVec.ofInt 32 (foldInt a w)
  else BitVec.ofNat 32 (floatCode .f32 ((addNum .rne (floatValue .f32 c.toNat) (foldFloat a w)).bind (roundNE .f32)).val)

/-- Key of accumulator element (a, b) of ac at position p of a quad. -/
def accKey (quad p ac a b : Nat) : Nat := 2 ^ 17 * (4 * quad + p) + 2 ^ 16 * ac + 256 * a + b

/-- Writes the elements of one accumulator row from column b on. -/
def putRow (m : Store (BitVec 32)) (key : Nat) : List (BitVec 32) → Store (BitVec 32)
  | [] => m
  | v :: t => putRow (Store.set 0 m key v) (key + 1) t

/-- An infinity or a NaN. -/
def Num.special : Num → Bool
  | .fin .. => false
  | _ => true

/-- The array at position p loads the W of K-step k into the bank that the K-step before did not use (R298). -/
def State.loadBank (s : State) (g : Group) (r : List Byte) (p k : Nat) : State :=
  let spire := 4 * g.quad + p
  let tw := taskTag r 43
  let n := 1 - Store.get 0 s.bankSel spire
  let rows := (okPlaces (s.operand g p (taskField r 50 1 / 4 % 4) false 0 (stretchesW r p k))).map (s.rowCodes tw (quarter r p).2.2)
  let special := rows.any fun row => (decodeRow tw 0 row).1.any Num.special
  { s with
    banks := Store.insert s.banks (2 * spire + n) ⟨tw, rows, special⟩
    bankSel := Store.set 0 s.bankSel spire n }

/-- The bank that the last K-step of a Spire loaded. -/
def State.bank (s : State) (spire : Nat) : WeightBank :=
  (s.banks.find (2 * spire + Store.get 0 s.bankSel spire)).getD ⟨.i8, [], false⟩

/-- Position p folds K-step k, whose weights its bank holds: the accumulator after it and the reserved codes met (R70, R297, R306). -/
def State.foldAt (s : State) (g : Group) (r : List Byte) (p k : Nat) : Store (BitVec 32) × Nat :=
  let q := quarter r p
  let ta := taskTag r 42
  let bank := s.bank (4 * g.quad + p)
  let rowsA := (okPlaces (s.operand g p (taskField r 50 1 % 4) false (taskLevel r) (stretchesA r p k))).map fun ps =>
    decodeRow ta (if ta.isTapered then taskSigned r 44 else 0) (s.rowCodes ta 256 ps)
  let rowsW := bank.rows.map (decodeRow bank.tag (if bank.tag.isTapered then taskSigned r 45 else 0))
  let cols := (List.range q.2.2).map fun b => rowsW.map fun w => w.1.getD b .zero
  let ints := ta.isInt && bank.tag.isInt
  let start := k == 0 && taskZeroes r
  let acc := (rowsA.zip (List.range rowsA.length)).foldl (fun m row =>
    let key := accKey g.quad p (taskAcc r) row.2 0
    putRow m key ((cols.zip (List.range cols.length)).map fun c =>
      foldElem ints (if start then 0 else Store.get 0 s.acc (key + c.2)) row.1.1 c.1)) s.acc
  (acc, (rowsA.map (·.2)).sum + (rowsW.map (·.2)).sum)



/-- The matrix arrays of a task's Spires do a K-step: work for pipe 7 (R360). -/
def State.arrayWork (s : State) (gid : Nat) (g : Group) (t : Task) : State :=
  (takesPart t.record).foldl (fun s p =>
    let spire := 4 * g.quad + p
    s.giveWork g.ctx gid t.hart spire (s.frameOf gid t.hart spire % 16) 7 0 0 t.num.toNat) s

/-- A task becomes SUSPENDED with a fault record, or ABORTED when its handler has halted (R310, R311). -/
def State.suspendTask (s : State) (gid : Nat) (g : Group) (t : Task) (f : Nat × Nat × Word × Nat) : State :=
  match s.member gid g.tfh with
  | none => s.modTask gid t.num fun t => { t with state := .aborted, code := f.2.2.2 }
  | some (k, h) =>
    if h.halted then s.modTask gid t.num fun t => { t with state := .aborted, code := f.2.2.2 }
    else
      let s := s.modTask gid t.num fun t => { t with state := .suspended, code := f.2.2.2 }
      let s := s.modGroup gid fun g => { g with faults := g.faults ++ [⟨t.num, f.2.2.2, f.1, f.2.1, t.kdone, f.2.2.1, true⟩] }
      s.modHart k fun h => { h with async := h.async ++ [⟨.plain 48 t.num.toNat, 0, none⟩] }

/-- A suspended task whose fault no hart can take ends ABORTED with its code (R310). -/
def State.dropTask (s : State) (gid : Nat) (n : BitVec 32) : State := match s.group gid with
  | some g => (match g.faults.find? fun f => f.task == n with
    | some f => s.abortTask gid n f.code
    | none => s)
  | none => s

/-- The links that places cross can carry data, no request stands before it in their queues, and the ports of the arrays of a Spire have
tokens (R99, R276, R329). -/
def State.placesUp (s : State) (c spire : Nat) (ps : List Phys) : Bool :=
  (linksOf ps).all s.linkUp && s.clear none 0 (linksOf ps) && !s.portWait c (accessPorts spire ps)

/-- The operand places of a K-step that has no fault. -/
def State.stepPlaces (s : State) (g : Group) (r : List Byte) (k : Nat) : List (Nat × List Phys) :=
  let spc := taskField r 50 1
  (takesPart r).map fun p =>
    (4 * g.quad + p, ((okPlaces (s.operand g p (spc % 4) false (taskLevel r) (stretchesA r p k))) ++
      okPlaces (s.operand g p (spc / 4 % 4) false 0 (stretchesW r p k))).flatten)

/-- A task of an aborted group ends at its K-step boundary (R120, Table 21.3). -/
def abandon (t : Task) : Task := { t with state := .aborted, code := 11 }

/-- One K-step of task n of group gid has folded on every participating Spire, or fails and suspends the task (R306). -/
def execKStepFoldDone (gid n : Nat) (s : State) : Outcome State Fault Refusal :=
  .next <| match s.group gid with
    | none => s
    | some g => match g.taskAt (BitVec.ofNat 32 n) with
      | none => s
      | some t =>
        let r := t.record
        if t.state != .running || !g.state.works then s
        else if g.aborted then s.modTask gid t.num abandon
        else if g.wantPark || taskKS r ≤ t.kdone || !s.dieRuns (4 * g.quad) then s
        else match s.stepFault g r t.kdone with
          | some f => (s.arrayWork gid g t).suspendTask gid g t f
          | none =>
            let ps := s.stepPlaces g r t.kdone
            if ps.any (fun p => !s.placesUp g.ctx p.1 p.2) then s
            else
              let out := (takesPart r).foldl (fun (x : State × Nat) p =>
                let s := x.1.loadBank g r p t.kdone
                let y := s.foldAt g r p t.kdone
                ({ s with acc := y.1 }, x.2 + y.2)) (s, 0)
              let s := (ps.foldl (fun s p => s.matrixAccess p.1 g.ctx p.2) out.1).countAll g.ctx (ps.flatMap (·.2))
              (s.arrayWork gid g t).modTask gid t.num fun t => { t with kdone := t.kdone + 1, rsv := min (t.rsv + out.2) 0xFFFF }

/-- The stored code of one result (R306). -/
def resultCode (r : List Byte) (ints : Bool) (c : BitVec 32) : Nat :=
  let t := taskTag r 47
  let x := if ints then Num.ofInt c.toInt else floatValue .f32 c.toNat
  let m := Rnd.ofField ((r.getD 48 0).extractLsb' 0 2)
  let sat := taskBit r 48 2
  let b := taskSigned r 49
  (if t.isTapered then encodeNum t m sat b x else encodeNum t m sat 0 (x.scale (-b))).val

/-- The number that codes of w bits form, lowest first. -/
def packCodes (w : Nat) : List Nat → Nat
  | [] => 0
  | c :: t => c % 2 ^ w + 2 ^ w * packCodes w t

/-- The byte writes of one row of C. -/
def State.rowWrites (s : State) (g : Group) (r : List Byte) (p a : Nat) (ps : List Phys) : List ByteWrite :=
  let q := quarter r p
  let t := taskTag r 47
  let ints := (taskTag r 42).isInt && (taskTag r 43).isInt
  let codes := (List.range q.2.2).map fun b => resultCode r ints (Store.get 0 s.acc (accKey g.quad p (taskAcc r) a b))
  let bits := packCodes t.memBits codes
  let mask := 2 ^ (t.memBits * q.2.2) - 1
  (ps.zip (List.range ps.length)).map fun x =>
    ⟨x.1.key, BitVec.ofNat 8 (mask / 2 ^ (8 * x.2)), BitVec.ofNat 8 (bits / 2 ^ (8 * x.2))⟩

/-- The places of C at position p. -/
def State.placesC (s : State) (g : Group) (r : List Byte) (p : Nat) : List (Except (Word × Nat) (List Phys)) :=
  s.operand g p (taskField r 50 1 / 16 % 4) true (taskLevel r) (stretchesC r p)

/-- A task is DONE: the accumulator's level, and the signal (R306, R307). -/
def State.finishTask (s : State) (gid : Nat) (g : Group) (t : Task) : State :=
  let r := t.record
  let s := if taskZeroes r then
      { s with accLevel := (takesPart r).foldl (fun m p =>
        Store.set 0 m (2 * (4 * g.quad + p) + taskAcc r) (taskLevel r)) s.accLevel }
    else s
  let s := s.modTask gid t.num fun t => { t with state := .done, code := 0 }
  let tok := taskField r 53 1 % 64
  if taskBit r 46 4 then s.setToken gid tok (g.token tok + 1) else s

/-- The last step of task n of group gid has folded: C is written, or its fault suspends the task; then DONE (R306). -/
def execTaskDone (gid n : Nat) (s : State) : Outcome State Fault Refusal :=
  .next <| match s.group gid with
    | none => s
    | some g => match g.taskAt (BitVec.ofNat 32 n) with
      | none => s
      | some t =>
        let r := t.record
        if t.state != .running || t.kdone < taskKS r || !g.state.works then s
        else if g.aborted then s.modTask gid t.num abandon
        else if !taskNarrows r then s.finishTask gid g t
        else if g.wantPark || !s.dieRuns (4 * g.quad) then s
        else
          let bad := (takesPart r).findSome? fun p => (lowestFault (s.placesC g r p)).map fun e => (p, 2, e.1, e.2)
          match bad with
          | some f => s.suspendTask gid g t f
          | none =>
            let rows := (takesPart r).map fun p => (p, okPlaces (s.placesC g r p))
            let ps := rows.map fun x => (4 * g.quad + x.1, x.2.flatten)
            if ps.any (fun p => !s.placesUp g.ctx p.1 p.2 || p.2.any (s.writeBlocked g.ctx)) then s
            else
              let ws := rows.flatMap fun x => (x.2.zip (List.range x.2.length)).flatMap fun y => s.rowWrites g r x.1 y.2 y.1
              let s := (ps.foldl (fun s p => s.matrixAccess p.1 g.ctx p.2) s).arrayWork gid g t
              (s.perform (.task (taskLevel r)) ws).finishTask gid g t

/-- `twait` (R308). -/
def execTwait (t : BitVec 6) (a : Reg) (o : Cm) (s : State) : Outcome State Fault Refusal :=
  .next (s.run (.twait t a o) fun s h => s.withGroup h fun g =>
    if reached (g.token t.toNat) ((h.reg a).setWidth 32) then .done s h
    else .stall s { h with pending := some .waiting } false)

/-- `tsig`: a release over all classes (R307, R308). -/
def execTsig (t : BitVec 6) (o : Cm) (s : State) : Outcome State Fault Refusal :=
  .next (s.run (.tsig t o) fun s h => s.withGroup h fun g =>
    if !h.unacked.isEmpty then .stall s { h with pending := some .waiting } false
    else .done (s.setToken h.gid t.toNat (g.token t.toNat + 1)) h)

/-- A task's record leaves the queue of faults, with its trap while that is undelivered (R310, R311; log 26). -/
def State.dropRecord (s : State) (gid : Nat) (n : BitVec 32) : State :=
  let s := s.modGroup gid fun g => { g with faults := g.faults.filter fun f => f.task != n }
  { s with harts := Store.mapVal (fun _ h =>
      if h.gid = gid then { h with async := h.async.filter fun x => !(x.cause.code == 48 && x.cause.idx == n.toNat) } else h) s.harts }

/-- `tresume` (R312). -/
def execTresume (d a : Reg) (o : Cm) (s : State) : Outcome State Fault Refusal :=
  .next (s.run (.tresume d a o) fun s h => s.withGroup h fun g =>
    let n := (h.reg a).setWidth 32
    match g.taskAt n with
    | some t =>
      if t.state == .suspended then
        let s := (s.modTask h.gid n fun t => { t with state := .running, code := 0 }).dropRecord h.gid n
        match s.hart s.cur with
        | some h => .done s (h.setReg d 0)
        | none => .stall s h false
      else .done s (h.setReg d 1)
    | none => .done s (h.setReg d 1))

/-- The code of a task's STATE (Table 21.5). -/
def TaskState.word : TaskState → Nat
  | .queued => 0 | .waiting => 1 | .running => 2 | .suspended => 3 | .done => 4 | .failed => 5 | .aborted => 6

/-- TSTAT (Table 21.5); GONE for a number that no task holds. -/
def tstat (t : Option Task) : Word := match t with
  | none => BitVec.ofNat 64 (7 * 2 ^ 56)
  | some t => BitVec.ofNat 64 (t.state.word * 2 ^ 56 + t.code * 2 ^ 48 + t.rsv * 2 ^ 32 + t.kdone)

/-- `tprog` (R312). -/
def execTprog (d a : Reg) (o : Cm) (s : State) : Outcome State Fault Refusal :=
  .next (s.run (.tprog d a o) fun s h => s.withGroup h fun g =>
    .done s (h.setReg d (tstat (g.taskAt ((h.reg a).setWidth 32)))))

/-- Words 0 and 1 of the oldest fault record (R311). -/
def faultWord (f : Option TaskFault) (w : Bool) : Word := match f with
  | none => BitVec.allOnes 64
  | some f =>
    if w then f.addr
    else BitVec.ofNat 64 (f.task.toNat + f.code * 2 ^ 32 + f.pos * 2 ^ 40 + f.operand * 2 ^ 42 + f.kdone % 2 ^ 16 * 2 ^ 48)

/-- `tflt`, OP 0 and 1 (R311). -/
def execTflt (d a : Reg) (w : Bool) (o : Cm) (s : State) : Outcome State Fault Refusal :=
  .next (s.run (.tflt d a w o) fun s h => s.withGroup h fun g => .done s (h.setReg d (faultWord g.faults.head? w)))

/-- The traps of task faults that are not delivered go on to a new handler hart; where it has halted, their tasks end ABORTED with the codes
of their faults (R310, R311; log 67). -/
def State.moveTraps (s : State) (gid old new : Nat) : State := match s.member gid old with
  | none => s
  | some (j, h) =>
    let mine := h.async.filter Async.isTask
    if old = new || mine.isEmpty then s
    else
      let s := s.modHart j fun h => { h with async := h.async.filter fun x => !x.isTask }
      match s.member gid new with
      | some (k, x) =>
        if x.halted then mine.foldl (fun s m => s.dropTask gid (BitVec.ofNat 32 m.cause.idx)) s
        else s.modHart k fun x => { x with async := x.async ++ mine }
      | none => mine.foldl (fun s m => s.dropTask gid (BitVec.ofNat 32 m.cause.idx)) s

/-- `tflt`, OP 2: a new handler hart (R311). -/
def execTfltSet (d a : Reg) (o : Cm) (s : State) : Outcome State Fault Refusal :=
  .next (s.run (.tfltSet d a o) fun s h => s.withGroup h fun g =>
    let n := (h.reg a).toNat
    if n < g.nhart then
      let s' := (s.modGroup h.gid fun g => { g with tfh := n }).moveTraps h.gid g.tfh n
      .done s' (((s'.hart s.cur).getD h).setReg d (BitVec.ofNat 64 g.tfh))
    else .done s (h.setReg d (BitVec.allOnes 64)))

/-- `tabort` (R312). -/
def execTabort (d a : Reg) (o : Cm) (s : State) : Outcome State Fault Refusal :=
  .next (s.run (.tabort d a o) fun s h => s.withGroup h fun g =>
    let n := (h.reg a).setWidth 32
    match g.taskAt n with
    | some t =>
      if t.state == .running then .done s (h.setReg d 2)
      else if t.state.live then
        let s := (s.abortTask h.gid n 12).dropRecord h.gid n
        match s.hart s.cur with
        | some h => .done s (h.setReg d 0)
        | none => .stall s h false
      else .done s (h.setReg d 1)
    | none => .done s (h.setReg d 1))

/-- Unfinished tasks of a group that target an accumulator at a position (R51). -/
def State.targeted (s : State) (g : Group) (p ac : Nat) : Bool :=
  g.tasks.any fun t =>
    let r := s.taskRecord g t
    t.state.live && taskAcc r == ac && (takesPart r).contains p

/-- Row or column r of an accumulator as n codes of 32 bits; elements outside it are 0 (R314). -/
def State.extract (s : State) (quad p ac : Nat) (col : Bool) (r n : Nat) : List Nat :=
  (List.range n).map fun i =>
    if 256 ≤ r || 256 ≤ i then 0
    else (Store.get 0 s.acc (if col then accKey quad p ac i r else accKey quad p ac r i)).toNat

/-- `axt` (R302, R314); a column that is reconstructed is charged as an operand's reconstruction (R325). -/
def execAxt (f : VA) (s : State) : Outcome State Fault Refusal :=
  .next (s.run (.axt f) fun s h => s.withGroup h fun g =>
    let a := h.arch
    let td := a.result f.tag f.vd
    let n := a.count (g.regBytes a.shape) [td]
    let act := a.active f.mask n
    let p := spireOf s.cur % 4
    let ac := (f.vc.getLsbD 0).toNat
    let col := f.var.getLsbD 1
    let k : Tag := if f.var.getLsbD 2 then .i32 else .f32
    let write (beats dom : Nat) (fl : Flags) (xs : List Num) : Result :=
      .done s { h with
        arch := a.put f.vd.toNat td dom fl (onActive act (encodeNum td (modeOf f) f.sat 0) xs)
        hbeat := h.hbeat + BitVec.ofNat 64 beats }
    let value (c : Nat) : Num := (decodeNum k 0 c).getD .zero
    if !g.claim then write 0 0 0 (List.replicate n .zero)
    else if s.targeted g p ac then .stall s { h with pending := some .waiting } false
    else
      let l := s.levelAt g.quad p ac
      let xs := (s.extract g.quad p ac col (a.reg f.ss).toNat n).map value
      if l = 0 then write 0 0 0 xs
      else if !col then .trap tagMismatch
      else if td.carries then write 0 l 0 xs
      else
        let whole := wholeBlocks l n
        let ys := encodeAll k (modeOf f) f.sat (act &&& whole) (act &&& whole) (invHaarAll (haarKind k) l xs)
        write (passBeats g.lanes l n 32) 0 ys.flags
          (((List.range n).zip (ys.val.zip xs)).map fun q => if bitOf whole q.1 then value q.2.1 else q.2.2))

end Sys2Proof.Machine
end

