-- ==== Sys2Proof/Machine/System.lean ====
section
/-! DEFINITION. Control registers, traps and their return, halt, launch, group tokens, and the instructions a fetch does not
find (R89, R111, R157 to R162, R309, R341 to R343, R362). -/

namespace Sys2Proof.Machine

open Host (Outcome)

/-- gtime (R362). -/
def State.gtime (s : State) (c : Nat) : Word :=
  let x := s.ctx c
  let mode := x.tctl.toNat % 4
  let u := s.dclk - (if mode = 2 then x.tstolen else 0)
  x.toff + (if mode = 0 then u else BitVec.ofNat 64 (u.toNat * x.tmul.toNat / 2 ^ 24))

/-- The value `getc` reads from bank and index (Tables 3.4, 25.1, R47, R362). -/
def State.control (s : State) (h : Hart) (bank : BitVec 4) (idx : BitVec 8) : Word :=
  let a := h.arch
  if bank = 1 then (Store.get 0 a.hk idx.toNat).setWidth 64
  else match idx.toNat with
    | 0x00 => a.vl.setWidth 64
    | 0x01 => a.vspace.setWidth 64
    | 0x02 => match s.group h.gid with
      | some g => if h.seat.isSome then BitVec.ofNat 64 a.shape else if g.lanes = 0 then 0 else BitVec.ofNat 64 g.shape
      | none => 0
    | 0x03 => BitVec.ofNat 64 (s.lanesOf h)
    | 0x04 => match s.group h.gid with
      | some g => BitVec.ofNat 64 g.seats
      | none => 1
    | 0x05 => a.xidx
    | 0x06 => a.ftm.setWidth 64
    | 0x07 => a.fflags.setWidth 64
    | 0x08 => a.hctl.setWidth 64
    | 0x09 => BitVec.ofNat 64 a.lq.length
    | 0x0A => a.lc0.count.setWidth 64
    | 0x0B => a.lc1.count.setWidth 64
    | 0x10 => h.hclk
    | 0x11 => a.hinst
    | 0x12 => h.hstall
    | 0x13 => h.hannul
    | 0x14 => h.hbeat
    | 0x18 => s.gtime (s.ctxOf h)
    | 0x20 => a.tcause.setWidth 64
    | 0x21 => a.tepc
    | 0x22 => a.tspc
    | 0x23 => a.taddr
    | 0x24 => a.tidx.setWidth 64
    | 0x25 => a.ttag.setWidth 64
    | 0x26 => a.tsave
    | 0x27 => a.tscr
    | _ => 0

/-- `getc` (R157). -/
def execGetc (d : Reg) (bank : BitVec 4) (idx : BitVec 8) (s : State) : Outcome State Fault Refusal :=
  .next (s.run (.getc d bank idx) fun s h => .done s (h.setReg d (s.control h bank idx)))

/-- The register file after `setc` of a writable index; reserved bits are ignored (R4, R44, R46 to R49, R157, R339). rb is
the hart's register-bytes. A value is truncated to its register's width first, vl's before its min with rb (log 64). -/
def Hart.setControl (h : Hart) (rb : Nat) (bank : BitVec 4) (idx : BitVec 8) (v : Word) : Hart :=
  let a := h.arch
  let w := v.setWidth 32
  if bank = 1 then { h with arch := { a with hk := Store.set 0 a.hk idx.toNat w } }
  else match idx.toNat with
    | 0x00 => { h with arch := { a with vl := BitVec.ofNat 32 (min w.toNat rb) } }
    | 0x01 => { h with arch := { a with vspace := w &&& 7 } }
    | 0x07 => { h with arch := { a with fflags := w &&& 0x7F } }
    | 0x08 => { h with arch := { a with hctl := w &&& 1 } }
    | 0x0A => { h with arch := { a with lc0 := { a.lc0 with count := w } } }
    | 0x0B => { h with arch := { a with lc1 := { a.lc1 with count := w } } }
    | 0x10 => { h with hclk := v }
    | 0x11 => { h with arch := { a with hinst := v } }
    | 0x12 => { h with hstall := v }
    | 0x13 => { h with hannul := v }
    | 0x14 => { h with hbeat := v }
    | 0x20 => { h with arch := { a with tcause := w &&& 0xF7FF } }
    | 0x21 => { h with arch := { a with tepc := v } }
    | 0x27 => { h with arch := { a with tscr := v } }
    | _ => h

/-- `setc` (R157). -/
def execSetc (a : Reg) (bank : BitVec 4) (idx : BitVec 8) (s : State) : Outcome State Fault Refusal :=
  .next (s.run (.setc a bank idx) fun s h => .done s (h.setControl (s.regBytes h) bank idx (h.reg a)))

/-- `trap n`: the software trap (R160). -/
def execTrap (n : BitVec 12) (s : State) : Outcome State Fault Refusal :=
  .next (s.run (.trap n) fun _ _ => .trap (.plain 40 n.toNat))

/-- `ebrk n`: halts for an attached debugger, otherwise the breakpoint trap (R160, R355). -/
def execEbrk (n : BitVec 12) (s : State) : Outcome State Fault Refusal :=
  .next (s.run (.ebrk n) fun s h =>
    if h.dbg.att then
      .done s { h with dbg := { h.dbg with halted := true, stepping := false, why := 2, brk := n.toNat } }
    else .trap (.plain 41 n.toNat))

/-- `eret` (R161, R343). -/
def execEret (after : Bool) (s : State) : Outcome State Fault Refusal :=
  .next (s.run (.eret after) fun s h =>
    let a := h.arch.leave after
    let h' := Hart.record { h with
      arch := { a with hinst := a.hinst + 1 }, seq := h.seq + 1, stalled := false, pending := none, convoy := 0 } 1
    .left (s.setHart s.cur h'.stepDone))

/-- Task faults that no hart can take end their tasks ABORTED with the code of the fault (R310). -/
def State.dropFaults (s : State) (g : Nat) : State := match s.group g with
  | some x => x.faults.foldl (fun s f => s.abortTask g f.task f.code) s
  | none => s

/-- Hart k ends (R162): its seat is free, its frame is freed once its accesses have performed, and its group may drain. -/
def State.endHart (s : State) (k : Nat) : State :=
  match s.hart k with
  | none => s
  | some h =>
    let s := (s.pairSwitch k).modHart k Hart.stop
    let s := match s.group h.gid with
      | some g => if g.tfh = h.idx then s.dropFaults h.gid else s
      | none => s
    (s.groupMaybeDrain h.gid).reap

/-- `halt` (R162). -/
def execHalt (s : State) : Outcome State Fault Refusal :=
  .next (s.run .halt fun s _ => .left (s.endHart s.cur))

/-- `launch`: after the hart's older accesses, QWP advances in one step (R111, R112). -/
def execLaunch (d a : Reg) (q : BitVec 4) (s : State) : Outcome State Fault Refusal :=
  .next (s.run (.launch d a q) fun s h =>
    if !h.unacked.isEmpty then .stall s h false else
      let c := s.ctxOf h
      let old := (s.queue c q.toNat).wp
      let n := (h.reg a).setWidth 32
      .done (if n = 0 then s else s.advanceQueue c q.toNat (old + n)) (h.setReg d (old.setWidth 64)))

/-- `tokrd` (R309). -/
def execTokrd (d : Reg) (t : BitVec 6) (s : State) : Outcome State Fault Refusal :=
  .next (s.run (.tokrd d t) fun s h => s.withGroup h fun g => .done s (h.setReg d ((g.token t.toNat).setWidth 64)))

/-- `tokwr` (R309). -/
def execTokwr (a : Reg) (t : BitVec 6) (s : State) : Outcome State Fault Refusal :=
  .next (s.run (.tokwr a t) fun s h => .done (s.setToken h.gid t.toNat ((h.reg a).setWidth 32)) h)

/-- A cause found before any instruction is known: taken, or recorded while speculative (R90, R175). -/
def State.raise (s : State) (c : Cause) (syl : Syl) : State :=
  match s.hart s.cur with
  | none => s
  | some h =>
    if !h.live then s
    else if (h.exits.isEmpty && !h.held.isEmpty) || h.faults.any (·.stops) then s.setHart s.cur { h with stalled := true }
    else if h.exits.isEmpty then s.enterTrap s.cur h c syl false h.arch.pc
    else s.setHart s.cur { h with faults := h.faults ++ [⟨h.seq, h.dbg.icnt, h.arch, true⟩], stalled := true }

/-- The syllables at the pc are no instruction (R89): the precise illegal-instruction trap. -/
def execIllegalInstruction (w : Syl) (s : State) : Outcome State Fault Refusal := .next (s.raise (.plain 1 0) w)

/-- The fetch at the pc waits for a link that trains (R337). -/
def State.waitFetch (s : State) (k : Nat) (h : Hart) : State := if h.live then s.setHart k { h with stalled := true } else s

/-- The first syllable at the pc, when the fault was on the second (R74); where the fetch of the first syllable itself faults there is
none, and TTAG reads 0 (log 64). -/
def State.firstAt (s : State) (f : XFault) : Syl :=
  match s.hart s.cur with
  | none => 0
  | some h => if f.addr = h.arch.pc then 0 else match s.group h.gid with
    | none => 0
    | some g => match s.syllable g (spireOf s.cur) h.arch.pc with
      | .ok b => BitVec.ofNat 32 (leValue b)
      | .error _ => 0

/-- A fetch fault (R74, first in R90): taken with the instruction's pc and the syllable's address. -/
def execFetchFault (f : XFault) (s : State) : Outcome State Fault Refusal :=
  .next (s.raise ⟨f.code, f.sub, false, true, 0, f.addr⟩ (s.firstAt f))

/-- The next instruction meets a cause of places 1 to 6 of R90. -/
def State.earlyCause (s : State) (k : Nat) (h : Hart) : Bool :=
  match s.fetch k h with
  | .fault _ | .illegal _ => true
  | .held => false
  | .instr i => (match h.gate i with | .trap _ => true | _ => false) ||
    (match i with
      | .vacq .. => s.lanesOf h == 0
      | .qrd _ q => s.unboundStream k h q.toNat
      | .convoy n slots => (match s.convoyCause k h n slots with | .ok c => c.isSome | .error () => false)
      | .vpopq .. => h.arch.lq.length == 8
      | .vstrip _ _ _ lq _ _ => lq && h.arch.lq.isEmpty
      | _ => false)

/-- Hart h stands at a boundary for an asynchronous trap (R342); one falls between two members of a convoy too (R87, R179). -/
def Hart.atBoundary (h : Hart) : Bool :=
  h.live && h.arch.level == .user && h.exits.isEmpty && h.held.isEmpty &&
    (match h.pending with | some p => p.boundary | none => true)

/-- The oldest asynchronous cause of hart k is taken at its boundary (R342). -/
def execAsyncTrapEntry (k : Nat) (s : State) : Outcome State Fault Refusal :=
  .next <| match s.hart k with
    | none => s
    | some h => match h.async with
      | [] => s
      | c :: t =>
        if h.atBoundary && !s.earlyCause k h then
          let r := if h.dbg.recording then s.logValue k { h with async := t } 14 (bytesOf (c.cause.word true).toNat 8 ++ bytesOf c.tspc.toNat 8)
            else (s, { h with async := t })
          r.1.enterTrap k r.2 c.cause 0 true c.tspc
        else s

end Sys2Proof.Machine
end

