-- ==== Sys2Proof/Machine/Debug.lean ====
section
/-! DEFINITION. The debug block of a context: halting, stepping, items, checkpoints and replay (R354 to R359). -/

namespace Sys2Proof.Machine

open Host (Outcome)

/-- The hart that DSEL selects, with its frame; none outside the context's quads or in a frame without a hart (R354). -/
def State.selected (s : State) (c : Nat) : Option (Nat × Hart) :=
  let k := (s.ctx c).dsel.toNat % 4096
  match s.hart k with
  | some h => if s.ctxOf h = c && !h.halted && (s.ctx c).quads.contains (quadOf (spireOf k)) then some (k, h) else none
  | none => none

/-- The hart of a parked group of the context that left the frame which DSEL names, with its group and index; none where the context holds the
frame's quad no longer (R354). -/
def State.selectedParked (s : State) (c : Nat) : Option (Nat × Nat × Hart) :=
  let k := (s.ctx c).dsel.toNat % 4096
  if !(s.ctx c).quads.contains (quadOf (spireOf k)) then none
  else s.groups.findSome? fun g => if g.2.ctx != c then none else
    g.2.image.bind fun i => (i.harts.find? fun h => g.2.frames.getD h.1 4096 == k).map fun h => (g.1, h.1, h.2)

/-- The hart that DSEL selects, in its frame or parked. -/
def State.selectedAny (s : State) (c : Nat) : Option Hart := match s.selected c with
  | some (_, h) => some h
  | none => (s.selectedParked c).map (·.2.2)

/-- Applies f to the debug registers of a hart. -/
def Hart.mapDebug (h : Hart) (f : Debug → Debug) : Hart := { h with dbg := f h.dbg }

/-- Acts on the selected hart of a context whose registers can be written. -/
def State.onSelected (s : State) (c : Nat) (f : Nat → Hart → State) : State :=
  if !s.vfEnabled c then s else match s.selected c with
    | some (k, h) => f k h
    | none => s

/-- Applies f to the debug registers of the hart with index n in the image of a parked group. -/
def State.mapParked (s : State) (gid n : Nat) (f : Debug → Debug) : State :=
  s.modGroup gid fun g => { g with image := g.image.map fun i =>
    { i with harts := i.harts.map fun h => if h.1 = n then (h.1, h.2.mapDebug f) else h } }

/-- Acts on the selected hart of a context whose registers can be written: f on one in its frame, p on a parked one. -/
def State.onSelectedAny (s : State) (c : Nat) (f : Nat → Hart → State) (p : Nat → Nat → Hart → State) : State :=
  if !s.vfEnabled c then s else match s.selected c, s.selectedParked c with
    | some (k, h), _ => f k h
    | none, some (g, n, h) => p g n h
    | none, none => s

/-- STATE 2: the hart is halted. -/
def Debug.isHalted (d : Debug) : Bool := d.halted && !d.replay

/-- HALT asks for a stop of a running hart (R355). -/
def execDctlHalt (c : Nat) (s : State) : Outcome State Fault Refusal :=
  .next (s.onSelected c fun k h =>
    if h.dbg.halted then s else s.setHart k (h.mapDebug fun d => { d with want := true, stepping := false }))

/-- The hart goes to a point of its record, or to the point from before a replay (R359). -/
def Hart.goTo (h : Hart) (p : Point) : Hart :=
  { h with
    arch := p.arch, convoy := p.convoy, seat := p.seat, hstall := p.hstall, hannul := p.hannul, hbeat := p.hbeat
    dbg := { h.dbg with icnt := p.count, pos := p.pos } }

/-- A hart at a replay target goes back to the point that it held before the replay (R359). -/
def Hart.leaveReplay (h : Hart) : Hart := match h.dbg.live with
  | some p => { h.goTo p with dbg := { h.dbg with live := none, icnt := p.count } }
  | none => h

/-- Hart k, whose state is then h, goes on from a stop, at which its partner took issue where it was ready (R128). -/
def State.restart (s : State) (k : Nat) (h : Hart) : State := (s.setHart k h).pairSwitch k

/-- RESUME restarts a halted hart; from a replay target it first replays to the end of the log (R355, R356, R359). -/
def execDctlResume (c : Nat) (s : State) : Outcome State Fault Refusal :=
  .next (s.onSelected c fun k h =>
    if !h.dbg.isHalted then s
    else s.restart k (h.leaveReplay.mapDebug fun d => { d with halted := false, why := 0, inWait := false }))

/-- The recorded point at which DICNT has become n: the first one with it. -/
def Debug.at? (d : Debug) (n : Nat) : Option Point := d.hist.reverse.find? fun p => p.count == n

/-- The replay has brought the hart to a point. -/
def Hart.replayTo (h : Hart) (p : Option Point) (why : Nat) : Hart :=
  let h := match p with
    | some p => h.goTo p
    | none => h
  h.mapDebug fun d => { d with replay := false, halted := true, why := why }

/-- The point at which one more instruction of the replay has run or trapped; a convoy is one instruction (R355, R359). -/
def Debug.nextPoint (d : Debug) : Option Point := d.hist.reverse.find? fun p => d.pos < p.pos && p.convoy = 0

/-- STEP runs one instruction of a halted hart, or one of the replay while the record goes on (R355, R359). -/
def execDctlStep (c : Nat) (s : State) : Outcome State Fault Refusal :=
  .next (s.onSelected c fun k h =>
    if !h.dbg.isHalted then s
    else if h.dbg.live.isSome && h.dbg.nextPoint.isSome then s.setHart k (h.replayTo h.dbg.nextPoint 3)
    else s.restart k (h.leaveReplay.mapDebug fun d => { d with halted := false, stepping := true, why := 0, inWait := false }))

/-- Bytes that the hart and vector sections of a checkpoint take in the log (Table 25.5, R347; log 50). -/
def State.checkpointSize (s : State) (h : Hart) : Nat := match s.group h.gid with
  | some g => 4096 + if h.seat.isSome && g.lanes != 0 then (5 * 65536 / (32 / g.lanes * g.seats) + 4095) / 4096 * 4096 else 0
  | none => 4096

/-- The hart and vector sections of Table 25.5 for one hart, of n bytes, whose layout the spec leaves open. -/
def Hart.checkpoint (h : Hart) (n : Nat) : List Byte := (List.range n).map fun j =>
  if j < 4096 then Config.sectionByte h.section j else Config.sectionByte (.vector [h.vectorPart]) (j - 4096)

/-- CKPT: the checkpoint goes to the log, and recording begins (R358). -/
def execDctlCkpt (c : Nat) (s : State) : Outcome State Fault Refusal :=
  .next (s.onSelected c fun k h =>
    if !h.dbg.isHalted then s
    else
      let x := s.ctx c
      let n := s.checkpointSize h
      let stop := x.dlogb + x.dlogl
      match if x.dlogl.toNat < n then none else s.logWrite k c x.dlogb (h.checkpoint n) with
      | none => s.setHart k (h.mapDebug fun d => { d with recording := false, logFull := true })
      | some s' => s'.setHart k (h.mapDebug fun d => { d with
          recording := true, logFull := false, icnt := 0, pos := 0, hist := [{ h.point 0 with pos := 0 }]
          logPos := x.dlogb + BitVec.ofNat 64 n, logEnd := stop }))

/-- A hart whose halt was asked for reaches its stop: open exits have resolved and held stores drained (R179, R180, R355). A wait of
`bar.aw` is kept (R356); any other begins again (R124, R138). -/
def execDebugStopReached (k : Nat) (s : State) : Outcome State Fault Refusal :=
  .next <| match s.hart k with
    | none => s
    | some h =>
      if h.halted || !h.dbg.want || !h.exits.isEmpty || !h.held.isEmpty || h.finishing then s
      else
        let aw := h.inBarAw
        s.setHart k { h with
          convoy := 0
          faults := []
          pending := if aw then h.pending else none
          dbg := { h.dbg with want := false, halted := true, stepping := false, why := if h.dbg.stepping then 3 else 1, inWait := aw } }

/-- DSTAT of a hart in a STATE (Table 27.2). -/
def Debug.stat (d : Debug) (state : Nat) : BitVec 32 :=
  BitVec.ofNat 32
    (d.brk % 4096 * 2 ^ 20 + d.why * 2 ^ 8 + d.err.toNat * 2 ^ 7 + d.logFull.toNat * 2 ^ 6 + d.inWait.toNat * 2 ^ 5 + state)

/-- The DSTAT of a context's selected hart (Table 27.2). -/
def State.dstat (s : State) (c : Nat) : BitVec 32 := match s.selected c with
  | none => (match s.selectedParked c with
    | some (_, _, h) => h.dbg.stat 3
    | none => 0)
  | some (_, h) => h.dbg.stat (if h.dbg.replay then 4 else if h.dbg.halted then 2 else 1)

/-- Items that need a halted hart (Table 27.3). -/
def itemNeedsHalt (kind : Nat) : Bool := kind ≤ 4 || kind == 9 || kind == 10

/-- The value of a debug item (Table 27.3); none where the access is refused. -/
def State.item (s : State) (k : Nat) (h : Hart) (g : Group) (kind idx : Nat) : Option Word :=
  let a := h.arch
  let rb := s.regBytes h
  let word (v w : Nat) : Word := BitVec.ofNat 64 (v / 2 ^ (64 * w))
  let bar := g.bar (idx % 64)
  if itemNeedsHalt kind && !h.dbg.isHalted then none
  else if 2 ≤ kind && kind ≤ 4 && h.seat.isNone then none
  else match kind with
    | 0 => some (a.reg (BitVec.ofNat 6 idx))
    | 1 => let b := BitVec.ofNat 4 (idx / 256)
           let i := BitVec.ofNat 8 idx
           if readableIndex b i then some (s.control h b i) else none
    | 2 => if rb ≤ idx % 4096 * 64 then none else some (word (a.mask rb (idx / 4096 % 16)) (idx % 4096))
    | 3 => if a.shape ≤ idx / 4096 % 64 || rb ≤ idx % 4096 * 8 then none
           else some (word (Store.get 0 a.v (idx / 4096 % 64)) (idx % 4096))
    | 4 => if a.shape ≤ idx % 64 then none
           else some (BitVec.ofNat 64 (a.domOf (idx % 64) * 16 + (a.tagOf (idx % 64)).code))
    | 5 => if !g.claim then none
           else
             let key := accKey g.quad (spireOf k % 4) (idx / 2 ^ 16 % 2) (idx / 256 % 256) (2 * (idx % 128))
             some (BitVec.ofNat 64 ((Store.get 0 s.acc key).toNat + 2 ^ 32 * (Store.get 0 s.acc (key + 1)).toNat))
    | 6 => some bar.word
    | 7 => some bar.amask
    | 8 => some ((g.token (idx % 64)).setWidth 64)
    | 9 => some ((a.lq.getD (idx % 8) 0).setWidth 64)
    | 10 => match a.qb.find (idx % 8) with
      | some q => some (BitVec.ofNat 64 (q.idx * 2 ^ 8 + q.kind * 2 ^ 4 + idx % 8))
      | none => some 0
    | _ => none

/-- Replaces word w of a number. -/
def putWord (v w : Nat) (x : Word) : Nat := v - v / 2 ^ (64 * w) % 2 ^ 64 * 2 ^ (64 * w) + x.toNat * 2 ^ (64 * w)

/-- The state after a debug item is written; none where the access is refused (Table 27.3). -/
def State.setItem (s : State) (k : Nat) (h : Hart) (g : Group) (kind idx : Nat) (v : Word) : Option State :=
  let rb := s.regBytes h
  if (s.item k h g kind idx).isNone then none
  else match kind with
    | 0 => some (s.setHart k (h.setReg (BitVec.ofNat 6 idx) v))
    | 1 =>
      let b := BitVec.ofNat 4 (idx / 256)
      let i := BitVec.ofNat 8 idx
      if !writableIndex b i || (b = 0 && i.toNat < 2 && h.seat.isNone) || (b = 0 && i = 1 && v.getLsbD 2) then none
      else some (s.setHart k (h.setControl rb b i v))
    | 2 =>
      let m := idx / 4096 % 16
      if m = 0 then none else some (s.setHart k (h.mapArch fun a => a.setMask m (putWord (a.mask rb m) (idx % 4096) v)))
    | 3 =>
      let r := idx / 4096 % 64
      let w := idx % 4096
      some (s.setHart k (h.mapArch fun a => { a with
        v := Store.set 0 a.v r (putWord (Store.get 0 a.v r) w v)
        extent := Store.set 0 a.extent r (max (Store.get 0 a.extent r) (8 * w + 8)) }))
    | 4 => match Tag.ofCode (v.toNat % 16) with
      | some t => some (s.setHart k (h.mapArch fun a => { a with
          vtag := Store.set .zero a.vtag (idx % 64) ⟨t, BitVec.ofNat 3 (v.toNat / 16)⟩ }))
      | none => none
    | 5 =>
      let p := spireOf k % 4
      let ac := idx / 2 ^ 16 % 2
      if s.targeted g p ac then none
      else
        let key := accKey g.quad p ac (idx / 256 % 256) (2 * (idx % 128))
        some { s with acc := Store.set 0 (Store.set 0 s.acc key (v.setWidth 32)) (key + 1) (v.extractLsb' 32 32) }
    | 8 => some (s.setToken h.gid (idx % 64) (v.setWidth 32))
    | _ => none

/-- KIND and index of DADDR. -/
def daddrParts (v : Word) : Nat × Nat := (v.toNat / 2 ^ 56, v.toNat % 2 ^ 56)

/-- The value of a debug item of a parked hart, which no item of a halted hart is (Table 27.3). -/
def State.parkedItem (s : State) (h : Hart) (g : Group) (kind idx : Nat) : Option Word :=
  if itemNeedsHalt kind then none else s.item 0 h g kind idx

/-- A read of DDATA: the item, or 0 with ERR (R357). -/
def execDdataRead (c : Nat) (s : State) : Outcome State Fault Refusal :=
  .next <|
    let s := { s with hostRead := 0 }
    let p := daddrParts (s.ctx c).daddr
    s.onSelectedAny c
      (fun k h => match s.group h.gid with
        | none => s
        | some g =>
          let r := s.item k h g p.1 p.2
          { s.setHart k (h.mapDebug fun d => { d with err := r.isNone }) with hostRead := r.getD 0 })
      fun gid n h => match s.group gid with
        | none => s
        | some g =>
          let r := s.parkedItem h g p.1 p.2
          { s.mapParked gid n fun d => { d with err := r.isNone } with hostRead := r.getD 0 }

/-- A write of DDATA: the item is replaced, or the access is refused with ERR (R357). -/
def execDdataWrite (c : Nat) (v : Word) (s : State) : Outcome State Fault Refusal :=
  .next <|
    let p := daddrParts (s.ctx c).daddr
    s.onSelectedAny c
      (fun k h => match s.group h.gid with
        | none => s
        | some g => match s.setItem k h g p.1 p.2 v with
          | some s' => s'.modHart k fun h => h.mapDebug fun d => { d with err := false }
          | none => s.setHart k (h.mapDebug fun d => { d with err := true }))
      fun gid n _ =>
        if p.1 = 8 then (s.setToken gid (p.2 % 64) (v.setWidth 32)).mapParked gid n fun d => { d with err := false }
        else s.mapParked gid n fun d => { d with err := true }

/-- A write of DRTGT: the hart goes back to its checkpoint and replays to a count that the log holds, or the write is refused (R359). -/
def execDrtgtWrite (c : Nat) (v : Word) (s : State) : Outcome State Fault Refusal :=
  .next (s.onSelected c fun k h =>
    let d := h.dbg
    if !d.isHalted || (d.at? v.toNat).isNone then s.setHart k { h with dbg := { d with err := true } }
    else
      let live := d.live.getD (h.point d.icnt)
      let h := (match d.at? 0 with | some p => h.goTo p | none => h)
      s.setHart k (h.mapDebug fun d => { d with err := false, replay := true, target := v.toNat, live := some live }))

/-- The replay reaches its target (R359). -/
def execReplayTargetReached (k : Nat) (s : State) : Outcome State Fault Refusal :=
  .next <| match s.hart k with
    | none => s
    | some h => if h.dbg.replay then s.setHart k (h.replayTo (h.dbg.at? h.dbg.target) 4) else s

end Sys2Proof.Machine
end

