-- ==== Sys2Proof/Machine/Registers.lean ====
section
/-! DEFINITION. The registers of the physical and virtual functions: writes by the host, and what a read shows (R4, R101 to R104,
R258, R331, R341, R354, R360, R362, R364 to R372). -/

namespace Sys2Proof.Machine

open Host (Outcome)

/-- The state that a meaning's outcome goes on with. -/
def after (s : State) : Outcome State Fault Refusal → State
  | .next t => t
  | _ => s

/-- A write of DCTL: the highest set bit acts (Table 27.1). -/
def State.writeDctl (s : State) (c : Nat) (v : BitVec 32) : State :=
  if v.getLsbD 3 then after s (execDctlCkpt c s)
  else if v.getLsbD 2 then after s (execDctlStep c s)
  else if v.getLsbD 1 then after s (execDctlResume c s)
  else if v.getLsbD 0 then after s (execDctlHalt c s)
  else s

/-- A write of QCTL: the highest set bit acts (R105). -/
def State.writeQctl (s : State) (c q : Nat) (v : BitVec 32) : State :=
  if v.getLsbD 2 then after s (execQctlClear c q s)
  else if v.getLsbD 1 then after s (execQctlStop c q s)
  else if v.getLsbD 0 then after s (execQctlArm c q s)
  else s

/-- A write in the block of queue q (Table 7.1). -/
def State.writeQueue (s : State) (c q off : Nat) (v : Word) : State :=
  let x := s.queue c q
  let open_ : Bool := x.state == .idle || x.state == .stopped
  match off with
  | 0x00 => if s.doorbells c && open_ then s.setQueue c q { x with base := v } else s
  | 0x08 => if s.doorbells c && open_ then s.setQueue c q { x with cfg := v.setWidth 32 &&& 0xF0701 } else s
  | 0x0C => s.writeQctl c q (v.setWidth 32)
  | 0x10 => after s (execQwpWrite c q (v.setWidth 32) s)
  | _ => s

/-- A write in the notification block (Table 17.5). -/
def Ring.writeNotify (r : Ring) (off : Nat) (v : Word) : Ring := match off with
  | 0x00 => { r with base := v }
  | 0x08 => { r with cfg := v.setWidth 32 &&& 0xF0001 }
  | 0x0C => { r with thr := v.setWidth 32 &&& 0xFFFF }
  | 0x14 => { r with rp := v.setWidth 32 }
  | _ => r

/-- A write in the trace block (R360). -/
def Ring.writeTrace (r : Ring) (off : Nat) (v : Word) : Ring := match off with
  | 0x00 => { r with base := v }
  | 0x08 => { r with cfg := v.setWidth 32 &&& 0xFFF01 }
  | 0x10 => { r with rp := v.setWidth 32 }
  | _ => r

/-- A write in the time block (R362): MODE 3 leaves MODE as it is. -/
def Ctx.writeTime (x : Ctx) (off : Nat) (v : Word) : Ctx := match off with
  | 0x00 => if v.toNat % 4 = 3 then x else { x with tctl := v.setWidth 32 &&& 3 }
  | 0x08 => { x with toff := v }
  | 0x10 => { x with tmul := v.setWidth 32 }
  | _ => x

/-- A write of DCFG (Table 27.1). -/
def State.writeDcfg (s : State) (c : Nat) (v : Word) : State :=
  let put (d : Debug) : Debug := { d with recording := v.getLsbD 1, att := v.getLsbD 0 }
  s.onSelectedAny c (fun k h => s.setHart k (h.mapDebug put)) fun g n _ => s.mapParked g n put

/-- A write in the debug block (Table 27.1). -/
def State.writeDebug (s : State) (c off : Nat) (v : Word) : State := match off with
  | 0x00 => s.modCtx c fun x => { x with dsel := v.setWidth 32 &&& 0xFFF }
  | 0x04 => s.writeDctl c (v.setWidth 32)
  | 0x0C => s.writeDcfg c v
  | 0x10 => s.modCtx c fun x => { x with daddr := v }
  | 0x18 => after s (execDdataWrite c v s)
  | 0x20 => s.modCtx c fun x => { x with dlogb := v }
  | 0x28 => s.modCtx c fun x => { x with dlogl := v }
  | 0x38 => after s (execDrtgtWrite c v s)
  | _ => s

/-- A write in the base block of a virtual function (Table 25.4, R250). -/
def State.writeBase (s : State) (c off : Nat) (v : Word) : State :=
  let parked : Bool := !(s.ctx c).parked.isEmpty
  match off with
  | 0x80 => after s (execPtbaseWrite c v s)
  | 0x88 => s.modCtx c fun x => { x with tvec := v }
  | 0x90 => s.modCtx c fun x => { x with tsaveBase := v }
  | 0xA0 => if parked then s else s.modCtx c fun x => { x with saveBase := v }
  | 0xA8 => if parked then s else s.modCtx c fun x => { x with saveLen := v }
  | _ => s

/-- A write at an offset of a virtual function's BAR (R103, R365). -/
def State.writeVf (s : State) (c off : Nat) (v : Word) : State :=
  if !s.vfEnabled c || 64 ≤ c then s
  else if off < 0x1000 then s.writeBase c off v
  else if off < 0x1400 then s.writeQueue c ((off - 0x1000) / 0x40) (off % 0x40) v
  else if off < 0x1800 then if off % 4 = 0 then after s (execKtokWrite c ((off - 0x1400) / 4) (v.setWidth 32) s) else s
  else if off < 0x2000 then s
  else if off < 0x3000 then s.modCtx c fun x => { x with nq := x.nq.writeNotify (off - 0x2000) v }
  else if off < 0x4000 then s.modCtx c fun x => x.writeTime (off - 0x3000) v
  else if off < 0x5000 then s.writeDebug c (off - 0x4000) v
  else if off < 0x6000 then s.modCtx c fun x => { x with trace := x.trace.writeTrace (off - 0x5000) v }
  else s

/-- Offsets of the recovery window (Table 28.1). -/
def inWindow (off : Nat) : Bool := 0x300000 ≤ off && off < 0x300000 + 2 ^ 24

/-- A write at an offset of the physical function's BAR (R364, R365, R368). -/
def State.writePf (s : State) (off : Nat) (v : Word) : State :=
  if s.status == .recovery then
    if off = 0x40 then after s (execRecoveryStatusWrite (v.setWidth 32) s)
    else if inWindow off && !s.verifying then
      { s with window := (byteWrites (off - 0x300000) (bytesOf v.toNat 8)).foldl (fun m w => Store.set 0 m w.key w.val) s.window }
    else s
  else if s.status != .ready then s
  else match off with
    | 0x8000 => if s.mqEna then s else { s with mqBase := v }
    | 0x8008 => after s (execMqcfgWrite (v.setWidth 32) s)
    | 0x800C => after s (execMqwpWrite (v.setWidth 32) s)
    | _ => s

/-- A write of a BAR register by the host; reserved bits and read-only registers are left (R4). -/
def execRegisterWrite (vf : Option Nat) (off : Nat) (v : Word) (s : State) : Outcome State Fault Refusal :=
  .next (match vf with
    | some c => s.writeVf c off v
    | none => s.writePf off v)

/-- The code of STATUS.STATE (Table 28.2). -/
def ModuleState.code : ModuleState → Nat
  | .reset => 0 | .starting => 1 | .ready => 2 | .recovery => 3 | .fault => 4

/-- STATUS (Table 28.2). -/
def State.statusWord (s : State) : BitVec 32 :=
  BitVec.ofNat 32 (s.fcode % 256 * 2 ^ 24 + s.step % 256 * 2 ^ 16 + s.devf.toNat * 2 ^ 7 + s.limiting.toNat * 2 ^ 5 + s.status.code)



/-- LSTAT of a link (Table 24.3). -/
def Link.stat (x : Link) : Word :=
  BitVec.ofNat 64 (x.replay * 2 ^ 48 + x.corr * 2 ^ 32 + x.retrain * 2 ^ 24 + x.lanes * 2 ^ 8 + x.state.code)

/-- One capability entry (Table 6.6). -/
structure Cap where
  rid : Nat
  inst : Nat
  gran : Nat
  total : Nat
  free : Nat
  fenced : Nat
  limit : Nat
  deriving DecidableEq, Repr

/-- The entry as bytes. -/
def Cap.bytes (e : Cap) : List Byte :=
  bytesOf e.rid 2 ++ bytesOf e.inst 2 ++ bytesOf e.gran 4 ++ bytesOf e.total 4 ++ bytesOf e.free 4 ++ bytesOf e.fenced 4 ++
    bytesOf e.limit 4 ++ List.replicate 8 0

/-- A counted or capacity resource: the pool's free units in the table, the context's own in a view (R101, R102). -/
def capCount (rid gran total free fenced : Nat) (own : Option Nat) : Cap := ⟨rid, 0, gran, total, own.getD free, fenced, 0⟩

/-- A port or a rate (R102). -/
def capRate (view : Option Ctx) (rid inst total : Nat) : Cap :=
  ⟨rid, inst, 64, total, total, 0, match view with | some x => (x.bucket (bucketKey rid inst)).limit | none => 0⟩

/-- Units of a shaft per microsecond, from its start-record setting (Table 6.7, R367). -/
def State.shaftRate (s : State) (n : Nat) : Nat :=
  if s.fencedShafts.contains n then 0
  else match s.previous 2 n with
    | some e => if e.setting = 0 then 5600 else if e.setting = 1 then 4800 else 4000
    | none => 5600

/-- The entries of the capability table, or of a context's view (R101, R102). -/
def State.capEntries (s : State) (view : Option Ctx) : List Cap :=
  let quads := ((List.range 64).filter fun q => s.quadFree q && !s.quadFenced q).length
  let fenced := ((List.range 64).filter s.quadFenced).length
  let spires := ((List.range 256).filter fun n => s.fencedSpires.contains n || s.fencedShafts.contains n).length
  let held := view.map fun x => x.quads.length
  [capCount 1 1 64 quads fenced held, capCount 2 1 256 (4 * quads) spires (held.map (4 * ·)),
   capCount 3 65536 8388608 (131072 * quads) (32768 * s.fencedShafts.length) (held.map (131072 * ·)),
   capCount 4 1048576 128 s.granulesFree.length 0 (view.map fun x => x.granules.length)] ++
  ((List.range 4).map fun i => capRate view 5 i 44800) ++ ((List.range 6).map fun i => capRate view 6 i 31250) ++
  [capCount 7 1 64 (64 - (s.ctxs.filter fun x => x.2.state != .absent).length) 0 (view.map fun _ => 1),
   capCount 8 1 16 16 0 (view.map fun _ => 16), capCount 9 1 64 64 0 (view.map fun _ => 64)] ++
  ((List.range 64).map fun i => capRate view 10 i (s.linkRate i)) ++
  [capRate view 11 0 (s.linkUnits hostLink), capRate view 12 0 5600] ++ (List.range 256).map fun i => capRate view 13 i (s.shaftRate i)

/-- The capability table or view as bytes (Tables 6.5, 6.6). One GEN serves the table and every view, so a change of any entry of any of them
advances all (log 77). -/
def State.capBytes (s : State) (view : Option Ctx) : List Byte :=
  let es := s.capEntries view
  bytesOf 1 4 ++ bytesOf es.length 4 ++ bytesOf 32 4 ++ bytesOf s.capGen.toNat 4 ++ List.replicate 48 0 ++ es.flatMap Cap.bytes



/-- A journal entry as bytes (R370). -/
def Entry.bytes (e : Entry) (seq : Nat) : List Byte :=
  bytesOf seq 8 ++ [BitVec.ofNat 8 e.kind, BitVec.ofNat 8 e.ctx] ++ bytesOf e.arg 2 ++ bytesOf e.st.toNat 4 ++ bytesOf e.a.toNat 8 ++
    bytesOf e.b.toNat 8

/-- The entry in slot i of the journal ring, with its SEQ; journal lists the newest entry first (R370). -/
def State.journalSlot (s : State) (i : Nat) : Option (Nat × Entry) :=
  let back := (s.jnext - 1 - i) % 2 ^ 20
  match s.journal[back]? with
  | some e => if i < s.jnext then some (s.jnext - 1 - back, e) else none
  | none => none

/-- The register of 32 or 64 bits at an offset of the physical function's BAR, as a read shows it; a table's word of 32 bits where the
offset lies in one (R364, R365). -/
def State.readPf (s : State) (off : Nat) : Word :=
  let from_ (l : List Byte) (o : Nat) : Word := BitVec.ofNat 64 (leValue ((l.drop o).take 4))
  if off < 0x40 then from_ identity off
  else if off = 0x40 then s.statusWord.setWidth 64
  else if s.status == .recovery && inWindow off then from_ ((List.range 4).map fun i => Store.get 0 s.window (off - 0x300000 + i)) 0
  else if s.status != .ready then 0
  else if 0x1000 ≤ off && off < 0x8000 then from_ (s.capBytes none) (off - 0x1000)
  else if 0x40000 ≤ off && off ≤ 0x40200 && off % 8 = 0 then (s.link ((off - 0x40000) / 8)).stat
  else if 0x100000 ≤ off && off < 0x110000 then
    match s.startRecord[(off - 0x100000) / 16]? with
    | some e => from_ (s.startBytes e) (off % 16)
    | none => 0
  else if off = 0x2000000 then BitVec.ofNat 64 s.jold
  else if off = 0x2000008 then BitVec.ofNat 64 s.jnext
  else if 0x2001000 ≤ off && off < 0x2001000 + 2 ^ 25 then
    match s.journalSlot ((off - 0x2001000) / 32) with
    | some e => from_ (e.2.bytes e.1) (off % 32)
    | none => 0
  else match off with
    | 0x8000 => s.mqBase
    | 0x8008 => s.mqCfg.setWidth 64
    | 0x800C => s.mqWp.setWidth 64
    | 0x8010 => s.mqRp.setWidth 64
    | 0x8014 => s.mqDone.setWidth 64
    | 0x8018 => BitVec.ofNat 64 (s.mqErr * 16 + s.mqHalt.toNat)
    | _ => 0

/-- The code of QSTAT.STATE (Table 7.4). -/
def QState.code : QState → Nat
  | .idle => 0 | .armed => 1 | .running => 2 | .blocked => 3 | .stopped => 4

/-- A register of a queue's block (Table 7.1). -/
def Queue.read (x : Queue) (off : Nat) : Word := match off with
  | 0x00 => x.base
  | 0x08 => x.cfg.setWidth 64
  | 0x10 => x.wp.setWidth 64
  | 0x14 => x.rp.setWidth 64
  | 0x18 => x.done.setWidth 64
  | 0x1C => BitVec.ofNat 64 (x.err * 16 + x.state.code)
  | _ => 0

/-- The register at an offset of a virtual function's BAR, as a read shows it, before what the read clears (R103, R365). The view ends at
0x1000, where the doorbells begin (log 39). -/
def State.readVf (s : State) (c off : Nat) : Word :=
  let x := s.ctx c
  let sel (f : Hart → Word) : Word := match s.selectedAny c with
    | some h => f h
    | none => 0
  if s.status != .ready then 0
  else if off = 0 then x.cstat.setWidth 64
  else if !s.vfEnabled c then 0
  else if 0x1000 ≤ off && off < 0x1400 then (s.queue c ((off - 0x1000) / 0x40)).read (off % 0x40)
  else if 0x1400 ≤ off && off < 0x1800 then (x.kt ((off - 0x1400) / 4)).setWidth 64
  else match off with
    | 0x0080 => x.ptbase
    | 0x0088 => x.tvec
    | 0x0090 => x.tsaveBase
    | 0x00A0 => x.saveBase
    | 0x00A8 => x.saveLen
    | 0x2000 => x.nq.base
    | 0x2008 => x.nq.cfg.setWidth 64
    | 0x200C => x.nq.thr.setWidth 64
    | 0x2010 => x.nq.wp.setWidth 64
    | 0x2014 => x.nq.rp.setWidth 64
    | 0x2018 => x.nq.stat.setWidth 64
    | 0x3000 => x.tctl.setWidth 64
    | 0x3008 => x.toff
    | 0x3010 => x.tmul.setWidth 64
    | 0x3018 => x.tstolen
    | 0x3020 => s.gtime c
    | 0x4000 => x.dsel.setWidth 64
    | 0x4008 => (s.dstat c).setWidth 64
    | 0x400C => sel fun h => BitVec.ofNat 64 (h.dbg.recording.toNat * 2 + h.dbg.att.toNat)
    | 0x4010 => x.daddr
    | 0x4020 => x.dlogb
    | 0x4028 => x.dlogl
    | 0x4030 => sel fun h => BitVec.ofNat 64 h.dbg.icnt
    | 0x5000 => x.trace.base
    | 0x5008 => x.trace.cfg.setWidth 64
    | 0x500C => x.trace.wp.setWidth 64
    | 0x5010 => x.trace.rp.setWidth 64
    | 0x5014 => x.trace.stat.setWidth 64
    | _ =>
      let l := s.capBytes (some x)
      if 0x100 ≤ off && off < min 0x1000 (0x100 + l.length) then BitVec.ofNat 64 (leValue ((l.drop (off - 0x100)).take 4)) else 0

end Sys2Proof.Machine
end

