-- ==== Sys2Proof/Machine/Auto.lean ====
section
/-! DEFINITION. What the device does next by itself, and the choice of a step (log 4): an order among steps that the spec leaves
unordered, which a schedule in State can replace. -/

namespace Sys2Proof.Machine

open Host (Outcome)

/-- The next state of an outcome. -/
def nextOf : Outcome State Fault Refusal → Option State
  | .next t => some t
  | _ => none

/-- An event of the device when its guard holds. -/
def act (b : Bool) (f : Unit → Outcome State Fault Refusal) : Option State := if b then nextOf (f ()) else none

/-- The next state when it differs in what g shows. -/
def moved {α : Type} [DecidableEq α] (s : State) (g : State → α) (o : Outcome State Fault Refusal) : Option State :=
  match nextOf o with
  | some t => if g t = g s then none else some t
  | none => none

/-- Data of hart h can land. -/
def State.canLand (s : State) (h : Hart) : Bool := !h.landing.isEmpty || (match h.pending with
  | some (.remote ls false _ _) => ls.all s.linkUp
  | _ => false)

/-- The page of a waiting migration: whether its copy can begin, whether its leaf can be installed. -/
def State.migration (s : State) (h : Hart) : Bool × Bool := match h.pending with
  | some (.migrate _ old new vbase _ copied false) =>
    if copied then (false, s.frameReady old && s.frameReady new)
    else (!(s.pinned fun p => p.write && p.ctx = s.ctxOf h && p.base = vbase) && !s.portWait (s.ctxOf h) (movePorts old new), false)
  | _ => (false, false)

/-- What the device does for hart k. -/
def State.autoHart (s : State) (k : Nat) (h : Hart) : Option State :=
  let ticket : Bool := match h.pending with
    | some (.ticket (_ :: _) _ _ _ _) => true
    | _ => false
  (if h.ending && !h.finishing && !h.halted then some (s.endStop k) else none) <|>
  act (!h.exits.isEmpty) (fun _ => execExitResolution k s) <|>
  act (h.drainable.any fun e => e.revoked || !s.heldBehind k (s.ctxOf h) e) (fun _ => execHeldEntryDrain k s) <|>
  act (s.canLand h) (fun _ => execLoadDataArrives k s) <|>
  act ticket (fun _ => execScTicketGrant k s) <|>
  act (s.ackable k h fun l => l == hostLink).isSome (fun _ => execHostWriteAck k s) <|>
  act (s.ackable k h fun l => l != hostLink).isSome (fun _ => execRemoteResponse k s) <|>
  act (!h.async.isEmpty && h.atBoundary && !s.earlyCause k h) (fun _ => execAsyncTrapEntry k s) <|>
  act (s.migration h).1 (fun _ => execPmigCopyStart k s) <|>
  act (s.migration h).2 (fun _ => execPmigLeafInstall k s) <|>
  act h.dbg.replay (fun _ => execReplayTargetReached k s) <|>
  act (h.dbg.want && !h.halted && h.exits.isEmpty && h.held.isEmpty && !h.finishing) (fun _ => execDebugStopReached k s)

/-- A seeking hart of a Spire can be seated. -/
def State.canSeat (s : State) (spire : Nat) : Bool := match firstSeeker (s.seekers spire) with
  | some (_, _, k, _) => (match s.hart k with
    | some h => (match s.group h.gid with
      | some g => !(freeSeats g.lanes g.seats (s.seated spire)).isEmpty
      | none => false)
    | none => false)
  | none => false

/-- The first message on a slot's path reaches it. -/
def State.autoMessage (s : State) (key : Nat) : Option State :=
  let spire := key / 256
  let n := key % 256
  match s.firstMessage key, s.slot key with
  | some (.push ..), some x => act (s.takesPush spire x) fun _ => execPushArrives spire n s
  | some (.reply ..), some x => act (x.state == .arming) fun _ => execStandReplyArrives spire n s
  | some .ack, some x => act (x.state == .closing) fun _ => execSubscriptionAckArrives spire n s
  | _, _ => none

/-- A request of a slot reaches its home. -/
def State.autoRequest (s : State) (r : Nat × Bool) : Option State :=
  let spire := r.1 / 256
  let n := r.1 % 256
  match s.slot r.1 with
  | some x => if r.2 then act (homeOf (x.line * 64)).isSome fun _ => execHomeSubscribe spire n s
              else act true fun _ => execHomeUnsubscribe spire n s
  | none => none

/-- A slot of a group under pre-emption parks. -/
def State.autoPark (s : State) (x : Nat × Slot) : Option State :=
  let stopping : Bool := match s.group x.2.gid with
    | some g => g.state == .running && g.wantPark
    | none => false
  act (x.2.state == .standing && stopping && (s.firstMessage x.1).isNone) fun _ => execHomeParkSlot (x.1 / 256) (x.1 % 256) s

/-- The lowest chunk of a copy that can land. -/
def State.nextChunk (s : State) (t : CopyTag) (spire : Nat) : Option Nat :=
  (List.range t.chunks).find? fun j => t.mayLand j && (t.revoked j || s.chunkLost t j || s.chunkReady t spire j)

/-- The engines of the Spires. -/
def State.autoEngine (s : State) : Option State :=
  act s.nextRequest.isSome (fun _ => execHomeAccessStep s) <|>
  (s.slotRequests.findSome? s.autoRequest) <|>
  ((distinct (·.1) s.messages).findSome? s.autoMessage) <|>
  (s.slots.findSome? s.autoPark) <|>
  (s.streams.findSome? fun x =>
    if (s.fetchList (x.1 / 8) x.2).isEmpty then none else moved s (·.streams) (execDauFetch (x.1 / 8) (x.1 % 8) s)) <|>
  (s.copies.findSome? fun x =>
    if x.2.busy && s.dieRuns (x.1 / 8) then (s.nextChunk x.2 (x.1 / 8)).bind fun j => nextOf (execCopyChunkLands (x.1 / 8) (x.1 % 8) j s) else none)

/-- The tasks of a group. -/
def State.autoTasks (s : State) (gid : Nat) (g : Group) : Option State :=
  if g.tasks.all fun t => !t.state.live then none
  else
    moved s (·.groups) (execFuseeTakeRecord gid s) <|>
    (g.tasks.findSome? fun t =>
      if !t.state.live then none
      else
        moved s (·.groups) (execTaskStart gid t.num.toNat s) <|>
        moved s (·.groups) (execKStepFoldDone gid t.num.toNat s) <|>
        moved s (·.groups) (execTaskDone gid t.num.toNat s))

/-- A group's own events. -/
def State.autoGroup (s : State) (gid : Nat) (g : Group) : Option State :=
  s.autoTasks gid g <|>
  act (g.state == .forming) (fun _ => execGroupLsImageCopied gid s) <|>
  act (s.drained gid g) (fun _ => execGroupDrainDone gid s) <|>
  act (s.parkReady gid g) (fun _ => execGroupParked gid s) <|>
  (if g.state == .parked then (s.resumeQuad g).bind fun q => moved s (·.groups) (execGroupResume gid q s) else none)

/-- A queue or a transition of a context. -/
def State.autoCtx (s : State) (c : Nat) (x : Ctx) : Option State :=
  (x.queues.findSome? fun q => if q.2.state == .running && q.2.count != 0 then moved s (·.ctxs) (execQueueTake c q.1 s) else none) <|>
  act (s.doorbells c && x.parked.isEmpty && (s.nextPlacement c).isSome) (fun _ => execGroupPlacement c s) <|>
  act (x.state == .forming) (fun _ => execContextConstructionDone c s) <|>
  act (x.state == .growing) (fun _ => execGrowQuadsJoined c s) <|>
  (if x.state == .draining then moved s (·.ctxs) (execDrainingZeroingDone c s) else none) <|>
  (if x.state == .shrinking then moved s (fun t => (t.ctxs, t.blocked)) (execShrinkSequenceDone c s) else none)

/-- A management command that is next in its order. -/
def State.autoCmd (s : State) (n : Nat) (c : Cmd) : Option State :=
  if c.refused then (if s.inOrder n c then some (s.endRefused n) else none)
  else match c.opc with
  | 0x01 => moved s (·.cmds) (execCreate n s)
  | 0x02 => moved s (·.cmds) (execGrow n s)
  | 0x03 => moved s (·.cmds) (execShrink n s)
  | 0x04 => moved s (·.cmds) (execDestroy n s)
  | 0x05 => moved s (·.cmds) (execReset n s)
  | 0x06 => moved s (·.cmds) (execLimit n s)
  | 0x07 => moved s (·.cmds) (execShare n s)
  | 0x08 => moved s (·.cmds) (execUnshare n s)
  | 0x09 => moved s (·.cmds) (execLinkTrain n s) <|> moved s (·.cmds) (execLinkDown n s) <|> moved s (·.cmds) (execLinkRetrain n s)
  | 0x0A => moved s (·.cmds) (execPark n s)
  | 0x0B => moved s (·.cmds) (execUnpark n s)
  | 0x0C => moved s (·.cmds) (execAttest n s)
  | _ => none

/-- What the device does next by itself. -/
def State.auto (s : State) : Option State :=
  (s.harts.findSome? fun h => s.autoHart h.1 h.2) <|>
  ((distinct (fun h : Nat × Hart => spireOf h.1) s.harts).findSome? fun n => act (s.canSeat n) fun _ => execSeatGrant n s) <|>
  s.autoEngine <|>
  (s.groups.findSome? fun g => s.autoGroup g.1 g.2) <|>
  (s.kernels.findSome? fun k => if k.2.state == .draining then moved s (·.kernels) (execKernelDone k.1 s) else none) <|>
  (s.ctxs.findSome? fun x => s.autoCtx x.1 x.2) <|>
  (s.cmds.findSome? fun c => s.autoCmd c.1 c.2) <|>
  moved s (fun t => (t.mqRp, t.mqHalt)) (execMqRecordTake s) <|>
  act (s.limiting && 10 ≤ s.belowFor) (fun _ => execPowerLimitRelease s) <|>
  (match s.pipeWork.find? fun w => s.dieRuns w.spire with
    | some w => nextOf (execPipeGrant w.spire w.pipe s)
    | none => none)

/-- The harts that may issue, in frame order. -/
def State.ready (s : State) : List Nat :=
  (s.harts.filter fun h => h.2.live && s.mayIssue h.1 && s.dieRuns (spireOf h.1)).map (·.1)

/-- The hart after the current one, round robin. -/
def State.nextHart (s : State) : Option Nat :=
  match s.ready.find? fun k => s.cur < k with
  | some k => some k
  | none => s.ready.head?

/-- What the next step does: an event, an instruction of a hart, or a move of the device to a state. -/
inductive Choice where
  | event (i : Instr) (s : State)
  | hart (k : Nat) (s : State)
  | device (s : State)
  | stop

/-- One clock passes; every 700 of them, a microsecond, the buckets are refilled (R99). -/
def State.clocked (s : State) : State :=
  let t := after s (execClock s)
  if t.status == .ready && t.dclk.toNat % 700 == 0 then after t (execBucketRefill t) else t

/-- The step of hart k: none without a hart, on a stopped die (R14), or while its partner holds issue (R128, R131); the trap of an
asynchronous cause that is due (R178, R342); else its next instruction, with issue. -/
def State.hartStep (s : State) (k : Nat) : Choice :=
  match s.hart k with
  | none => .device s
  | some h =>
    if !s.dieRuns (spireOf k) || !s.mayIssue k then .device s
    else if !h.async.isEmpty && h.atBoundary && !s.earlyCause k h then .device (after s (execAsyncTrapEntry k s))
    else .hart k (s.takeIssue k)

/-- The next step: the schedule's head; else a clock that is due; else a move of the device and an instruction of a hart by turns; else
a clock (log 4). -/
def State.choose (s : State) : Choice :=
  match s.agenda with
  | .ev i :: t => .event i { s with agenda := t }
  | .host k bs :: t => .device (State.hostStore { s with agenda := t } k bs)
  | .hart k :: t => State.hartStep { s with agenda := t, clockDue := true } k
  | [] =>
    if s.status == .fault then .stop
    else if s.clockDue then .device { s.clocked with clockDue := false, hartTurn := false }
    else
      let device : Option Choice := s.auto.map fun t => .device { t with hartTurn := true }
      let hart : Option Choice := s.nextHart.map (State.hartStep { s with clockDue := true })
      ((if s.hartTurn then hart <|> device else device <|> hart)).getD (.device s.clocked)

end Sys2Proof.Machine
end

