-- ==== Sys2Proof/Machine/Control.lean ====
section
/-! DEFINITION. Branches, jumps, hardware loops and branches on masks (R146 to R150). -/

namespace Sys2Proof.Machine

open Host (Outcome)

/-- The address off syllables from the pc (R74, R146). -/
def Arch.target {n : Nat} (a : Arch) (off : BitVec n) : Word := a.pc + off.signExtend 64 <<< 2

/-- A conditional branch (R146, R147). -/
def State.branch {n : Nat} (s : State) (i : Instr) (off : BitVec n) (taken : State → Hart → Bool) : State :=
  s.run i fun s h => if taken s h then .jump s h (h.arch.target off) else .done s h

/-- A compare of two scalar registers. -/
def branchOn (a b : Reg) (f : Word → Word → Bool) (_ : State) (h : Hart) : Bool := f (h.reg a) (h.reg b)

/-- `beq` (R146). -/
def execBeq (a b : Reg) (off : BitVec 12) (s : State) : Outcome State Fault Refusal :=
  .next (s.branch (.beq a b off) off (branchOn a b fun x y => x == y))

/-- `bne` (R146). -/
def execBne (a b : Reg) (off : BitVec 12) (s : State) : Outcome State Fault Refusal :=
  .next (s.branch (.bne a b off) off (branchOn a b fun x y => x != y))

/-- `blt`, signed (R146). -/
def execBlt (a b : Reg) (off : BitVec 12) (s : State) : Outcome State Fault Refusal :=
  .next (s.branch (.blt a b off) off (branchOn a b fun x y => x.slt y))

/-- `bge`, signed (R146). -/
def execBge (a b : Reg) (off : BitVec 12) (s : State) : Outcome State Fault Refusal :=
  .next (s.branch (.bge a b off) off (branchOn a b fun x y => !x.slt y))

/-- `bltu`, unsigned (R146). -/
def execBltu (a b : Reg) (off : BitVec 12) (s : State) : Outcome State Fault Refusal :=
  .next (s.branch (.bltu a b off) off (branchOn a b fun x y => x.ult y))

/-- `bgeu`, unsigned (R146). -/
def execBgeu (a b : Reg) (off : BitVec 12) (s : State) : Outcome State Fault Refusal :=
  .next (s.branch (.bgeu a b off) off (branchOn a b fun x y => !x.ult y))

/-- `jal`: s1 := pc + 4 and a jump (R146). -/
def execJal (off : BitVec 24) (s : State) : Outcome State Fault Refusal :=
  .next (s.run (.jal off) fun s h => .jump s (h.setReg 1 (h.arch.pc + 4)) (h.arch.target off))

/-- `jalr`: the target is formed before s[sd] is written (R146). -/
def execJalr (d a : Reg) (imm : BitVec 12) (s : State) : Outcome State Fault Refusal :=
  .next (s.run (.jalr d a imm) fun s h =>
    .jump s (h.setReg d (h.arch.pc + 4)) ((h.reg a + imm.signExtend 64) &&& ~~~3))

/-- Arms loop n with count c and end e syllables ahead, or skips its body (R148). -/
def State.arm (s : State) (i : Instr) (n : Bool) (c : Hart → Nat) (e : Nat) : State :=
  s.run i fun s h =>
    let a := h.arch
    let stop := a.pc + BitVec.ofNat 64 (4 * e)
    if c h = 0 then .jump s h stop
    else .done s (h.mapArch fun a =>
      { a.setLoop n ⟨BitVec.ofNat 32 (c h), a.pc + 4, stop, true, a.armed⟩ with armed := a.armed + 1 })

/-- `loop`: a count above 2^32 − 1 counts as 2^32 − 1 (R148). -/
def execLoop (n : Bool) (a : Reg) (e : BitVec 16) (s : State) : Outcome State Fault Refusal :=
  .next (s.arm (.loop n a e) n (fun h => min (h.reg a).toNat (2 ^ 32 - 1)) e.toNat)

/-- `loopi` (R148). -/
def execLoopi (n : Bool) (count : BitVec 11) (e : BitVec 12) (s : State) : Outcome State Fault Refusal :=
  .next (s.arm (.loopi n count e) n (fun _ => count.toNat) e.toNat)

/-- Some bit below vl of mask m is 1 (R147). -/
def anyBelow (s : State) (h : Hart) (m : BitVec 4) : Bool :=
  h.arch.mask (s.regBytes h) m.toNat % 2 ^ h.arch.vl.toNat != 0

/-- `bany` (R147). -/
def execBany (m : BitVec 4) (off : BitVec 18) (s : State) : Outcome State Fault Refusal :=
  .next (s.branch (.bany m off) off fun s h => anyBelow s h m)

/-- `bnone` (R147). -/
def execBnone (m : BitVec 4) (off : BitVec 18) (s : State) : Outcome State Fault Refusal :=
  .next (s.branch (.bnone m off) off fun s h => !anyBelow s h m)

end Sys2Proof.Machine
end

