-- ==== Sys2Proof/Machine/Float.lean ====
section
/-! DEFINITION. Scalar floating point (R151, R152). -/

namespace Sys2Proof.Machine

open Host (Outcome)

/-- The float tag of the width bit W (R151). -/
def floatTag (w : Bool) : Tag := if w then .f64 else .f32

/-- A register's value as a float of width W; bits above a binary32 are ignored (R151). -/
def floatOf (w : Bool) (x : Word) : Num := floatValue (floatTag w) (x.toNat % 2 ^ (floatTag w).bits)

/-- The register word of a float of width W, rounded by mode m (R35, R151). -/
def floatWord (w : Bool) (m : Rnd) (x : Num) : Fl Word :=
  (encodeNum (floatTag w) m false 0 x).map fun c => BitVec.ofNat 64 c

/-- A computed word with its flags goes to s[d] (R35, R64). -/
def Arch.setFloat (a : Arch) (d : Reg) (r : Fl Word) : Arch := (a.setReg d r.val).addFlags r.flags

/-- A float to an integer of 64 bits: the nearest limit and NV outside the range, 0 and NV for a NaN (R152). -/
def floatToInt (t : Tag) (m : Rnd) (x : Num) : Fl Word :=
  match x with
  | .nan _ => ⟨0, .nv⟩
  | .inf s => ⟨BitVec.ofInt 64 (if s then intMin t else intMax t), .nv⟩
  | .fin s n d =>
    let r := roundQuot m s n d
    let z : Int := if s then -(r.1 : Int) else r.1
    if z < intMin t then ⟨BitVec.ofInt 64 (intMin t), .nv⟩
    else if intMax t < z then ⟨BitVec.ofInt 64 (intMax t), .nv⟩
    else ⟨BitVec.ofInt 64 z, .when r.2 .nx⟩

/-- A binary scalar float operation of width W under mode m (R151). -/
def State.fpu (s : State) (i : Instr) (d a b : Reg) (w : Bool) (m : Rnd) (f : Num → Num → Fl Num) : State :=
  s.compute i fun r => r.setFloat d ((f (floatOf w (r.reg a)) (floatOf w (r.reg b))).bind (floatWord w m))

/-- A scalar float compare (R151). -/
def State.fcmp (s : State) (i : Instr) (d a b : Reg) (w : Bool) (rel : Nat) : State :=
  s.compute i fun r => r.setFloat d ((relNum rel (floatOf w (r.reg a)) (floatOf w (r.reg b))).map flagWord)

/-- `fadd`: the sum, rounded (Table 11.4). -/
def execFadd (d a b : Reg) (rnd : BitVec 2) (w : Bool) (s : State) : Outcome State Fault Refusal :=
  .next (s.fpu (.fadd d a b rnd w) d a b w (.ofField rnd) fun x y => addNum (.ofField rnd) x y)

/-- `fsub`: the difference, rounded (Table 11.4). -/
def execFsub (d a b : Reg) (rnd : BitVec 2) (w : Bool) (s : State) : Outcome State Fault Refusal :=
  .next (s.fpu (.fsub d a b rnd w) d a b w (.ofField rnd) fun x y => addNum (.ofField rnd) x y.neg)

/-- `fmul`: the product, rounded (Table 11.4). -/
def execFmul (d a b : Reg) (rnd : BitVec 2) (w : Bool) (s : State) : Outcome State Fault Refusal :=
  .next (s.fpu (.fmul d a b rnd w) d a b w (.ofField rnd) fun x y => mulNum x y)

/-- `fdiv`: the quotient; DZ and NV as Table 11.4, rounded (Table 11.4). -/
def execFdiv (d a b : Reg) (rnd : BitVec 2) (w : Bool) (s : State) : Outcome State Fault Refusal :=
  .next (s.fpu (.fdiv d a b rnd w) d a b w (.ofField rnd) fun x y => divNum x y)

/-- `fsqrt`: the square root, rounded (Table 11.4). -/
def execFsqrt (d a : Reg) (rnd : BitVec 2) (w : Bool) (s : State) : Outcome State Fault Refusal :=
  .next (s.fpu (.fsqrt d a rnd w) d a a w (.ofField rnd) fun x _ => sqrtNum x)

/-- `fmac`: s[sa] × s[sb] + s[sd], formed exactly and rounded once (Table 11.4). -/
def execFmac (d a b : Reg) (rnd : BitVec 2) (w : Bool) (s : State) : Outcome State Fault Refusal :=
  .next (s.compute (.fmac d a b rnd w) fun r =>
    r.setFloat d ((fmaNum (.ofField rnd) (floatOf w (r.reg a)) (floatOf w (r.reg b)) (floatOf w (r.reg d))).bind
      (floatWord w (.ofField rnd))))

/-- `fmin` (Table 11.4). -/
def execFmin (d a b : Reg) (w : Bool) (s : State) : Outcome State Fault Refusal :=
  .next (s.fpu (.fmin d a b w) d a b w .rne fun x y => pickNum false x y)

/-- `fmax` (Table 11.4). -/
def execFmax (d a b : Reg) (w : Bool) (s : State) : Outcome State Fault Refusal :=
  .next (s.fpu (.fmax d a b w) d a b w .rne fun x y => pickNum true x y)

/-- `feq` (Table 11.4). -/
def execFeq (d a b : Reg) (w : Bool) (s : State) : Outcome State Fault Refusal := .next (s.fcmp (.feq d a b w) d a b w 0)

/-- `flt` (Table 11.4). -/
def execFlt (d a b : Reg) (w : Bool) (s : State) : Outcome State Fault Refusal := .next (s.fcmp (.flt d a b w) d a b w 2)

/-- `fle` (Table 11.4). -/
def execFle (d a b : Reg) (w : Bool) (s : State) : Outcome State Fault Refusal := .next (s.fcmp (.fle d a b w) d a b w 3)

/-- `ftoi`: to i64 (R152). -/
def execFtoi (d a : Reg) (rnd : BitVec 2) (w : Bool) (s : State) : Outcome State Fault Refusal :=
  .next (s.compute (.ftoi d a rnd w) fun r => r.setFloat d (floatToInt .i64 (.ofField rnd) (floatOf w (r.reg a))))

/-- `ftou`: to u64 (R152). -/
def execFtou (d a : Reg) (rnd : BitVec 2) (w : Bool) (s : State) : Outcome State Fault Refusal :=
  .next (s.compute (.ftou d a rnd w) fun r => r.setFloat d (floatToInt .u64 (.ofField rnd) (floatOf w (r.reg a))))

/-- `itof`: from i64 (R152). -/
def execItof (d a : Reg) (rnd : BitVec 2) (w : Bool) (s : State) : Outcome State Fault Refusal :=
  .next (s.compute (.itof d a rnd w) fun r => r.setFloat d (floatWord w (.ofField rnd) (.ofInt (r.reg a).toInt)))

/-- `utof`: from u64 (R152). -/
def execUtof (d a : Reg) (rnd : BitVec 2) (w : Bool) (s : State) : Outcome State Fault Refusal :=
  .next (s.compute (.utof d a rnd w) fun r => r.setFloat d (floatWord w (.ofField rnd) (.ofNat (r.reg a).toNat)))

/-- `fnarrow`: binary64 to binary32 (R152). -/
def execFnarrow (d a : Reg) (rnd : BitVec 2) (s : State) : Outcome State Fault Refusal :=
  .next (s.compute (.fnarrow d a rnd) fun r => r.setFloat d (floatWord false (.ofField rnd) (floatOf true (r.reg a))))

/-- `fwiden`: binary32 to binary64 (R152). -/
def execFwiden (d a : Reg) (rnd : BitVec 2) (s : State) : Outcome State Fault Refusal :=
  .next (s.compute (.fwiden d a rnd) fun r => r.setFloat d (floatWord true (.ofField rnd) (floatOf false (r.reg a))))

end Sys2Proof.Machine
end

