-- ==== Sys2Proof/Machine/Mask.lean ====
section
/-! DEFINITION. The mask instructions (R167, R168). -/

namespace Sys2Proof.Machine

open Host (Outcome)

/-- The active elements of a mask instruction: i < vl with the governing bit set. -/
def Arch.maskActive (a : Arch) (f : VK) : Nat := a.active f.mask a.vl.toNat

/-- Source mask n below vl. -/
def Arch.maskBelow (a : Arch) (n : BitVec 4) : Nat := a.active n a.vl.toNat

/-- first(ma): the lowest active i with ma[i] = 1, or vl. -/
def Arch.firstOf (a : Arch) (f : VK) : Nat := (lowBit (a.maskActive f &&& a.maskBelow f.ma) a.vl.toNat).getD a.vl.toNat

/-- md takes val in its active bits (Table 12.1). -/
def Arch.maskOp (a : Arch) (f : VK) (val : Nat) : Arch := a.mergeMask f.md (a.maskActive f) val

/-- `mpre` (Table 12.1). -/
def execMpre (f : VK) (s : State) : Outcome State Fault Refusal :=
  .next (s.compute (.mpre f) fun a =>
    (a.maskOp f (2 ^ a.firstOf f - 1)).setReg f.ss (BitVec.ofNat 64 (a.firstOf f)))

/-- `mthru` (Table 12.1). -/
def execMthru (f : VK) (s : State) : Outcome State Fault Refusal :=
  .next (s.compute (.mthru f) fun a =>
    (a.maskOp f (2 ^ (a.firstOf f + 1) - 1)).setReg f.ss (BitVec.ofNat 64 (a.firstOf f)))

/-- `mlatch` (Table 12.1). -/
def execMlatch (f : VK) (s : State) : Outcome State Fault Refusal :=
  .next (s.compute (.mlatch f) fun a =>
    a.maskOp f (if a.maskActive f &&& a.maskBelow f.ma = 0 then a.maskBelow f.mb else 0))

/-- `mand` (Table 12.1). -/
def execMand (f : VK) (s : State) : Outcome State Fault Refusal :=
  .next (s.compute (.mand f) fun a => a.maskOp f (a.maskBelow f.ma &&& a.maskBelow f.mb))

/-- `mor` (Table 12.1). -/
def execMor (f : VK) (s : State) : Outcome State Fault Refusal :=
  .next (s.compute (.mor f) fun a => a.maskOp f (a.maskBelow f.ma ||| a.maskBelow f.mb))

/-- `mxor` (Table 12.1). -/
def execMxor (f : VK) (s : State) : Outcome State Fault Refusal :=
  .next (s.compute (.mxor f) fun a => a.maskOp f (a.maskBelow f.ma ^^^ a.maskBelow f.mb))

/-- `mandn` (Table 12.1). -/
def execMandn (f : VK) (s : State) : Outcome State Fault Refusal :=
  .next (s.compute (.mandn f) fun a =>
    let x := a.maskBelow f.ma
    a.maskOp f (x ^^^ (x &&& a.maskBelow f.mb)))

/-- Mask m moved by k places below vl; vacated bits take fill (Table 12.1). -/
def slideMask (m vl : Nat) (k : Int) (fill : Bool) : Nat :=
  bitsOf ((List.range vl).map fun (i : Nat) =>
    let j := (i : Int) - k
    if 0 ≤ j && j < vl then bitOf m j.toNat else fill)

/-- `mslide` (Table 12.1). -/
def execMslide (f : VK) (s : State) : Outcome State Fault Refusal :=
  .next (s.compute (.mslide f) fun a =>
    a.maskOp f (slideMask (a.maskBelow f.ma) a.vl.toNat (a.reg f.ss).toInt (f.var.getLsbD 0)))

/-- `mcnt` (Table 12.1). -/
def execMcnt (f : VK) (s : State) : Outcome State Fault Refusal :=
  .next (s.compute (.mcnt f) fun a =>
    a.setReg f.ss (BitVec.ofNat 64 ((List.range a.vl.toNat).filter (bitOf (a.maskActive f &&& a.maskBelow f.ma))).length))

/-- `mfirst` (Table 12.1). -/
def execMfirst (f : VK) (s : State) : Outcome State Fault Refusal :=
  .next (s.compute (.mfirst f) fun a =>
    a.setReg f.ss (if a.firstOf f < a.vl.toNat then BitVec.ofNat 64 (a.firstOf f) else BitVec.allOnes 64))

/-- The mask form of ftm (Table 3.8). -/
def Arch.trimMask (a : Arch) : Nat :=
  let first := a.ftm.toNat % 2 ^ 31
  if a.ftm.getLsbD 31 then (2 ^ (a.ftmVl - first) - 1) * 2 ^ first else 0

/-- `mftm`: every bit below register-bytes (Table 12.1). -/
def execMftm (f : VK) (s : State) : Outcome State Fault Refusal :=
  .next (s.vector (.mftm f) fun a rb => .ok (a.setMask f.md.toNat (a.trimMask % 2 ^ rb)))

end Sys2Proof.Machine
end

