-- ==== Sys2Proof/Machine/VectorPerm.lean ====
section
/-! DEFINITION. Slides, compress, expand, gather, extract and insert (R203 to R205). -/

namespace Sys2Proof.Machine

open Host (Outcome)

/-- All elements below n, as a number. -/
def allBelow (n : Nat) : Nat := 2 ^ n - 1

/-- What fills the vacated elements of a slide (R203): B(j) where it exists and the field asks for vb, 0, or the edge. -/
def fillOf (f : VA) (b : List Num) (n : Nat) (j : Int) (edge : Num) : Num :=
  if f.var21 = 0 then (if 0 ≤ j && j < n then b.getD j.toNat .zero else .zero)
  else if f.var21 = 1 then .zero
  else edge

/-- The slides: taken and filled values are encoded to Td (R203); a reserved code of an element that is not active reads +0 (R62, log
63). pick gives element i of the n results. -/
def Arch.slideOp (a : Arch) (rb : Nat) (f : VA) (pick : List Num → List Num → Nat → Nat → Nat → Num) : Except Cause Arch := do
  let ta := a.tagOf f.va.toNat
  let td := a.result f.tag f.vd
  let uses := f.var21 == 0
  let n := a.count rb (if uses then [ta, td, a.tagOf f.vb.toNat] else [ta, td])
  let act := a.active f.mask n
  let x := a.valuesFor f.va.toNat (allBelow n) act n false (modeOf f) f.sat
  let y := if uses then a.valuesFor f.vb.toNat (allBelow n) act n false (modeOf f) f.sat else ⟨[], 0, none⟩
  let fl ← a.judge [x, y]
  let k := min (a.reg f.ss).toNat n
  let r := onActive act (fun i : Nat => encodeNum td (modeOf f) f.sat 0 (pick x.xs y.xs n k i)) (List.range n)
  .ok (a.put f.vd.toNat td 0 fl r)

/-- `vslup` (R203). -/
def execVslup (f : VA) (s : State) : Outcome State Fault Refusal :=
  .next (s.vector (.vslup f) fun a rb => a.slideOp rb f fun x y n k i =>
    if k ≤ i then x.getD (i - k) .zero else fillOf f y n ((n : Int) - (a.reg f.ss).toNat + i) (x.getD 0 .zero))

/-- `vsldn` (R203). -/
def execVsldn (f : VA) (s : State) : Outcome State Fault Refusal :=
  .next (s.vector (.vsldn f) fun a rb => a.slideOp rb f fun x y n k i =>
    if i + k < n then x.getD (i + k) .zero else fillOf f y n ((i : Int) + (a.reg f.ss).toNat - n) (x.getD (n - 1) .zero))

/-- Active elements of a list, in order. -/
def packed {β : Type} (act : Nat) : List β → List β
  | [] => []
  | b :: t => if act % 2 = 1 then b :: packed (act / 2) t else packed (act / 2) t

/-- `vcmpr` (R204). -/
def Arch.compressOp (a : Arch) (rb : Nat) (f : VA) : Except Cause Arch := do
  let ta := a.tagOf f.va.toNat
  let td := a.result f.tag f.vd
  let n := a.count rb [ta, td]
  let act := a.active f.mask n
  let x := a.values f.va.toNat act n false (modeOf f) f.sat
  let fl ← a.judge [x]
  let l := packed act x.xs
  let r := onActive (allBelow l.length) (encodeNum td (modeOf f) f.sat 0) l
  .ok ((a.put f.vd.toNat td 0 fl r).setReg f.ss (BitVec.ofNat 64 l.length))

/-- `vcmpr` (R204). -/
def execVcmpr (f : VA) (s : State) : Outcome State Fault Refusal :=
  .next (s.vector (.vcmpr f) fun a rb => a.compressOp rb f)

/-- Elements of a list dealt to the active places, in order. -/
def dealt (act : Nat) : List Num → Nat → List Num
  | _, 0 => []
  | l, n + 1 => if act % 2 = 1 then l.headD .zero :: dealt (act / 2) l.tail n else .zero :: dealt (act / 2) l n

/-- `vxpnd` (R204): it reads the elements it places. -/
def Arch.expandOp (a : Arch) (rb : Nat) (f : VA) : Except Cause Arch := do
  let ta := a.tagOf f.va.toNat
  let td := a.result f.tag f.vd
  let n := a.count rb [ta, td]
  let act := a.active f.mask n
  let c := ((List.range n).filter (bitOf act)).length
  let x := a.valuesFor f.va.toNat (allBelow c) act n false (modeOf f) f.sat
  let fl ← a.judge [x]
  .ok (a.put f.vd.toNat td 0 fl (onActive act (encodeNum td (modeOf f) f.sat 0) (dealt act x.xs n)))

/-- `vxpnd` (R204). -/
def execVxpnd (f : VA) (s : State) : Outcome State Fault Refusal :=
  .next (s.vector (.vxpnd f) fun a rb => a.expandOp rb f)

/-- Elements below n that some listed index names, as a number. -/
def named (n : Nat) (l : List Int) : Nat :=
  l.foldl (fun m (x : Int) => if 0 ≤ x && x < n then m ||| 2 ^ x.toNat else m) 0

/-- `vgath` (R205). -/
def Arch.gatherOp (a : Arch) (rb : Nat) (f : VA) : Except Cause Arch := do
  let ta := a.tagOf f.va.toNat
  let tb := a.tagOf f.vb.toNat
  let td := a.result f.tag f.vd
  let n := a.count rb [ta, tb, td]
  let act := a.active f.mask n
  let y := a.values f.vb.toNat act n false (modeOf f) f.sat
  let idx := y.xs.map Num.floor
  let x := a.valuesFor f.va.toNat (if tb.isInt then named n (packed act idx) else 0) act n false (modeOf f) f.sat
  let fl ← a.judge [x, y]
  require tb.isInt
  let r := onActive act (fun z : Int =>
    encodeNum td (modeOf f) f.sat 0 (if 0 ≤ z && z < n then x.xs.getD z.toNat .zero else .zero)) idx
  .ok (a.put f.vd.toNat td 0 fl r)

/-- `vgath` (R205). -/
def execVgath (f : VA) (s : State) : Outcome State Fault Refusal :=
  .next (s.vector (.vgath f) fun a rb => a.gatherOp rb f)

/-- `vxtr`: the stored bits of one element, extended by its tag (R205). -/
def Arch.extractOp (a : Arch) (rb : Nat) (f : VA) : Arch :=
  let t := a.tagOf f.va.toNat
  let k := (a.reg f.vc).toNat
  if rb / t.bytes ≤ k then a.setReg f.ss 0
  else
    let c := a.code f.va.toNat k
    a.setReg f.ss (if t.isInt then BitVec.ofInt 64 (intValue t c) else BitVec.ofNat 64 c)

/-- `vxtr` (R205). -/
def execVxtr (f : VA) (s : State) : Outcome State Fault Refusal :=
  .next (s.vector (.vxtr f) fun a rb => .ok (a.extractOp rb f))

/-- `vins`: one element under Td; vd keeps its DOM where Td can carry it (R205, Table 13.1). -/
def Arch.insertOp (a : Arch) (rb : Nat) (f : VA) : Arch :=
  let td := a.result f.tag f.vd
  let k := (a.reg f.vc).toNat
  if rb / td.bytes ≤ k then a
  else
    let c := (a.reg f.ss).toNat % 2 ^ td.bits
    a.setCodes f.vd.toNat td (if td.carries then a.domOf f.vd.toNat else 0) (List.replicate k none ++ [some c])

/-- `vins` (R205). -/
def execVins (f : VA) (s : State) : Outcome State Fault Refusal :=
  .next (s.vector (.vins f) fun a rb => .ok (a.insertOp rb f))

end Sys2Proof.Machine
end

