-- ==== Sys2Proof/Machine/VectorReduce.lean ====
section
/-! DEFINITION. Reductions and scans, the running argmax, the generator, online softmax, sampling and top-k lists (R206 to
R216). -/

namespace Sys2Proof.Machine

open Host (Outcome)

/-- One level of the pairwise tree of R67: an absent child leaves the other unchanged. -/
def joinPairs {α : Type} (op : α → α → Fl α) : List (Option α) → Fl (List (Option α))
  | x :: y :: t =>
    let r := joinPairs op t
    match x, y with
    | some a, some b => let c := op a b; ⟨some c.val :: r.val, c.flags ||| r.flags⟩
    | some a, none => ⟨some a :: r.val, r.flags⟩
    | none, b => ⟨b :: r.val, r.flags⟩
  | l => .pure l

/-- k levels of the tree. -/
def joinLevels {α : Type} (op : α → α → Fl α) : Nat → List (Option α) → Fl (List (Option α))
  | 0, l => .pure l
  | k + 1, l => (joinPairs op l).bind (joinLevels op k)

/-- The root of the pairwise tree over leaves (R67). -/
def treeOf {α : Type} (op : α → α → Fl α) (l : List (Option α)) : Fl (Option α) :=
  (joinLevels op (Nat.log2 l.length + 1) l).map fun r => (r.headD none)

/-- The leaves that are present. -/
def leaves {α : Type} (act : Nat) : List α → List (Option α)
  | [] => []
  | x :: t => (if act % 2 = 1 then some x else none) :: leaves (act / 2) t

/-- The start of a reduction or scan: B(0), or the scalar, read whatever vl and the mask are (R206, log 42). Its reserved code counts
only where element 0 of vb, or some element for the scalar, is active (R62, R191). -/
def Arch.startValue (a : Arch) (f : VA) (act n : Nat) (m : Rnd) (sat : Bool) : Vals :=
  if f.scalar then
    { scalarVals (a.tagOf f.va.toNat) (a.reg f.ss) 1 1 with rsv := (scalarVals (a.tagOf f.va.toNat) (a.reg f.ss) act n).rsv }
  else a.valuesFor f.vb.toNat 1 (act % 2) (max n 1) false m sat

/-- The code of B(0), as the start of a bitwise reduction (R206). -/
def Arch.startCode (a : Arch) (f : VA) (act n : Nat) : Fl (List Nat) × Option Nat :=
  if f.scalar then a.codesB f 1 1 .rne false else a.codesFor f.vb.toNat 1 (act % 2) (max n 1) .rne false

/-- The numeric reductions and scans by op of P: the reads, P and Td. -/
structure FoldOf where
  n : Nat
  act : Nat
  p : Tag
  td : Tag
  xs : List Num
  s0 : Num
  flags : Flags

/-- What a numeric reduction or scan reads (R206, R207); scan: Td limits n. -/
def Arch.foldReads (a : Arch) (rb : Nat) (f : VA) (scan : Bool) : Except Cause FoldOf := do
  let ta := a.tagOf f.va.toNat
  let td := a.result f.tag f.vd
  let n := a.count rb (if scan then [ta, td] else [ta])
  let act := a.active f.mask n
  let x := a.values f.va.toNat act n false (modeOf f) f.sat
  let z := a.startValue f act n (modeOf f) f.sat
  let fl ← a.judge [x, z]
  .ok ⟨n, act, promote ta (a.tagB f), td, x.xs, z.xs.headD .zero, fl⟩

/-- + reduced in P (R206). -/
def plusIn (p : Tag) (m : Rnd) (sat : Bool) (x y : Num) : Fl Num := (addNum m x y).bind (reduceTo p m sat)

/-- The operator of a numeric reduction, rounded to P: 0 sum, 1 maximum, 2 minimum (R67, R206, R207). -/
def foldOp (k : Nat) (p : Tag) (m : Rnd) (sat : Bool) (x y : Num) : Fl Num :=
  if k = 0 then plusIn p m sat x y else (pickNum (k == 1) x y).bind (reduceTo p m sat)

/-- A numeric reduction (R206); with no active element it sets no flag (R191). -/
def Arch.reduceOp (a : Arch) (rb : Nat) (f : VA) (k : Nat) : Except Cause Arch := do
  let r ← a.foldReads rb f false
  let op := foldOp k r.p (modeOf f) f.sat
  let root := treeOf op (leaves r.act r.xs)
  let res := root.bind fun x => match x with
    | some x => op r.s0 x
    | none => .pure r.s0
  let c := res.bind (encodeNum r.td (modeOf f) f.sat 0)
  .ok (a.put f.vd.toNat r.td 0 r.flags ⟨[some c.val], if r.act = 0 then 0 else c.flags⟩)

/-- `vrsum` (R206). -/
def execVrsum (f : VA) (s : State) : Outcome State Fault Refusal :=
  .next (s.vector (.vrsum f) fun a rb => a.reduceOp rb f 0)

/-- `vrmax` (R206). -/
def execVrmax (f : VA) (s : State) : Outcome State Fault Refusal :=
  .next (s.vector (.vrmax f) fun a rb => a.reduceOp rb f 1)

/-- `vrmin` (R206). -/
def execVrmin (f : VA) (s : State) : Outcome State Fault Refusal :=
  .next (s.vector (.vrmin f) fun a rb => a.reduceOp rb f 2)

/-- A bitwise reduction of codes (R206). -/
def Arch.reduceBits (a : Arch) (rb : Nat) (f : VA) (op : Nat → Nat → Nat) : Except Cause Arch := do
  let ta := a.tagOf f.va.toNat
  let tb := a.tagB f
  let td := a.result f.tag f.vd
  let n := a.count rb [ta]
  let act := a.active f.mask n
  let x := a.plainCodes f.va.toNat act n .rne false
  let z := a.startCode f act n
  let fl ← a.judge [codeRead x, codeRead z]
  require (bothInt ta tb && td.isInt && ta.bits = tb.bits && ta.bits = td.bits)
  let s0 := z.1.val.headD 0
  let root := treeOf (fun x y => Fl.pure (op x y)) (leaves act x.1.val)
  let res := match root.val with
    | some x => op s0 x
    | none => s0
  .ok (a.put f.vd.toNat td 0 fl (.pure [some res]))

/-- `vrand` (R206). -/
def execVrand (f : VA) (s : State) : Outcome State Fault Refusal :=
  .next (s.vector (.vrand f) fun a rb => a.reduceBits rb f fun x y => x &&& y)

/-- `vrior` (R206). -/
def execVrior (f : VA) (s : State) : Outcome State Fault Refusal :=
  .next (s.vector (.vrior f) fun a rb => a.reduceBits rb f fun x y => x ||| y)

/-- `vrxor` (R206). -/
def execVrxor (f : VA) (s : State) : Outcome State Fault Refusal :=
  .next (s.vector (.vrxor f) fun a rb => a.reduceBits rb f fun x y => x ^^^ y)

/-- An inclusive scan: each active element takes the running value, encoded to Td (R68, R207). -/
def scanFrom (op : Num → Num → Fl Num) (enc : Num → Fl Nat) (run : Num) (act : Nat) : List Num → Fl (List (Option Nat))
  | [] => .pure []
  | x :: t =>
    if act % 2 = 1 then
      let y := op run x
      let c := enc y.val
      let r := scanFrom op enc y.val (act / 2) t
      ⟨some c.val :: r.val, y.flags ||| c.flags ||| r.flags⟩
    else
      let r := scanFrom op enc run (act / 2) t
      ⟨none :: r.val, r.flags⟩

/-- `vscan` (R207). -/
def Arch.scanOp (a : Arch) (rb : Nat) (f : VA) : Except Cause Arch := do
  let r ← a.foldReads rb f true
  let op := foldOp f.var21.toNat r.p (modeOf f) f.sat
  .ok (a.put f.vd.toNat r.td 0 r.flags (scanFrom op (encodeNum r.td (modeOf f) f.sat 0) r.s0 r.act r.xs))

/-- `vscan` (R207). -/
def execVscan (f : VA) (s : State) : Outcome State Fault Refusal :=
  .next (s.vector (.vscan f) fun a rb => a.scanOp rb f)

/-- The running argmax: best value and its index so far; each active element takes the index, or -1 (R208). -/
def argmaxFrom (td : Tag) (base : Int) (best : Option (Num × Nat)) (act i : Nat) : List Num → List (Option Nat)
  | [] => []
  | x :: t =>
    if act % 2 = 1 then
      let better := !x.isNan && (match best with | some b => zeroLt b.1 x | none => true)
      let best := if better then some (x, i) else best
      some (intCode td (match best with | some b => base + b.2 | none => -1)) :: argmaxFrom td base best (act / 2) (i + 1) t
    else none :: argmaxFrom td base best (act / 2) (i + 1) t

/-- `vscmx` (R208); an active signalling NaN sets NV, as the ordering of R193 gives. -/
def Arch.argmaxOp (a : Arch) (rb : Nat) (f : VA) : Except Cause Arch := do
  let ta := a.tagOf f.va.toNat
  let td := a.result f.tag f.vd
  let n := a.count rb [ta, td]
  let act := a.active f.mask n
  let x := a.values f.va.toNat act n false .rne false
  let fl ← a.judge [x]
  require td.isInt
  let base : Int := if f.scalar then (a.reg f.ss).toNat else 0
  let nv := Flags.when ((packed act x.xs).any Num.isSnan) .nv
  .ok (a.put f.vd.toNat td 0 (fl ||| nv) (.pure (argmaxFrom td base none act 0 x.xs)))

/-- `vscmx` (R208). -/
def execVscmx (f : VA) (s : State) : Outcome State Fault Refusal :=
  .next (s.vector (.vscmx f) fun a rb => a.argmaxOp rb f)

/-- One random element of `vrng` from the bits x (R210). -/
def randomCode (f : VA) (td : Tag) (x : Word) : Fl Nat :=
  let h := x.toNat / 2 ^ 40
  if f.var21 = 0 then .pure (x.toNat % 2 ^ td.bits)
  else encodeNum td (modeOf f) f.sat 0 (if f.var21 = 1 then .fin false h (2 ^ 24) else .fin false (2 * h + 1) (2 ^ 25))

/-- `vrng` (R210). -/
def Arch.randomOp (a : Arch) (rb : Nat) (f : VA) : Except Cause Arch := do
  let td := a.result f.tag f.vd
  let n := a.count rb [td]
  require (td.isInt == (f.var21 == 0))
  let r := onActive (a.active f.mask n) (fun i : Nat =>
    randomCode f td (mix (a.reg f.vc) (a.reg f.ss + BitVec.ofNat 64 i))) (List.range n)
  .ok (a.put f.vd.toNat td 0 0 r)

/-- `vrng` (R210). -/
def execVrng (f : VA) (s : State) : Outcome State Fault Refusal :=
  .next (s.vector (.vrng f) fun a rb => a.randomOp rb f)

/-- Tags that X(i) of R211 accepts. -/
def softTag (t : Tag) : Bool := t.isTapered || t == .f16 || t == .bf16 || t == .f32

/-- Flags of a fold over elements come only from active ones, so without one none is set (R191). -/
def Fl.ofActive {α β : Type} (l : List α) (x : Fl β) : Fl β := ⟨x.val, if l.isEmpty then 0 else x.flags⟩

/-- The running maximum and rescaled sum of R211 after one strip of values. -/
def softAcc (act : Nat) (xs : List Num) (m0 s0 : Num) : Fl (Num × Num) :=
  let l := packed act xs
  if l.any Num.isNan then ⟨(.qnan, .qnan), .when (l.any Num.isSnan) .nv⟩
  else Fl.ofActive l <|
    (treeOf (fun x y => pickNum true x y) (leaves act xs)).bind fun tm =>
    (match tm with | some t => pickNum true m0 t | none => Fl.pure m0).bind fun m1 =>
    (Fl.list (fun x => match x with
      | some x => ((diffF x m1).bind expF).map some
      | none => Fl.pure none) (leaves act xs)).bind fun es =>
    (treeOf (fun x y => (addNum .rne x y).bind (roundNE .f32)) es).bind fun ts =>
    ((diffF m0 m1).bind expF).bind fun e0 =>
    ((mulNum s0 e0).bind (roundNE .f32)).bind fun p =>
    ((addNum .rne p (ts.getD .zero)).bind (roundNE .f32)).map fun s1 => (m1, s1)

/-- A value as a binary32 code. -/
def f32Code (x : Num) : Nat := floatCode .f32 x

/-- Element 0 of a register as an operand of a softmax, under the instruction's rnd and sat (R190). -/
def Arch.first (a : Arch) (r act n : Nat) (m : Rnd) (sat : Bool) : Vals := a.valuesFor r 1 (act % 2) (max n 1) false m sat

/-- `vsmx.acc` (R211). -/
def Arch.softAccOp (a : Arch) (rb : Nat) (f : VA) : Except Cause Arch := do
  let ta := a.tagOf f.va.toNat
  let vd := f.vd.toNat
  let n := a.count rb [ta]
  let act := a.active f.mask n
  let x := a.values f.va.toNat act n false .rne false
  let start := f.var.getLsbD 1
  let old (r : Nat) (v : Num) : Vals := if start then ⟨[v], 0, none⟩ else a.first r act n .rne false
  let m := old vd (.inf true)
  let z := old (vd + 1) .zero
  let fl ← a.judge [x, m, z]
  require (softTag ta && (start || (a.tagOf vd = .f32 && a.tagOf (vd + 1) = .f32)))
  let m0 := m.xs.headD .zero
  let s0 := z.xs.headD .zero
  let r := softAcc act x.xs m0 s0
  let a := a.put vd .f32 0 fl (.pure [some (f32Code r.val.1)])
  .ok (a.put (vd + 1) .f32 0 r.flags (.pure [some (f32Code r.val.2)]))

/-- `vsmx.acc` (R211). -/
def execVsmxAcc (f : VA) (s : State) : Outcome State Fault Refusal :=
  .next (s.vector (.vsmxAcc f) fun a rb => a.softAccOp rb f)

/-- `vsmx.fin` (R212). -/
def Arch.softFinOp (a : Arch) (rb : Nat) (f : VA) : Except Cause Arch := do
  let ta := a.tagOf f.va.toNat
  let td := a.result f.tag f.vd
  let vb := f.vb.toNat
  let n := a.count rb [ta, td]
  let act := a.active f.mask n
  let x := a.values f.va.toNat act n false (modeOf f) f.sat
  let mv := a.first vb act n (modeOf f) f.sat
  let zv := a.first (vb + 1) act n (modeOf f) f.sat
  let fl ← a.judge [x, mv, zv]
  require (softTag ta && a.tagOf vb = .f32 && a.tagOf (vb + 1) = .f32)
  let m := mv.xs.headD .zero
  let z := zv.xs.headD .zero
  let r := onActive act (fun x : Num =>
    ((diffF x m).bind expF).bind fun e => (divNum e z).bind (encodeNum td (modeOf f) f.sat 0)) x.xs
  .ok (a.put f.vd.toNat td 0 fl r)

/-- `vsmx.fin` (R212). -/
def execVsmxFin (f : VA) (s : State) : Outcome State Fault Refusal :=
  .next (s.vector (.vsmxFin f) fun a rb => a.softFinOp rb f)

/-- The noise g of R213 for key and counter; its rounding sets no flag. -/
def gumbel (key ctr : Word) : Num :=
  let b := (mix key ctr).toNat / 2 ^ 40
  let ln (x : Num) : Num := (roundNE .f32 (lnNum .f32 x).val).val
  (ln (ln (.fin false (2 * b + 1) (2 ^ 25))).neg).neg

/-- The perturbed values of active elements, with their indices (R213). -/
def perturbed (g : Nat → Num) (act i : Nat) : List Num → Fl (List (Num × Nat))
  | [] => .pure []
  | x :: t =>
    let r := perturbed g (act / 2) (i + 1) t
    if act % 2 = 1 && !x.isNan then
      let p := (addNum .rne x (g i)).bind (roundNE .f32)
      ⟨(p.val, i) :: r.val, p.flags ||| r.flags⟩
    else r

/-- The largest value, the lowest index among equal ones. -/
def largest (l : List (Num × Nat)) : Option (Num × Nat) :=
  l.foldl (fun b p => match b with
    | some q => if q.1.lt p.1 then some p else b
    | none => some p) none

/-- `vsamp` (R213). -/
def Arch.sampleOp (a : Arch) (rb : Nat) (f : VA) : Except Cause Arch := do
  let ta := a.tagOf f.va.toNat
  let vd := f.vd.toNat
  let n := a.count rb [ta]
  let act := a.active f.mask n
  let x := a.values f.va.toNat act n false .rne false
  let start := f.var.getLsbD 1
  let fl ← a.judge [x]
  require (softTag ta && (start || a.tagOf vd = .u32))
  let word (k : Nat) : Num := floatValue .f32 (a.code vd k)
  let m0 := if start then Num.inf true else word 0
  let s0 := if start then Num.zero else word 1
  let g0 := if start then Num.inf true else word 2
  let i0 := if start then 0xFFFFFFFF else a.code vd 3
  let r := softAcc act x.xs m0 s0
  let noise (i : Nat) : Num :=
    if f.var.getLsbD 2 then .zero else gumbel (a.reg f.vc) (a.reg f.ss + BitVec.ofNat 64 i)
  let ps := perturbed noise act 0 x.xs
  let best := match largest ps.val with
    | some p => if g0.lt p.1 then (p.1, ((a.reg f.ss).toNat + p.2) % 2 ^ 32) else (g0, i0)
    | none => (g0, i0)
  .ok (a.put vd .u32 0 (fl ||| ps.flags) ⟨[some (f32Code r.val.1), some (f32Code r.val.2), some (f32Code best.1),
    some best.2], r.flags⟩)

/-- `vsamp` (R213). -/
def execVsamp (f : VA) (s : State) : Outcome State Fault Refusal :=
  .next (s.vector (.vsamp f) fun a rb => a.sampleOp rb f)

/-- An entry of a top-k list: value, index, code (R214). -/
structure Ranked where
  val : Num
  idx : Nat
  code : Nat
  deriving DecidableEq, Repr

/-- x ranks above y, or equal (R214). -/
def Ranked.above (x y : Ranked) : Bool := y.val.lt x.val || (y.val.eq x.val && x.idx ≤ y.idx)

/-- Inserts an entry below all that rank above it or equal. -/
def rankInto (x : Ranked) : List Ranked → List Ranked
  | [] => [x]
  | y :: t => if y.above x then y :: rankInto x t else x :: y :: t

/-- The sentinel (Table 13.4). -/
def sentinel (t : Tag) : Ranked :=
  let c := if t.isInt then intCode t (intMin t)
    else if t.isFloat then floatCode t (.inf true)
    else 2 ^ tapBits t - 1
  ⟨(decodeNum t 0 c).getD .zero, 0xFFFFFFFF, c⟩

/-- The code an entry keeps: a reserved tapered code counts as the +0 it decodes to. -/
def entryCode (t : Tag) (c : Nat) : Nat := if (decodeNum t 0 c).isSome then c else 0

/-- The k entries of the list at registers r and r + 1 (R214); NaN values never stand in a list. Entries that rep does not name, which
are masked off or at or above vl, report nothing (R62). -/
def Arch.listAt (a : Arch) (r k rep : Nat) : List Ranked × Vals :=
  let t := a.tagOf r
  let v := a.valuesFor r (allBelow k) rep k false .rne false
  let c := a.codesFor r (allBelow k) rep k .rne false
  let i := a.codesFor (r + 1) (allBelow k) rep k .rne false
  let l := (v.xs.zip (i.1.val.zip c.1.val)).map fun p => (⟨p.1, p.2.1, entryCode t p.2.2⟩ : Ranked)
  (l.filter (!·.val.isNan), { v with flags := v.flags ||| .when ((packed rep v.xs).any Num.isSnan) .nv })

/-- The k highest entries, padded with sentinels, written to vd and vd + 1 (R215, R216). -/
def Arch.putList (a : Arch) (vd k : Nat) (t : Tag) (f : Flags) (l : List Ranked) : Arch :=
  let top := (l.foldl (fun acc x => rankInto x acc) []).take k
  let top := top ++ List.replicate (k - top.length) (sentinel t)
  let a := a.put vd t 0 f (.pure (top.map fun x => some x.code))
  a.put (vd + 1) .u32 0 0 (.pure (top.map fun x => some x.idx))

/-- `vtopk.ins` (R215). -/
def Arch.topInsertOp (a : Arch) (rb : Nat) (f : VA) : Except Cause Arch := do
  let ta := a.tagOf f.va.toNat
  let vd := f.vd.toNat
  let k := f.vc.toNat + 1
  let n := a.count rb [ta]
  let act := a.active f.mask n
  let start := f.var.getLsbD 1
  let x := a.values f.va.toNat act n false .rne false
  let c := a.plainCodes f.va.toNat act n .rne false
  let matching := a.tagOf vd = ta && a.tagOf (vd + 1) = .u32
  let old := if start || !matching then ([], ⟨[], 0, none⟩) else a.listAt vd k act
  let fl ← a.judge [x, old.2]
  require (k ≤ rb / ta.bytes && k ≤ rb / 4 && (start || matching))
  let fresh := (packed act ((List.range n).zip (x.xs.zip c.1.val))).filterMap fun p =>
    if p.2.1.isNan then none
    else some (⟨p.2.1, ((a.reg f.ss).toNat + p.1) % 2 ^ 32, entryCode ta p.2.2⟩ : Ranked)
  let nv := Flags.when ((packed act x.xs).any Num.isSnan) .nv
  .ok (a.putList vd k ta (fl ||| nv) (old.1 ++ fresh))

/-- `vtopk.ins` (R215). -/
def execVtopkIns (f : VA) (s : State) : Outcome State Fault Refusal :=
  .next (s.vector (.vtopkIns f) fun a rb => a.topInsertOp rb f)

/-- `vtopk.mrg` (R216). -/
def Arch.topMergeOp (a : Arch) (rb : Nat) (f : VA) : Except Cause Arch := do
  let ta := a.tagOf f.va.toNat
  let k := f.vc.toNat + 1
  let rep := allBelow (min k a.vl.toNat)
  let x := a.listAt f.va.toNat k rep
  let y := a.listAt f.vb.toNat k rep
  let fl ← a.judge [x.2, y.2]
  require (a.tagOf f.vb.toNat = ta && a.tagOf (f.va.toNat + 1) = .u32 && a.tagOf (f.vb.toNat + 1) = .u32 &&
    k ≤ rb / ta.bytes && k ≤ rb / 4)
  .ok (a.putList f.vd.toNat k ta fl (x.1 ++ y.1.filter fun e => !x.1.any fun d => d.idx == e.idx))

/-- `vtopk.mrg` (R216). -/
def execVtopkMrg (f : VA) (s : State) : Outcome State Fault Refusal :=
  .next (s.vector (.vtopkMrg f) fun a rb => a.topMergeOp rb f)

end Sys2Proof.Machine
end

