-- ==== Sys2Proof/Machine/Dispatch.lean ====
section
/-! DEFINITION. One arm per constructor of Instr: its meaning. -/

namespace Sys2Proof.Machine

open Sys2Proof

/-- The effect of one instruction of the current hart, or of one event. -/
def exec (i : Instr) (s : State) : Host.Outcome State Fault Refusal :=
  match i with
  | .add d a b => Sys2Proof.Machine.execAdd d a b s
  | .sub d a b => Sys2Proof.Machine.execSub d a b s
  | .mul d a b => Sys2Proof.Machine.execMul d a b s
  | .mulh d a b => Sys2Proof.Machine.execMulh d a b s
  | .mulhu d a b => Sys2Proof.Machine.execMulhu d a b s
  | .div d a b => Sys2Proof.Machine.execDiv d a b s
  | .divu d a b => Sys2Proof.Machine.execDivu d a b s
  | .rem d a b => Sys2Proof.Machine.execRem d a b s
  | .remu d a b => Sys2Proof.Machine.execRemu d a b s
  | .and d a b => Sys2Proof.Machine.execAnd d a b s
  | .or d a b => Sys2Proof.Machine.execOr d a b s
  | .xor d a b => Sys2Proof.Machine.execXor d a b s
  | .andn d a b => Sys2Proof.Machine.execAndn d a b s
  | .sll d a b => Sys2Proof.Machine.execSll d a b s
  | .srl d a b => Sys2Proof.Machine.execSrl d a b s
  | .sra d a b => Sys2Proof.Machine.execSra d a b s
  | .slt d a b => Sys2Proof.Machine.execSlt d a b s
  | .sltu d a b => Sys2Proof.Machine.execSltu d a b s
  | .min d a b => Sys2Proof.Machine.execMin d a b s
  | .max d a b => Sys2Proof.Machine.execMax d a b s
  | .minu d a b => Sys2Proof.Machine.execMinu d a b s
  | .maxu d a b => Sys2Proof.Machine.execMaxu d a b s
  | .clz d a => Sys2Proof.Machine.execClz d a s
  | .ctz d a => Sys2Proof.Machine.execCtz d a s
  | .cnt d a => Sys2Proof.Machine.execCnt d a s
  | .sextB d a => Sys2Proof.Machine.execSextB d a s
  | .sextH d a => Sys2Proof.Machine.execSextH d a s
  | .sextW d a => Sys2Proof.Machine.execSextW d a s
  | .zextB d a => Sys2Proof.Machine.execZextB d a s
  | .zextH d a => Sys2Proof.Machine.execZextH d a s
  | .zextW d a => Sys2Proof.Machine.execZextW d a s
  | .addi d a imm => Sys2Proof.Machine.execAddi d a imm s
  | .andi d a imm => Sys2Proof.Machine.execAndi d a imm s
  | .ori d a imm => Sys2Proof.Machine.execOri d a imm s
  | .xori d a imm => Sys2Proof.Machine.execXori d a imm s
  | .slli d a n => Sys2Proof.Machine.execSlli d a n s
  | .srli d a n => Sys2Proof.Machine.execSrli d a n s
  | .srai d a n => Sys2Proof.Machine.execSrai d a n s
  | .slti d a imm => Sys2Proof.Machine.execSlti d a imm s
  | .sltiu d a imm => Sys2Proof.Machine.execSltiu d a imm s
  | .bfx d a lo wm1 => Sys2Proof.Machine.execBfx d a lo wm1 s
  | .lui d imm => Sys2Proof.Machine.execLui d imm s
  | .aupc d imm => Sys2Proof.Machine.execAupc d imm s
  | .fadd d a b rnd w => Sys2Proof.Machine.execFadd d a b rnd w s
  | .fsub d a b rnd w => Sys2Proof.Machine.execFsub d a b rnd w s
  | .fmul d a b rnd w => Sys2Proof.Machine.execFmul d a b rnd w s
  | .fdiv d a b rnd w => Sys2Proof.Machine.execFdiv d a b rnd w s
  | .fsqrt d a rnd w => Sys2Proof.Machine.execFsqrt d a rnd w s
  | .fmin d a b w => Sys2Proof.Machine.execFmin d a b w s
  | .fmax d a b w => Sys2Proof.Machine.execFmax d a b w s
  | .feq d a b w => Sys2Proof.Machine.execFeq d a b w s
  | .flt d a b w => Sys2Proof.Machine.execFlt d a b w s
  | .fle d a b w => Sys2Proof.Machine.execFle d a b w s
  | .ftoi d a rnd w => Sys2Proof.Machine.execFtoi d a rnd w s
  | .ftou d a rnd w => Sys2Proof.Machine.execFtou d a rnd w s
  | .itof d a rnd w => Sys2Proof.Machine.execItof d a rnd w s
  | .utof d a rnd w => Sys2Proof.Machine.execUtof d a rnd w s
  | .fnarrow d a rnd => Sys2Proof.Machine.execFnarrow d a rnd s
  | .fwiden d a rnd => Sys2Proof.Machine.execFwiden d a rnd s
  | .fmac d a b rnd w => Sys2Proof.Machine.execFmac d a b rnd w s
  | .beq a b off => Sys2Proof.Machine.execBeq a b off s
  | .bne a b off => Sys2Proof.Machine.execBne a b off s
  | .blt a b off => Sys2Proof.Machine.execBlt a b off s
  | .bge a b off => Sys2Proof.Machine.execBge a b off s
  | .bltu a b off => Sys2Proof.Machine.execBltu a b off s
  | .bgeu a b off => Sys2Proof.Machine.execBgeu a b off s
  | .jal off => Sys2Proof.Machine.execJal off s
  | .jalr d a imm => Sys2Proof.Machine.execJalr d a imm s
  | .loop n a e => Sys2Proof.Machine.execLoop n a e s
  | .loopi n count e => Sys2Proof.Machine.execLoopi n count e s
  | .bany m off => Sys2Proof.Machine.execBany m off s
  | .bnone m off => Sys2Proof.Machine.execBnone m off s
  | .ldb d a cls sp disp => Sys2Proof.Machine.execLdb d a cls sp disp s
  | .ldbu d a cls sp disp => Sys2Proof.Machine.execLdbu d a cls sp disp s
  | .ldh d a cls sp disp => Sys2Proof.Machine.execLdh d a cls sp disp s
  | .ldhu d a cls sp disp => Sys2Proof.Machine.execLdhu d a cls sp disp s
  | .ldw d a cls sp disp => Sys2Proof.Machine.execLdw d a cls sp disp s
  | .ldwu d a cls sp disp => Sys2Proof.Machine.execLdwu d a cls sp disp s
  | .ldd d a cls sp disp => Sys2Proof.Machine.execLdd d a cls sp disp s
  | .stb d a cls sp disp => Sys2Proof.Machine.execStb d a cls sp disp s
  | .sth d a cls sp disp => Sys2Proof.Machine.execSth d a cls sp disp s
  | .stw d a cls sp disp => Sys2Proof.Machine.execStw d a cls sp disp s
  | .std d a cls sp disp => Sys2Proof.Machine.execStd d a cls sp disp s
  | .aadd d a b ord cls => Sys2Proof.Machine.execAadd d a b ord cls s
  | .aswp d a b ord cls => Sys2Proof.Machine.execAswp d a b ord cls s
  | .acas d a b ord cls => Sys2Proof.Machine.execAcas d a b ord cls s
  | .amax d a b ord cls => Sys2Proof.Machine.execAmax d a b ord cls s
  | .amin d a b ord cls => Sys2Proof.Machine.execAmin d a b ord cls s
  | .aaddBel d a b ord cls => Sys2Proof.Machine.execAaddBel d a b ord cls s
  | .aswpBel d a b ord cls => Sys2Proof.Machine.execAswpBel d a b ord cls s
  | .acasBel d a b ord cls => Sys2Proof.Machine.execAcasBel d a b ord cls s
  | .amaxBel d a b ord cls => Sys2Proof.Machine.execAmaxBel d a b ord cls s
  | .aminBel d a b ord cls => Sys2Proof.Machine.execAminBel d a b ord cls s
  | .getc d bank idx => Sys2Proof.Machine.execGetc d bank idx s
  | .setc a bank idx => Sys2Proof.Machine.execSetc a bank idx s
  | .trap n => Sys2Proof.Machine.execTrap n s
  | .eret after => Sys2Proof.Machine.execEret after s
  | .halt => Sys2Proof.Machine.execHalt s
  | .ebrk n => Sys2Proof.Machine.execEbrk n s
  | .qrd d q => Sys2Proof.Machine.execQrd d q s
  | .pmig d a => Sys2Proof.Machine.execPmig d a s
  | .pinv a all => Sys2Proof.Machine.execPinv a all s
  | .pcnt d a clr => Sys2Proof.Machine.execPcnt d a clr s
  | .pfence => Sys2Proof.Machine.execPfence s
  | .launch d a q => Sys2Proof.Machine.execLaunch d a q s
  | .barInit a b => Sys2Proof.Machine.execBarInit a b s
  | .barArr d ord b => Sys2Proof.Machine.execBarArr d ord b s
  | .barWt a ord b => Sys2Proof.Machine.execBarWt a ord b s
  | .barAw d ord b => Sys2Proof.Machine.execBarAw d ord b s
  | .barDrop b => Sys2Proof.Machine.execBarDrop b s
  | .barRd d b => Sys2Proof.Machine.execBarRd d b s
  | .tokrd d t => Sys2Proof.Machine.execTokrd d t s
  | .tokwr a t => Sys2Proof.Machine.execTokwr a t s
  | .convoy n slots => Sys2Proof.Machine.execConvoy n slots s
  | .vshape n o => Sys2Proof.Machine.execVshape n o s
  | .vtype vd tag dom o => Sys2Proof.Machine.execVtype vd tag dom o s
  | .vstrip d a b lq ew o => Sys2Proof.Machine.execVstrip d a b lq ew o s
  | .vacq d nb o => Sys2Proof.Machine.execVacq d nb o s
  | .seatGrant spire => Sys2Proof.Machine.execSeatGrant spire s
  | .vrel o => Sys2Proof.Machine.execVrel o s
  | .mfmt n a o => Sys2Proof.Machine.execMfmt n a o s
  | .vpopq m o => Sys2Proof.Machine.execVpopq m o s
  | .vexit m b off o => Sys2Proof.Machine.execVexit m b off o s
  | .exitResolution h => Sys2Proof.Machine.execExitResolution h s
  | .heldEntryDrain h => Sys2Proof.Machine.execHeldEntryDrain h s
  | .mpre f => Sys2Proof.Machine.execMpre f s
  | .mthru f => Sys2Proof.Machine.execMthru f s
  | .mlatch f => Sys2Proof.Machine.execMlatch f s
  | .mand f => Sys2Proof.Machine.execMand f s
  | .mor f => Sys2Proof.Machine.execMor f s
  | .mxor f => Sys2Proof.Machine.execMxor f s
  | .mandn f => Sys2Proof.Machine.execMandn f s
  | .mslide f => Sys2Proof.Machine.execMslide f s
  | .mcnt f => Sys2Proof.Machine.execMcnt f s
  | .mfirst f => Sys2Proof.Machine.execMfirst f s
  | .mftm f => Sys2Proof.Machine.execMftm f s
  | .vadd f => Sys2Proof.Machine.execVadd f s
  | .vsub f => Sys2Proof.Machine.execVsub f s
  | .vmin f => Sys2Proof.Machine.execVmin f s
  | .vmax f => Sys2Proof.Machine.execVmax f s
  | .vand f => Sys2Proof.Machine.execVand f s
  | .vor f => Sys2Proof.Machine.execVor f s
  | .vxor f => Sys2Proof.Machine.execVxor f s
  | .vandn f => Sys2Proof.Machine.execVandn f s
  | .vsll f => Sys2Proof.Machine.execVsll f s
  | .vsrl f => Sys2Proof.Machine.execVsrl f s
  | .vsra f => Sys2Proof.Machine.execVsra f s
  | .vrshr f => Sys2Proof.Machine.execVrshr f s
  | .vnsat f => Sys2Proof.Machine.execVnsat f s
  | .vadc f => Sys2Proof.Machine.execVadc f s
  | .vsbc f => Sys2Proof.Machine.execVsbc f s
  | .vabs f => Sys2Proof.Machine.execVabs f s
  | .vmul f => Sys2Proof.Machine.execVmul f s
  | .vmulh f => Sys2Proof.Machine.execVmulh f s
  | .vfma f => Sys2Proof.Machine.execVfma f s
  | .vfms f => Sys2Proof.Machine.execVfms f s
  | .vdot2 f => Sys2Proof.Machine.execVdot2 f s
  | .vdiv f => Sys2Proof.Machine.execVdiv f s
  | .vsqrt f => Sys2Proof.Machine.execVsqrt f s
  | .vcvt f => Sys2Proof.Machine.execVcvt f s
  | .vceq f => Sys2Proof.Machine.execVceq f s
  | .vcne f => Sys2Proof.Machine.execVcne f s
  | .vclt f => Sys2Proof.Machine.execVclt f s
  | .vcle f => Sys2Proof.Machine.execVcle f s
  | .vsel f => Sys2Proof.Machine.execVsel f s
  | .vmov f => Sys2Proof.Machine.execVmov f s
  | .vid f => Sys2Proof.Machine.execVid f s
  | .vneg f => Sys2Proof.Machine.execVneg f s
  | .vslup f => Sys2Proof.Machine.execVslup f s
  | .vsldn f => Sys2Proof.Machine.execVsldn f s
  | .vcmpr f => Sys2Proof.Machine.execVcmpr f s
  | .vxpnd f => Sys2Proof.Machine.execVxpnd f s
  | .vgath f => Sys2Proof.Machine.execVgath f s
  | .vxtr f => Sys2Proof.Machine.execVxtr f s
  | .vins f => Sys2Proof.Machine.execVins f s
  | .vrsum f => Sys2Proof.Machine.execVrsum f s
  | .vrmax f => Sys2Proof.Machine.execVrmax f s
  | .vrmin f => Sys2Proof.Machine.execVrmin f s
  | .vrand f => Sys2Proof.Machine.execVrand f s
  | .vrior f => Sys2Proof.Machine.execVrior f s
  | .vrxor f => Sys2Proof.Machine.execVrxor f s
  | .vscan f => Sys2Proof.Machine.execVscan f s
  | .vscmx f => Sys2Proof.Machine.execVscmx f s
  | .vrcp f => Sys2Proof.Machine.execVrcp f s
  | .vrsq f => Sys2Proof.Machine.execVrsq f s
  | .vexp f => Sys2Proof.Machine.execVexp f s
  | .vlog f => Sys2Proof.Machine.execVlog f s
  | .vtanh f => Sys2Proof.Machine.execVtanh f s
  | .vsig f => Sys2Proof.Machine.execVsig f s
  | .vsmxAcc f => Sys2Proof.Machine.execVsmxAcc f s
  | .vsmxFin f => Sys2Proof.Machine.execVsmxFin f s
  | .vsamp f => Sys2Proof.Machine.execVsamp f s
  | .vtopkIns f => Sys2Proof.Machine.execVtopkIns f s
  | .vtopkMrg f => Sys2Proof.Machine.execVtopkMrg f s
  | .vrng f => Sys2Proof.Machine.execVrng f s
  | .vcfq f => Sys2Proof.Machine.execVcfq f s
  | .vld f => Sys2Proof.Machine.execVld f s
  | .vldStream f => Sys2Proof.Machine.execVldStream f s
  | .vst f => Sys2Proof.Machine.execVst f s
  | .vlds f => Sys2Proof.Machine.execVlds f s
  | .vsts f => Sys2Proof.Machine.execVsts f s
  | .vldseg f => Sys2Proof.Machine.execVldseg f s
  | .vstseg f => Sys2Proof.Machine.execVstseg f s
  | .vldx f => Sys2Proof.Machine.execVldx f s
  | .vstx f => Sys2Proof.Machine.execVstx f s
  | .vldFf f => Sys2Proof.Machine.execVldFf f s
  | .vldSc f => Sys2Proof.Machine.execVldSc f s
  | .vstSc f => Sys2Proof.Machine.execVstSc f s
  | .scTicketGrant h => Sys2Proof.Machine.execScTicketGrant h s
  | .vldsr f => Sys2Proof.Machine.execVldsr f s
  | .loadDataArrives h => Sys2Proof.Machine.execLoadDataArrives h s
  | .homeAccessStep => Sys2Proof.Machine.execHomeAccessStep s
  | .stream n a l st o => Sys2Proof.Machine.execStream n a l st o s
  | .dauFetch spire n => Sys2Proof.Machine.execDauFetch spire n s
  | .qbind n kind idx o => Sys2Proof.Machine.execQbind n kind idx o s
  | .copy n d a b dst src scope o => Sys2Proof.Machine.execCopy n d a b dst src scope o s
  | .copyChunkLands spire tag chunk => Sys2Proof.Machine.execCopyChunkLands spire tag chunk s
  | .cptest d n w o => Sys2Proof.Machine.execCptest d n w o s
  | .cpwait n w m o => Sys2Proof.Machine.execCpwait n w m o s
  | .bop d a b op w ord v o => Sys2Proof.Machine.execBop d a b op w ord v o s
  | .stand d a b dep sp slot o => Sys2Proof.Machine.execStand d a b dep sp slot o s
  | .homeSubscribe spire slot => Sys2Proof.Machine.execHomeSubscribe spire slot s
  | .standReplyArrives spire slot => Sys2Proof.Machine.execStandReplyArrives spire slot s
  | .pushArrives spire slot => Sys2Proof.Machine.execPushArrives spire slot s
  | .unstand slot o => Sys2Proof.Machine.execUnstand slot o s
  | .homeUnsubscribe spire slot => Sys2Proof.Machine.execHomeUnsubscribe spire slot s
  | .subscriptionAckArrives spire slot => Sys2Proof.Machine.execSubscriptionAckArrives spire slot s
  | .homeParkSlot spire slot => Sys2Proof.Machine.execHomeParkSlot spire slot s
  | .fence cmask scope o => Sys2Proof.Machine.execFence cmask scope o s
  | .wait l st c t o => Sys2Proof.Machine.execWait l st c t o s
  | .task d a cm o => Sys2Proof.Machine.execTask d a cm o s
  | .fuseeTakeRecord g => Sys2Proof.Machine.execFuseeTakeRecord g s
  | .taskStart g n => Sys2Proof.Machine.execTaskStart g n s
  | .kStepFoldDone g n => Sys2Proof.Machine.execKStepFoldDone g n s
  | .taskDone g n => Sys2Proof.Machine.execTaskDone g n s
  | .twait t a o => Sys2Proof.Machine.execTwait t a o s
  | .tsig t o => Sys2Proof.Machine.execTsig t o s
  | .axt f => Sys2Proof.Machine.execAxt f s
  | .tresume d a o => Sys2Proof.Machine.execTresume d a o s
  | .tprog d a o => Sys2Proof.Machine.execTprog d a o s
  | .tflt d a w o => Sys2Proof.Machine.execTflt d a w o s
  | .tfltSet d a o => Sys2Proof.Machine.execTfltSet d a o s
  | .tabort d a o => Sys2Proof.Machine.execTabort d a o s
  | .asyncTrapEntry h => Sys2Proof.Machine.execAsyncTrapEntry h s
  | .mqwpWrite v => Sys2Proof.Machine.execMqwpWrite v s
  | .mqcfgWrite v => Sys2Proof.Machine.execMqcfgWrite v s
  | .mqRecordTake => Sys2Proof.Machine.execMqRecordTake s
  | .create k => Sys2Proof.Machine.execCreate k s
  | .contextConstructionDone c => Sys2Proof.Machine.execContextConstructionDone c s
  | .grow k => Sys2Proof.Machine.execGrow k s
  | .growQuadsJoined c => Sys2Proof.Machine.execGrowQuadsJoined c s
  | .shrink k => Sys2Proof.Machine.execShrink k s
  | .shrinkSequenceDone c => Sys2Proof.Machine.execShrinkSequenceDone c s
  | .destroy k => Sys2Proof.Machine.execDestroy k s
  | .reset k => Sys2Proof.Machine.execReset k s
  | .functionLevelReset c => Sys2Proof.Machine.execFunctionLevelReset c s
  | .drainingZeroingDone c => Sys2Proof.Machine.execDrainingZeroingDone c s
  | .limit k => Sys2Proof.Machine.execLimit k s
  | .bucketRefill => Sys2Proof.Machine.execBucketRefill s
  | .share k => Sys2Proof.Machine.execShare k s
  | .unshare k => Sys2Proof.Machine.execUnshare k s
  | .linkTrain k => Sys2Proof.Machine.execLinkTrain k s
  | .linkDown k => Sys2Proof.Machine.execLinkDown k s
  | .linkRetrain k => Sys2Proof.Machine.execLinkRetrain k s
  | .linkTrainingDone l lanes => Sys2Proof.Machine.execLinkTrainingDone l lanes s
  | .linkTrainingTimeout l => Sys2Proof.Machine.execLinkTrainingTimeout l s
  | .flitReplay l r => Sys2Proof.Machine.execFlitReplay l r s
  | .remoteResponse h => Sys2Proof.Machine.execRemoteResponse h s
  | .hostLinkStateChange st width => Sys2Proof.Machine.execHostLinkStateChange st width s
  | .hostWriteAck h => Sys2Proof.Machine.execHostWriteAck h s
  | .park k => Sys2Proof.Machine.execPark k s
  | .unpark k => Sys2Proof.Machine.execUnpark k s
  | .groupParked g => Sys2Proof.Machine.execGroupParked g s
  | .groupResume g quad => Sys2Proof.Machine.execGroupResume g quad s
  | .attest k => Sys2Proof.Machine.execAttest k s
  | .qwpWrite c q v => Sys2Proof.Machine.execQwpWrite c q v s
  | .qctlArm c q => Sys2Proof.Machine.execQctlArm c q s
  | .qctlStop c q => Sys2Proof.Machine.execQctlStop c q s
  | .qctlClear c q => Sys2Proof.Machine.execQctlClear c q s
  | .queueTake c q => Sys2Proof.Machine.execQueueTake c q s
  | .ktokWrite c t v => Sys2Proof.Machine.execKtokWrite c t v s
  | .groupPlacement c => Sys2Proof.Machine.execGroupPlacement c s
  | .groupLsImageCopied g => Sys2Proof.Machine.execGroupLsImageCopied g s
  | .groupDrainDone g => Sys2Proof.Machine.execGroupDrainDone g s
  | .kernelDone k => Sys2Proof.Machine.execKernelDone k s
  | .pipeGrant spire pipe => Sys2Proof.Machine.execPipeGrant spire pipe s
  | .ptbaseWrite c v => Sys2Proof.Machine.execPtbaseWrite c v s
  | .pmigCopyStart h => Sys2Proof.Machine.execPmigCopyStart h s
  | .pmigLeafInstall h => Sys2Proof.Machine.execPmigLeafInstall h s
  | .cstatRead c => Sys2Proof.Machine.execCstatRead c s
  | .nqstatRead c => Sys2Proof.Machine.execNqstatRead c s
  | .trstatRead c => Sys2Proof.Machine.execTrstatRead c s
  | .registerWrite vf off v => Sys2Proof.Machine.execRegisterWrite vf off v s
  | .dctlHalt c => Sys2Proof.Machine.execDctlHalt c s
  | .dctlResume c => Sys2Proof.Machine.execDctlResume c s
  | .dctlStep c => Sys2Proof.Machine.execDctlStep c s
  | .dctlCkpt c => Sys2Proof.Machine.execDctlCkpt c s
  | .debugStopReached h => Sys2Proof.Machine.execDebugStopReached h s
  | .ddataRead c => Sys2Proof.Machine.execDdataRead c s
  | .ddataWrite c v => Sys2Proof.Machine.execDdataWrite c v s
  | .drtgtWrite c v => Sys2Proof.Machine.execDrtgtWrite c v s
  | .replayTargetReached h => Sys2Proof.Machine.execReplayTargetReached h s
  | .powerMeasurement milliwatts => Sys2Proof.Machine.execPowerMeasurement milliwatts s
  | .powerLimitRelease => Sys2Proof.Machine.execPowerLimitRelease s
  | .thermalStop die => Sys2Proof.Machine.execThermalStop die s
  | .thermalRestart die => Sys2Proof.Machine.execThermalRestart die s
  | .thermalTrip die => Sys2Proof.Machine.execThermalTrip die s
  | .uncorrectableFault c unit fcode addr => Sys2Proof.Machine.execUncorrectableFault c unit fcode addr s
  | .deviceWideFault unit fcode addr => Sys2Proof.Machine.execDeviceWideFault unit fcode addr s
  | .correctedSoftError count => Sys2Proof.Machine.execCorrectedSoftError count s
  | .exceptionTableSpill shaft => Sys2Proof.Machine.execExceptionTableSpill shaft s
  | .crownStart r => Sys2Proof.Machine.execCrownStart r s
  | .recoveryStatusWrite v => Sys2Proof.Machine.execRecoveryStatusWrite v s
  | .recoveryImageVerified ok r => Sys2Proof.Machine.execRecoveryImageVerified ok r s
  | .illegalInstruction w => Sys2Proof.Machine.execIllegalInstruction w s
  | .fetchFault f => Sys2Proof.Machine.execFetchFault f s
  | .powerLoss => Sys2Proof.Machine.execPowerLoss s
  | .clock => Sys2Proof.Machine.execClock s

end Sys2Proof.Machine
end

