-- ==== Sys2Proof/Machine/Step.lean ====
section
/-! DEFINITION. One step of the module: the schedule's next event, a move of the device, or the next instruction of a hart. -/

namespace Sys2Proof.Machine

/-- One step. A hart's step executes the instruction at its pc; a fetch that finds none takes the trap for it. -/
def step (s : State) : Host.Outcome State Fault Refusal :=
  match s.choose with
  | .stop => .fault .moduleUnusable
  | .device s' => .next s'
  | .event i s' => exec i s'
  | .hart k s' =>
    match s'.hart k with
    | none => .next s'
    | some h => match s'.fetch k h with
      | .instr i => exec i { s'.fetched k h i.size with cur := k }
      | .illegal w => execIllegalInstruction w { s'.fetched k h (sizeOfClass w.toNat) with cur := k }
      | .fault f => execFetchFault f { s' with cur := k }
      | .held => .next (s'.waitFetch k h)

/-- The state with an instruction placed where the next step fetches it, and everything a hart needs to run it. -/
def State.withFetchWord (s : State) (nbits w : Nat) : State := s.place1 nbits w

end Sys2Proof.Machine
end

