-- ==== Sys2Proof/Safety.lean ====
section
/-! DEFINITION. The terms of the claims: what a safe state is, when an instruction issues and completes, what a trap leaves, and the
tables of spec/11 to spec/13 that claims compare the meanings with. -/

namespace Sys2Proof

open Machine

/-- Bytes of memory and granule tags are in canonical form. -/
def SafeMem (m : List Host.Cell) (g : Store Byte) : Prop := Memory.wf m = true ∧ Store.wf 0 g = true

/-- The module's memory and granule tags are in canonical form. -/
def Safe (s : State) : Prop := SafeMem s.mem s.gtag

/-- A step is safe when it does not stop and leaves a safe state. -/
def SafeStep (s : State) : Prop := ∃ t, step s = .next t ∧ Safe t

/-- Hart h is the current hart, and instruction i passes the checks that come before its own (R90). -/
def Issues (s : State) (h : Hart) (i : Instr) : Prop := s.hart s.cur = some h ∧ h.gate i = .go

/-- The program-visible state after instruction i, whose effect left a with pc still at i, falls through: the iteration tests of
R149 act at the next sequential pc, and HINST counts i. -/
def fallsThrough (i : Instr) (a : Arch) : Arch :=
  let b := a.retire (a.pc + BitVec.ofNat 64 i.size)
  { b with hinst := b.hinst + BitVec.ofNat 64 (retired i) }

/-- The program-visible state after instruction i, whose effect left a, jumps to t. -/
def jumpsTo (i : Instr) (a : Arch) (t : Word) : Arch :=
  let b := a.transfer t
  { b with hinst := b.hinst + BitVec.ofNat 64 (retired i) }

/-- State t is s after hart k, which the instruction's effect left as h, has completed it with program-visible state a. Nothing else
of the hart changes but what counts instructions and waits; no other hart changes; and unless a debugger records the hart, no
other field of the module changes but the work given to the pipes: no byte of memory, no granule tag, no group, no context. -/
def CompletedAs (k : Nat) (s : State) (h : Hart) (a : Arch) (t : State) : Prop :=
  (∃ u : Hart, t.hart k = some u ∧ u.exits.length = h.exits.length ∧
    u = { h with
      arch := a
      exits := u.exits, seq := h.seq + 1, pending := none, stalled := false, memStall := false, awaited := [], convoy := u.convoy
      hbeat := u.hbeat, dbg := u.dbg }) ∧
  (∀ j, j ≠ k → t.hart j = s.hart j) ∧
  (h.dbg.recording = false → t = { s with harts := t.harts, pipeWork := t.pipeWork })

/-- Element-beats of an instruction that is no vector instruction (R129): 1 for a scalar load, store or atomic, and for `stream`, `copy`,
`stand`, `unstand` and `bop`. -/
def scalarBeats : Instr → Nat
  | .ldb .. | .ldbu .. | .ldh .. | .ldhu .. | .ldw .. | .ldwu .. | .ldd .. | .stb .. | .sth .. | .stw .. | .std .. => 1
  | .aadd .. | .aswp .. | .acas .. | .amax .. | .amin .. | .aaddBel .. | .aswpBel .. | .acasBel .. | .amaxBel .. | .aminBel .. => 1
  | .stream .. | .copy .. | .stand .. | .unstand .. | .bop .. => 1
  | _ => 0

/-- HBEAT of hart k advances with instruction i from h to t, where i is no vector instruction (R129). -/
def ScalarCharged (i : Instr) (k : Nat) (h : Hart) (t : State) : Prop :=
  i.needsLanes = false → (t.hart k).map (·.hbeat) = some (h.hbeat + BitVec.ofNat 64 (scalarBeats i))

/-- Instruction i of the current hart completes and falls through; s and h are the module and the hart after its effect. -/
def Completes (i : Instr) (s : State) (h : Hart) (t : State) : Prop :=
  CompletedAs s.cur s h (fallsThrough i h.arch) t ∧ ScalarCharged i s.cur h t

/-- Instruction i of the current hart completes with a jump to address p. -/
def Jumps (i : Instr) (s : State) (h : Hart) (p : Word) (t : State) : Prop :=
  CompletedAs s.cur s h (jumpsTo i h.arch p) t ∧ ScalarCharged i s.cur h t

/-- A handler takes a trap of this hart (R338, R341): user level, and TVEC names a handler. -/
def Handled (s : State) (h : Hart) : Prop := h.arch.level = .user ∧ 4 ≤ (s.ctx (s.ctxOf h)).tvec.toNat

/-- The hart holds no open exit, no held store and no recorded fault: its next instruction is not speculative. -/
def PlainHart (h : Hart) : Prop := h.exits = [] ∧ h.held = [] ∧ h.faults = []

/-- b is a after the trap entry of R341 for cause c of hart k, whose context is x: the pseudocode of R341 with the fields of
Table 25.2, and nothing else. -/
def TrapRecord (a : Arch) (x : Ctx) (k : Nat) (c : Cause) (syl : Syl) (deferred : Bool) (tspc : Word) (b : Arch) : Prop :=
  b.tcause = BitVec.ofNat 32
    (c.code + 2 ^ 8 * c.fetch.toNat + 2 ^ 9 * c.write.toNat + 2 ^ 10 * deferred.toNat + 2 ^ 12 * c.sub) ∧
  b.pc.toNat = x.tvec.toNat / 4 * 4 ∧
  b = { a with
    tcause := b.tcause, tepc := a.pc, tspc := tspc, taddr := c.addr, tidx := BitVec.ofNat 32 c.idx, ttag := syl
    tsave := x.tsaveBase + 512 * BitVec.ofNat 64 k, level := .context, pc := b.pc }

/-- t is s after hart k, which is h there, has taken a trap (R341): its record is written, what was speculative is discarded, its
held stores and every other field of the module stay. -/
def TrapTaken (s : State) (k : Nat) (h : Hart) (c : Cause) (syl : Syl) (deferred : Bool) (tspc : Word) (t : State) : Prop :=
  ∃ u : Hart, t = s.setHart k u ∧ TrapRecord h.arch (s.ctx (s.ctxOf h)) k c syl deferred tspc u.arch ∧
    u = { h with
      arch := u.arch, exits := [], faults := [], pending := none, stalled := false, memStall := false, awaited := [], convoy := 0
      dbg := u.dbg }

/-- Instruction i of the current hart traps precisely with cause c: its own pc and first syllable are recorded. -/
def Traps (i : Instr) (s : State) (h : Hart) (c : Cause) : Prop :=
  ∃ t, exec i s = .next t ∧ TrapTaken s s.cur h c i.firstSyllable false h.arch.pc t

/-- A cause without element, address or kind (Table 25.3). -/
def plainCause (code idx : Nat) : Cause := ⟨code, 0, false, false, idx, 0⟩

/-- Signed and unsigned minimum and maximum, and 0 or 1. -/
def signedMin (x y : Word) : Word := BitVec.ofInt 64 (min x.toInt y.toInt)
def signedMax (x y : Word) : Word := BitVec.ofInt 64 (max x.toInt y.toInt)
def truth (p : Bool) : Word := BitVec.ofNat 64 p.toNat

/-- The register that an integer or address instruction writes and its value: Tables 11.1 and 11.2 with R142 and R144. Products are
formed in 128 bits, comparisons on the integers that registers hold; leading zeros are counted as the powers of two above the value,
trailing zeros as the powers of two that divide it. -/
def integerResult (a : Arch) : Instr → Option (Reg × Word)
  | .add d x y => some (d, BitVec.ofNat 64 ((a.reg x).toNat + (a.reg y).toNat))
  | .sub d x y => some (d, BitVec.ofInt 64 ((a.reg x).toNat - (a.reg y).toNat))
  | .mul d x y => some (d, BitVec.ofNat 64 ((a.reg x).toNat * (a.reg y).toNat))
  | .mulh d x y => some (d, ((a.reg x).signExtend 128 * (a.reg y).signExtend 128).extractLsb' 64 64)
  | .mulhu d x y => some (d, ((a.reg x).setWidth 128 * (a.reg y).setWidth 128).extractLsb' 64 64)
  | .div d x y => some (d, if a.reg y = 0 then BitVec.allOnes 64 else (a.reg x).sdiv (a.reg y))
  | .divu d x y => some (d, if a.reg y = 0 then BitVec.allOnes 64 else (a.reg x).udiv (a.reg y))
  | .rem d x y => some (d, (a.reg x).srem (a.reg y))
  | .remu d x y => some (d, (a.reg x).umod (a.reg y))
  | .and d x y => some (d, a.reg x &&& a.reg y)
  | .or d x y => some (d, a.reg x ||| a.reg y)
  | .xor d x y => some (d, a.reg x ^^^ a.reg y)
  | .andn d x y => some (d, a.reg x &&& ~~~a.reg y)
  | .sll d x y => some (d, a.reg x <<< (a.reg y).extractLsb' 0 6)
  | .srl d x y => some (d, a.reg x >>> (a.reg y).extractLsb' 0 6)
  | .sra d x y => some (d, (a.reg x).sshiftRight' ((a.reg y).extractLsb' 0 6))
  | .slt d x y => some (d, truth ((a.reg x).toInt < (a.reg y).toInt))
  | .sltu d x y => some (d, truth ((a.reg x).toNat < (a.reg y).toNat))
  | .min d x y => some (d, signedMin (a.reg x) (a.reg y))
  | .max d x y => some (d, signedMax (a.reg x) (a.reg y))
  | .minu d x y => some (d, BitVec.ofNat 64 (min (a.reg x).toNat (a.reg y).toNat))
  | .maxu d x y => some (d, BitVec.ofNat 64 (max (a.reg x).toNat (a.reg y).toNat))
  | .clz d x => some (d, BitVec.ofNat 64 ((List.range 64).countP fun n => (a.reg x).toNat < 2 ^ n))
  | .ctz d x => some (d, BitVec.ofNat 64 ((List.range 64).countP fun n => (a.reg x).toNat % 2 ^ (n + 1) = 0))
  | .cnt d x => some (d, BitVec.ofNat 64 ((List.range 64).countP fun n => (a.reg x).getLsbD n))
  | .sextB d x => some (d, ((a.reg x).extractLsb' 0 8).signExtend 64)
  | .sextH d x => some (d, ((a.reg x).extractLsb' 0 16).signExtend 64)
  | .sextW d x => some (d, ((a.reg x).extractLsb' 0 32).signExtend 64)
  | .zextB d x => some (d, a.reg x &&& 0xFF)
  | .zextH d x => some (d, a.reg x &&& 0xFFFF)
  | .zextW d x => some (d, a.reg x &&& 0xFFFFFFFF)
  | .addi d x n => some (d, BitVec.ofInt 64 ((a.reg x).toNat + n.toInt))
  | .andi d x n => some (d, a.reg x &&& n.signExtend 64)
  | .ori d x n => some (d, a.reg x ||| n.signExtend 64)
  | .xori d x n => some (d, a.reg x ^^^ n.signExtend 64)
  | .slli d x n => some (d, a.reg x <<< n)
  | .srli d x n => some (d, a.reg x >>> n)
  | .srai d x n => some (d, (a.reg x).sshiftRight' n)
  | .slti d x n => some (d, truth ((a.reg x).toInt < n.toInt))
  | .sltiu d x n => some (d, truth ((a.reg x).toNat < (n.signExtend 64).toNat))
  | .bfx d x lo wm1 => some (d, (a.reg x >>> lo) &&& (BitVec.ofNat 64 (2 ^ (wm1.toNat + 1) - 1)))
  | .lui d n => some (d, BitVec.ofInt 64 (n.toInt * 4096))
  | .aupc d n => some (d, BitVec.ofInt 64 (a.pc.toNat + n.toInt * 4096))
  | _ => none

/-- The code of a result that is computed exactly and then encoded in binary32 (w = false) or binary64 under mode m. -/
def rounded (w : Bool) (m : BitVec 2) (x : Fl Num) : Fl Word :=
  let r := encodeNum (if w then .f64 else .f32) (.ofField m) false 0 x.val
  ⟨BitVec.ofNat 64 r.val, x.flags ||| r.flags⟩

/-- The value of a scalar register as a binary32 (w = false) or a binary64. -/
def floatRead (a : Arch) (w : Bool) (r : Reg) : Num :=
  if w then floatValue .f64 (a.reg r).toNat else floatValue .f32 ((a.reg r).extractLsb' 0 32).toNat

/-- The register that a scalar float instruction writes, its value and its flags: Tables 11.4 and 11.5. -/
def floatResult (a : Arch) : Instr → Option (Reg × Fl Word)
  | .fadd d x y m w => some (d, rounded w m (addNum (.ofField m) (floatRead a w x) (floatRead a w y)))
  | .fsub d x y m w => some (d, rounded w m (addNum (.ofField m) (floatRead a w x) (floatRead a w y).neg))
  | .fmul d x y m w => some (d, rounded w m (mulNum (floatRead a w x) (floatRead a w y)))
  | .fdiv d x y m w => some (d, rounded w m (divNum (floatRead a w x) (floatRead a w y)))
  | .fsqrt d x m w => some (d, rounded w m (sqrtNum (floatRead a w x)))
  | .fmac d x y m w => some (d, rounded w m (fmaNum (.ofField m) (floatRead a w x) (floatRead a w y) (floatRead a w d)))
  | .fmin d x y w => some (d, rounded w 0 (pickNum false (floatRead a w x) (floatRead a w y)))
  | .fmax d x y w => some (d, rounded w 0 (pickNum true (floatRead a w x) (floatRead a w y)))
  | .feq d x y w => some (d, ⟨truth ((floatRead a w x).eq (floatRead a w y)),
      .when ((floatRead a w x).isSnan || (floatRead a w y).isSnan) .nv⟩)
  | .flt d x y w => some (d, ⟨truth ((floatRead a w x).lt (floatRead a w y)),
      .when ((floatRead a w x).isNan || (floatRead a w y).isNan) .nv⟩)
  | .fle d x y w => some (d, ⟨truth ((floatRead a w x).le (floatRead a w y)),
      .when ((floatRead a w x).isNan || (floatRead a w y).isNan) .nv⟩)
  | .ftoi d x m w => some (d, floatToInt .i64 (.ofField m) (floatRead a w x))
  | .ftou d x m w => some (d, floatToInt .u64 (.ofField m) (floatRead a w x))
  | .itof d x m w => some (d, rounded w m (.pure (.ofInt (a.reg x).toInt)))
  | .utof d x m w => some (d, rounded w m (.pure (.ofNat (a.reg x).toNat)))
  | .fnarrow d x m => some (d, rounded false m (.pure (floatRead a true x)))
  | .fwiden d x m => some (d, rounded true m (.pure (floatRead a false x)))
  | _ => none

/-- The rational number of a finite exact value; none for a fraction over 0. -/
def exactValue : Num → Option Rat
  | .fin s n d => if d = 0 then none else some (mkRat (if s then -n else n) d)
  | _ => none

/-- The natural number n is the magnitude v of a value, negative where neg, rounded by mode m: to the nearest with ties to even, toward
zero, down, or up (R33, R63). -/
def RoundsTo (m : Rnd) (neg : Bool) (v : ℝ) (n : Nat) : Prop :=
  let low : Prop := (n : ℝ) ≤ v ∧ v < n + 1
  let high : Prop := v ≤ n ∧ (n : ℝ) < v + 1
  match m with
  | .rne => 2 * (n : ℝ) ≤ 2 * v + 1 ∧ 2 * v ≤ 2 * n + 1 ∧ (2 * (n : ℝ) = 2 * v + 1 ∨ 2 * v = 2 * n + 1 → n % 2 = 0)
  | .rtz => low
  | .rdn => if neg then high else low
  | .rup => if neg then low else high

/-- Encode of R33 into float tag t for the value of magnitude v, negative where neg: r is its code and flags. The magnitude is rounded
to a multiple of the unit in the last place of its exponent e, which is at least that of the smallest normal value; the result is
encoded with its sign, or replaced beyond the finite range. -/
def FloatEncoded (t : Tag) (m : Rnd) (s neg : Bool) (v : ℝ) (r : Fl Nat) : Prop :=
  let least : Int := 1 - t.ebias
  let big : ℝ := (2 ^ (t.frac + 1) - 1) * (2 : ℝ) ^ ((t.ebias : Int) - t.frac)
  let infinite : Nat := (2 ^ t.ebits - 1) * 2 ^ t.frac
  let signed (c : Nat) : Nat := if neg then 2 ^ (t.bits - 1) + c else c
  ∃ (e : Int) (n : Nat), least ≤ e ∧ v < (2 : ℝ) ^ (e + 1) ∧ (e = least ∨ (2 : ℝ) ^ e ≤ v) ∧
    RoundsTo m neg (v / (2 : ℝ) ^ (e - t.frac)) n ∧
    let y : ℝ := n * (2 : ℝ) ^ (e - t.frac)
    (y ≤ big → r.val / 2 ^ (t.bits - 1) = neg.toNat ∧
      (∃ q, exactValue (floatValue t r.val) = some q ∧ (q : ℝ) = if neg then -y else y) ∧
      (y = v → r.flags = 0) ∧ (y ≠ v → (n = 0 ∨ (2 : ℝ) ^ least ≤ y) → r.flags = .nx) ∧
      (y ≠ v → n ≠ 0 → y < (2 : ℝ) ^ least → r.flags = .nx ||| .uf)) ∧
    (big < y → s = true → r.val = signed (infinite - 1) ∧ (y = v → r.flags = .sat) ∧ (y ≠ v → r.flags = .nx ||| .sat)) ∧
    (big < y → s = false → r.flags = .of ||| .nx ∧
      r.val = signed (if m = .rne ∨ (m = .rdn ∧ neg = true) ∨ (m = .rup ∧ neg = false) then infinite else infinite - 1))

/-- Encode of R33 into integer tag t for the value of magnitude v, negative where neg. -/
def IntEncoded (t : Tag) (m : Rnd) (s neg : Bool) (v : ℝ) (r : Fl Nat) : Prop :=
  ∃ n : Nat, RoundsTo m neg v n ∧
    let z : Int := if neg then -n else n
    let inside : Prop := intMin t ≤ z ∧ z ≤ intMax t
    let y : Int := if s then max (intMin t) (min z (intMax t)) else z
    r.val = (y % 2 ^ t.bits).toNat ∧
      ∀ k, r.flags.getLsbD k = true ↔ (k = 0 ∧ (n : ℝ) ≠ v) ∨ (k = 5 ∧ s = true ∧ ¬inside)

/-- The value of magnitude code g of a tapered tag at bias 0: Table 4.3 for t6, the regimes of Table 4.4 for t8. -/
def taperedValue (t : Tag) (g : Nat) : Rat :=
  if t = .t6 then
    ([0, 1/256, 1/64, 1/32, 1/16, 3/32, 1/8, 3/16, 1/4, 5/16, 3/8, 7/16, 1/2, 5/8, 3/4, 7/8, 1, 5/4, 3/2, 7/4, 2, 5/2, 3, 7/2, 4, 6, 8, 12,
      16, 32, 64, 256] : List Rat).getD g 0
  else
    let steps (low : Nat) (first : Rat) (n : Nat) : Rat :=
      first * (if g - low < 2 ^ n then 1 + ((g - low : Nat) : Rat) / 2 ^ n else 2 * (1 + ((g - low - 2 ^ n : Nat) : Rat) / 2 ^ n))
    if g = 0 then 0 else if g = 1 then 1/4096 else if g < 0x04 then steps 0x02 (1/1024) 0 else if g < 0x08 then steps 0x04 (1/256) 1
    else if g < 0x10 then steps 0x08 (1/64) 2 else if g < 0x20 then steps 0x10 (1/16) 3 else if g < 0x40 then steps 0x20 (1/4) 4
    else if g < 0x60 then steps 0x40 1 4 else if g < 0x70 then steps 0x60 4 3 else if g < 0x78 then steps 0x70 16 2
    else if g < 0x7C then steps 0x78 64 1 else if g < 0x7E then steps 0x7C 256 0 else if g = 0x7E then 1024 else 4096

/-- Encode of R33 into tapered tag t, whose codes have w magnitude bits, for the value of magnitude v, negative where neg, already divided
by 2^b. -/
def TaperedEncoded (t : Tag) (m : Rnd) (neg : Bool) (v : ℝ) (r : Fl Nat) : Prop :=
  let w := if t = .t6 then 5 else 7
  let top := 2 ^ w - 1
  let value (g : Nat) : ℝ := taperedValue t g
  let signed (c : Nat) : Nat := if neg then 2 ^ w + c else c
  (value top < v → r = ⟨signed top, .sat⟩) ∧
  (v ≤ value top → ∃ g k, g ≤ top ∧ value g ≤ v ∧ (g = top ∨ v < value (g + 1)) ∧ r.val = (if k = 0 then 0 else signed k) ∧
    (value g = v → k = g ∧ r.flags = 0) ∧
    (value g ≠ v → r.flags = .nx ∧ (k = g ∨ k = g + 1) ∧ match m with
      | .rne => (2 * v < value g + value (g + 1) → k = g) ∧ (value g + value (g + 1) < 2 * v → k = g + 1) ∧
          (2 * v = value g + value (g + 1) → k % 2 = 0)
      | .rtz => k = g
      | .rdn => k = if neg then g + 1 else g
      | .rup => k = if neg then g else g + 1))

/-- Bit i of mask n of a hart with rb register-bytes: every bit of m0 that exists is 1 (R41). -/
def maskReads (a : Arch) (rb n i : Nat) : Bool := if n = 0 then i < rb else (Store.get 0 a.m n).testBit i

/-- Whether a conditional branch is taken and its target (R146, R147). rb is the hart's register-bytes. -/
def branchResult (rb : Nat) (a : Arch) : Instr → Option (Bool × Word)
  | .beq x y off => some (a.reg x = a.reg y, BitVec.ofInt 64 (a.pc.toNat + 4 * off.toInt))
  | .bne x y off => some (a.reg x ≠ a.reg y, BitVec.ofInt 64 (a.pc.toNat + 4 * off.toInt))
  | .blt x y off => some ((a.reg x).toInt < (a.reg y).toInt, BitVec.ofInt 64 (a.pc.toNat + 4 * off.toInt))
  | .bge x y off => some ((a.reg y).toInt ≤ (a.reg x).toInt, BitVec.ofInt 64 (a.pc.toNat + 4 * off.toInt))
  | .bltu x y off => some ((a.reg x).toNat < (a.reg y).toNat, BitVec.ofInt 64 (a.pc.toNat + 4 * off.toInt))
  | .bgeu x y off => some ((a.reg y).toNat ≤ (a.reg x).toNat, BitVec.ofInt 64 (a.pc.toNat + 4 * off.toInt))
  | .bany m off => some ((List.range a.vl.toNat).any fun i => maskReads a rb m.toNat i, BitVec.ofInt 64 (a.pc.toNat + 4 * off.toInt))
  | .bnone m off =>
    some ((List.range a.vl.toNat).all fun i => !maskReads a rb m.toNat i, BitVec.ofInt 64 (a.pc.toNat + 4 * off.toInt))
  | _ => none

/-- The loop that a `loop` or `loopi` arms, its count and its end field (R148). -/
def loopResult (a : Arch) : Instr → Option (Bool × Nat × Nat)
  | .loop n x e => some (n, min (a.reg x).toNat (2 ^ 32 - 1), e.toNat)
  | .loopi n c e => some (n, c.toNat, e.toNat)
  | _ => none

/-- Destination, base, space, displacement, size and signedness of a scalar load (R153). -/
def loadForm : Instr → Option (Reg × Reg × BitVec 2 × BitVec 6 × Nat × Bool)
  | .ldb d a _ sp e => some (d, a, sp, e, 1, true)
  | .ldbu d a _ sp e => some (d, a, sp, e, 1, false)
  | .ldh d a _ sp e => some (d, a, sp, e, 2, true)
  | .ldhu d a _ sp e => some (d, a, sp, e, 2, false)
  | .ldw d a _ sp e => some (d, a, sp, e, 4, true)
  | .ldwu d a _ sp e => some (d, a, sp, e, 4, false)
  | .ldd d a _ sp e => some (d, a, sp, e, 8, true)
  | _ => none

/-- Data, base, class, space, displacement and size of a scalar store (R153). -/
def storeForm : Instr → Option (Reg × Reg × BitVec 4 × BitVec 2 × BitVec 6 × Nat)
  | .stb d a c sp e => some (d, a, c, sp, e, 1)
  | .sth d a c sp e => some (d, a, c, sp, e, 2)
  | .stw d a c sp e => some (d, a, c, sp, e, 4)
  | .std d a c sp e => some (d, a, c, sp, e, 8)
  | _ => none

/-- The operands, order, class and space of an atomic, whether it may act on host memory, and the new word from the old one, s[sd] and
s[sb] (R155, R156). -/
def atomicForm : Instr → Option (Reg × Reg × Reg × BitVec 2 × BitVec 4 × Nat × Bool × (Word → Word → Word → Word))
  | .aadd d a b o c => some (d, a, b, o, c, 0, true, fun old _ v => old + v)
  | .aswp d a b o c => some (d, a, b, o, c, 0, true, fun _ _ v => v)
  | .acas d a b o c => some (d, a, b, o, c, 0, true, fun old e v => if old = e then v else old)
  | .amax d a b o c => some (d, a, b, o, c, 0, false, fun old _ v => signedMax old v)
  | .amin d a b o c => some (d, a, b, o, c, 0, false, fun old _ v => signedMin old v)
  | .aaddBel d a b o c => some (d, a, b, o, c, 3, true, fun old _ v => old + v)
  | .aswpBel d a b o c => some (d, a, b, o, c, 3, true, fun _ _ v => v)
  | .acasBel d a b o c => some (d, a, b, o, c, 3, true, fun old e v => if old = e then v else old)
  | .amaxBel d a b o c => some (d, a, b, o, c, 3, true, fun old _ v => signedMax old v)
  | .aminBel d a b o c => some (d, a, b, o, c, 3, true, fun old _ v => signedMin old v)
  | _ => none

/-- Address, space, size and direction of a scalar access, atomics included (R153, R155). -/
def accessForm (a : Arch) (i : Instr) : Option (Word × Nat × Nat × Bool) :=
  match loadForm i, storeForm i, atomicForm i with
  | some (_, b, sp, e, n, _), _, _ => some (BitVec.ofInt 64 ((a.reg b).toNat + e.toInt * n), sp.toNat, n, false)
  | _, some (_, b, _, sp, e, n), _ => some (BitVec.ofInt 64 ((a.reg b).toNat + e.toInt * n), sp.toNat, n, true)
  | _, _, some (_, b, _, _, _, sp, _) => some (a.reg b, sp, 8, true)
  | _, _, _ => none

/-- A number of n bytes in a register, sign- or zero-extended. -/
def extended (signed : Bool) (n v : Nat) : Word :=
  if signed then (BitVec.ofNat (8 * n) v).signExtend 64 else (BitVec.ofNat (8 * n) v).setWidth 64

/-- The byte that a store of bytes at some keys puts at key k; the last one stands (R227). -/
def storedByte (keys : List Nat) (bytes : List Byte) (k : Nat) : Option Byte :=
  (((keys.zip bytes).filter fun x => x.1 = k).map (·.2)).getLast?

/-- The value that `getc` reads after a `setc` of v: truncated to the register, reserved bits 0 (Tables 3.4, 3.7, 25.1, 25.2, R48). rb is
the hart's register-bytes. -/
def controlWritten (rb : Nat) (bank : BitVec 4) (idx : BitVec 8) (v : Word) : Word :=
  if bank = 1 then v &&& 0xFFFFFFFF
  else match idx.toNat with
    | 0x00 => BitVec.ofNat 64 (min (v.toNat % 2 ^ 32) rb % 2 ^ 32)
    | 0x01 => v &&& 7
    | 0x07 => v &&& 0x7F
    | 0x08 => v &&& 1
    | 0x0A | 0x0B => v &&& 0xFFFFFFFF
    | 0x20 => v &&& 0xF7FF
    | _ => v

/-- One bits of a barrier's AMASK. -/
def arrivals (m : BitVec 64) : Nat := (List.range 64).countP fun i => m.getLsbD i

/-- The barrier after an event (Table 10.2): `bar.init` with a count, an arrival or a `bar.drop` of hart h. -/
def barrierInit (x : Barrier) (n : Nat) : Barrier := ⟨x.gen, n, x.amask, if n = 0 then .idle else .counting⟩
def barrierArrive (x : Barrier) (h : Nat) : Barrier :=
  let m := x.amask ||| (1 : BitVec 64) <<< h
  if x.exp ≤ arrivals m then ⟨x.gen + 1, x.exp, 0, .released⟩ else ⟨x.gen, x.exp, m, .counting⟩
def barrierDrop (x : Barrier) (h : Nat) : Barrier :=
  let m := x.amask &&& ~~~((1 : BitVec 64) <<< h)
  if x.exp ≤ 1 then ⟨x.gen, 0, 0, .idle⟩
  else if x.exp - 1 ≤ arrivals m then ⟨x.gen + 1, x.exp - 1, 0, .released⟩ else ⟨x.gen, x.exp - 1, m, .counting⟩

/-- Done(t) of R136: the generation lies after t, in the half circle above it. -/
def barrierDone (x : Barrier) (t : BitVec 32) : Prop := x.gen ≠ t ∧ (x.gen - t).toNat < 2 ^ 31

/-- Frame k holds hart h and nothing else. -/
def OnlyHart (s : State) (k : Nat) (h : Hart) : Prop := s.harts.filter (fun p => p.1 = k) = [(k, h)]

/-- t is s with queue q of context c at x: no other queue and nothing else of any context differs. -/
def QueueOnly (s : State) (c q : Nat) (x : Queue) (t : State) : Prop :=
  t.queue c q = x ∧ (∀ j, j ≠ q → t.queue c j = s.queue c j) ∧ (∀ d, d ≠ c → t.ctx d = s.ctx d) ∧
    t.ctx c = { s.ctx c with queues := (t.ctx c).queues }

/-- A queue that neither IDLE nor STOPPED holds, after a change of its pending count, which was old, or of its last kernel (R106, Table 7.6):
BLOCKED lasts as long as its last kernel waits, and RUNNING until its count reaches 0. -/
def queueMoved (s : State) (x : Queue) (old : Nat) : Queue :=
  let waits := (x.last.bind (Store.find s.kernels)).any fun k => k.state == .waiting
  if 2 ^ (x.cfg.toNat / 2 ^ 16 % 16) < (x.wp - x.rp).toNat then { x with state := .stopped, err := 3 }
  else if x.state = .blocked then { x with state := if waits then .blocked else .running }
  else if x.wp = x.rp then { x with state := if x.state = .running ∧ old = 0 then .running else .armed }
  else { x with state := if waits then .blocked else .running }

/-- t is s after a write of wp to QWP of queue q of context c: the queue, and a journal entry with the old and the new value where
they differ (R106, R112). -/
def QwpWritten (s : State) (c q : Nat) (wp : BitVec 32) (t : State) : Prop :=
  let x := s.queue c q
  let y := { x with wp := wp }
  QueueOnly s c q (if x.state = .idle ∨ x.state = .stopped then y else queueMoved s y (x.wp - x.rp).toNat) t ∧
  t = { s with ctxs := t.ctxs, journal := t.journal, jnext := t.jnext } ∧
  (wp = x.wp → t.journal = s.journal ∧ t.jnext = s.jnext) ∧
  (wp ≠ x.wp → t.jnext = s.jnext + 1 ∧
    t.journal = ((⟨3, c, q, 0, x.wp.setWidth 64, wp.setWidth 64⟩ : Entry) :: s.journal).take (2 ^ 20))

/-- t is s but for which hart of a pair may issue (R128). -/
def Switched (s t : State) : Prop :=
  t = { s with harts := t.harts, issuing := t.issuing } ∧
    ∀ j, t.hart j = (s.hart j).map fun x => { x with stalled := (t.hart j).any (·.stalled) }

/-- The vector state dies (R47, R52): registers, tags, extents, masks and bindings to stream buffers, vl, vspace, xidx and ftm. -/
def withoutVectors (a : Arch) (shape : Nat) : Arch :=
  { a with
    v := [], vtag := [], extent := [], m := [], qb := a.qb.filter (fun p => p.2.kind ≠ 1), vl := 0, vspace := 0, xidx := 0, ftm := 0
    ftmVl := 0, shape := shape }

/-- A memory format that `mfmt` refuses (R45): FMT 14 or 15, a reserved bit, or a level that the format cannot carry. -/
def formatRefused (v : Word) : Prop :=
  14 ≤ v.toNat % 16 ∨ v &&& 0xFFFFFFFF00F0E8F0 ≠ 0 ∨ (v.toNat / 2 ^ 8 % 8 ≠ 0 ∧ v.toNat % 16 ∈ [1, 3, 5, 6, 7, 11])

/-- Bit i of mask m; m0 reads as ones (R41). -/
def maskOn (a : Arch) (m : BitVec 4) (i : Nat) : Bool := m == 0 || (Store.get 0 a.m m.toNat).testBit i

/-- Element i is active under mask m (R186). -/
def activeAt (a : Arch) (m : BitVec 4) (i : Nat) : Bool := decide (i < a.vl.toNat) && maskOn a m i

/-- A byte after writes under masks, in their order. -/
def afterWrites (ws : List ByteWrite) (k : Nat) (b : Byte) : Byte :=
  (ws.filter fun w => w.key = k).foldl (fun b w => (b &&& ~~~w.mask) ||| (w.val &&& w.mask)) b

/-- first(ma) of Table 12.1: the lowest active element whose bit of ma is 1, or vl. -/
def firstActive (a : Arch) (f : VK) : Nat :=
  ((List.range a.vl.toNat).find? fun i => activeAt a f.mask i && maskOn a f.ma i).getD a.vl.toNat

/-- The bits that a mask instruction gives its active elements, and what it writes to a scalar register (Table 12.1). -/
def maskResult (a : Arch) : Instr → Option (VK × Option (Nat → Bool) × Option Word)
  | .mpre f => some (f, some fun i => i < firstActive a f, some (BitVec.ofNat 64 (firstActive a f)))
  | .mthru f => some (f, some fun i => i ≤ firstActive a f, some (BitVec.ofNat 64 (firstActive a f)))
  | .mlatch f => some (f, some fun i => firstActive a f = a.vl.toNat && maskOn a f.mb i, none)
  | .mand f => some (f, some fun i => maskOn a f.ma i && maskOn a f.mb i, none)
  | .mor f => some (f, some fun i => maskOn a f.ma i || maskOn a f.mb i, none)
  | .mxor f => some (f, some fun i => maskOn a f.ma i != maskOn a f.mb i, none)
  | .mandn f => some (f, some fun i => maskOn a f.ma i && !maskOn a f.mb i, none)
  | .mslide f =>
    some (f, some fun i =>
      let j : Int := i - (a.reg f.ss).toInt
      if 0 ≤ j ∧ j < a.vl.toNat then maskOn a f.ma j.toNat else f.var.getLsbD 0, none)
  | .mcnt f =>
    some (f, none, some (BitVec.ofNat 64 ((List.range a.vl.toNat).countP fun i => activeAt a f.mask i && maskOn a f.ma i)))
  | .mfirst f =>
    some (f, none, some (if firstActive a f = a.vl.toNat then BitVec.allOnes 64 else BitVec.ofNat 64 (firstActive a f)))
  | _ => none

/-- The code of width w that element i of vector register r holds (R36). -/
def rawCode (a : Arch) (r w i : Nat) : Nat := Store.get 0 a.v r / 2 ^ (w * i) % 2 ^ w

/-- What a vector instruction that computes on its hart's registers does to n elements: which are active, the operands as read, whether
their tags are right, flags of an element beside those of its codes, the registers it writes with tag, level and the code of each element, a mask's
bits, and a scalar result. -/
structure VectorWork where
  n : Nat
  act : Nat → Bool
  reads : List Vals
  ok : Bool
  extra : Nat → Flags
  dests : List (Nat × Tag × Nat × (Nat → Fl Nat))
  md : Option (BitVec 4 × (Nat → Bool))
  sc : Option (Reg × Word)

/-- The lowest element at which an operand's code is reserved (R62). -/
def VectorWork.reserved (w : VectorWork) : Option Nat := (w.reads.filterMap (·.rsv)).min?

/-- b is a after the work w: codes, tags, levels and mask bits of the active elements, the flags of reading and of every active element,
RSV for a reserved code, the scalar result; every other element, bit, register, mask and flag stays (R40, R64, R186, R188). -/
def VectorWork.Leaves (w : VectorWork) (a b : Arch) : Prop :=
  b = { a with v := b.v, vtag := b.vtag, extent := b.extent, fflags := b.fflags, m := b.m, s := b.s } ∧
  (∀ r, r ∉ w.dests.map (·.1) → Store.get 0 b.v r = Store.get 0 a.v r ∧ Store.get .zero b.vtag r = Store.get .zero a.vtag r ∧
    Store.get 0 b.extent r = Store.get 0 a.extent r) ∧
  (∀ d ∈ w.dests, Store.get .zero b.vtag d.1 = ⟨d.2.1, BitVec.ofNat 3 d.2.2.1⟩ ∧
    ∀ i, rawCode b d.1 d.2.1.bits i =
      if i < w.n ∧ w.act i then (d.2.2.2 i).val % 2 ^ d.2.1.memBits else rawCode a d.1 d.2.1.bits i) ∧
  (∀ k, b.fflags.getLsbD k = (a.fflags.getLsbD k || w.reads.any (·.flags.getLsbD k) || (k == 6 && w.reserved.isSome) ||
    (List.range w.n).any fun i => w.act i && ((w.extra i).getLsbD k || w.dests.any fun d => (d.2.2.2 i).flags.getLsbD k))) ∧
  (w.md = none → b.m = a.m) ∧
  (∀ m p, w.md = some (m, p) → (∀ j, j ≠ m.toNat → Store.get 0 b.m j = Store.get 0 a.m j) ∧
    ∀ i, (Store.get 0 b.m m.toNat).testBit i = if i < w.n ∧ w.act i then p i else (Store.get 0 a.m m.toNat).testBit i) ∧
  (w.sc = none → b.s = a.s) ∧ (∀ r x, w.sc = some (r, x) → b.s = (a.setReg r x).s)

/-- Element-beats of a vector instruction on lanes of width w that takes its hart from a to b: VL elements of the widest tag among those that
it reads and writes, 8 bits without one (R129; the widest is the model's choice, log 12), and for each operand that is reconstructed its level
times the elements that this covers (R325). -/
def vectorBeats (a b : Arch) (w rb : Nat) (i : Instr) : Nat :=
  let beats (n bits : Nat) : Nat := (n * bits + 64 * w - 1) / (64 * w) * w
  let bits := (i.vsrcs.map (a.tagOf ·) ++ i.vdests.map (b.tagOf ·)).foldl (fun m t => max m t.bits) 8
  if w = 0 then 0
  else beats a.vl.toNat bits + ((a.rebuilt i).map fun r => a.domOf r * beats (a.covered b rb i r) (a.tagOf r).bits).sum

/-- Instruction i of the current hart does the work w, or stops before it: "reserved code" with the lowest element where HCTL.EEN is 1
(R62), then "tag mismatch" (R189); a speculative one records its cause (R175). -/
def Works (i : Instr) (s : State) (h : Hart) (w : VectorWork) : Prop :=
  let rsv := w.reserved.isSome = true ∧ h.arch.hctl.getLsbD 0 = true
  let cause : Cause := if rsv then plainCause 24 (w.reserved.getD 0) else plainCause 32 0
  (¬rsv → w.ok = true → ∃ t b, exec i s = .next t ∧ Completes i s { h with arch := b } t ∧ w.Leaves h.arch b ∧
    (t.hart s.cur).map (·.hbeat) = some (h.hbeat + BitVec.ofNat 64 (vectorBeats h.arch b (s.lanesOf h) (s.regBytes h) i))) ∧
  (rsv ∨ w.ok = false →
    (PlainHart h → Handled s h → Traps i s h cause) ∧
    (h.exits ≠ [] → exec i s = .next (s.setHart s.cur { h with
      faults := h.faults ++ [⟨h.seq, h.dbg.icnt, h.arch, true⟩], stalled := true, memStall := false, awaited := [] })))

/-- The value of element i of an operand. -/
def Machine.Vals.at (v : Vals) (i : Nat) : Num := v.xs.getD i .zero

/-- A two-operand element-wise instruction: op of A and B in the promoted type, then Encode (R66, R188, R192). -/
def twoOperands (a : Arch) (rb : Nat) (f : VA) (k : Keeps) (ok : Bool) (op : Tag → Num → Num → Fl Num) : VectorWork :=
  let ta := a.tagOf f.va.toNat
  let tb := a.tagB f
  let td := a.result f.tag f.vd
  let n := a.count rb [ta, tb, td]
  let keep := k.holds a f td
  let x := a.values f.va.toNat (a.active f.mask n) n keep (modeOf f) f.sat
  let y := a.valuesB f (a.active f.mask n) n keep (modeOf f) f.sat
  ⟨n, maskOn a f.mask, [x, y], ok, fun _ => 0, [(f.vd.toNat, td, if keep then a.domOf f.va.toNat else 0, fun i =>
    (op (promote ta tb) (x.at i) (y.at i)).bind (deliver (promote ta tb) td (modeOf f) f.sat))], none, none⟩

/-- A one-operand element-wise instruction by the code of its result (R188). -/
def oneOperand (a : Arch) (rb : Nat) (f : VA) (k : Keeps) (ok : Bool) (code : Tag → Tag → Num → Fl Nat) : VectorWork :=
  let ta := a.tagOf f.va.toNat
  let td := a.result f.tag f.vd
  let n := a.count rb [ta, td]
  let keep := k.holds a f td
  let x := a.values f.va.toNat (a.active f.mask n) n keep (modeOf f) f.sat
  ⟨n, maskOn a f.mask, [x], ok, fun _ => 0, [(f.vd.toNat, td, if keep then a.domOf f.va.toNat else 0, fun i => code ta td (x.at i))], none, none⟩

/-- A three-operand element-wise instruction: P is that of A and B and then C (R192). -/
def threeOperands (a : Arch) (rb : Nat) (f : VA) (op : Num → Num → Num → Fl Num) : VectorWork :=
  let ta := a.tagOf f.va.toNat
  let tb := a.tagB f
  let tc := a.tagOf f.vc.toNat
  let td := a.result f.tag f.vd
  let n := a.count rb [ta, tb, tc, td]
  let keep := Keeps.scalarThird.holds a f td
  let x := a.values f.va.toNat (a.active f.mask n) n keep (modeOf f) f.sat
  let y := a.valuesB f (a.active f.mask n) n keep (modeOf f) f.sat
  let z := a.values f.vc.toNat (a.active f.mask n) n keep (modeOf f) f.sat
  let p := promote (promote ta tb) tc
  ⟨n, maskOn a f.mask, [x, y, z], true, fun _ => 0, [(f.vd.toNat, td, if keep then a.domOf f.va.toNat else 0, fun i =>
    (op (x.at i) (y.at i) (z.at i)).bind (deliver p td (modeOf f) f.sat))], none, none⟩

/-- A special function: computed in f32, f64 or the operand's own float type, and rounded once there (R202). -/
def specialFunction (a : Arch) (rb : Nat) (f : VA) (g : Tag → Num → Fl Num) : VectorWork :=
  oneOperand a rb f .never true fun ta td x =>
    let p := if ta.isFloat then ta else if ta.isTapered || ta.bits ≤ 16 then .f32 else .f64
    (g p x).bind (deliver p td (modeOf f) f.sat)

/-- Tables 13.2 and 13.3: the arithmetic instructions. -/
def arithmeticWork (a : Arch) (rb : Nat) : Instr → Option VectorWork
  | .vadd f => some (twoOperands a rb f .vectorPair true fun _ x y => addNum (modeOf f) x y)
  | .vsub f => some (twoOperands a rb f .vectorPair true fun _ x y => addNum (modeOf f) x y.neg)
  | .vmin f => some (twoOperands a rb f .never true fun _ x y => pickNum false x y)
  | .vmax f => some (twoOperands a rb f .never true fun _ x y => pickNum true x y)
  | .vmul f => some (twoOperands a rb f .scalarForm true fun _ x y => mulNum x y)
  | .vmulh f =>
    some (twoOperands a rb f .never ((a.tagOf f.va.toNat).isInt && (a.tagB f).isInt) fun p x y => (mulNum x y).map fun z =>
      .ofInt (if p.isSigned then z.floor / 2 ^ p.bits else z.floor % 2 ^ (2 * p.bits) / 2 ^ p.bits))
  | .vdiv f =>
    some (twoOperands a rb f .never true fun p x y =>
      if p.isInt then
        if y.floor = 0 then ⟨.ofInt (if p.isSigned then -1 else 2 ^ p.bits - 1), .dz⟩ else ⟨.ofInt (x.floor.tdiv y.floor), 0⟩
      else divNum x y)
  | .vfma f => some (threeOperands a rb f fun x y z => fmaNum (modeOf f) x y z)
  | .vfms f => some (threeOperands a rb f fun x y z => fmaNum (modeOf f) x.neg y z)
  | .vabs f => some (oneOperand a rb f .never true fun ta td x => deliver (promote ta ta) td (modeOf f) f.sat x.abs)
  | .vneg f => some (oneOperand a rb f .unary true fun ta td x => deliver (promote ta ta) td (modeOf f) f.sat x.neg)
  | .vcvt f => some (oneOperand a rb f .never true fun _ td x => encodeNum td (modeOf f) f.sat 0 x)
  | .vnsat f =>
    let ta := a.tagOf f.va.toNat
    let td := a.result f.tag f.vd
    some (oneOperand a rb f .never (ta.isInt && td.isInt && td.bits < ta.bits) fun _ td x => encodeNum td .rne true 0 x)
  | .vsqrt f => some (specialFunction a rb f fun _ x => sqrtNum x)
  | .vrcp f => some (specialFunction a rb f fun _ x => rcpNum x)
  | .vrsq f => some (specialFunction a rb f fun _ x => rsqNum x)
  | .vexp f => some (specialFunction a rb f expNum)
  | .vlog f => some (specialFunction a rb f lnNum)
  | .vtanh f => some (specialFunction a rb f tanhNum)
  | .vsig f => some (specialFunction a rb f sigNum)
  | _ => none

/-- What reading codes adds to the judgement of reserved codes. -/
def readOf (c : Fl (List Nat) × Option Nat) : Vals := ⟨[], c.1.flags, c.2⟩

/-- Bitwise instructions and carries on the codes of one width (R195, R199): value and carry of element i from a, b and the carry in. -/
def codeWork (a : Arch) (rb : Nat) (f : VA) (ok : Tag → Tag → Tag → Bool) (carries : Bool)
    (op : Nat → Nat → Nat → Nat → Nat × Bool) : VectorWork :=
  let ta := a.tagOf f.va.toNat
  let tb := a.tagB f
  let td := a.result f.tag f.vd
  let n := a.count rb [ta, tb, td]
  let x := a.plainCodes f.va.toNat (a.active f.mask n) n .rne false
  let y := a.codesB f (a.active f.mask n) n .rne false
  let c (i : Nat) : Nat := if f.var.getLsbD 1 then 0 else (maskOn a (f.vc.setWidth 4) i).toNat
  let r (i : Nat) := op td.bits (x.1.val.getD i 0) (y.1.val.getD i 0) (c i)
  ⟨n, maskOn a f.mask, [readOf x, readOf y], ok ta tb td && ta.bits == tb.bits && ta.bits == td.bits, fun _ => 0,
    [(f.vd.toNat, td, 0, fun i => ⟨(r i).1, 0⟩)], if carries then some (f.md, fun i => (r i).2) else none, none⟩

/-- The shifts (R196): op of the tag, the value of A and k, the code of B modulo A's width. -/
def shiftWork (a : Arch) (rb : Nat) (f : VA) (op : Tag → Int → Nat → Num) : VectorWork :=
  let ta := a.tagOf f.va.toNat
  let tb := a.tagB f
  let td := a.result f.tag f.vd
  let n := a.count rb [ta, tb, td]
  let x := a.values f.va.toNat (a.active f.mask n) n false (modeOf f) f.sat
  let yv := a.valuesB f (a.active f.mask n) n false (modeOf f) f.sat
  let y := a.codesB f (a.active f.mask n) n (modeOf f) f.sat
  ⟨n, maskOn a f.mask, [x, yv], ta.isInt && tb.isInt, fun _ => 0, [(f.vd.toNat, td, 0, fun i =>
    deliver ta td (modeOf f) f.sat (op ta (x.at i).floor (y.1.val.getD i 0 % ta.bits)))], none, none⟩

/-- The compares (R201): the relation of A and B, or of B and A under rev, into md; NV for a signalling NaN, or for any NaN in an order. -/
def compareWork (a : Arch) (rb : Nat) (f : VA) (rel : Num → Num → Bool) (order : Bool) : VectorWork :=
  let n := a.count rb [a.tagOf f.va.toNat, a.tagB f]
  let x := a.values f.va.toNat (a.active f.mask n) n false .rne false
  let y := a.valuesB f (a.active f.mask n) n false .rne false
  ⟨n, maskOn a f.mask, [x, y], true,
    fun i => .when (if order then (x.at i).isNan || (y.at i).isNan else (x.at i).isSnan || (y.at i).isSnan) .nv, [],
    some (f.md, fun i => if f.var.getLsbD 1 then rel (y.at i) (x.at i) else rel (x.at i) (y.at i)), none⟩

/-- `vdot2` (R200): C and the products of elements 2i and 2i + 1, saturated in i32; the scalar form takes two elements of it in turn. -/
def dotWork (a : Arch) (rb : Nat) (f : VA) : VectorWork :=
  let ta := a.tagOf f.va.toNat
  let tb := a.tagB f
  let n := a.count rb [.i32]
  let act := a.active f.mask n
  let x := a.values f.va.toNat (spread act n) (2 * n) false .rne false
  let code (j : Nat) : Option Num := decodeNum ta 0 ((a.reg f.ss).toNat / 2 ^ (ta.bits * (j % 2)) % 2 ^ ta.bits)
  let y : Vals := if f.scalar then ⟨[], 0, (List.range (2 * n)).find? fun j => maskOn a f.mask (j / 2) && (code j).isNone⟩
    else a.values f.vb.toNat (spread act n) (2 * n) false .rne false
  let z := a.values f.vd.toNat act n false .rne false
  let b (j : Nat) : Int := if f.scalar then ((code j).getD .zero).floor else (y.at j).floor
  ⟨n, maskOn a f.mask, [x, y, z],
    ta.isInt && ta.bits ≤ 16 && tb.isInt && tb.bits ≤ 16 && a.tagOf f.vd.toNat == .i32 && (f.tag == 4 || f.tag == 15), fun _ => 0,
    [(f.vd.toNat, .i32, 0, fun i =>
      (satInt .i32 ((z.at i).floor + ((x.at (2 * i)).floor * b (2 * i) + (x.at (2 * i + 1)).floor * b (2 * i + 1)))).map
        (intCode .i32))], none, none⟩

/-- The instructions on codes, the shifts, the compares, and those that choose, copy or number elements (R195 to R201). -/
def codesWork (a : Arch) (rb : Nat) : Instr → Option VectorWork
  | .vand f => some (codeWork a rb f (fun _ _ _ => true) false fun _ x y _ => (x &&& y, false))
  | .vor f => some (codeWork a rb f (fun _ _ _ => true) false fun _ x y _ => (x ||| y, false))
  | .vxor f => some (codeWork a rb f (fun _ _ _ => true) false fun _ x y _ => (x ^^^ y, false))
  | .vandn f => some (codeWork a rb f (fun _ _ _ => true) false fun w x y _ => (x &&& (2 ^ w - 1 - y % 2 ^ w), false))
  | .vadc f =>
    some (codeWork a rb f (fun x y d => x.isInt && y.isInt && d.isInt) true fun w x y c =>
      ((x + y + c) % 2 ^ w, decide (2 ^ w ≤ x + y + c)))
  | .vsbc f =>
    some (codeWork a rb f (fun x y d => x.isInt && y.isInt && d.isInt) true fun w x y c =>
      ((x + 2 ^ (w + 1) - y - c) % 2 ^ w, decide (x < y + c)))
  | .vsll f => some (shiftWork a rb f fun _ x k => .ofInt (x * 2 ^ k))
  | .vsrl f => some (shiftWork a rb f fun t x k => .ofInt (intValue t ((x % 2 ^ t.bits).toNat / 2 ^ k)))
  | .vsra f => some (shiftWork a rb f fun _ x k => .ofInt (x / 2 ^ k))
  | .vrshr f => some (shiftWork a rb f fun _ x k => .fin (x < 0) x.natAbs (2 ^ k))
  | .vdot2 f => some (dotWork a rb f)
  | .vceq f => some (compareWork a rb f Num.eq false)
  | .vcne f => some (compareWork a rb f (fun x y => !x.eq y) false)
  | .vclt f => some (compareWork a rb f Num.lt true)
  | .vcle f => some (compareWork a rb f Num.le true)
  | .vsel f =>
    let ta := a.tagOf f.va.toNat
    let tb := a.tagB f
    let td := a.result f.tag f.vd
    let n := a.count rb [ta, tb, td]
    let x := a.values f.va.toNat (a.active f.mask n) n false (modeOf f) f.sat
    let y := a.valuesB f (a.active f.mask n) n false (modeOf f) f.sat
    some ⟨n, maskOn a f.mask, [x, y], true, fun _ => 0, [(f.vd.toNat, td, 0, fun i =>
      deliver (promote ta tb) td (modeOf f) f.sat (if maskOn a (f.vc.setWidth 4) i then x.at i else y.at i))], none, none⟩
  | .vmov f =>
    let t := if f.scalar then a.result f.tag f.vd else a.tagOf f.va.toNat
    some ⟨a.count rb [t], maskOn a f.mask, [], true, fun _ => 0, [(f.vd.toNat, t, if f.scalar then 0 else a.domOf f.va.toNat, fun i =>
      ⟨if f.scalar then (a.reg f.ss).toNat else rawCode a f.va.toNat t.bits i, 0⟩)], none, none⟩
  | .vid f =>
    let td := a.result f.tag f.vd
    some ⟨a.count rb [td], maskOn a f.mask, [], true, fun _ => 0, [(f.vd.toNat, td, 0, fun i =>
      encodeNum td (modeOf f) f.sat 0 (.ofInt ((if f.scalar then (a.reg f.ss).toInt else 0) + i)))], none, none⟩
  | _ => none

/-- The number of active elements below i, and the j-th active element below n. -/
def activeBelow (a : Arch) (m : BitVec 4) (i : Nat) : Nat := (List.range i).countP (maskOn a m)
def nthActive (a : Arch) (m : BitVec 4) (n j : Nat) : Nat := ((List.range n).filter (maskOn a m)).getD j 0

/-- The slides (R203): element i takes A at source i, or the fill at place j: B(j) where the field asks for vb and j lies below n, zero,
or A's edge. -/
def slideWork (a : Arch) (rb : Nat) (f : VA) (source fill : Nat → Int → Int) (edge : Nat → Nat) : VectorWork :=
  let ta := a.tagOf f.va.toNat
  let td := a.result f.tag f.vd
  let uses := f.var21 == 0
  let n := a.count rb (if uses then [ta, td, a.tagOf f.vb.toNat] else [ta, td])
  let act := a.active f.mask n
  let x := a.valuesFor f.va.toNat (2 ^ n - 1) act n false (modeOf f) f.sat
  let y := if uses then a.valuesFor f.vb.toNat (2 ^ n - 1) act n false (modeOf f) f.sat else ⟨[], 0, none⟩
  ⟨n, maskOn a f.mask, [x, y], true, fun _ => 0, [(f.vd.toNat, td, 0, fun i =>
    let j := source n i
    let k := fill n i
    encodeNum td (modeOf f) f.sat 0 (
      if 0 ≤ j ∧ j < n then x.at j.toNat
      else if uses then (if 0 ≤ k ∧ k < n then y.at k.toNat else .zero) else if f.var21 == 1 then .zero else x.at (edge n)))],
    none, none⟩

/-- Slides, compress, expand, gather, extract and insert (R203 to R205). -/
def permutationWork (a : Arch) (rb : Nat) : Instr → Option VectorWork
  | .vslup f =>
    let k : Int := (a.reg f.ss).toNat
    some (slideWork a rb f (fun _ i => i - k) (fun n i => n - k + i) fun _ => 0)
  | .vsldn f =>
    let k : Int := (a.reg f.ss).toNat
    some (slideWork a rb f (fun _ i => i + k) (fun n i => i + k - n) fun n => n - 1)
  | .vcmpr f =>
    let ta := a.tagOf f.va.toNat
    let td := a.result f.tag f.vd
    let n := a.count rb [ta, td]
    let x := a.values f.va.toNat (a.active f.mask n) n false (modeOf f) f.sat
    let c := activeBelow a f.mask n
    some ⟨c, fun _ => true, [x], true, fun _ => 0,
      [(f.vd.toNat, td, 0, fun i => encodeNum td (modeOf f) f.sat 0 (x.at (nthActive a f.mask n i)))], none,
      some (f.ss, BitVec.ofNat 64 c)⟩
  | .vxpnd f =>
    let ta := a.tagOf f.va.toNat
    let td := a.result f.tag f.vd
    let n := a.count rb [ta, td]
    let x := a.valuesFor f.va.toNat (2 ^ activeBelow a f.mask n - 1) (a.active f.mask n) n false (modeOf f) f.sat
    some ⟨n, maskOn a f.mask, [x], true, fun _ => 0,
      [(f.vd.toNat, td, 0, fun i => encodeNum td (modeOf f) f.sat 0 (x.at (activeBelow a f.mask i)))], none, none⟩
  | .vgath f =>
    let ta := a.tagOf f.va.toNat
    let tb := a.tagOf f.vb.toNat
    let td := a.result f.tag f.vd
    let n := a.count rb [ta, tb, td]
    let act := a.active f.mask n
    let y := a.values f.vb.toNat act n false (modeOf f) f.sat
    let x := a.valuesFor f.va.toNat (if tb.isInt then named n (packed act (y.xs.map Num.floor)) else 0) act n false (modeOf f) f.sat
    some ⟨n, maskOn a f.mask, [x, y], tb.isInt, fun _ => 0, [(f.vd.toNat, td, 0, fun i =>
      let j := (y.at i).floor
      encodeNum td (modeOf f) f.sat 0 (if 0 ≤ j ∧ j < n then x.at j.toNat else .zero))], none, none⟩
  | .vxtr f =>
    let t := a.tagOf f.va.toNat
    let k := (a.reg f.vc).toNat
    let c := rawCode a f.va.toNat t.bits k % 2 ^ t.memBits
    some ⟨0, fun _ => true, [], true, fun _ => 0, [], none, some (f.ss,
      if rb / t.bytes ≤ k then 0 else if t.isInt then BitVec.ofInt 64 (intValue t c) else BitVec.ofNat 64 c)⟩
  | .vins f =>
    let t := a.result f.tag f.vd
    let k := (a.reg f.vc).toNat
    some (if rb / t.bytes ≤ k then ⟨0, fun _ => true, [], true, fun _ => 0, [], none, none⟩
      else ⟨k + 1, fun i => i == k, [], true, fun _ => 0,
        [(f.vd.toNat, t, if t.carries then a.domOf f.vd.toNat else 0, fun _ => ⟨(a.reg f.ss).toNat, 0⟩)], none, none⟩)
  | _ => none

/-- Node j of level l of the pairwise tree of R67 over numbered leaves; an absent child leaves the other unchanged. -/
def treeNode {α : Type} (op : α → α → Fl α) (leaf : Nat → Option α) : Nat → Nat → Fl (Option α)
  | 0, j => ⟨leaf j, 0⟩
  | l + 1, j =>
    let x := treeNode op leaf l (2 * j)
    let y := treeNode op leaf l (2 * j + 1)
    match x.val, y.val with
    | some p, some q => ⟨some (op p q).val, x.flags ||| y.flags ||| (op p q).flags⟩
    | some p, none => ⟨some p, x.flags ||| y.flags⟩
    | none, q => ⟨q, x.flags ||| y.flags⟩

/-- A numeric reduction (R206): B(0), then the root of the tree of active elements, reduced in P at every node and encoded at the end;
with no active element it sets no flag (R191). -/
def reductionWork (a : Arch) (rb : Nat) (f : VA) (op : Tag → Num → Num → Fl Num) : VectorWork :=
  let ta := a.tagOf f.va.toNat
  let td := a.result f.tag f.vd
  let n := a.count rb [ta]
  let p := promote ta (a.tagB f)
  let x := a.values f.va.toNat (a.active f.mask n) n false (modeOf f) f.sat
  let z := a.startValue f (a.active f.mask n) n (modeOf f) f.sat
  let root := treeNode (op p) (fun i => if i < n ∧ maskOn a f.mask i then some (x.at i) else none) (Nat.log2 n + 1) 0
  ⟨1, fun _ => true, [x, z], true, fun _ => 0, [(f.vd.toNat, td, 0, fun _ => match root.val with
    | some r => root.bind fun _ => (op p (z.at 0) r).bind (encodeNum td (modeOf f) f.sat 0)
    | none => ⟨(encodeNum td (modeOf f) f.sat 0 (z.at 0)).val, 0⟩)], none, none⟩

/-- A bitwise reduction of codes of one width (R206). -/
def bitReductionWork (a : Arch) (rb : Nat) (f : VA) (op : Nat → Nat → Nat) : VectorWork :=
  let ta := a.tagOf f.va.toNat
  let tb := a.tagB f
  let td := a.result f.tag f.vd
  let n := a.count rb [ta]
  let x := a.plainCodes f.va.toNat (a.active f.mask n) n .rne false
  let z := a.startCode f (a.active f.mask n) n
  ⟨1, fun _ => true, [readOf x, readOf z], ta.isInt && tb.isInt && td.isInt && ta.bits == tb.bits && ta.bits == td.bits, fun _ => 0,
    [(f.vd.toNat, td, 0, fun _ =>
      ⟨((List.range n).filter (maskOn a f.mask)).foldl (fun r i => op r (x.1.val.getD i 0)) (z.1.val.getD 0 0), 0⟩)], none, none⟩

/-- A value rounded to P at a node of a reduction (R67, R206). -/
def roundedTo (f : VA) (p : Tag) (z : Num) : Fl Num := (encodeNum p (modeOf f) f.sat 0 z).map fun c => (decodeNum p 0 c).getD .zero

/-- The operators of R206 and R207 in P: the sum, the maximum and the minimum. -/
def sumIn (f : VA) (p : Tag) (x y : Num) : Fl Num := (addNum (modeOf f) x y).bind (roundedTo f p)
def maxIn (f : VA) (p : Tag) (x y : Num) : Fl Num := (pickNum true x y).bind (roundedTo f p)
def minIn (f : VA) (p : Tag) (x y : Num) : Fl Num := (pickNum false x y).bind (roundedTo f p)

/-- Reductions, scans and the running argmax (R206 to R208). -/
def foldWork (a : Arch) (rb : Nat) : Instr → Option VectorWork
  | .vrsum f => some (reductionWork a rb f (sumIn f))
  | .vrmax f => some (reductionWork a rb f (maxIn f))
  | .vrmin f => some (reductionWork a rb f (minIn f))
  | .vrand f => some (bitReductionWork a rb f fun x y => x &&& y)
  | .vrior f => some (bitReductionWork a rb f fun x y => x ||| y)
  | .vrxor f => some (bitReductionWork a rb f fun x y => x ^^^ y)
  | .vscan f =>
    let ta := a.tagOf f.va.toNat
    let td := a.result f.tag f.vd
    let n := a.count rb [ta, td]
    let p := promote ta (a.tagB f)
    let op := if f.var21 = 0 then sumIn f p else if f.var21 = 1 then maxIn f p else minIn f p
    let x := a.values f.va.toNat (a.active f.mask n) n false (modeOf f) f.sat
    let z := a.startValue f (a.active f.mask n) n (modeOf f) f.sat
    some ⟨n, maskOn a f.mask, [x, z], true, fun _ => 0, [(f.vd.toNat, td, 0, fun i =>
      (((List.range (i + 1)).filter (maskOn a f.mask)).foldl (fun (r : Fl Num) j => r.bind fun r => op r (x.at j)) ⟨z.at 0, 0⟩).bind
        (encodeNum td (modeOf f) f.sat 0))], none, none⟩
  | .vscmx f =>
    let ta := a.tagOf f.va.toNat
    let td := a.result f.tag f.vd
    let n := a.count rb [ta, td]
    let x := a.values f.va.toNat (a.active f.mask n) n false .rne false
    let base : Int := if f.scalar then (a.reg f.ss).toNat else 0
    let best (i : Nat) : Option Nat := (((List.range (i + 1)).filter (maskOn a f.mask)).foldl (fun (b : Option Nat) j =>
      if (x.at j).isNan then b else match b with
        | some k => if zeroLt (x.at k) (x.at j) then some j else b
        | none => some j) none)
    some ⟨n, maskOn a f.mask, [x], td.isInt, fun i => .when (x.at i).isSnan .nv, [(f.vd.toNat, td, 0, fun i =>
      ⟨(((match best i with | some j => base + j | none => -1 : Int)) % 2 ^ td.bits).toNat, 0⟩)], none, none⟩
  | _ => none

/-- The tags of R211. -/
def softmaxTag (t : Tag) : Bool := t ∈ [Tag.t8, .t6, .f16, .bf16, .f32]

/-- Random elements, online softmax, sampling and top-k lists (R210 to R216). -/
def modelWork (a : Arch) (rb : Nat) : Instr → Option VectorWork
  | .vrng f =>
    let td := a.result f.tag f.vd
    let bits (i : Nat) : Word := mix (a.reg f.vc) (a.reg f.ss + BitVec.ofNat 64 i)
    let h (i : Nat) : Nat := (bits i).toNat / 2 ^ 40
    some ⟨a.count rb [td], maskOn a f.mask, [], td.isInt == (f.var21 == 0), fun _ => 0, [(f.vd.toNat, td, 0, fun i =>
      if f.var21 = 0 then ⟨(bits i).toNat, 0⟩
      else encodeNum td (modeOf f) f.sat 0 (if f.var21 = 1 then .fin false (h i) (2 ^ 24) else .fin false (2 * h i + 1) (2 ^ 25)))],
      none, none⟩
  | .vsmxAcc f =>
    let vd := f.vd.toNat
    let n := a.count rb [a.tagOf f.va.toNat]
    let act := a.active f.mask n
    let x := a.values f.va.toNat act n false .rne false
    let start := f.var.getLsbD 1
    let mv := if start then ⟨[.inf true], 0, none⟩ else a.first vd act n .rne false
    let zv := if start then ⟨[.zero], 0, none⟩ else a.first (vd + 1) act n .rne false
    let r := softAcc act x.xs (mv.at 0) (zv.at 0)
    some ⟨1, fun _ => true, [x, mv, zv], softmaxTag (a.tagOf f.va.toNat) && (start || (a.tagOf vd == .f32 && a.tagOf (vd + 1) == .f32)),
      fun _ => r.flags, [(vd, .f32, 0, fun _ => ⟨floatCode .f32 r.val.1, 0⟩), (vd + 1, .f32, 0, fun _ => ⟨floatCode .f32 r.val.2, 0⟩)],
      none, none⟩
  | .vsmxFin f =>
    let ta := a.tagOf f.va.toNat
    let td := a.result f.tag f.vd
    let n := a.count rb [ta, td]
    let act := a.active f.mask n
    let x := a.values f.va.toNat act n false (modeOf f) f.sat
    let mv := a.first f.vb.toNat act n (modeOf f) f.sat
    let zv := a.first (f.vb.toNat + 1) act n (modeOf f) f.sat
    some ⟨n, maskOn a f.mask, [x, mv, zv], softmaxTag ta && a.tagOf f.vb.toNat == .f32 && a.tagOf (f.vb.toNat + 1) == .f32, fun _ => 0,
      [(f.vd.toNat, td, 0, fun i =>
        ((diffF (x.at i) (mv.at 0)).bind expF).bind fun e => (divNum e (zv.at 0)).bind (encodeNum td (modeOf f) f.sat 0))], none, none⟩
  | .vsamp f =>
    let vd := f.vd.toNat
    let n := a.count rb [a.tagOf f.va.toNat]
    let act := a.active f.mask n
    let x := a.values f.va.toNat act n false .rne false
    let start := f.var.getLsbD 1
    let word (k : Nat) : Nat := rawCode a vd 32 k
    let m := if start then Num.inf true else floatValue .f32 (word 0)
    let z := if start then Num.zero else floatValue .f32 (word 1)
    let g := if start then Num.inf true else floatValue .f32 (word 2)
    let r := softAcc act x.xs m z
    let noise (i : Nat) : Num := if f.var.getLsbD 2 then .zero else gumbel (a.reg f.vc) (a.reg f.ss + BitVec.ofNat 64 i)
    let ps := perturbed noise act 0 x.xs
    let best : Num × Nat := match largest ps.val with
      | some p => if g.lt p.1 then (p.1, ((a.reg f.ss).toNat + p.2) % 2 ^ 32) else (g, if start then 0xFFFFFFFF else word 3)
      | none => (g, if start then 0xFFFFFFFF else word 3)
    let words := [floatCode .f32 r.val.1, floatCode .f32 r.val.2, floatCode .f32 best.1, best.2]
    some ⟨4, fun _ => true, [x], softmaxTag (a.tagOf f.va.toNat) && (start || a.tagOf vd == .u32), fun _ => r.flags ||| ps.flags,
      [(vd, .u32, 0, fun i => ⟨words.getD i 0, 0⟩)], none, none⟩
  | .vtopkIns f =>
    let ta := a.tagOf f.va.toNat
    let vd := f.vd.toNat
    let k := f.vc.toNat + 1
    let n := a.count rb [ta]
    let act := a.active f.mask n
    let start := f.var.getLsbD 1
    let x := a.values f.va.toNat act n false .rne false
    let c := a.plainCodes f.va.toNat act n .rne false
    let matching := a.tagOf vd == ta && a.tagOf (vd + 1) == .u32
    let old := if start || !matching then ([], ⟨[], 0, none⟩) else a.listAt vd k act
    let new := (((List.range n).filter fun i => maskOn a f.mask i && !(x.at i).isNan)).map fun i =>
      (⟨x.at i, ((a.reg f.ss).toNat + i) % 2 ^ 32, entryCode ta (c.1.val.getD i 0)⟩ : Ranked)
    let top (i : Nat) : Ranked := (((old.1 ++ new).foldl (fun l x => rankInto x l) []).take k).getD i (sentinel ta)
    some ⟨k, fun _ => true, [x, old.2], k ≤ rb / ta.bytes && k ≤ rb / 4 && (start || matching),
      fun _ => .when ((List.range n).any fun i => maskOn a f.mask i && (x.at i).isSnan) .nv,
      [(vd, ta, 0, fun i => ⟨(top i).code, 0⟩), (vd + 1, .u32, 0, fun i => ⟨(top i).idx, 0⟩)], none, none⟩
  | .vtopkMrg f =>
    let ta := a.tagOf f.va.toNat
    let k := f.vc.toNat + 1
    let rep := 2 ^ min k a.vl.toNat - 1
    let x := a.listAt f.va.toNat k rep
    let y := a.listAt f.vb.toNat k rep
    let l := x.1 ++ y.1.filter fun e => !x.1.any fun d => d.idx == e.idx
    let top (i : Nat) : Ranked := ((l.foldl (fun l x => rankInto x l) []).take k).getD i (sentinel ta)
    some ⟨k, fun _ => true, [x.2, y.2], a.tagOf f.vb.toNat == ta && a.tagOf (f.va.toNat + 1) == .u32 &&
      a.tagOf (f.vb.toNat + 1) == .u32 && k ≤ rb / ta.bytes && k ≤ rb / 4, fun _ => 0,
      [(f.vd.toNat, ta, 0, fun i => ⟨(top i).code, 0⟩), (f.vd.toNat + 1, .u32, 0, fun i => ⟨(top i).idx, 0⟩)], none, none⟩
  | _ => none

/-- FMT, LEVEL and BIAS of the memory-format register of a vector access (Table 3.6). -/
def storedTag (a : Arch) (f : VM) : Tag := (Tag.ofCode ((Store.get 0 a.mf f.mf.toNat).toNat % 16)).getD .i8
def storedLevel (a : Arch) (f : VM) : Nat := (Store.get 0 a.mf f.mf.toNat).toNat / 2 ^ 8 % 8
def storedBias (a : Arch) (f : VM) : Int := ((Store.get 0 a.mf f.mf.toNat).extractLsb' 24 8).toInt

/-- The forms of vector loads and stores: unit stride with packed t6, strided, segments, and indexed (R223 to R225). -/
inductive VectorForm where
  | unit | strided | segments | indexed
  deriving DecidableEq, Repr

/-- A load that reads its elements in one instruction, and its form. -/
def loadOf : Instr → Option (VM × VectorForm)
  | .vld f => some (f, .unit)
  | .vldFf f => some (f, .unit)
  | .vlds f => some (f, .strided)
  | .vldseg f => some (f, .segments)
  | .vldx f => some (f, .indexed)
  | _ => none

/-- A store that is no `.sc` access, and its form. -/
def storeOf : Instr → Option (VM × VectorForm)
  | .vst f => some (f, .unit)
  | .vsts f => some (f, .strided)
  | .vstseg f => some (f, .segments)
  | .vstx f => some (f, .indexed)
  | _ => none

/-- Registers that the form moves: nf + 1 for segments, else 1. -/
def fieldsOf (f : VM) (k : VectorForm) : Nat := if k = .segments then f.nf.toNat + 1 else 1

/-- t6 codes lie six bits apart in a unit-stride access (R223). -/
def packsT6 (a : Arch) (f : VM) (k : VectorForm) : Bool := k == .unit && storedTag a f == .t6

/-- Element e of field j of n: its address and bytes (R223 to R225). -/
def vectorElem (a : Arch) (f : VM) (k : VectorForm) (n e j : Nat) : Elem :=
  let z := (storedTag a f).bytes
  let step : Int := if f.sstr = 0 then fieldsOf f k * z else (a.reg f.sstr).toInt
  if packsT6 a f k then ⟨e, a.reg f.sbase + BitVec.ofNat 64 (6 * e / 8), (6 * e % 8 + 13) / 8⟩
  else ⟨e, a.reg f.sbase + BitVec.ofInt 64 (if k = .indexed then ((a.indexes f n).at e).floor else e * step + j * z), z⟩

/-- The flags of an index register's reconstruction (R33, R190; log 14). -/
def indexFlags (a : Arch) (f : VM) (k : VectorForm) (n : Nat) : Flags := if k = .indexed then (a.indexes f n).flags else 0

/-- LEVEL of the granule at a key as hart h sees it: its youngest held vector store into the granule, over memory's tag (R172, R322). -/
def seenLevel (s : State) (h : Hart) (key : Nat) : Nat :=
  ((h.held.filterMap fun e => match e.mark with
    | .vector l _ _ => if key < 2 ^ 42 && e.writes.any fun w => w.key / 1024 == key / 1024 then some l else none
    | _ => none).getLast?).getD ((s.granule key).toNat % 8)

/-- The first bit of an element in its bytes, and the alignment that it needs; 0 asks for none (R220, R223). -/
def vectorBit (a : Arch) (f : VM) (k : VectorForm) (e : Nat) : Nat := if packsT6 a f k then 6 * e % 8 else 0
def vectorAlign (a : Arch) (f : VM) (k : VectorForm) : Nat := if packsT6 a f k then 0 else min (storedTag a f).bytes 8

/-- An element of a whole block of level l below n that holds an active one (R317). -/
def inBlock (l n : Nat) (act : Nat → Bool) (e : Nat) : Bool :=
  l != 0 && decide (e / 2 ^ l < n / 2 ^ l) && (List.range (2 ^ l)).any fun i => act (e / 2 ^ l * 2 ^ l + i)

/-- A link that failed while the current instruction of hart h waited for data over it lies under one of these places (R335). -/
def lost (h : Hart) (ps : List Phys) : Bool := match h.pending with
  | some (.cut ls) => ps.any fun p => ls.any fun l => p.link == some l
  | _ => false

/-- A vector access of the current hart: program-visible state as it starts, fields, form, number of elements and active ones. -/
structure VectorAccess where
  a : Arch
  f : VM
  k : VectorForm
  n : Nat
  deriving DecidableEq, Repr

namespace VectorAccess

/-- Element e is active. -/
def act (w : VectorAccess) (e : Nat) : Bool := decide (e < w.n) && maskOn w.a w.f.mask e

/-- The place of element e of field j, or the cause of its fault: alignment, bound, translation, access, revocation (R226). -/
def place (w : VectorAccess) (s : State) (g : Group) (write : Bool) (e j : Nat) : Except Cause Placed :=
  s.placeElem g (spireOf s.cur) w.a.vspace.toNat (vectorAlign w.a w.f w.k) write (vectorElem w.a w.f w.k w.n e j)

/-- LEVEL of the granule of the lowest active element; 0 where that element faults or none is active (R322). -/
def granuleLevel (w : VectorAccess) (s : State) (h : Hart) (g : Group) : Nat :=
  match (List.range w.n).find? w.act with
  | none => 0
  | some e =>
    match s.placeElem g (spireOf s.cur) w.a.vspace.toNat 0 false (vectorElem w.a w.f w.k w.n e 0) with
    | .ok q => (q.phys.head?.map fun y => seenLevel s h y.key).getD 0
    | .error _ => 0

/-- The tag that a load gives its registers, and the level that they hold (R221). -/
def loadTag (w : VectorAccess) : Tag := w.a.result w.f.tag w.f.f1
def loadLevel (w : VectorAccess) : Nat := if w.loadTag.carries then storedLevel w.a w.f else 0

/-- The elements that a load reads from granules of a level: the active ones, and where the level changes every element of their blocks
(R317, R322). -/
def needs (w : VectorAccess) (lg e : Nat) : Bool :=
  w.act e || (lg != w.loadLevel && decide (e < w.n) && (inBlock lg w.n w.act e || inBlock w.loadLevel w.n w.act e))
def loads (w : VectorAccess) (s : State) (h : Hart) (g : Group) (e : Nat) : Bool := w.needs (w.granuleLevel s h g) e

/-- The fault of an element that a load reads: that of its place, a link that failed under the load, or a granule of another level (R226, R322,
R335). -/
def loadFault (w : VectorAccess) (s : State) (h : Hart) (g : Group) (e j : Nat) : Option Cause :=
  match w.place s g false e j with
  | .error c => some c
  | .ok q =>
    if lost h q.phys then some ⟨17, 5, false, false, e, (vectorElem w.a w.f w.k w.n e j).addr⟩
    else if q.phys.all fun y => seenLevel s h y.key == w.granuleLevel s h g then none
    else some ⟨17, 4, false, false, e, (vectorElem w.a w.f w.k w.n e j).addr⟩

/-- The code of an element as hart h reads it; none where it is not read or faults. -/
def loadCode (w : VectorAccess) (s : State) (h : Hart) (g : Group) (e j : Nat) : Option Nat :=
  match w.place s g false e j with
  | .ok q =>
    let v := leNat (q.phys.map fun y => s.readByte h y.key)
    if w.loads s h g e ∧ w.loadFault s h g e j = none then
      some (if storedTag w.a w.f = .t6 then v / 2 ^ vectorBit w.a w.f w.k e % 64 else v) else none
  | .error _ => none

/-- The values that a load delivers from codes of granules of level lg: decoded, brought to the delivered level, scaled by the bias; +0 where
there is no code, as of an element whose fault is suppressed (R175); and the lowest active element with a reserved code (R62, R221, R322). -/
def valuesOf (w : VectorAccess) (lg : Nat) (c : Nat → Option Nat) : Vals :=
  let t := storedTag w.a w.f
  let xs := (List.range w.n).map fun e => ((c e).bind (decodeNum t 0)).getD .zero
  let ys := if lg = w.loadLevel then xs else haarAll (haarKind t) w.loadLevel (invHaarAll (haarKind t) lg xs)
  ⟨(ys.zip (List.range w.n)).map fun y => if (c y.2).isNone then .zero else y.1.scale (storedBias w.a w.f), 0, (List.range w.n).find? fun e => w.act e && (c e).any fun v => (decodeNum t 0 v).isNone⟩
def loaded (w : VectorAccess) (s : State) (h : Hart) (g : Group) (j : Nat) : Vals :=
  w.valuesOf (w.granuleLevel s h g) fun e => w.loadCode s h g e j

/-- What a load writes to its registers, from the values of each field. -/
def workOf (w : VectorAccess) (v : Nat → Vals) : VectorWork :=
  let js := List.range (fieldsOf w.f w.k)
  ⟨w.n, maskOn w.a w.f.mask, ⟨[], indexFlags w.a w.f w.k w.n, none⟩ :: js.map v, true, fun _ => 0, js.map fun j => (w.f.f1.toNat + j, w.loadTag, w.loadLevel,
    fun e => encodeNum w.loadTag (.ofField w.f.rnd) w.f.sat 0 ((v j).at e)), none, none⟩
def loadWork (w : VectorAccess) (s : State) (h : Hart) (g : Group) : VectorWork := w.workOf (w.loaded s h g)

end VectorAccess

/-- The ports of a transfer have tokens: each limited one that it passes (R99). Which ports an access passes is the model's choice in part
(log 69). -/
def HasTokens (s : State) (c : Nat) (ports : List Nat) : Prop := ∀ b ∈ (s.ctx c).buckets, b.1 ∈ ports → b.2.limit = 0 ∨ 1 ≤ b.2.tokens

/-- What changes of s in u where translations leave some caches for want of room, as those of some places enter them: a counted host page has
its COUNT written to its table entry (R258). -/
def WrittenBack (s : State) (caches : Store (List Tlb)) (ps : List Phys) (u : State) : Prop :=
  let counted (pte : Nat) : Prop :=
    (∃ l ∈ caches, ∃ x ∈ l.2, x.pte = pte ∧ countedLeaf x.leaf = true) ∨ ∃ p ∈ ps, p.pte = pte ∧ countedLeaf p.leaf = true
  (∀ k, u.byte k ≠ s.byte k → ∃ pte, counted pte ∧ dramKey pte ≤ k ∧ k < dramKey pte + 8) ∧
    ∀ d, u.ctx d = { s.ctx d with counts := (u.ctx d).counts }

/-- u is s after the translations of some places have entered a cache of a Spire, or of its matrix arrays (R250). -/
def Cached (s : State) (ps : List Phys) (u : State) : Prop :=
  u = { s with tlb := u.tlb, mem := u.mem, ctxs := u.ctxs } ∧ WrittenBack s s.tlb ps u
def MatrixCached (s : State) (ps : List Phys) (u : State) : Prop :=
  u = { s with mtlb := u.mtlb, mem := u.mem, ctxs := u.ctxs } ∧ WrittenBack s s.mtlb ps u

/-- u is s after each limited port of context c has been charged some units (R99). -/
def Spent (s : State) (c : Nat) (units : Nat → Nat) (u : State) : Prop :=
  u = { s with ctxs := u.ctxs } ∧ (∀ d, d ≠ c → u.ctx d = s.ctx d) ∧ u.ctx c = { s.ctx c with buckets := (u.ctx c).buckets } ∧
    ∀ key b, Store.find (s.ctx c).buckets key = some b → Store.find (u.ctx c).buckets key =
      some (if b.limit = 0 then b else { b with tokens := b.tokens - (units key : Nat) })

/-- u is s after a transfer of context c through some ports, one entry for each byte: each limited port is charged ceil(n / 64) units for
the n bytes that pass it (R99). What counts as one transfer, and the ports that it passes, are the model's choice in part (log 69). -/
def Charged (s : State) (c : Nat) (ports : List Nat) (u : State) : Prop :=
  Spent s c (fun key => (ports.count key + 63) / 64) u ∧ ((s.ctx c).buckets = [] → u = s)

/-- u is s after an access of context c from a Spire to some places has gone out (R99, R250; accessPorts names the ports, log
69); the current hart's access. -/
def AccessedFrom (s : State) (spire c : Nat) (ps : List Phys) (u : State) : Prop :=
  ∃ v, Cached s ps v ∧ Charged v c (accessPorts spire ps) u
def Accessed (s : State) (c : Nat) (ps : List Phys) (u : State) : Prop := AccessedFrom s (spireOf s.cur) c ps u

/-- u is s after accesses of context c by the matrix arrays of some Spires, each to its places (R99, R250; log 69). -/
def ArraysAccessed (c : Nat) : List (Nat × List Phys) → State → State → Prop
  | [], s, u => u = s
  | (spire, ps) :: l, s, u => ∃ v w, MatrixCached s ps v ∧ Charged v c (accessPorts spire ps) w ∧ ArraysAccessed c l w u

/-- An access of the current hart h waits for nothing: within the module its ports have tokens; over a link its data have arrived, and
no request stands before it (R99, R276, R277, R333; the ports are log 69's). -/
def AccessReady (s : State) (h : Hart) (ps : List Phys) : Prop :=
  ((∀ p ∈ ps, p.link = none) ∧ HasTokens s (s.ctxOf h) (accessPorts (spireOf s.cur) ps)) ∨
    ((∃ p ∈ ps, p.link ≠ none) ∧ (∃ l r q, h.pending = some (.remote l true r q)) ∧ s.firstOn s.cur (linksOf ps) = true)

/-- What an access of the current hart waits for before it goes out: no older store of its class is queued on another link (R280), and its
ports have tokens (R99; the ports are log 69's). -/
def SendReady (s : State) (c : Nat) (cls : BitVec 4) (ps : List Phys) : Prop :=
  (∀ q ∈ s.homeq, q.read = false → q.hart = s.cur → q.cls = cls → ∀ p ∈ ps, p.link = q.link) ∧
    HasTokens s c (accessPorts (spireOf s.cur) ps)

/-- The first fault of an active element of `vld.ff`, and the state in which it reads its elements: FIRST and vl below that fault (R183). -/
def firstBad (w : VectorAccess) (s : State) (h : Hart) (g : Group) : Option Nat :=
  (List.range w.n).find? fun e => w.act e && (w.loadFault s h g e 0).isSome
def trimmed (w : VectorAccess) (s : State) (h : Hart) (g : Group) : Arch :=
  match (List.range w.n).find? w.act, firstBad w s h g with
  | some i, some j =>
    if i = j then { w.a with ftm := 0, ftmVl := 0 }
    else { w.a with ftm := BitVec.ofNat 32 (2 ^ 31 + j), ftmVl := w.a.vl.toNat, vl := BitVec.ofNat 32 j }
  | _, _ => { w.a with ftm := 0, ftmVl := 0 }

/-- The places of the elements that sel accepts, by ascending element and then field. -/
def VectorAccess.places (w : VectorAccess) (s : State) (g : Group) (write : Bool) (fields : Nat) (sel : Nat → Nat → Bool) : List Phys :=
  (List.range w.n).flatMap fun e => (List.range fields).flatMap fun j =>
    match w.place s g write e j with
    | .ok q => if sel e j then q.phys else []
    | .error _ => []

/-- n of a load: vl, VLMAX of the result and of the index register (R186). -/
def loadCount (a : Arch) (rb : Nat) (f : VM) (k : VectorForm) : Nat :=
  a.count rb (a.result f.tag f.f1 :: if k = .indexed then [a.tagOf f.f3.toNat] else [])

namespace VectorAccess

/-- The elements that a store writes: the active ones, and at a level every coefficient of their blocks (R317). -/
def stores (w : VectorAccess) (e : Nat) : Bool := w.act e || (decide (e < w.n) && inBlock (storedLevel w.a w.f) w.n w.act e)

/-- The fault of an element that a store writes: that of its place, or a level over a link (R226, R321). -/
def storeFault (w : VectorAccess) (s : State) (g : Group) (e j : Nat) : Option Cause :=
  match w.place s g true e j with
  | .error c => some c
  | .ok q =>
    if storedLevel w.a w.f ≠ 0 ∧ q.phys.any (·.link.isSome) then
      some ⟨17, 3, true, false, e, (vectorElem w.a w.f w.k w.n e j).addr⟩ else none

/-- HKSEL, CMP and the threshold of a store (Table 3.6, R46, R319). -/
def hksel (w : VectorAccess) : Nat := (Store.get 0 w.a.mf w.f.mf.toNat).toNat / 2 ^ 16 % 16
def cmp (w : VectorAccess) : Bool := (Store.get 0 w.a.mf w.f.mf.toNat).getLsbD 12
def threshold (w : VectorAccess) : Num :=
  let v := (Store.get 0 w.a.hk w.hksel).toNat
  if (storedTag w.a w.f).isInt then .ofNat v else floatValue .f32 (v % 2 ^ 31)

/-- The values of field j that a store takes: its register's, brought from its level to the stored one, small details zeroed; and the
lowest active element with a reserved code (R62, R222). -/
def taken (w : VectorAccess) (j : Nat) : Vals :=
  let r := w.f.f1.toNat + j
  let t := w.a.tagOf r
  let l := w.a.domOf r
  let lvl := storedLevel w.a w.f
  let need (e : Nat) : Bool := w.stores e || inBlock l w.n w.stores e
  let code (e : Nat) : Option Num := decodeNum t 0 (rawCode w.a r t.bits e % 2 ^ t.memBits)
  let xs := (List.range w.n).map fun e => if need e then (code e).getD .zero else .zero
  let ys := if l = lvl then xs else haarAll (haarKind t) lvl (invHaarAll (haarKind t) l xs)
  ⟨if lvl = 0 then ys else thresholdAll lvl w.threshold ys, 0, (List.range w.n).find? fun e => w.act e && (code e).isNone⟩

/-- The code that a store leaves in memory: the bias acts inside a tapered format and scales the others (R222). -/
def storedCode (w : VectorAccess) (e j : Nat) : Fl Nat :=
  let t := storedTag w.a w.f
  let x := (w.taken j).at e
  if t.isTapered then encodeNum t (.ofField w.f.rnd) w.f.sat (storedBias w.a w.f) x
  else encodeNum t (.ofField w.f.rnd) w.f.sat 0 (x.scale (-storedBias w.a w.f))

/-- The bytes of an element at its places: a packed t6 code changes its six bits, any other code its whole bytes (R223). -/
def elementWrites (w : VectorAccess) (e j : Nat) (ps : List Phys) : List (Phys × ByteWrite) :=
  let c := (w.storedCode e j).val
  let v := (if storedTag w.a w.f = .t6 then c % 64 else c) * 2 ^ vectorBit w.a w.f w.k e
  let m := if packsT6 w.a w.f w.k then 63 * 2 ^ vectorBit w.a w.f w.k e else 2 ^ (8 * ps.length) - 1
  (ps.zip (List.range ps.length)).map fun p =>
    (p.1, ⟨p.1.key, BitVec.ofNat 8 (m / 2 ^ (8 * p.2)), BitVec.ofNat 8 (v / 2 ^ (8 * p.2))⟩)

/-- Every byte that a store of some fields writes, by ascending element and then field; a later one stands (R226, R227). -/
def writes (w : VectorAccess) (s : State) (g : Group) (fields : Nat) : List (Phys × ByteWrite) :=
  (List.range w.n).flatMap fun e => (List.range fields).flatMap fun j =>
    match w.place s g true e j with
    | .ok q => if w.stores e then w.elementWrites e j q.phys else []
    | .error _ => []

end VectorAccess

/-- n of a store: vl, VLMAX of its registers and of the index register (R186). -/
def storeCount (a : Arch) (rb : Nat) (f : VM) (k : VectorForm) : Nat :=
  a.count rb (((List.range (fieldsOf f k)).map fun j => a.tagOf (f.f1.toNat + j)) ++ if k = .indexed then [a.tagOf f.f3.toNat] else [])

/-- The tag of every granule that a vector store has written at a key: level, HKSEL, and CMP only where the format asks for it in a
shaft (Tables 22.2, 22.3). -/
def VectorAccess.Marks (w : VectorAccess) (s : State) (key : Nat) : Prop :=
  key < 2 ^ 42 → (s.granule key).toNat % 8 = storedLevel w.a w.f ∧ (s.granule key).toNat / 16 = w.hksel ∧
    ((s.granule key).getLsbD 3 = true → w.cmp = true ∧ key < 2 ^ 39)

namespace VectorAccess

/-- The keys of an element's bytes. -/
def keys (w : VectorAccess) (s : State) (g : Group) (write : Bool) (e : Nat) : List Nat :=
  match w.place s g write e 0 with
  | .ok q => q.phys.map (·.key)
  | .error _ => []

/-- The fault of an element of a `.sc` access: that of its place, a link, or a granule of another level (R229, R322). -/
def strictFault (w : VectorAccess) (s : State) (h : Hart) (g : Group) (write : Bool) (e : Nat) : Option Cause :=
  match w.place s g write e 0 with
  | .error c => some c
  | .ok q =>
    if q.phys.any (·.link.isSome) then some ⟨17, 2, write, false, e, (vectorElem w.a w.f w.k w.n e 0).addr⟩
    else if write then none
    else if q.phys.all fun y => seenLevel s h y.key == w.granuleLevel s h g then none
    else some ⟨17, 4, false, false, e, (vectorElem w.a w.f w.k w.n e 0).addr⟩

/-- The code that the tickets of `vld.sc` have read for element e, from the numbers of its elements' bytes in their order. -/
def ticketCode (w : VectorAccess) (lg : Nat) (codes : List Nat) (e : Nat) : Option Nat :=
  if w.needs lg e then
    (codes[(List.range e).countP (w.needs lg)]?).map fun v => if storedTag w.a w.f = .t6 then v % 64 else v
  else none

/-- Element writes of one element of a `.sc` store. -/
def strictWrites (w : VectorAccess) (s : State) (g : Group) (e : Nat) : List ByteWrite :=
  match w.place s g true e 0 with
  | .ok q => (w.elementWrites e 0 q.phys).map (·.2)
  | .error _ => []

end VectorAccess

/-- The window of `vldsr` (R230): L elements of each register, the count k of elements that it takes in, and its work: old codes move down
by k, and k loaded ones follow them. -/
def windowCount (a : Arch) (rb : Nat) (f : VM) : Nat := a.count rb [a.result f.tag f.f1]
def windowShift (a : Arch) (rb : Nat) (f : VM) : Nat :=
  min (if f.sstr = 0 then 0 else (a.reg f.sstr).toNat) ((f.nf.toNat + 1) * windowCount a rb f)
def windowWork (a : Arch) (rb : Nat) (f : VM) (w : VectorAccess) (v : Vals) : VectorWork :=
  let t := a.result f.tag f.f1
  let l := windowCount a rb f
  let k := windowShift a rb f
  let all := (f.nf.toNat + 1) * l
  ⟨l, fun _ => true, [v], (List.range (f.nf.toNat + 1)).all fun j => a.tagOf (f.f1.toNat + j) == t, fun _ => 0,
    (List.range (f.nf.toNat + 1)).map fun j => (f.f1.toNat + j, t, w.loadLevel, fun e =>
      let q := j * l + e + k
      if q < all then ⟨rawCode a (f.f1.toNat + q / l) t.bits (q % l), 0⟩
      else encodeNum t (.ofField f.rnd) f.sat 0 (v.at (q - all))), none, none⟩

/-- Element i of a stream (R223, R231). -/
def streamPlace (x : Stream) (i : Nat) : Elem × Nat :=
  let t := (Tag.ofCode (x.fmt.toNat % 16)).getD .i8
  if x.unit = true ∧ t = .t6 then (⟨i, x.base + BitVec.ofNat 64 (6 * i / 8), (6 * i % 8 + 13) / 8⟩, 6 * i % 8)
  else (⟨i, x.base + BitVec.ofInt 64 (i * x.stride), t.bytes⟩, 0)

/-- Code and granule level of element i of a stream as the DAU fetches it; none where it faults (R226, R233, R322). -/
def streamCode (s : State) (x : Stream) (g : Group) (spire i : Nat) : Option (Nat × Nat) :=
  let t := (Tag.ofCode (x.fmt.toNat % 16)).getD .i8
  match s.placeElem g spire x.space (if x.unit = true ∧ t = .t6 then 0 else min t.bytes 8) false (streamPlace x i).1 with
  | .error _ => none
  | .ok q =>
    let l := (q.phys.head?.map fun y => tagLevel (s.granule y.key)).getD 0
    let v := leNat (q.phys.map fun y => s.byte y.key)
    if q.phys.all fun y => tagLevel (s.granule y.key) == l then
      some (if t = .t6 then v / 2 ^ (streamPlace x i).2 % 64 else v, l) else none

/-- Only stream buffer n of a Spire differs, and holds x. -/
def StreamOnly (s : State) (spire n : Nat) (x : Stream) (t : State) : Prop :=
  t.streams.find (8 * spire + n) = some x ∧ (∀ k, k ≠ 8 * spire + n → t.streams.find k = s.streams.find k) ∧
    t = { s with streams := t.streams }

/-- Only copy tag n of a Spire differs, and holds x. -/
def CopyOnly (s : State) (spire n : Nat) (x : CopyTag) (t : State) : Prop :=
  t.copies.find (8 * spire + n) = some x ∧ ∀ k, k ≠ 8 * spire + n → t.copies.find k = s.copies.find k

/-- Only slot n of a Spire differs, and holds x. -/
def SlotOnly (s : State) (spire n : Nat) (x : Slot) (t : State) : Prop :=
  t.slots.find (256 * spire + n) = some x ∧ ∀ k, k ≠ 256 * spire + n → t.slots.find k = s.slots.find k

/-- The instructions whose stall is a switch point (R128). -/
def switchPoint : Instr → Bool
  | .qrd .. | .wait .. | .cpwait .. | .twait .. | .barWt .. | .barAw .. => true
  | _ => false

/-- t is v after a switch point of hart k, which is h there: issue passes to the partner on its partition, if that one can issue (R128, R131). -/
def IssuePassed (v : State) (k : Nat) (h : Hart) (t : State) : Prop :=
  let passes (j : Nat) (x : Hart) : Prop := h.convoy = 0 ∧ v.partner k h = some (j, x) ∧ x.live = true
  (∀ j x, passes j x → (∃ p w, h.seat = some (p, w) ∧ Store.get 0 t.issuing (8 * spireOf k + p) = j + 1) ∧
    t = { v with harts := t.harts, issuing := t.issuing } ∧
    ∀ m, t.hart m = if m = j then (v.hart j).map fun y => { y with stalled := false } else v.hart m) ∧
  ((∀ j x, ¬passes j x) → t = v)

/-- t is u after hart k stalls on instruction i and stands at h: nothing else changes, but that at a switch point outside a convoy issue
passes to its partner, where that one runs (R128). -/
def Stalls (i : Instr) (u : State) (k : Nat) (h : Hart) (t : State) : Prop :=
  (switchPoint i = true → IssuePassed (u.setHart k h) k h t) ∧ (switchPoint i = false → t = u.setHart k h)

/-- Instruction i of the current hart, which is h, waits: it is tried again, and the module stands at u and the hart at h' but for the
wait, which counts in hstall where it is for data (R50). -/
def WaitsAs (i : Instr) (u : State) (h h' : Hart) (mem : Bool) (s : State) : Prop :=
  ∃ t, exec i s = .next t ∧
    Stalls i u s.cur { h' with stalled := true, memStall := mem, awaited := if mem then Machine.Hart.awaits h i else [] } t
def Waits (i : Instr) (u : State) (h : Hart) (p : Option Pending) (mem : Bool) (s : State) : Prop :=
  WaitsAs i u h { h with pending := p } mem s

/-- The keys of chunk j's destination bytes with those of its source, in the order in which they move (R235). -/
def chunkMoves (t : CopyTag) (j : Nat) : List (Nat × Nat) :=
  let up := ((List.range t.len).filter fun o => o / 512 = j).filterMap fun o =>
    match t.src.find? (fun r => r.off ≤ o && o < r.off + r.len), t.dst.find? (fun r => r.off ≤ o && o < r.off + r.len) with
    | some r, some w => some (w.key + (o - w.off), r.key + (o - r.off))
    | _, _ => none
  if t.desc = some true then up.reverse else up

/-- Chunk j of a copy has landed, or its link has failed first. -/
def chunkOver (t : CopyTag) (j : Nat) : Prop := t.landed.testBit j = true ∨ t.lost.testBit j = true

/-- Chunk j may land (R235): not yet over, and next in the order that overlapping ranges fix. -/
def chunkNext (t : CopyTag) (j : Nat) : Prop :=
  t.busy = true ∧ j < t.chunks ∧ ¬chunkOver t j ∧ t.landed < 2 ^ t.chunks ∧ t.lost < 2 ^ t.chunks ∧
    (t.desc = some true → ∀ i, j < i → i < t.chunks → chunkOver t i) ∧ (t.desc = some false → ∀ i, i < j → chunkOver t i)

/-- The copy after chunk j is over: with the last one the copy is, and its pins go (R235, R254). -/
def chunkEnds (t : CopyTag) (j : Nat) (x : CopyTag) : CopyTag :=
  if ∀ i, i < t.chunks → i = j ∨ t.landed.testBit i = true ∨ t.lost.testBit i = true then { x with busy := false, pins := [] } else x

/-- The new value of an operation at a bank on codes of w bits (Table 14.4). -/
def bankResult (op w old v : Nat) : Nat :=
  let x := (BitVec.ofNat w old).toInt
  let y := (BitVec.ofNat w v).toInt
  if op = 0 then (old + v) % 2 ^ w
  else if op = 1 then (max (-2 ^ (w - 1)) (min (2 ^ (w - 1) - 1) (x + y)) % 2 ^ w).toNat
  else if op = 2 then (min x y % 2 ^ w).toNat
  else if op = 3 then (max x y % 2 ^ w).toNat
  else if op = 4 then v
  else if op = 5 then min (old + v) (2 ^ w - 1)
  else
    let t : Tag := if w = 64 then .f64 else .f32
    (encodeNum t .rne false 0 (addNum .rne (floatValue t old) (floatValue t v)).val).val

/-- Counter c of a counting filter at a base (R217): the key of its byte as placed, and its value. -/
def counterAt (s : State) (p : Placed) (c : Nat) : Nat := leNat (p.phys.map fun y => s.byte y.key) / 16 ^ (c % 2) % 16

/-- Only group gid differs among the groups, and it is y. -/
def GroupOnly (s : State) (gid : Nat) (y : Group) (t : State) : Prop := t.group gid = some y ∧ ∀ j, j ≠ gid → t.group j = s.group j

/-- The tasks of a group after task n takes f. -/
def taskMapped (l : List Task) (n : BitVec 32) (f : Task → Task) : List Task := l.map fun t => if t.num = n then f t else t

/-- A wait on a counter (R116, R304): the counter has reached v, in the half circle above it. -/
def counterReached (c v : BitVec 32) : Prop := (c - v).toNat < 2 ^ 31

/-- A field of n bytes at offset o of a record, least significant first. -/
def field (r : List Byte) (o n : Nat) : Nat := leNat ((r.drop o).take n)

/-- y is group g after its token j has taken value v: no task changes before it starts (R304, R307, R309, Table 21.3). -/
def TokenWritten (g : Group) (j : Nat) (v : BitVec 32) (y : Group) : Prop :=
  y = { g with tokens := y.tokens } ∧ Store.get 0 y.tokens j = v ∧ ∀ i, i ≠ j → Store.get 0 y.tokens i = Store.get 0 g.tokens i

/-- Rows, columns and first ones that position p of a quad computes (R296), and the positions that take part. -/
def rowsAt (r : List Byte) (p : Nat) : Nat := min 256 (field r 36 2 - 256 * (p / 2))
def colsAt (r : List Byte) (p : Nat) : Nat := min 256 (field r 38 2 - 256 * (p % 2))
def positions (r : List Byte) : List Nat := (List.range 4).filter fun p => rowsAt r p != 0 && colsAt r p != 0

/-- Arrays of a group's quad that a task in progress holds (R305, R310). -/
def arrayFree (g : Group) (p : Nat) : Prop := ∀ t ∈ g.tasks, t.state = .running ∨ t.state = .suspended → p ∉ positions t.record

/-- The tag that byte o of a record names, and the bias of byte o, which only a tapered format has (Table 21.1, R306). -/
def recordTag (r : List Byte) (o : Nat) : Tag := (Tag.ofCode (field r o 1)).getD .i8
def recordBias (r : List Byte) (t : Tag) (o : Nat) : Int := if t.isTapered then (r.getD o 0).toInt else 0

/-- The value of element (row, col) of a matrix operand in format t: its bits in its row as position p of the group's quad reads them
through the matrix cache; none for a reserved code (R69, R300). -/
def operandValue (s : State) (g : Group) (p sp : Nat) (t : Tag) (base stride row col : Nat) : Option Num :=
  let o := t.memBits * col
  let bytes := (List.range ((o % 8 + t.memBits + 7) / 8)).map fun i =>
    match ({ s with tlb := s.mtlb }).place g (4 * g.quad + p) sp (BitVec.ofNat 64 (base + row * stride + o / 8 + i)) false false with
    | .at q => s.byte q.key
    | .fault .. => 0
  decodeNum t 0 (leNat bytes / 2 ^ (o % 8) % 2 ^ t.memBits)

/-- A(a, k) and W(k, b) of a record at position p (R296, R297). -/
def valueA (s : State) (g : Group) (r : List Byte) (p a k : Nat) : Option Num :=
  let t := recordTag r 42
  operandValue s g p (field r 50 1 % 4) t (field r 0 8) (field r 24 4) (256 * (p / 2) + a) k
def valueW (s : State) (g : Group) (r : List Byte) (p k b : Nat) : Option Num :=
  let t := recordTag r 43
  operandValue s g p (field r 50 1 / 4 % 4) t (field r 8 8) (field r 28 4) k (256 * (p % 2) + b)

/-- A value rounded to binary32, to the nearest with ties to even. -/
def toF32 (x : Fl Num) : Num := (roundNE .f32 x.val).val

/-- An accumulator element after the 256 products of K-step n, its operands scaled by their biases (R70): modulo 2^32 on integers; on floats each product, each partial sum and
the final sum is rounded. c is the element before, 0 where the task starts from zero. -/
def foldedElem (s : State) (g : Group) (r : List Byte) (n p a b : Nat) (c : BitVec 32) : BitVec 32 :=
  let x (k : Nat) : Num := ((valueA s g r p a (256 * n + k)).getD .zero).scale (recordBias r (recordTag r 42) 44)
  let y (k : Nat) : Num := ((valueW s g r p (256 * n + k) b).getD .zero).scale (recordBias r (recordTag r 43) 45)
  if (recordTag r 42).isInt && (recordTag r 43).isInt then
    BitVec.ofInt 32 (c.toNat + ((List.range 256).map fun k => (x k).floor * (y k).floor).sum)
  else
    let sum := (List.range 256).foldl (fun z k => toF32 (addNum .rne z (toF32 (mulNum (x k) (y k))))) Num.zero
    BitVec.ofNat 32 (floatCode .f32 (toF32 (addNum .rne (floatValue .f32 c.toNat) sum)))

/-- Reserved codes that a K-step meets (R306). -/
def reservedMet (s : State) (g : Group) (r : List Byte) (n : Nat) : Nat :=
  ((positions r).map fun p =>
    ((List.range (rowsAt r p)).map fun a => (List.range 256).countP fun k => (valueA s g r p a (256 * n + k)).isNone).sum +
    ((List.range 256).map fun k => (List.range (colsAt r p)).countP fun b => (valueW s g r p (256 * n + k) b).isNone).sum).sum

/-- Nothing stands before an access, in class cls over the links that on accepts, of an engine of hart idx of group gid (R276, R280, R287,
R288): no request on those links, no queued access of that hart in the class, and no ticket or link's answer that the hart itself waits for
(log 6). -/
def NothingBefore (s : State) (gid idx : Nat) (cls : BitVec 4) (on : Nat → Prop) : Prop :=
  (∀ q ∈ s.homeq, s.queued q = true → (∀ l, q.link = some l → ¬on l) ∧
    ∀ j z, s.member gid idx = some (j, z) → q.hart = j → q.cls ≠ cls) ∧
  ∀ j z x, s.member gid idx = some (j, z) → s.hart j = some x →
    (∀ a b c d e, x.pending ≠ some (.ticket a b c d e)) ∧ ∀ a b c d, x.pending ≠ some (.remote a b c d)

/-- An element of an accumulator in State.acc (R51). -/
def accElem (g : Group) (p ac a b : Nat) : Nat := 2 ^ 17 * (4 * g.quad + p) + 2 ^ 16 * ac + 256 * a + b

/-- The stored code of a result (R306). -/
def resultOf (r : List Byte) (c : BitVec 32) : Nat :=
  let t := recordTag r 47
  let x := if (recordTag r 42).isInt && (recordTag r 43).isInt then Num.ofInt c.toInt else floatValue .f32 c.toNat
  let m := Rnd.ofField ((r.getD 48 0).extractLsb' 0 2)
  let sat := (r.getD 48 0).getLsbD 2
  let b := (r.getD 49 0).toInt
  (if t.isTapered then encodeNum t m sat b x else encodeNum t m sat 0 (x.scale (-b))).val

/-- The bytes of row a of C at position p (R300, R306): the codes of its columns packed from the row's first bit on. -/
def writesC (s : State) (g : Group) (r : List Byte) (p a : Nat) : List ByteWrite :=
  let t := recordTag r 47
  let cols := colsAt r p
  let bits := ((List.range cols).map fun b =>
    resultOf r (Store.get 0 s.acc (accElem g p ((r.getD 46 0).getLsbD 1).toNat a b)) % 2 ^ t.memBits * 2 ^ (t.memBits * b)).sum
  (List.range ((t.memBits * cols + 7) / 8)).map fun i =>
    let at_ := field r 16 8 + (256 * (p / 2) + a) * field r 32 4 + t.memBits * (256 * (p % 2)) / 8 + i
    let key := match ({ s with tlb := s.mtlb }).place g (4 * g.quad + p) (field r 50 1 / 16 % 4) (BitVec.ofNat 64 at_) true false with
      | .at q => q.key
      | .fault .. => 0
    ⟨key, BitVec.ofNat 8 ((2 ^ (t.memBits * cols) - 1) / 2 ^ (8 * i)), BitVec.ofNat 8 (bits / 2 ^ (8 * i))⟩

/-- Command n, with OPC opc, is c: the oldest command of its context, and not begun (R93). -/
def CmdTurn (s : State) (n opc : Nat) (c : Cmd) : Prop :=
  s.cmds.find n = some c ∧ c.opc = opc ∧ c.started = false ∧ c.refused = false ∧ ∀ x ∈ s.cmds, x.2.ctx = c.ctx → n ≤ x.1

/-- Command n of u, which is c, ends with a STATUS code (R94 step 3, R370): journal, STATUS in its slot of the ring while the host link
carries flits, MQDONE, MSI-X. Nothing else of u differs. -/
def CmdEnds (u : State) (n : Nat) (c : Cmd) (code : Nat) (t : State) : Prop :=
  let at_ := hostKey (u.mqBase.toNat + 64 * (c.slot % 2 ^ (u.mqCfg.toNat / 2 ^ 16 % 16)) + 56)
  t.cmds.find n = none ∧ (∀ j, j ≠ n → t.cmds.find j = u.cmds.find j) ∧ t.mqDone = u.mqDone + 1 ∧
    t.msix = u.msix + (u.mqCfg.getLsbD 1).toNat ∧ t.jnext = u.jnext + 1 ∧
    t.journal.head? = some ⟨2, c.ctx, c.opc, BitVec.ofNat 32 code, c.seq.setWidth 64, 0⟩ ∧
    (u.linkUp hostLink = true → (∀ i, i < 4 → t.byte (at_ + i) = BitVec.ofNat 8 (code / 2 ^ (8 * i))) ∧
      ∀ k, (k < at_ ∨ at_ + 4 ≤ k) → t.byte k = u.byte k) ∧
    t = { u with
      mem := t.mem, held := t.held, cmds := t.cmds, mqDone := t.mqDone, msix := t.msix, journal := t.journal, jnext := t.jnext }

/-- Command n ends at once with a STATUS code, with no other effect. -/
def Refused (i : Instr) (s : State) (n : Nat) (c : Cmd) (code : Nat) : Prop := ∃ t, exec i s = .next t ∧ CmdEnds s n c code t

/-- Only context c differs among the contexts, and it is y. -/
def CtxOnly (s : State) (c : Nat) (y : Ctx) (t : State) : Prop := t.ctx c = y ∧ ∀ d, d ≠ c → t.ctx d = s.ctx d

/-- t is s with command n of context c begun and c at y, its command n; the capability table has changed g times. -/
def Begun (s : State) (n c : Nat) (m : Cmd) (y : Ctx) (g : Nat) (t : State) : Prop :=
  CtxOnly s c { y with cmd := some n } t ∧ t.cmds.find n = some { m with started := true } ∧
    (∀ j, j ≠ n → t.cmds.find j = s.cmds.find j) ∧ t.capGen = s.capGen + BitVec.ofNat 32 (2 * g)

/-- Quads of a mask, and the free granules of the pool, lowest first (Table 6.3). -/
def maskQuads (m : Word) : List Nat := (List.range 64).filter fun q => m.getLsbD q
def poolGranules (s : State) : List Nat := (List.range 128).filter fun g => s.ctxs.all fun x => !x.2.granules.contains g

/-- The pool can give these quads, none of them fenced, and this many granules (R98, R102). -/
def PoolGives (s : State) (m : Word) (granules : Nat) : Prop :=
  m ≠ 0 ∧ granules ≤ (poolGranules s).length ∧ ∀ q ∈ maskQuads m, (∀ x ∈ s.ctxs, q ∉ x.2.quads) ∧
    ∀ p, p < 4 → 4 * q + p ∉ s.fencedSpires ∧ 4 * q + p ∉ s.fencedShafts

/-- No work of context c is left (R96, R100): no hart, group or kernel. -/
def NoWork (c : Nat) (s t : State) : Prop :=
  (∀ x ∈ t.kernels, x.2.ctx ≠ c) ∧ (∀ x ∈ t.groups, x.2.ctx ≠ c) ∧
    (∀ x ∈ t.harts, ∀ g, s.group x.2.gid = some g → g.ctx ≠ c) ∧
    ∀ k h, s.harts.filter (fun x => x.1 = k) = [(k, h)] → (∀ g, s.group h.gid = some g → g.ctx ≠ c) → t.hart k = some h

/-- Quad q reads as zeros (R92): its shafts, local stores and accumulators. -/
def QuadZero (q : Nat) (t : State) : Prop :=
  (∀ k, 2 ^ 33 * q ≤ k → k < 2 ^ 33 * (q + 1) → t.byte k = 0) ∧
    (∀ k, lsKey (4 * q) 0 ≤ k → k < lsKey (4 * (q + 1)) 0 → t.byte k = 0) ∧ ∀ k, k / 2 ^ 19 = q → Store.get 0 t.acc k = 0

/-- LIMIT's instances of a resource (Table 6.7). -/
def limited (rid : Nat) : Nat := ([(5, 4), (6, 6), (10, 64), (11, 1), (12, 1)].find? fun x => x.1 = rid).elim 0 (·.2)

/-- Bytes of the image of group g: B of R347, rounded up to 64 KiB. -/
def imageBytes (g : Group) : Nat :=
  (16384 + 4096 * g.nhart + 4 * g.lspan + 2 ^ 21 +
    (if g.lanes = 0 then 0 else 5 * g.nhart * 65536 / (32 / g.lanes * (if g.pair then 2 else 1))) + 65535) / 65536 * 65536

/-- Image slots for the groups of context c that a pre-emption of some quads will park: inside the pool, apart from each other and from every
image and every slot that another pre-emption counts (R344, R347). -/
def PoolPlanned (s : State) (c : Nat) (quads : List Nat) (plan : List (Nat × Nat)) : Prop :=
  let x := s.ctx c
  let size (gid : Nat) : Nat := ((s.group gid).map imageBytes).getD 0
  let parks (g : Group) : Prop := g.ctx = c ∧ g.quad ∈ quads ∧ (g.state = .running ∨ g.state = .forming)
  (∀ p ∈ plan, x.saveBase.toNat ≤ p.2 ∧ p.2 + size p.1 ≤ x.saveBase.toNat + x.saveLen.toNat) ∧
  plan.Pairwise (fun p q => p.2 + size p.1 ≤ q.2 ∨ q.2 + size q.1 ≤ p.2) ∧
  (s.groups.Pairwise (fun a b => a.1 < b.1) →
    (∀ y ∈ s.groups, (∃ p ∈ plan, p.1 = y.1) ↔ parks y.2 ∧ y.2.reserved = none) ∧
    ∀ y ∈ s.groups, ∀ a, y.2.ctx = c → y.2.image.map (·.address) = some a ∨
        (y.2.image = none ∧ (y.2.state = .running ∨ y.2.state = .forming) ∧ y.2.reserved = some a) →
      ∀ p ∈ plan, p.2 + size p.1 ≤ a ∨ a + imageBytes y.2 ≤ p.2)

/-- The groups of context c that run on some quads are under pre-emption in t: their harts stop issue (R345), and the slots that the plan
counts are theirs (R347). -/
def Preempted (s : State) (c : Nat) (quads : List Nat) (plan : List (Nat × Nat)) (t : State) : Prop :=
  let slot (k : Nat) (g : Group) : Option Nat := match plan.find? fun p => p.1 = k with
    | some p => some p.2
    | none => g.reserved
  (∀ k g, s.groups.filter (fun y => y.1 = k) = [(k, g)] → t.group k = some { g with
    reserved := slot k g, wantPark := g.wantPark || decide (g.ctx = c ∧ g.quad ∈ quads ∧ g.state = .running) }) ∧
  ∀ k h g, s.hart k = some h → s.group h.gid = some g → s.groups.filter (fun y => y.1 = h.gid) = [(h.gid, g)] →
    t.hart k = some (if g.ctx = c ∧ g.quad ∈ quads ∧ g.state = .running then { h with stopped := true } else h)

/-- Link x after a change of state (R102, R331, Table 24.3). -/
def linkEntered (x : Link) (st : LinkState) (lanes rate : Nat) : Link :=
  let fresh := (x.state = .down ∨ x.state = .failed) ∧ st ≠ .down ∧ st ≠ .failed
  { state := st, lanes := lanes, rate := rate, tries := 0, replay := if fresh then 0 else x.replay, corr := if fresh then 0 else x.corr
    retrain := if fresh then 0 else if st = .training ∧ (x.state = .up ∨ x.state = .degraded) then min (x.retrain + 1) 255 else x.retrain }

/-- A hart that has not halted once link l is dead (R335, log 48): a load that waits for the link is cut off, and faults at its own pc when
it is tried again, whatever the link does until then; an atomic that waits is over; and the deferred fault of an unacknowledged store, with
its element, or else of an atomic, is queued once, with the link's number. -/
def LinkLost (l : Nat) (h u : Hart) : Prop :=
  let load := ∃ r b q, h.pending = some (.remote r b false q) ∧ l ∈ r
  let rmw := (∃ r b q, h.pending = some (.remote r b true q) ∧ l ∈ r) ∨ ∃ r v, h.pending = some (.answered r v) ∧ l ∈ r
  let fault (pc : Word) (e : Nat) : Async := ⟨⟨17, 5, true, false, e, BitVec.ofNat 64 l⟩, pc, none⟩
  u = { h with pending := u.pending, unacked := h.unacked.filter fun v => v.link != l, async := u.async } ∧
    (load → u.pending = some (.cut [l])) ∧ (rmw → u.pending = none) ∧ (¬load → ¬rmw → u.pending = h.pending) ∧
    (∀ v, (h.unacked.find? fun v => v.link == l) = some v → u.async = h.async ++ [fault v.pc v.idx]) ∧
    ((∀ v ∈ h.unacked, v.link ≠ l) → (rmw → u.async = h.async ++ [fault h.arch.pc 0]) ∧ (¬rmw → u.async = h.async))

/-- TOTAL of a link in the capability table (R102, Table 6.7): a degraded fabric link counts by its lanes, the host link by its lanes and rate
while it carries flits (without its encoding, log 69). -/
def linkTotal (s : State) (l : Nat) : Nat :=
  let x := s.link l
  if l = hostLink then (if x.state = .up ∨ x.state = .degraded then x.lanes * x.rate * 250 / 128 else 0)
  else if l ∈ s.fencedLinks then 0
  else if x.state = .degraded then 2500 * x.lanes / 4 else 2500

/-- y is copy tag x once link l is dead (R334, R335): every chunk that crosses it and has not landed is lost, and with the last one the copy is
over. That such a chunk leaves its bit 0 is the model's choice (log 43). -/
def ChunksLost (l : Nat) (x y : CopyTag) : Prop :=
  let lost (j : Nat) : Prop := x.busy = true ∧ j < x.chunks ∧ x.landed.testBit j = false ∧ x.lost.testBit j = false ∧
    ∃ r ∈ x.runs j, r.link = some l
  ((∀ j, ¬lost j) → y = x) ∧
  ((∃ j, lost j) → x.landed < 2 ^ x.chunks → x.lost < 2 ^ x.chunks →
    y = { x with lost := y.lost, revk := true, busy := y.busy, pins := y.pins } ∧
    (∀ j, y.lost.testBit j = true ↔ x.lost.testBit j = true ∨ lost j) ∧
    ((∀ j, j < x.chunks → x.landed.testBit j = true ∨ y.lost.testBit j = true) → y.busy = false ∧ y.pins = []) ∧
    ((∃ j, j < x.chunks ∧ x.landed.testBit j = false ∧ y.lost.testBit j = false) → y.busy = x.busy ∧ y.pins = x.pins))

/-- Link l of s has entered a state (Tables 24.1, 24.2; R101, R332, R335, R337, R370): counters, journal, GEN of the capability table where its
entry changes; on a dead link what was not acknowledged ends; on the host link what was held goes on or is dropped. Nothing else changes,
where no notification or trace record waits for a link. -/
def LinkMoved (s : State) (l : Nat) (st : LinkState) (lanes rate : Nat) (t : State) : Prop :=
  let dead := st = .down ∨ st = .failed
  let carries := st = .up ∨ st = .degraded
  t.link l = linkEntered (s.link l) st lanes rate ∧ (∀ j, j ≠ l → t.link j = s.link j) ∧
  t.jnext = s.jnext + 1 ∧ t.capGen = (if linkTotal t l = linkTotal s l then s.capGen else s.capGen + 2) ∧
  t.journal.head? = some ⟨6, 0xFF, l, (match st with | .down => 0 | .training => 1 | .up => 2 | .degraded => 3 | .failed => 4), 0, 0⟩ ∧
  (st = .training ∨ (s.notices = [] ∧ s.traces = []) →
    (¬dead → ¬(l = hostLink ∧ carries) →
      t = { s with links := t.links, journal := t.journal, jnext := t.jnext, capGen := t.capGen }) ∧
    (l = hostLink → carries → t.held = [] ∧
      t = { s with links := t.links, journal := t.journal, jnext := t.jnext, capGen := t.capGen, held := [], mem := t.mem } ∧
      ∀ k, t.byte k = s.held.foldl
        (fun b w => if hostKey w.1 ≤ k ∧ k < hostKey w.1 + w.2.length then w.2.getD (k - hostKey w.1) 0 else b) (s.byte k)) ∧
    (l = hostLink → dead → t.held = []) ∧
    (dead → t.homeq = s.homeq.filter (fun q => q.link != some l) ∧
      t = { s with
        links := t.links, journal := t.journal, jnext := t.jnext, capGen := t.capGen, held := t.held, homeq := t.homeq, harts := t.harts
        copies := t.copies } ∧
      (∀ k x, s.copies.find k = some x → ∃ y, t.copies.find k = some y ∧ ChunksLost l x y) ∧
      ∀ k h, s.hart k = some h → h.halted = false → ∃ u, t.hart k = some u ∧ LinkLost l h u))

/-- Kernel token j of context c has taken a value: waiting kernels whose condition is met enter PLACING, and their queues go on (R115,
R116). Nothing else changes. -/
def TokenSet (s : State) (c j : Nat) (v : BitVec 32) (t : State) : Prop :=
  let token (i : Nat) : BitVec 32 := if i = j then v else (s.ctx c).kt i
  let wakes (k : Kernel) : Prop := k.ctx = c ∧ k.state = .waiting ∧ (token k.wtok - k.wval).toNat < 2 ^ 31
  t = { s with ctxs := t.ctxs, kernels := t.kernels } ∧ (∀ d, d ≠ c → t.ctx d = s.ctx d) ∧
    t.ctx c = { s.ctx c with ktok := (t.ctx c).ktok, queues := (t.ctx c).queues } ∧ (∀ i, (t.ctx c).kt i = token i) ∧
    (∀ n k, s.kernels.find n = some k → t.kernels.find n = some (if wakes k then { k with state := .placing } else k)) ∧
    ∀ q, (∀ n k, (s.queue c q).last = some n → s.kernels.find n = some k → k.queue = q) →
      t.queue c q = if (∃ x ∈ s.kernels, wakes x.2 ∧ x.2.queue = q) ∧ (s.queue c q).state ≠ .idle ∧ (s.queue c q).state ≠ .stopped
        then queueMoved t (s.queue c q) ((s.queue c q).wp - (s.queue c q).rp).toNat else s.queue c q

/-- Kernel n of u, which is k, has ended (R113, R119, R120, Table 7.6): state, STATUS, journal, QDONE and the queue's reaction, a pending
CLEAR among it. Nothing else changes. -/
def KernelEnds (u : State) (n : Nat) (k : Kernel) (st : KernelState) (status : Nat) (t : State) : Prop :=
  let x := { u.queue k.ctx k.queue with done := (u.queue k.ctx k.queue).done + 1 }
  let z := if st = .aborted ∧ x.cfg.getLsbD 0 = true ∧ x.state ≠ .idle ∧ x.state ≠ .stopped then { x with state := .stopped, err := 4 } else x
  let clears := z.clearing = true ∧ z.state = .stopped ∧
    ∀ w ∈ t.kernels, w.2.ctx = k.ctx → w.2.queue = k.queue → w.2.state = .done ∨ w.2.state = .aborted
  let ended : Entry := ⟨4, k.ctx, k.queue, BitVec.ofNat 32 status, k.cookie, BitVec.ofNat 64 k.record⟩
  t = { u with kernels := t.kernels, journal := t.journal, jnext := t.jnext, ctxs := t.ctxs } ∧
    t.kernels.find n = some { k with state := st, status := status } ∧ (∀ j, j ≠ n → t.kernels.find j = u.kernels.find j) ∧
    (¬(clears ∧ z.wp ≠ 0) → t.jnext = u.jnext + 1 ∧ t.journal.head? = some ended) ∧
    (clears ∧ z.wp ≠ 0 → t.jnext = u.jnext + 2 ∧ t.journal.take 2 = [⟨3, k.ctx, k.queue, 0, z.wp.setWidth 64, 0⟩, ended]) ∧
    QueueOnly u k.ctx k.queue (if clears then { z with wp := 0, rp := 0, done := 0, state := .idle, clearing := false } else z) t

/-- A context that takes doorbells (R103). -/
def Doorbells (s : State) (c : Nat) : Prop := (s.ctx c).state ∈ [.active, .growing, .shrinking]

/-- Group n of s, which is g, has no work left and is to be DONE (Table 9.2, R119): no task runs, its subscriptions are closed, no copy of
it touches local store, and its harts have halted with every access performed. -/
def Drained (s : State) (n : Nat) (g : Group) : Prop :=
  s.group n = some g ∧ g.state = .draining ∧ (∀ t ∈ g.tasks, t.state ≠ .running) ∧ (∀ x ∈ s.slots, x.2.gid = n → x.2.state = .closed) ∧
    (∀ x ∈ s.copies, x.2.gid = n → x.2.busy = true → ∀ r ∈ x.2.src ++ x.2.dst, r.key < 2 ^ 41 ∨ 2 ^ 42 ≤ r.key) ∧
    ∀ x ∈ s.harts, x.2.gid = n → x.2.halted = true ∧ x.2.unacked = []

/-- The place in the save pool of the image of group g (R347). -/
def imageAt (s : State) (g : Group) : Nat := g.reserved.getD (s.ctx g.ctx).saveBase.toNat

/-- The 8 bytes at the place of the check word of an image are the first 64 bits of SHAKE256 over it, with zeros there, after the secret of a start
(R349; the place and the order are log 51's). -/
def CheckHolds (start : Nat) (l : List Byte) : Prop :=
  (l.drop checkOffset).take 8 =
    shake256 (Config.imageKey start ++ l.take checkOffset ++ List.replicate 8 0 ++ l.drop (checkOffset + 8)) 8

/-- Group n of s, which is g, is under pre-emption, the sequence of R345 before its image has ended, and its pool waits for no link. -/
def ReadyToPark (s : State) (n : Nat) (g : Group) : Prop :=
  s.group n = some g ∧ g.state = .running ∧ g.wantPark = true ∧
    (∀ x ∈ s.harts, x.2.gid = n → (x.2.halted = true ∧ x.2.unacked = []) ∨
      (x.2.exits = [] ∧ x.2.held = [] ∧ x.2.unacked = [] ∧ x.2.landing = [] ∧ x.2.finishing = false)) ∧
    (∀ x ∈ s.copies, x.2.gid = n → x.2.busy = false) ∧ (∀ x ∈ s.slots, x.2.gid = n → x.2.state ∈ [.parked, .closed, .free]) ∧
    ∀ p, some p ∈ s.poolPages g (imageAt s g) → ∀ l, p.link = some l → s.linkUp l = true

/-- Quads on which a context places groups (R97, R344). -/
def openQuads (x : Ctx) : List Nat := x.quads.filter fun q => !x.suspended.contains q && !x.leaving.contains q

/-- The oldest request of frame f at a pipe, D at a pipe of hart x % 64 of group x / 64, and Q of a group's harts (R130). -/
def asks (s : State) (spire pipe f : Nat) : Option PipeWork := s.pipeWork.find? fun w => w.spire = spire ∧ w.pipe = pipe ∧ w.frame = f
def credit (s : State) (pipe x : Nat) : Int := Store.get 0 s.deficits (8 * x + pipe)
def refillOf (s : State) (gid : Nat) : Int := 256 * (1 + (((s.group gid).bind fun g => s.kernels.find g.kernel).elim 0 (·.prio) : Int))

/-- A trace record of work w in a clock, at its begin (0) or its end (1) (R360, Table 27.4). -/
def traceBytes (clock : Word) (w : PipeWork) (done : Nat) : List Byte :=
  let tag : BitVec 32 := if w.pipe = 5 then Config.dauTag w.unit w.item
    else if w.pipe = 6 then BitVec.ofNat 32 (w.unit * 2 ^ 29 + w.item) else BitVec.ofNat 32 w.item
  (List.range 16).map fun i => BitVec.ofNat 8
    ((clock.toNat % 2 ^ 48 + w.spire % 256 * 2 ^ 48 + (128 * done + w.pipe) % 256 * 2 ^ 56 + w.frame % 256 * 2 ^ 64 + tag.toNat * 2 ^ 96) / 2 ^ (8 * i))

/-- Work w of s is recorded at its begin (0) or its end (1), where its context's mask names the pipe (R360). -/
def Traced (s : State) (w : PipeWork) (done : Nat) : State :=
  if (s.ctx w.ctx).trace.cfg.getLsbD (8 + w.pipe) then s.traceAdd w.ctx (traceBytes s.dclk w done) else s

/-- A pipe of s accepts the work w, which leaves its requests and is under way until the next clock (R360, log 65). -/
def Granted (s : State) (w : PipeWork) (t : State) : Prop :=
  t = Traced { s with pipeWork := s.pipeWork.erase w, pipeBusy := s.pipeBusy ++ [w] } w 0

/-- The registers of context c's virtual function answer (R103); the hart that DSEL selects (R354). -/
def HostOpen (s : State) (c : Nat) : Prop := s.status = .ready ∧ (s.ctx c).state ≠ .absent ∧ (s.ctx c).state ≠ .forming
def Selected (s : State) (c k : Nat) (h : Hart) : Prop :=
  HostOpen s c ∧ k = (s.ctx c).dsel.toNat % 4096 ∧ s.hart k = some h ∧ s.ctxOf h = c ∧ h.halted = false ∧ k / 64 ∈ (s.ctx c).quads

/-- STATE 2 of a hart (Table 27.2). -/
def HaltedHart (h : Hart) : Prop := h.dbg.halted = true ∧ h.dbg.replay = false

/-- When an item of hart k, which is h in group g, may be read, and its value (Table 27.3, R357). -/
def itemOpen (s : State) (h : Hart) (g : Group) (kind idx : Nat) : Prop :=
  kind ≤ 10 ∧ (kind ∈ [0, 1, 2, 3, 4, 9, 10] → HaltedHart h) ∧ (kind ∈ [2, 3, 4] → h.seat.isSome = true) ∧
    (kind = 1 → readableIndex (BitVec.ofNat 4 (idx / 256)) (BitVec.ofNat 8 idx) = true) ∧
    (kind = 2 → 64 * (idx % 4096) < s.regBytes h) ∧ (kind = 3 → idx / 4096 % 64 < h.arch.shape ∧ 8 * (idx % 4096) < s.regBytes h) ∧
    (kind = 4 → idx % 64 < h.arch.shape) ∧ (kind = 5 → g.claim = true)
def itemValue (s : State) (k : Nat) (h : Hart) (g : Group) (kind idx : Nat) : Word :=
  let a := h.arch
  let bar := Store.get .zero g.barriers (idx % 64)
  let acc (i : Nat) : Nat := (Store.get 0 s.acc (accElem g (k / 16 % 4) (idx / 2 ^ 16 % 2) (idx / 256 % 256) (2 * (idx % 128) + i))).toNat
  match kind with
  | 0 => h.reg (BitVec.ofNat 6 idx)
  | 1 => s.control h (BitVec.ofNat 4 (idx / 256)) (BitVec.ofNat 8 idx)
  | 2 => BitVec.ofNat 64 (a.mask (s.regBytes h) (idx / 4096 % 16) / 2 ^ (64 * (idx % 4096)))
  | 3 => BitVec.ofNat 64 (Store.get 0 a.v (idx / 4096 % 64) / 2 ^ (64 * (idx % 4096)))
  | 4 => BitVec.ofNat 64 (a.domOf (idx % 64) * 16 + (a.tagOf (idx % 64)).code)
  | 5 => BitVec.ofNat 64 (acc 0 + 2 ^ 32 * acc 1)
  | 6 => bar.word
  | 7 => bar.amask
  | 8 => (Store.get 0 g.tokens (idx % 64)).setWidth 64
  | 9 => (a.lq.getD (idx % 8) 0).setWidth 64
  | _ => match a.qb.find (idx % 8) with
    | some q => BitVec.ofNat 64 (q.idx * 256 + q.kind * 16 + idx % 8)
    | none => 0

/-- The words at offsets below `top` of the capability table, or of context x's view of it, are `read` (Tables 6.5 to 6.7, R101, R102). -/
def CapabilitiesRead (s : State) (view : Option Ctx) (top : Nat) (read : Nat → Word) : Prop :=
  let entry (e : Nat) (fields : List Nat) : Prop := ∀ w, w < 8 → 64 + 32 * e + 4 * w < top →
    read (64 + 32 * e + 4 * w) = BitVec.ofNat 64 (fields.getD w 0 % 2 ^ 32)
  let own (pool : Nat) (f : Ctx → Nat) : Nat := view.elim pool f
  let fenced (q : Nat) : Bool := (List.range 4).any fun p => (4 * q + p) ∈ s.fencedSpires || (4 * q + p) ∈ s.fencedShafts
  let free := (List.range 64).countP fun q => !fenced q && s.ctxs.all fun x => !x.2.quads.contains q
  let spires := (List.range 256).countP fun n => n ∈ s.fencedSpires || n ∈ s.fencedShafts
  let port (e rid inst total : Nat) : Prop := entry e [rid + 2 ^ 16 * inst, 64, total, total, 0,
    view.elim 0 fun x => (Store.get .zero x.buckets (2 ^ 16 * rid + inst)).limit]
  let host := s.link hostLink
  let setting (n : Nat) : Nat := (s.startRecord.find? fun e => e.step = 2 ∧ e.unit = n).elim 0 (·.setting)
  (0 < top → read 0 = 1) ∧ (4 < top → read 4 = 339) ∧ (8 < top → read 8 = 32) ∧ (12 < top → read 12 = s.capGen.setWidth 64) ∧
  (∀ w, 4 ≤ w → w < 16 → 4 * w < top → read (4 * w) = 0) ∧
  entry 0 [1, 1, 64, own free (·.quads.length), (List.range 64).countP fenced] ∧
  entry 1 [2, 1, 256, own (4 * free) (4 * ·.quads.length), spires] ∧
  entry 2 [3, 65536, 8388608, own (131072 * free) (131072 * ·.quads.length), 32768 * s.fencedShafts.length] ∧
  entry 3 [4, 1048576, 128, own (poolGranules s).length (·.granules.length)] ∧
  (∀ i, i < 4 → port (4 + i) 5 i 44800) ∧ (∀ i, i < 6 → port (8 + i) 6 i 31250) ∧
  entry 14 [7, 1, 64, own (64 - s.ctxs.countP fun x => x.2.state != .absent) fun _ => 1] ∧ entry 15 [8, 1, 16, 16] ∧ entry 16 [9, 1, 64, 64] ∧
  (∀ i, i < 64 → port (17 + i) 10 i (if i ∈ s.fencedLinks then 0
    else if (s.link i).state = .degraded then 2500 * (s.link i).lanes / 4 else 2500)) ∧
  port 81 11 0 (if s.linkUp hostLink then host.lanes * host.rate * 250 / 128 else 0) ∧ port 82 12 0 5600 ∧
  ∀ i, i < 256 → entry (83 + i) (let rate := if i ∈ s.fencedShafts then 0 else if setting i = 0 then 5600 else if setting i = 1 then 4800 else 4000
    [13 + 2 ^ 16 * i, 64, rate, rate, 0, view.elim 0 fun x => (Store.get .zero x.buckets (2 ^ 16 * 13 + i)).limit])

/-- Context c of s is FAULTED in t and has no work (R350, R351). -/
def FaultedIn (c : Nat) (s t : State) : Prop :=
  (t.ctx c).state = .faulted ∧ (∀ x ∈ t.kernels, x.2.ctx ≠ c) ∧ (∀ x ∈ t.groups, x.2.ctx ≠ c) ∧
    (s.groups.Pairwise (fun a b => a.1 < b.1) → ∀ x ∈ t.harts, ∀ g, s.group x.2.gid = some g → g.ctx ≠ c) ∧
  ∀ w ∈ t.pipeWork ++ t.pipeBusy, w.ctx ≠ c

/-- A rate or lane count of a start report, by number. -/
def reported (l : List (Nat × Nat)) (n d : Nat) : Nat := (l.find? fun x => x.1 = n).elim d (·.2)

/-- A start of s goes on from step 2 to t (Table 28.4, R329, R366, R367): what fails at steps 4, 5 or 7 makes the module unusable, the rest
is fenced, and the start that passes makes it READY. -/
def Started (s : State) (r : StartReport) (first : StartEntry) (t : State) : Prop :=
  let rate (n : Nat) : Nat := reported r.shaftRate n 0
  let before (n : Nat) : Nat := ((s.startRecord.find? fun e => e.step = 2 ∧ e.unit = n).map fun e =>
    if e.outcome = 0 then 0 else min 2 (e.setting + 1)).getD 0
  let lanes (l : Nat) : Nat := reported r.linkLanes l 4
  let host := if r.hostLanes ∈ [1, 2, 4, 8] then r.hostLanes else 16
  let failsAt (n unit : Nat) : Prop := t.status = .fault ∧ t.step = n ∧ t.fcode = n ∧ t.startRecord.getLast? = some ⟨n, unit, 3, 0⟩ ∧
    ∀ i, i < unit → (⟨n, i, 0, 0⟩ : StartEntry) ∈ t.startRecord
  let passes (l : List Nat) (n : Nat) : Prop := ∀ i, i < n → i ∉ l
  t.startRecord.head? = some first ∧
  (∀ n, n < 256 → (n ∈ t.fencedSpires ↔ n ∈ r.spireFail) ∧ (n ∈ t.fencedShafts ↔ 3 ≤ rate n) ∧
    (⟨3, n, if n ∈ r.spireFail then 2 else 0, 0⟩ : StartEntry) ∈ t.startRecord ∧
    (⟨2, n, if 3 ≤ rate n then 2 else if rate n ≤ before n then 0 else 1, if 3 ≤ rate n then 2 else max (before n) (rate n)⟩ : StartEntry) ∈
      t.startRecord) ∧
  (∀ b, b < 256 → b ∈ r.banksFail → passes r.banksFail b → failsAt 4 b) ∧
  (passes r.banksFail 256 → ∀ p, p < 6 → p ∈ r.pairsFail → passes r.pairsFail p → failsAt 5 p) ∧
  (passes r.banksFail 256 → passes r.pairsFail 6 →
    (∀ l, l < 64 → (l ∈ t.fencedLinks ↔ lanes l = 0) ∧
      t.link l = if lanes l = 0 then .zero else ⟨if 4 ≤ lanes l then .up else .degraded, min (lanes l) 4, 0, 0, 0, 0, 0⟩) ∧
    t.link hostLink = ⟨if host = 16 then .up else .degraded, host, r.hostRate, 0, 0, 0, 0⟩ ∧
    (r.secretsOk = false → failsAt 7 0) ∧
    (r.secretsOk = true → t.status = .ready ∧ t.step = 0 ∧ t.fcode = 0 ∧ t.journal = [] ∧ t.jnext = 0 ∧ t.dclk = 0 ∧
      t.startRecord.getLast? = some ⟨7, 0, 0, 0⟩))

end Sys2Proof
end

