-- ==== Sys2Proof/Certificates/Slice0/Obligations.lean ====
section
/-! DEFINITION. The statements for the provers. -/

section

open Sys2Proof Sys2Proof.Machine

/-- A step runs the instruction that its bytes decode to (R74, R89: both syllables of class 10 are fetched; R337: no fetch passes a link that
trains; R99: the fetch is charged to the context's buckets, log 69). A hart that the schedule names takes issue, unless an asynchronous trap is due, which it takes instead (R128, R342). That a
schedule in State names it is the model's choice (log 4), as is the trap's place in the step. -/
def Obligations.StepRunsDecoded : Prop :=
  (∀ (s s' : State) (k : Nat) (h : Hart) (g : Group) (b : List Byte) (i : Instr),
      s.choose = .hart k s' → s'.hart k = some h → s'.group h.gid = some g → s'.codeReady g (spireOf k) h.arch.pc = true →
      (i.size = 8 → s'.codeReady g (spireOf k) (h.arch.pc + 4) = true) →
      s'.codeBytes g (spireOf k) h.arch.pc i.size = .ok b → decode b = .ok (i, []) → step s = exec i { s'.fetched k h i.size with cur := k }) ∧
  (∀ (s : State) (k : Nat) (h : Hart) (rest : List Sched),
      let u := { s with agenda := rest, clockDue := true }
      s.agenda = .hart k :: rest → s.hart k = some h → s.dieRuns (spireOf k) = true → s.mayIssue k = true →
      let due := h.async ≠ [] ∧ h.atBoundary = true ∧ u.earlyCause k h = false
      (¬due → s.choose = .hart k (u.takeIssue k)) ∧ (due → ∃ t, exec (.asyncTrapEntry k) u = .next t ∧ step s = .next t))

/-- Words written out from the encodings of spec/05, spec/11 and spec/13 decode to their instructions. -/
def Obligations.SpecWordsDecode : Prop :=
  decodeNat 0x00187201 = .ok (.add 6 7 8) ∧ decodeNat 0x20180FFD = .ok (.beq 6 0 0xFFD) ∧
  decodeNat 0x2A300006 = .ok (.bany 3 6) ∧ decodeNat 0x29003003 = .ok (.loopi false 3 3) ∧
  decodeNat 0x1A187018 = .ok (.ftoi 6 7 1 true) ∧ decodeNat 0x4A24307E = .ok (.stw 9 3 0 1 0x3E) ∧
  decodeNat 0x60180010 = .ok (.getc 6 0 0x10) ∧ decodeNat 0x61007103 = .ok (.setc 7 1 3) ∧
  decodeNat 0x66200002 = .ok (.qrd 8 2) ∧ decodeNat 0x63000001 = .ok (.eret true) ∧ decodeNat 0x64000000 = .ok .halt

/-- Decode and encode agree (spec/05): the word of a well-formed instruction decodes to it, with every operand at every value. -/
def Obligations.DecodeInvertsEncode : Prop :=
  ∀ i : Instr, i.isEvent = false → i.wellFormed = true → decodeNat (encodeNat i) = .ok i

/-- What a fetch does not find (R74, R89, R340): syllables that are no instruction raise "illegal instruction", with the first syllable
recorded; a fetch fault on the first or the second syllable traps at the pc with that syllable's address. TTAG 0 where no syllable was
fetched is the model's choice (log 64). -/
def Obligations.NoInstructionTraps : Prop :=
  (∀ (s s' : State) (k : Nat) (h : Hart) (g : Group) (b : List Byte) (e : DecodeError),
      s.choose = .hart k s' → s'.hart k = some h → s'.group h.gid = some g → s'.codeReady g (spireOf k) h.arch.pc = true →
      (b.length = 8 → s'.codeReady g (spireOf k) (h.arch.pc + 4) = true) →
      s'.codeBytes g (spireOf k) h.arch.pc 4 = .ok (b.take 4) → b.length = sizeOfClass (leNat (b.take 4)) →
      s'.codeBytes g (spireOf k) h.arch.pc b.length = .ok b → decode b = .error e →
      h.live = true → PlainHart h → Handled s' h →
      ∃ t, step s = .next t ∧
        TrapTaken { s'.fetched k h b.length with cur := k } k h (plainCause 1 0) (BitVec.ofNat 32 (leNat (b.take 4))) false h.arch.pc t) ∧
  (∀ (s s' : State) (k : Nat) (h : Hart) (g : Group) (f : XFault),
      s.choose = .hart k s' → s'.hart k = some h → s'.group h.gid = some g → s'.codeReady g (spireOf k) h.arch.pc = true →
      s'.syllable g (spireOf k) h.arch.pc = .error f → h.live = true → PlainHart h → Handled s' h →
      f.addr = h.arch.pc ∧ ∃ t, step s = .next t ∧
        TrapTaken { s' with cur := k } k h ⟨f.code, f.sub, false, true, 0, h.arch.pc⟩ 0 false h.arch.pc t) ∧
  (∀ (s s' : State) (k : Nat) (h : Hart) (g : Group) (b : List Byte) (f : XFault),
      s.choose = .hart k s' → s'.hart k = some h → s'.group h.gid = some g → s'.codeReady g (spireOf k) h.arch.pc = true →
      s'.codeReady g (spireOf k) (h.arch.pc + 4) = true → s'.syllable g (spireOf k) h.arch.pc = .ok b → leNat b / 2 ^ 30 % 4 = 2 →
      s'.syllable g (spireOf k) (h.arch.pc + 4) = .error f → h.live = true → PlainHart h → Handled s' h →
      f.addr = h.arch.pc + 4 ∧ ∃ t, step s = .next t ∧
        TrapTaken { s' with cur := k } k h ⟨f.code, f.sub, false, true, 0, h.arch.pc + 4⟩ (BitVec.ofNat 32 (leNat b)) false h.arch.pc t)

/-- From every safe state a step leaves a safe state: memory and granule tags keep their canonical form. -/
def Obligations.StepKeepsSafe : Prop := ∀ s t : State, Safe s → step s = .next t → Safe t

/-- The module after reset is safe: it holds no context or hart, every byte reads 0, DCLK is 0, the management queue is not
enabled, and STATUS reads RESET. That host and remote memory reads 0 is the model's choice (log 2), no rule of the spec. -/
def Obligations.ResetIsSafe : Prop :=
  Safe State.reset ∧ State.reset.status = .reset ∧ (∀ k, State.reset.byte k = 0) ∧ (∀ k, State.reset.hart k = none) ∧
  (∀ c, State.reset.ctx c = .zero) ∧ State.reset.dclk = 0 ∧ State.reset.mqEna = false

/-- The checks of R90 before an instruction's own: when all pass, and the causes of places 2 to 5 in their order; an instruction that needs
data which have not landed in an earlier clock waits for them, its registers, FFLAGS, or vl and FTM after a `vld.ff` (R49, R50, R140). -/
def Obligations.IssueChecks : Prop :=
  (∀ (s : State) (h : Hart) (i : Instr), s.hart s.cur = some h → h.live = true → PlainHart h → i.wellFormed = true →
      (i.privileged = true → h.arch.level = .context) → (i.needsLanes = true → h.seat.isSome = true) →
      (∀ r ∈ i.vregs, r < h.arch.shape) → (∀ a, i = .setc a 0 1 → (h.reg a).getLsbD 2 = false) →
      let needs (r : Nat) : Prop := r ∈ i.vregs ∨ (∃ a, i = .getc a 0 7 ∨ i = .setc a 0 7) ∨ (r = 64 ∧ Instr.readsLength i = true)
      let lacks (r : Nat) : Prop := (r ∈ h.landed ∨ ∃ l ∈ h.landing, r ∈ l) ∧ needs r
      ((∀ r, ¬lacks r) → Issues s h i) ∧
      (∀ r, i.isEvent = false → lacks r → ∃ t ws, exec i s = .next t ∧ (∀ x, x ∈ ws ↔ lacks x) ∧
        Stalls i s s.cur { h with stalled := true, memStall := true, awaited := ws } t)) ∧
  (∀ (s : State) (h : Hart) (i : Instr), i.isEvent = false → s.hart s.cur = some h → h.live = true → PlainHart h → Handled s h →
      let bad := i.wellFormed = false ∨ ∃ a, i = .setc a 0 1 ∧ (h.reg a).getLsbD 2 = true
      let priv := i.privileged = true
      let noLanes := i.needsLanes = true ∧ h.seat = none
      let outside := ∃ r ∈ i.vregs, h.arch.shape ≤ r
      (bad → Traps i s h (plainCause 1 0)) ∧ (¬bad → priv → Traps i s h (plainCause 2 0)) ∧
      (¬bad → ¬priv → noLanes → Traps i s h (plainCause 3 0)) ∧
      (¬bad → ¬priv → ¬noLanes → outside → Traps i s h (plainCause 4 0)))

/-- `trap n` and `ebrk n` (R160): the software trap, the breakpoint, and the stop for an attached debugger. A trap that no handler can
take ends the hart by abort (R338, R341): its kernel is ABORTED with status 9, and what R120 gives follows for every hart and group of
the kernel. Illegal instructions and fetch faults (R89, R74). That TVEC values 1 to 3 name no handler is the model's choice (log 28),
what an abort discards at once (log 66), that its stores sent over a link perform (log 81), and TTAG 0 where no first syllable was fetched (log
64) are the model's choices too. -/
def Obligations.TrapInstructions : Prop :=
  (∀ (s : State) (h : Hart) (n : BitVec 12), PlainHart h →
      (Issues s h (.trap n) → Handled s h → Traps (.trap n) s h (plainCause 40 n.toNat)) ∧
      (Issues s h (.ebrk n) → Handled s h → h.dbg.att = false → Traps (.ebrk n) s h (plainCause 41 n.toNat)) ∧
      (Issues s h (.ebrk n) → h.dbg.att = true → ∃ t, exec (.ebrk n) s = .next t ∧
        Completes (.ebrk n) s { h with dbg := { h.dbg with halted := true, stepping := false, why := 2, brk := n.toNat } } t ∧
        ∃ u, t.hart s.cur = some u ∧ u.dbg.halted = true ∧ u.dbg.stepping = false ∧ u.dbg.why = 2 ∧ u.dbg.brk = n.toNat)) ∧
  (∀ (s : State) (h : Hart) (g : Group) (n : BitVec 12) (kn : Kernel), Issues s h (.trap n) → PlainHart h →
      (h.arch.level = .context ∨ (s.ctx (s.ctxOf h)).tvec.toNat < 4) → s.group h.gid = some g → g.state = .running →
      s.kernels.find g.kernel = some kn → kn.state = .placing ∨ kn.state = .running →
      ∃ t, exec (.trap n) s = .next t ∧ t.kernels.find g.kernel = some { kn with state := .aborted, status := 9 } ∧
        (∀ k, t.byte k = s.byte k) ∧ (∀ c, (t.ctx c).ktok = (s.ctx c).ktok) ∧
        (∃ u, t.hart s.cur = some u ∧ u.halted = true) ∧
        (∀ j x y, s.hart j = some x → x.halted = false → s.group x.gid = some y → y.kernel = g.kernel → y.state = .running →
          ∃ u, t.hart j = some u ∧ u.arch = x.arch ∧ u.unacked = x.unacked ∧ u.exits = [] ∧ u.held = [] ∧ u.faults = [] ∧ u.async = [] ∧
            (x.finishing = false → u.halted = true ∧ u.pending = none ∧ u.seat = none) ∧
            (x.finishing = true → j ≠ s.cur → u.halted = false ∧ u.pending = x.pending ∧ u.stopped = true)) ∧
        (∀ j x, s.hart j = some x → x.halted = false → (∀ y ∈ s.groups, y.1 = x.gid → y.2.kernel ≠ g.kernel) → t.hart j = s.hart j) ∧
        (∀ gid y, s.group gid = some y → y.kernel = g.kernel →
          (y.state = .running → ∃ z, t.group gid = some z ∧ z.state = .draining ∧
            ∀ x ∈ z.tasks, x.state ≠ .queued ∧ x.state ≠ .waiting ∧ x.state ≠ .suspended) ∧
          (y.state = .parked → ∃ z, t.group gid = some z ∧ z.state = .done)) ∧
        (∀ key x y, s.slot key = some x → x.state = .standing → s.group x.gid = some y → y.kernel = g.kernel → y.state = .running →
          ∃ z, t.slot key = some z ∧ z.state = .closing)) ∧
  ∀ (s : State) (h : Hart) (w : Syl) (f : XFault), s.hart s.cur = some h → h.live = true → PlainHart h → Handled s h →
    (∃ t, exec (.illegalInstruction w) s = .next t ∧ TrapTaken s s.cur h (plainCause 1 0) w false h.arch.pc t) ∧
    ∃ t syl, exec (.fetchFault f) s = .next t ∧ TrapTaken s s.cur h ⟨f.code, f.sub, false, true, 0, f.addr⟩ syl false h.arch.pc t ∧
      (f.addr = h.arch.pc → syl = 0)

/-- `eret` (R161, R343): back to user level at TEPC, or past the recorded instruction with the iteration test of R149. That the recorded
instruction's length is taken from the class in TTAG is the model's choice (log 28). -/
def Obligations.EretReturns : Prop :=
  ∀ (s : State) (h : Hart) (after : Bool), Issues s h (.eret after) → ∃ t u, exec (.eret after) s = .next t ∧
    t = s.setHart s.cur u ∧ u.arch.level = .user ∧ u.exits = h.exits ∧ u.held = h.held ∧ u.seq = h.seq + 1 ∧
    (after = false ∨ h.arch.tcause.getLsbD 10 = true →
      u.arch = { h.arch with level := .user, pc := h.arch.tepc, hinst := h.arch.hinst + 1 }) ∧
    (after = true → h.arch.tcause.getLsbD 10 = false →
      let n : Word := if h.arch.ttag.toNat / 2 ^ 30 = 2 then 8 else 4
      u.arch = { ({ h.arch with level := .user }.retire (h.arch.tepc + n)) with hinst := h.arch.hinst + 1 })

/-- An asynchronous trap (R342): taken at a boundary, oldest first, with the instruction there not executed. That
one taken in the wait of a `bar.aw` drops its token is the model's choice (log 75). -/
def Obligations.AsyncTrapEntered : Prop :=
  ∀ (s : State) (k : Nat) (h : Hart) (c : Async) (rest : List Async), s.hart k = some h → h.async = c :: rest →
    h.atBoundary = true → s.earlyCause k h = false → h.dbg.recording = false → Handled s h →
    ∃ t, exec (.asyncTrapEntry k) s = .next t ∧ TrapTaken s k { h with async := rest } c.cause 0 true c.tspc t

/-- The iteration test of R149 and what it leaves alone; `loop` and `loopi` (R148): a count of 0 skips the body, another arms the loop. -/
def Obligations.HardwareLoops : Prop :=
  (∀ (a : Arch) (t : Word), let b := a.retire t
      b = { a with pc := b.pc, lc0 := b.lc0, lc1 := b.lc1 } ∧
      (∀ n, ((a.loop n).active = true ∧ (a.loop n).stop = t) → ¬((a.loop !n).active = true ∧ (a.loop !n).stop = t) →
        b.loop (!n) = a.loop !n ∧
        ((a.loop n).count.toNat ≤ 1 → b.pc = t ∧ b.loop n = { a.loop n with count := 0, active := false }) ∧
        (1 < (a.loop n).count.toNat → b.pc = (a.loop n).start ∧ b.loop n = { a.loop n with count := (a.loop n).count - 1 })) ∧
      ((∀ n, ¬((a.loop n).active = true ∧ (a.loop n).stop = t)) → b = { a with pc := t }) ∧
      (∀ n, (a.loop n).active = true → (a.loop n).stop = t → (a.loop !n).active = true → (a.loop !n).stop = t →
        ((a.loop !n).start.toNat < (a.loop n).start.toNat ∨
          (a.loop !n).start = (a.loop n).start ∧ (a.loop !n).armseq < (a.loop n).armseq) →
        (1 < (a.loop n).count.toNat → b.loop (!n) = a.loop !n ∧ b.pc = (a.loop n).start) ∧
        ((a.loop n).count.toNat ≤ 1 → (b.loop n).active = false ∧
          b.pc = if (a.loop !n).count.toNat ≤ 1 then t else (a.loop !n).start))) ∧
  (∀ (s : State) (h : Hart) (i : Instr) (n : Bool) (c e : Nat), Issues s h i → loopResult h.arch i = some (n, c, e) →
      let stop := h.arch.pc + 4 * BitVec.ofNat 64 e
      let l : Loop := ⟨BitVec.ofNat 32 c, h.arch.pc + 4, stop, true, h.arch.armed⟩
      ∃ t, exec i s = .next t ∧
        if c = 0 then Jumps i s h stop t
        else Completes i s { h with arch :=
          if n then { h.arch with lc1 := l, armed := h.arch.armed + 1 } else { h.arch with lc0 := l, armed := h.arch.armed + 1 } } t)

/-- Integer and address instructions (R141 to R144): the results of Tables 11.1 and 11.2, no flag and no trap on data, and the corners of
division; s0 reads as zero and discards writes (R35). -/
def Obligations.IntegerInstructions : Prop :=
  (∀ (a : Arch) (d r : Reg) (v : Word), a.reg 0 = 0 ∧ a.setReg 0 v = a ∧ (d ≠ 0 → (a.setReg d v).reg d = v) ∧
      (r ≠ d → (a.setReg d v).reg r = a.reg r) ∧ a.setReg d v = { a with s := (a.setReg d v).s }) ∧
  ((∀ (s : State) (h : Hart) (i : Instr) (d : Reg) (v : Word), Issues s h i → integerResult h.arch i = some (d, v) →
        ∃ t, exec i s = .next t ∧ Completes i s { h with arch := h.arch.setReg d v } t) ∧
    (∀ (s : State) (h : Hart) (i : Instr) (d x y : Reg), Issues s h i →
        let low : Word := BitVec.ofNat 64 (2 ^ 63)
        let v : Option Word :=
          if h.arch.reg y = 0 then
            if i = .div d x y ∨ i = .divu d x y then some 0xFFFFFFFFFFFFFFFF
            else if i = .rem d x y ∨ i = .remu d x y then some (h.arch.reg x) else none
          else if h.arch.reg x = low ∧ h.arch.reg y = BitVec.allOnes 64 then
            if i = .div d x y then some low else if i = .rem d x y then some 0 else none
          else none
        ∀ w, v = some w → ∃ t, exec i s = .next t ∧ Completes i s { h with arch := h.arch.setReg d w } t))

/-- Scalar floating point and conversions (R151, R152): results and flags of Tables 11.4 and 11.5. -/
def Obligations.FloatResults : Prop :=
  ∀ (s : State) (h : Hart) (i : Instr) (d : Reg) (r : Fl Word), Issues s h i → floatResult h.arch i = some (d, r) →
    ∃ t, exec i s = .next t ∧ Completes i s
      { h with arch := { h.arch.setReg d r.val with fflags := h.arch.fflags ||| r.flags.setWidth 32 } } t

/-- The arithmetic that results are encoded from is exact on finite values (R33, R63), and a quotient is rounded to the nearest integer
with ties to even, toward zero, down or up. Encode of R33 into every tag, with its flags; the values of codes (R55, R57, Tables 4.3, 4.4);
square roots and conversions to integers (R151, R152). -/
def Obligations.ExactThenRounded : Prop :=
  (∀ (m : Rnd) (x y z : Sys2Proof.Num) (p q r : Rat), exactValue x = some p → exactValue y = some q → exactValue z = some r →
      exactValue (addNum m x y).val = some (p + q) ∧ exactValue (mulNum x y).val = some (p * q) ∧
      (q ≠ 0 → exactValue (divNum x y).val = some (p / q)) ∧ exactValue (fmaNum m x y z).val = some (p * q + r)) ∧
  (∀ (n d : Nat) (neg : Bool), 0 < d →
      (let q := (roundQuot .rne neg n d).1;
        2 * n ≤ (2 * q + 1) * d ∧ 2 * q * d ≤ 2 * n + d ∧
          (2 * n = (2 * q + 1) * d ∨ 2 * q * d = 2 * n + d → q % 2 = 0)) ∧
      (let q := (roundQuot .rtz neg n d).1;
        q * d ≤ n ∧ n < (q + 1) * d) ∧
      (let q := (roundQuot .rdn neg n d).1;
        if neg then n ≤ q * d ∧ q * d < n + d else q * d ≤ n ∧ n < (q + 1) * d) ∧
      (let q := (roundQuot .rup neg n d).1;
        if neg then q * d ≤ n ∧ n < (q + 1) * d else n ≤ q * d ∧ q * d < n + d) ∧
      ∀ m, (roundQuot m neg n d).2 = decide (n % d ≠ 0)) ∧
  (∀ (t : Tag) (m : Rnd) (s : Bool) (b : Int) (x : Sys2Proof.Num) (q : Rat), exactValue x = some q →
      let r := encodeNum t m s b x
      (t.isFloat = true → FloatEncoded t m s x.sign |(q : ℝ)| r) ∧ (t.isInt = true → IntEncoded t m s x.sign |(q : ℝ)| r) ∧
      (t.isTapered = true → TaperedEncoded t m x.sign (|(q : ℝ)| / (2 : ℝ) ^ b) r)) ∧
  (∀ (t : Tag) (m : Rnd) (s : Bool) (b : Int) (neg signalling : Bool),
      let top := (2 ^ t.ebits - 1) * 2 ^ t.frac
      let signed (c : Nat) : Nat := if neg then 2 ^ (t.memBits - 1) + c else c
      let nan := encodeNum t m s b (.nan signalling)
      let inf := encodeNum t m s b (.inf neg)
      (t.isFloat = true → nan = ⟨top + 2 ^ (t.frac - 1), if signalling then .nv else 0⟩ ∧
        inf = if s then ⟨signed (top - 1), .sat⟩ else ⟨signed top, 0⟩) ∧
      (t.isInt = true → nan = ⟨0, .nv⟩ ∧ inf = if s then ⟨((if neg then intMin t else intMax t) % 2 ^ t.bits).toNat, .sat⟩ else ⟨0, .nv⟩) ∧
      (t.isTapered = true → nan = ⟨2 ^ (t.memBits - 1), if signalling then .nv ||| .rsv else .rsv⟩ ∧
        inf = ⟨signed (2 ^ (t.memBits - 1) - 1), .sat⟩)) ∧
  (∀ (t : Tag) (b : Int) (c : Nat) (neg : Bool),
      let sign (q : Rat) : Rat := if neg then -q else q
      (t.isFloat = true → c < 2 ^ (t.bits - 1) →
        let e := c / 2 ^ t.frac
        let f := c % 2 ^ t.frac
        let x := floatValue t (if neg then 2 ^ (t.bits - 1) + c else c)
        (e = 2 ^ t.ebits - 1 → x = if f = 0 then .inf neg else .nan (decide (f < 2 ^ (t.frac - 1)))) ∧
        (e ≠ 2 ^ t.ebits - 1 →
          exactValue x = some (sign ((if e = 0 then (f : Rat) else 2 ^ t.frac + f) * (2 : Rat) ^ ((max e 1 : Nat) - t.ebias - t.frac : Int))))) ∧
      (t.isTapered = true → c < 2 ^ (t.memBits - 1) →
        (c = 0 → neg = true → decodeNum t b (2 ^ (t.memBits - 1)) = none) ∧
        (c ≠ 0 ∨ neg = false → ∃ x, decodeNum t b (if neg then 2 ^ (t.memBits - 1) + c else c) = some x ∧
          exactValue x = some (sign (taperedValue t c * (2 : Rat) ^ b))))) ∧
  (∀ (t : Tag) (m : Rnd) (s : Bool) (n k : Nat), t.isFloat = true →
      let r := sqrtNum (.fin false n (2 ^ k))
      r.flags = 0 ∧ FloatEncoded t m s false (Real.sqrt (n / 2 ^ k)) (encodeNum t m s 0 r.val)) ∧
  (∀ (n d : Nat), sqrtNum (.inf true) = ⟨.qnan, .nv⟩ ∧ sqrtNum (.inf false) = ⟨.inf false, 0⟩ ∧ sqrtNum (.fin true 0 d) = ⟨.fin true 0 d, 0⟩ ∧
      (n ≠ 0 → sqrtNum (.fin true n d) = ⟨.qnan, .nv⟩)) ∧
  (∀ (u : Bool) (m : Rnd) (x : Sys2Proof.Num),
      let r := floatToInt (if u then .u64 else .i64) m x
      let least : Int := if u then 0 else -2 ^ 63
      let most : Int := if u then 2 ^ 64 - 1 else 2 ^ 63 - 1
      (∀ sig, x = .nan sig → r = ⟨0, .nv⟩) ∧ (∀ neg, x = .inf neg → r = ⟨BitVec.ofInt 64 (if neg then least else most), .nv⟩) ∧
      (∀ q, exactValue x = some q → ∃ n : Nat, RoundsTo m x.sign |(q : ℝ)| n ∧
        let z : Int := if x.sign then -n else n
        (z < least → r = ⟨BitVec.ofInt 64 least, .nv⟩) ∧ (most < z → r = ⟨BitVec.ofInt 64 most, .nv⟩) ∧
        (least ≤ z → z ≤ most → r.val = BitVec.ofInt 64 z ∧ ((n : ℝ) = |(q : ℝ)| → r.flags = 0) ∧
          ((n : ℝ) ≠ |(q : ℝ)| → r.flags = .nx))))

/-- Conditional branches and branches on masks go to the target or on (R146, R147); `jal` and `jalr` write the link register, and their
target is formed before it is written. A taken transfer deactivates the loops that end at its target and changes nothing else (R150). -/
def Obligations.BranchesAndJumps : Prop :=
  (∀ (a : Arch) (t : Word), let b := a.transfer t
      b.pc = t ∧ b = { a with pc := b.pc, lc0 := b.lc0, lc1 := b.lc1 } ∧
      ∀ n, ((a.loop n).active = true → (a.loop n).stop = t → b.loop n = { a.loop n with active := false }) ∧
        ((a.loop n).active = false ∨ (a.loop n).stop ≠ t → b.loop n = a.loop n)) ∧
  (∀ (s : State) (h : Hart) (i : Instr) (taken : Bool) (p : Word), Issues s h i →
      branchResult (s.regBytes h) h.arch i = some (taken, p) →
      ∃ t, exec i s = .next t ∧ (if taken then Jumps i s h p t else Completes i s h t)) ∧
  (∀ (s : State) (h : Hart),
      (∀ off : BitVec 24, Issues s h (.jal off) → ∃ t, exec (.jal off) s = .next t ∧
        Jumps (.jal off) s { h with arch := h.arch.setReg 1 (h.arch.pc + 4) } (BitVec.ofInt 64 (h.arch.pc.toNat + 4 * off.toInt)) t) ∧
      (∀ (d a : Reg) (imm : BitVec 12), Issues s h (.jalr d a imm) → ∃ t p, exec (.jalr d a imm) s = .next t ∧
        p.toNat = (BitVec.ofInt 64 ((h.arch.reg a).toNat + imm.toInt)).toNat / 4 * 4 ∧
        Jumps (.jalr d a imm) s { h with arch := h.arch.setReg d (h.arch.pc + 4) } p t))

/-- Scalar loads (R153): the bytes as the hart sees them, extended; memory and every other hart stay. A hart sees its youngest store to a
byte that is still held, over memory (R154); one queued on a link counts likewise. The ports that an access passes are log 69's. -/
def Obligations.ScalarLoads : Prop :=
  (∀ (s : State) (h : Hart) (g : Group) (i : Instr) (d a : Reg) (sp : BitVec 2) (e : BitVec 6) (n : Nat) (sg : Bool) (va : Word) (p : Placed),
      Issues s h i → loadForm i = some (d, a, sp, e, n, sg) → accessForm h.arch i = some (va, sp.toNat, n, false) →
      s.group h.gid = some g → s.placeElem g (spireOf s.cur) sp.toNat n false ⟨0, va, n⟩ = .ok p →
      AccessReady s h p.phys →
      let v := extended sg n (leNat (p.phys.map fun q => s.readByte h q.key))
      ∃ t u, exec i s = .next t ∧ Completes i u { h with arch := h.arch.setReg d v } t ∧ u.harts = s.harts ∧
        ((∀ q ∈ p.phys, q.counted = false) → Accessed s g.ctx p.phys u)) ∧
  (∀ (s : State) (h : Hart) (k : Nat),
      ((∀ e ∈ h.held, ∀ w ∈ e.writes, w.key ≠ k) → (∀ q ∈ s.homeq, q.hart = s.cur → ∀ w ∈ q.writes, w.key ≠ k) →
        s.readByte h k = s.byte k) ∧
      (∀ (older younger : List Held) (e : Held) (ws rest : List ByteWrite) (b : Byte), h.held = older ++ e :: younger →
        e.writes = ws ++ ⟨k, 0xFF, b⟩ :: rest → (∀ w ∈ rest, w.key ≠ k) → (∀ x ∈ younger, ∀ w ∈ x.writes, w.key ≠ k) →
        s.readByte h k = b))

/-- Scalar stores (R153): the low bytes of s[sd] at the places of the address, and every other byte stays. A store to a page over a link
joins the link's queue, and memory stays until its home performs it (R334, R337). A store younger than an open exit is held (R174):
memory stays, and its bytes wait in the hart's held entries. The ports that a store passes are log 69's. -/
def Obligations.ScalarStores : Prop :=
  (∀ (s : State) (h : Hart) (g : Group) (i : Instr) (d a : Reg) (c : BitVec 4) (sp : BitVec 2) (e : BitVec 6) (n : Nat) (va : Word)
      (p : Placed), Issues s h i → h.exits = [] → storeForm i = some (d, a, c, sp, e, n) →
      accessForm h.arch i = some (va, sp.toNat, n, true) → s.group h.gid = some g →
      s.placeElem g (spireOf s.cur) sp.toNat n true ⟨0, va, n⟩ = .ok p → (∀ q ∈ p.phys, q.link = none) →
      (∀ q ∈ p.phys, s.writeBlocked g.ctx q = false) → SendReady s g.ctx c p.phys →
      ∃ t u v, exec i s = .next t ∧ Completes i u h t ∧ Accessed s g.ctx p.phys v ∧ u.harts = s.harts ∧ u.groups = s.groups ∧
        u.ctxs = v.ctxs ∧ (∀ k, u.byte k = (storedByte (p.phys.map (·.key)) (leBytes n (h.reg d).toNat) k).getD (v.byte k)) ∧
        (h.dbg.recording = false → ∀ k, t.byte k = u.byte k)) ∧
  (∀ (s : State) (h : Hart) (g : Group) (i : Instr) (d a : Reg) (c : BitVec 4) (sp : BitVec 2) (e : BitVec 6) (n l : Nat) (va : Word)
      (p : Placed), Issues s h i → h.exits = [] → storeForm i = some (d, a, c, sp, e, n) →
      accessForm h.arch i = some (va, sp.toNat, n, true) → s.group h.gid = some g →
      s.placeElem g (spireOf s.cur) sp.toNat n true ⟨0, va, n⟩ = .ok p → (∀ q ∈ p.phys, q.link = some l) →
      (∀ q ∈ p.phys, s.writeBlocked g.ctx q = false) → SendReady s g.ctx c p.phys →
      ∃ t v r, exec i s = .next t ∧ Accessed s g.ctx p.phys v ∧
        Completes i { v with homeq := s.homeq ++ [r] } { h with unacked := h.unacked ++ [⟨l, h.arch.pc, h.seq, c, 0⟩] } t ∧
        r.hart = s.cur ∧ r.seq = h.seq ∧ r.read = false ∧ r.link = some l ∧ r.cls = c ∧
        r.writes = ((p.phys.map (·.key)).zip (leBytes n (h.reg d).toNat)).map fun x => ⟨x.1, 0xFF, x.2⟩) ∧
  (∀ (s : State) (h : Hart) (g : Group) (i : Instr) (d a : Reg) (c : BitVec 4) (sp : BitVec 2) (e : BitVec 6) (n : Nat) (va : Word)
      (p : Placed), Issues s h i → h.exits ≠ [] → storeForm i = some (d, a, c, sp, e, n) →
      accessForm h.arch i = some (va, sp.toNat, n, true) → s.group h.gid = some g →
      s.placeElem g (spireOf s.cur) sp.toNat n true ⟨0, va, n⟩ = .ok p → (∀ q ∈ p.phys, s.writeBlocked g.ctx q = false) →
      h.held.length + 8 ≤ 4 * g.lanes / g.seats →
      ∃ t u es, exec i s = .next t ∧ Completes i u { h with held := h.held ++ es } t ∧
        Cached s p.phys u ∧
        (∀ x ∈ es, x.seq = h.seq ∧ x.pc = h.arch.pc ∧ x.cls = c) ∧
        (∀ k b, (∃ x ∈ es, ⟨k, 0xFF, b⟩ ∈ x.writes) ↔ (k, b) ∈ (p.phys.map (·.key)).zip (leBytes n (h.reg d).toNat)))

/-- Atomics (R155): one step reads the word and writes the new one; s[sd] receives the old word, over a link once it has come back
(R334). Signed maximum and minimum on a page of host memory take the access fault "atomic not supported" (R156). The ports that an
atomic passes are log 69's. -/
def Obligations.Atomics : Prop :=
  (∀ (s : State) (h : Hart) (g : Group) (i : Instr) (d a b : Reg) (o : BitVec 2) (c : BitVec 4) (sp : Nat) (host : Bool)
      (f : Word → Word → Word → Word) (p : Placed), Issues s h i → atomicForm i = some (d, a, b, o, c, sp, host, f) →
      s.group h.gid = some g → (∀ l v, h.pending ≠ some (.answered l v)) →
      s.placeElem g (spireOf s.cur) sp 8 true ⟨0, h.reg a, 8⟩ = .ok p → (host = true ∨ ∀ q ∈ p.phys, q.tgt ≠ 3) →
      (∀ q ∈ p.phys, s.writeBlocked g.ctx q = false) → (o.getLsbD 1 = true → h.unacked = []) → AccessReady s h p.phys →
      s.classBehind s.cur c p.phys = false →
      let old := BitVec.ofNat 64 (leNat (p.phys.map fun q => s.readByte h q.key))
      let here := ∀ q ∈ p.phys, q.link = none
      ∃ t u v, exec i s = .next t ∧ u.harts = s.harts ∧ (here → Completes i u { h with arch := h.arch.setReg d old } t) ∧
        (¬here → Waits i u h (some (.answered (linksOf p.phys) old)) false s) ∧
        ((∀ q ∈ p.phys, q.counted = false) → Accessed s g.ctx p.phys v ∧ u.ctxs = v.ctxs ∧ ∀ k,
          u.byte k = (storedByte (p.phys.map (·.key)) (leBytes 8 (f old (h.reg d) (h.reg b)).toNat) k).getD (v.byte k))) ∧
  (∀ (s : State) (h : Hart) (g : Group) (i : Instr) (d a b : Reg) (o : BitVec 2) (c : BitVec 4) (sp : Nat) (host : Bool)
      (f : Word → Word → Word → Word) (ls : List Nat) (old : Word), Issues s h i → atomicForm i = some (d, a, b, o, c, sp, host, f) →
      s.group h.gid = some g → h.pending = some (.answered ls old) →
      ((∀ l ∈ ls, s.linkUp l = true) → ∃ t, exec i s = .next t ∧ Completes i s { h with arch := h.arch.setReg d old } t) ∧
      ((∃ l ∈ ls, s.linkUp l = false) → Waits i s h h.pending false s)) ∧
  (∀ (s : State) (h : Hart) (g : Group) (i : Instr) (d a b : Reg) (o : BitVec 2) (c : BitVec 4) (f : Word → Word → Word → Word) (p : Placed),
      Issues s h i → atomicForm i = some (d, a, b, o, c, 0, false, f) → s.group h.gid = some g → (∀ l v, h.pending ≠ some (.answered l v)) →
      s.placeElem g (spireOf s.cur) 0 8 true ⟨0, h.reg a, 8⟩ = .ok p → (∃ q ∈ p.phys, q.tgt = 3) → PlainHart h → Handled s h →
      Traps i s h ⟨17, 1, true, false, 0, h.reg a⟩)

/-- Misaligned scalar accesses, and those with a byte at or above LSPAN, trap precisely (R153, R118, R340), in the Spire's own local store and
in group space, on whichever Spire of the quad the address names; a group-space address with bits above [21] takes the access fault (R219).
An aligned access within the span reaches the local store of its own Spire, or of the Spire that it names (Table 14.1). -/
def Obligations.ScalarAccessPlaces : Prop :=
  (∀ (s : State) (h : Hart) (g : Group) (i : Instr) (va : Word) (sp n : Nat) (wr : Bool), Issues s h i →
      accessForm h.arch i = some (va, sp, n, wr) → s.group h.gid = some g → (∀ l v, h.pending ≠ some (.answered l v)) →
      PlainHart h → Handled s h → (va.toNat % n ≠ 0 → Traps i s h ⟨20, 0, wr, false, 0, va⟩) ∧
      (va.toNat % n = 0 → sp = 1 → g.lspan < va.toNat + n → Traps i s h ⟨19, 0, wr, false, 0, va⟩) ∧
      (va.toNat % n = 0 → sp = 2 → va.toNat < 2 ^ 22 → g.lspan < va.toNat % 2 ^ 20 + n → Traps i s h ⟨19, 0, wr, false, 0, va⟩) ∧
      (va.toNat % n = 0 → sp = 2 → 2 ^ 22 ≤ va.toNat → Traps i s h ⟨17, 0, wr, false, 0, va⟩)) ∧
  (∀ (s : State) (g : Group) (spire sp n pos off : Nat) (wr : Bool) (va : Word), n ∈ [1, 2, 4, 8] → va.toNat % n = 0 →
      (sp = 1 ∧ pos = spire % 4 ∧ off = va.toNat ∨ sp = 2 ∧ va.toNat < 2 ^ 22 ∧ pos = va.toNat / 2 ^ 20 ∧ off = va.toNat % 2 ^ 20) →
      off + n ≤ g.lspan → ∃ p, s.placeElem g spire sp n wr ⟨0, va, n⟩ = .ok p ∧
        p.phys.map (·.key) = (List.range n).map (fun i => lsKey (4 * g.quad + pos) (g.bases.getD pos 0 + off + i)) ∧
        ∀ q ∈ p.phys, q.link = none ∧ q.counted = false ∧ q.tgt = 0)

/-- `getc` and `setc` (R157): the register of each index, zero-extended (Tables 3.4 and 25.1, R47, R362); a write is read back, truncated, and
changes no other register; a SP field from 4 to 7 of vspace is an illegal instruction (Table 3.7). That vl truncates the value before its minimum
is the model's choice (log 64), and so is that a `setc` of hinst counts its own retirement (log 83). -/
def Obligations.ControlRegisters : Prop :=
  (∀ (s : State) (h : Hart) (g : Group) (d : Reg), s.group h.gid = some g →
      let a := h.arch
      let x := s.ctx g.ctx
      let mode := x.tctl.toNat % 4
      let clocks := (s.dclk - (if mode = 2 then x.tstolen else 0)).toNat
      let reads (bank : BitVec 4) (idx : BitVec 8) (v : Word) : Prop := Issues s h (.getc d bank idx) →
        ∃ t, exec (.getc d bank idx) s = .next t ∧ Completes (.getc d bank idx) s { h with arch := a.setReg d v } t
      (∀ p ∈ ([(0x00, a.vl.setWidth 64), (0x01, a.vspace.setWidth 64),
          (0x02, BitVec.ofNat 64 (if h.seat.isSome then a.shape else if g.lanes = 0 then 0 else g.shape)), (0x03, BitVec.ofNat 64 g.lanes),
          (0x04, if g.pair then 2 else 1), (0x05, a.xidx), (0x06, a.ftm.setWidth 64), (0x07, a.fflags.setWidth 64), (0x08, a.hctl.setWidth 64),
          (0x09, BitVec.ofNat 64 a.lq.length), (0x0A, a.lc0.count.setWidth 64), (0x0B, a.lc1.count.setWidth 64), (0x10, h.hclk), (0x11, a.hinst),
          (0x12, h.hstall), (0x13, h.hannul), (0x14, h.hbeat),
          (0x18, x.toff + BitVec.ofNat 64 (if mode = 0 then clocks else clocks * x.tmul.toNat / 2 ^ 24)), (0x20, a.tcause.setWidth 64),
          (0x21, a.tepc), (0x22, a.tspc), (0x23, a.taddr), (0x24, a.tidx.setWidth 64), (0x25, a.ttag.setWidth 64), (0x26, a.tsave),
          (0x27, a.tscr)] : List (BitVec 8 × Word)), reads 0 p.1 p.2) ∧
      ∀ i : BitVec 8, i.toNat < 16 → reads 1 i ((Store.get 0 a.hk i.toNat).setWidth 64)) ∧
  (∀ (s : State) (h : Hart) (d a : Reg) (bank : BitVec 4) (idx : BitVec 8),
      (Issues s h (.getc d bank idx) → ∃ t, exec (.getc d bank idx) s = .next t ∧
        Completes (.getc d bank idx) s { h with arch := h.arch.setReg d (s.control h bank idx) } t) ∧
      (Issues s h (.setc a bank idx) → ¬(bank = 0 ∧ idx = 1 ∧ (h.reg a).getLsbD 2 = true) →
        ∃ t u, exec (.setc a bank idx) s = .next t ∧ Completes (.setc a bank idx) s u t ∧
          s.control u bank idx = controlWritten (s.regBytes h) bank idx (h.reg a) ∧
          (∀ b j, readableIndex b j = true → (b, j) ≠ (bank, idx) → s.control u b j = s.control h b j) ∧
          u = { h with
            arch := u.arch, hclk := u.hclk, hstall := u.hstall, hannul := u.hannul, hbeat := u.hbeat } ∧
          u.arch.pc = h.arch.pc ∧ u.arch.s = h.arch.s ∧ u.arch.v = h.arch.v ∧ u.arch.m = h.arch.m)) ∧
  (∀ (s : State) (h : Hart) (a : Reg), Issues s h (.setc a 0 1) → (h.reg a).getLsbD 2 = true → PlainHart h → Handled s h →
      Traps (.setc a 0 1) s h (plainCause 1 0))

/-- Barrier events (Table 10.2), and one step of a barrier (R134): the object takes its new value, every waiting hart whose condition holds
completes, nothing else of the group changes, and no other hart. -/
def Obligations.BarrierEvents : Prop :=
  (∀ (x : Barrier) (h n : Nat) (t : BitVec 32), x.init n = barrierInit x n ∧ x.arrive h = barrierArrive x h ∧
      x.drop h = barrierDrop x h ∧ (x.done t = true ↔ barrierDone x t) ∧ x.arr = arrivals x.amask) ∧
  (∀ (s : State) (gid b : Nat) (g : Group) (x : Barrier), s.group gid = some g →
      let t := s.barStep gid b x
      (∃ y, t.group gid = some y ∧ y.bar b = x ∧ (∀ j, j ≠ b → y.bar j = g.bar j) ∧ y = { g with barriers := y.barriers }) ∧
      let ends (h : Hart) : Prop := h.gid = gid ∧ h.halted = false ∧ h.stopped = false ∧ h.dbg.halted = false ∧ h.dbg.want = false ∧
        ∃ v r, h.pending = some (.barrierWait b v r) ∧ barrierDone x v
      (∀ k, (∀ p ∈ s.harts, p.1 = k → ¬ends p.2) → t.hart k = s.hart k) ∧
      (∀ k h, s.harts.filter (fun p => p.1 = k) = [(k, h)] → ends h →
        ∃ u, t.hart k = some u ∧ u.arch = fallsThrough (.barWt 0 0 0) h.arch ∧ u.pending = none ∧ u.stalled = false ∧ u.seq = h.seq + 1))

/-- The barrier instructions (R136, R137): the event, the token, the word of Table 10.1, and the wait, which `bar.aw` begins after its arrival;
misuse: a count out of range, a barrier with arrivals, an idle barrier. That `bar.wt` judges misuse once, as its wait begins, is the model's choice
(log 46). -/
def Obligations.BarrierInstructions : Prop :=
  (∀ (s : State) (h : Hart) (g : Group) (d : Reg) (o : BitVec 2) (b : BitVec 6), s.group h.gid = some g →
      let x := g.bar b.toNat
      (Issues s h (.barInit d b) → (h.reg d).toNat ≤ 64 → (h.reg d).toNat ≤ g.nhart → ¬(x.state = .counting ∧ 0 < arrivals x.amask) →
        ∃ t, exec (.barInit d b) s = .next t ∧
          Completes (.barInit d b) (s.barStep h.gid b.toNat (barrierInit x (h.reg d).toNat)) h t) ∧
      (Issues s h (.barArr d o b) → (o = 2 → h.unacked = []) → x.state ≠ .idle → ∃ t, exec (.barArr d o b) s = .next t ∧
        Completes (.barArr d o b) (s.barStep h.gid b.toNat (barrierArrive x h.idx)) { h with arch := h.arch.setReg d (x.gen.setWidth 64) } t) ∧
      (Issues s h (.barWt d o b) → barrierDone x ((h.reg d).setWidth 32) →
        ∃ t, exec (.barWt d o b) s = .next t ∧ Completes (.barWt d o b) s h t) ∧
      (Issues s h (.barWt d o b) → ¬barrierDone x ((h.reg d).setWidth 32) → x.state ≠ .idle →
        Waits (.barWt d o b) s h (some (.barrierWait b.toNat ((h.reg d).setWidth 32) false)) false s) ∧
      (Issues s h (.barAw d o b) → h.pending = none → (o.getLsbD 1 = true → h.unacked = []) → x.state ≠ .idle →
        barrierDone (barrierArrive x h.idx) x.gen → ∃ t, exec (.barAw d o b) s = .next t ∧
          Completes (.barAw d o b) (s.barStep h.gid b.toNat (barrierArrive x h.idx)) { h with arch := h.arch.setReg d (x.gen.setWidth 64) } t) ∧
      (Issues s h (.barAw d o b) → h.pending = none → (o.getLsbD 1 = true → h.unacked = []) → x.state ≠ .idle →
        ¬barrierDone (barrierArrive x h.idx) x.gen → WaitsAs (.barAw d o b) (s.barStep h.gid b.toNat (barrierArrive x h.idx)) h
          { h with arch := h.arch.setReg d (x.gen.setWidth 64), pending := some (.barrierWait b.toNat x.gen true) } false s) ∧
      (∀ c v r, Issues s h (.barAw d o b) → h.pending = some (.barrierWait c v r) →
        (barrierDone x v → ∃ t, exec (.barAw d o b) s = .next t ∧ Completes (.barAw d o b) s h t) ∧
        (¬barrierDone x v → Waits (.barAw d o b) s h h.pending false s)) ∧
      (Issues s h (.barDrop b) → x.state ≠ .idle → ∃ t, exec (.barDrop b) s = .next t ∧
        Completes (.barDrop b) (s.barStep h.gid b.toNat (barrierDrop x h.idx)) h t) ∧
      (Issues s h (.barRd d b) → ∃ t v, exec (.barRd d b) s = .next t ∧ Completes (.barRd d b) s { h with arch := h.arch.setReg d v } t ∧
        v.toNat = (x.gen.toNat * 2 ^ 32 + x.exp * 2 ^ 16 + arrivals x.amask * 2 ^ 8 +
          match x.state with | .idle => 0 | .counting => 1 | .released => 2) % 2 ^ 64)) ∧
  (∀ (s : State) (h : Hart) (g : Group) (d : Reg) (o : BitVec 2) (b : BitVec 6), s.group h.gid = some g → PlainHart h → Handled s h →
      let x := g.bar b.toNat
      let misuse := plainCause 33 b.toNat
      (Issues s h (.barInit d b) → (64 < (h.reg d).toNat ∨ g.nhart < (h.reg d).toNat ∨ (x.state = .counting ∧ 0 < arrivals x.amask)) →
        Traps (.barInit d b) s h misuse) ∧
      (x.state = .idle →
        (Issues s h (.barArr d o b) → (o.getLsbD 1 = true → h.unacked = []) → Traps (.barArr d o b) s h misuse) ∧
        (Issues s h (.barAw d o b) → h.pending = none → (o.getLsbD 1 = true → h.unacked = []) → Traps (.barAw d o b) s h misuse) ∧
        (Issues s h (.barWt d o b) → h.pending = none → ¬barrierDone x ((h.reg d).setWidth 32) → Traps (.barWt d o b) s h misuse) ∧
        (Issues s h (.barDrop b) → Traps (.barDrop b) s h misuse)))

/-- QWP advances by the host and by `launch`, which waits for the hart's older accesses (R106, R111, R112). -/
def Obligations.QueueAdvances : Prop :=
  ∀ (s : State) (c q : Nat) (wp : BitVec 32) (h : Hart) (d a : Reg) (n : BitVec 4),
    ((s.ctx c).state ∈ [.active, .growing, .shrinking] → ∃ t, exec (.qwpWrite c q wp) s = .next t ∧ QwpWritten s c q wp t) ∧
    (Issues s h (.launch d a n) → h.unacked = [] → c = s.ctxOf h → q = n.toNat →
      let old := (s.queue c q).wp
      let added : BitVec 32 := (h.reg a).setWidth 32
      ∃ t u, exec (.launch d a n) s = .next t ∧ Completes (.launch d a n) u { h with arch := h.arch.setReg d (old.setWidth 64) } t ∧
        (added = 0 → u = s) ∧ (added ≠ 0 → QwpWritten s c q (old + added) u)) ∧
    (Issues s h (.launch d a n) → h.unacked ≠ [] →
      Waits (.launch d a n) s h h.pending false s)

/-- `halt` (R162): the hart ends, its frame is free once its accesses have performed, or in an aborted group once that is DONE (Table 9.2),
and the last hart of a group drains it. -/
def Obligations.HaltEndsHart : Prop :=
  ∀ (s : State) (h : Hart) (g : Group), Issues s h .halt → OnlyHart s s.cur h → s.group h.gid = some g →
    let live := ∃ p ∈ s.harts, p.1 ≠ s.cur ∧ p.2.gid = h.gid ∧ p.2.halted = false
    ∃ t, exec .halt s = .next t ∧ (h.unacked = [] → g.aborted = false → t.hart s.cur = none) ∧
      (h.unacked ≠ [] ∨ g.aborted = true → t.hart s.cur = some { h with
        halted := true, exits := [], held := [], faults := [], pending := none, landing := [], seat := none, async := [] }) ∧
      (∀ j x, j ≠ s.cur → s.hart j = some x → x.halted = false → ∃ y, t.hart j = some y ∧ y = { x with stalled := y.stalled }) ∧
      (∃ y, t.group h.gid = some y ∧ y = { g with state := y.state, tasks := y.tasks, faults := y.faults } ∧
        (g.state = .running → ¬live → y.state = .draining) ∧ (live ∨ g.state ≠ .running → y.state = g.state) ∧
        (g.tfh ≠ h.idx → y.tasks = g.tasks ∧ y.faults = g.faults) ∧
        (g.tfh = h.idx → y.faults = [] ∧ ∀ f ∈ g.faults, ∀ x ∈ y.tasks, x.num = f.task → x.state.live = false)) ∧
      (∀ j, j ≠ h.gid → t.group j = s.group j) ∧
      t = { s with
        harts := t.harts, groups := t.groups, issuing := t.issuing, slots := t.slots, slotRequests := t.slotRequests }

/-- `pfence`, `pinv` and `pcnt` (R255, R258, R260). -/
def Obligations.PageInstructions : Prop :=
  ∀ (s : State) (h : Hart) (d a : Reg) (all clr : Bool),
    let c := s.ctxOf h
    let on (base bits : Nat) : Prop := all = true ∨ (h.reg a).toNat / 2 ^ bits = base / 2 ^ bits
    let fencing (i : Instr) : Prop := Waits i s h (some .fencing) false s
    (Issues s h .pfence → h.unacked = [] → ∃ t, exec .pfence s = .next t ∧ Completes .pfence s h t) ∧
    (Issues s h .pfence → h.unacked ≠ [] → fencing .pfence) ∧
    (Issues s h (.pinv a all) → (∀ l, h.pending ≠ some (.invalidating l)) →
      (h.unacked ≠ [] ∨ (∃ b ∈ s.blocked, b.1 = c ∧ on b.2.1 b.2.2) → fencing (.pinv a all)) ∧
      (h.unacked = [] → (∀ b ∈ s.blocked, b.1 = c → ¬on b.2.1 b.2.2) →
        ∃ t u, exec (.pinv a all) s = .next t ∧ u.harts = s.harts ∧ u.groups = s.groups ∧
          (∀ l ∈ u.tlb ++ u.mtlb, ∀ x ∈ l.2, x.ctx = c → ¬on x.base x.bits) ∧
          (∀ k, (∀ l ∈ s.tlb ++ s.mtlb, ∀ x ∈ l.2, x.ctx = c → on x.base x.bits → k < dramKey x.pte ∨ dramKey x.pte + 8 ≤ k) →
            u.byte k = s.byte k) ∧
          (∀ key x, s.slot key = some x → x.state = .standing → (∃ q ∈ x.pins, q.ctx = c ∧ on q.base q.bits) →
            ∃ z, u.slot key = some z ∧ z.state = .closing ∧ z.gone = true) ∧
          ((∀ p ∈ s.allPins, p.ctx = c → ¬on p.base p.bits) → Completes (.pinv a all) u h t) ∧
          ((∃ p ∈ s.allPins, p.ctx = c ∧ on p.base p.bits) → ∃ pins,
            Waits (.pinv a all) u h (some (.invalidating pins)) false s ∧ ∀ p, p ∈ pins ↔ p ∈ s.allPins ∧ p.ctx = c ∧ on p.base p.bits))) ∧
    (∀ pins, Issues s h (.pinv a all) → h.pending = some (.invalidating pins) →
      ((∀ p ∈ s.allPins, p ∉ pins) → ∃ t, exec (.pinv a all) s = .next t ∧ Completes (.pinv a all) s h t) ∧
      ((∃ p ∈ s.allPins, p ∈ pins) → Waits (.pinv a all) s h h.pending false s)) ∧
    (Issues s h (.pcnt d a clr) → (∀ e pte bits, s.walk c (h.reg a) = .leaf e pte bits → pteTgt e ≠ 3 ∨ e.getLsbD 40 = false) →
      ∃ t, exec (.pcnt d a clr) s = .next t ∧
        Completes (.pcnt d a clr) s { h with arch := h.arch.setReg d (BitVec.allOnes 64) } t) ∧
    (∀ e pte bits, Issues s h (.pcnt d a clr) → s.walk c (h.reg a) = .leaf e pte bits → pteTgt e = 3 → e.getLsbD 40 = true →
      let n := s.pageCount c pte
      let field : Word := BitVec.ofNat 64 (0xFFFF * 2 ^ 41)
      ∃ t u, exec (.pcnt d a clr) s = .next t ∧
        Completes (.pcnt d a clr) u { h with arch := h.arch.setReg d (BitVec.ofNat 64 n) } t ∧
        u = { s with mem := u.mem, ctxs := u.ctxs } ∧
        (u.load (dramKey pte) 8 / 2 ^ 41 % 2 ^ 16 = (if clr then 0 else n % 2 ^ 16)) ∧
        BitVec.ofNat 64 (u.load (dramKey pte) 8) &&& ~~~field = BitVec.ofNat 64 (s.load (dramKey pte) 8) &&& ~~~field ∧
        ∀ k, k < dramKey pte ∨ dramKey pte + 8 ≤ k → u.byte k = s.byte k)

/-- Migration of a page (R256, R257): the status at once or the wait, the copy, which waits for write pins and tokens and is charged (R99), the
new leaf, and the status 0; and PTBASE (R250). The ports that the copy passes are log 69's. -/
def Obligations.PageMigration : Prop :=
  ∀ (s : State) (h : Hart) (d a : Reg) (k c : Nat) (pte vbase bits : Nat) (new e v : Word),
    let entry := dramKey pte
    let changing : Word := BitVec.ofNat 64 (2 ^ 60 + 0xFFFF * 2 ^ 41)
    (Issues s h (.pmig d a) → h.pending = none → c = s.ctxOf h → (∀ e p b, s.walk c (h.reg a) = .leaf e p b → pteTgt e ∉ [1, 3]) →
      ∃ t, exec (.pmig d a) s = .next t ∧ Completes (.pmig d a) s { h with arch := h.arch.setReg d 4 } t) ∧
    (Issues s h (.pmig d a) → h.pending = none → c = s.ctxOf h → s.walk c (h.reg a) = .leaf e pte bits → pteTgt e ∈ [1, 3] →
      (e.getLsbD 60 = true → ∃ t, exec (.pmig d a) s = .next t ∧
        Completes (.pmig d a) s { h with arch := h.arch.setReg d 1 } t) ∧
      (e.getLsbD 60 = false → bits = 30 → ∃ t, exec (.pmig d a) s = .next t ∧
        Completes (.pmig d a) s { h with arch := h.arch.setReg d 2 } t) ∧
      (s.pmigStatus c e (h.reg d) bits = none → vbase = (h.reg a).toNat / 2 ^ bits * 2 ^ bits →
        ∃ t, exec (.pmig d a) s = .next t ∧ t.load entry 8 = (e ||| BitVec.ofNat 64 (2 ^ 60)).toNat ∧
          (∀ k, k < entry ∨ entry + 8 ≤ k → t.byte k = s.byte k) ∧ t.blocked = s.blocked ++ [(c, vbase, bits)] ∧
          t.hart s.cur = some { h with
            pending := some (.migrate pte e (h.reg d) vbase bits false false), stalled := true, memStall := false, awaited := [] } ∧
          t = { s with mem := t.mem, blocked := t.blocked, harts := t.harts })) ∧
    (s.hart k = some h → h.pending = some (.migrate pte e new vbase bits false false) →
      let held := ∃ p ∈ s.allPins, p.ctx = s.ctxOf h ∧ p.base = vbase ∧ p.write = true
      let tokens := HasTokens s (s.ctxOf h) (movePorts e new)
      (¬held → tokens → ∃ u, Spent s (s.ctxOf h) (fun key => (movePorts e new).count key * (2 ^ bits / 64)) u ∧
        exec (.pmigCopyStart k) s = .next (u.setHart k { h with pending := some (.migrate pte e new vbase bits true false) })) ∧
      (held ∨ ¬tokens → exec (.pmigCopyStart k) s = .next s)) ∧
    (s.hart k = some h → h.pending = some (.migrate pte e new vbase bits true false) → Safe s →
      s.frameReady e = true → s.frameReady new = true →
      let src := frameKey e
      let dst := frameKey new
      (entry + 8 ≤ dst ∨ dst + 2 ^ bits ≤ entry) →
      ∃ t, exec (.pmigLeafInstall k) s = .next t ∧ t.load entry 8 = new.toNat ∧
        (∀ i, i < 2 ^ bits → t.byte (dst + i) = s.byte (src + i)) ∧
        (∀ j, (j < dst ∨ dst + 2 ^ bits ≤ j) → (j < entry ∨ entry + 8 ≤ j) → t.byte j = s.byte j) ∧
        t.hart k = some { h with pending := some (.migrate pte e new vbase bits true true) } ∧
        (∀ j, j ≠ k → t.hart j = s.hart j) ∧ (∀ b ∈ t.blocked, ¬(b.1 = s.ctxOf h ∧ b.2.1 = vbase)) ∧
        (∀ l ∈ t.tlb ++ t.mtlb, ∀ x ∈ l.2, x.ctx = s.ctxOf h → x.base ≠ vbase) ∧
        ∀ key x, s.slot key = some x → x.state = .standing → (∃ q ∈ x.pins, q.ctx = s.ctxOf h ∧ q.base = vbase) →
          ∃ z, t.slot key = some z ∧ z.state = .closing ∧ z.gone = true) ∧
    (Issues s h (.pmig d a) → h.pending = some (.migrate pte e new vbase bits true true) →
      (∀ p ∈ s.allPins, p.ctx = s.ctxOf h → p.base = vbase → (p.leaf ^^^ e) &&& ~~~changing ≠ 0) → ∃ t, exec (.pmig d a) s = .next t ∧
        Completes (.pmig d a) s { h with arch := h.arch.setReg d 0 } t) ∧
    (v.toNat % 4096 = 0 → (∀ x ∈ s.kernels, x.2.ctx = c → x.2.state ≠ .placing ∧ x.2.state ≠ .running) →
      (s.ctx c).state ∉ [.absent, .forming] → ∃ t, exec (.ptbaseWrite c v) s = .next t ∧ (t.ctx c).ptbase = v ∧ t.harts = s.harts ∧
        (∀ l ∈ t.tlb ++ t.mtlb, ∀ x ∈ l.2, x.ctx ≠ c) ∧
        ∀ key x, s.slot key = some x → x.state = .standing → (∃ q ∈ x.pins, q.ctx = c) →
          ∃ z, t.slot key = some z ∧ z.state = .closing ∧ z.gone = true) ∧
    (v.toNat % 4096 ≠ 0 ∨ (∃ x ∈ s.kernels, x.2.ctx = c ∧ (x.2.state = .placing ∨ x.2.state = .running)) →
      exec (.ptbaseWrite c v) s = .next s)

/-- Shape, tags, strips, the length queue and memory formats (R45, R163 to R166): the effect and its trap. -/
def Obligations.StripInstructions : Prop :=
  ∀ (s : State) (h : Hart) (n ew mn : BitVec 2) (vd d a b : Reg) (tag m : BitVec 4) (dom : BitVec 3) (lq : Bool) (o : Cm),
    (Issues s h (.vshape n o) → h.landing = [] → ∃ t, exec (.vshape n o) s = .next t ∧ Completes (.vshape n o) s
      { h with arch := { h.arch with v := [], vtag := [], extent := [], m := [], vl := 0, shape := 8 * 2 ^ n.toNat } } t) ∧
    (∀ x, Issues s h (.vtype vd tag dom o) → Tag.ofCode tag.toNat = some x → ∃ t y, exec (.vtype vd tag dom o) s = .next t ∧
      Completes (.vtype vd tag dom o) s { h with arch := { h.arch with vtag := y } } t ∧ Store.get .zero y vd.toNat = ⟨x, dom⟩ ∧
      ∀ r, r ≠ vd.toNat → Store.get .zero y r = Store.get .zero h.arch.vtag r) ∧
    (∀ rem rest, Issues s h (.vstrip d a b lq ew o) →
      (if lq then h.arch.lq = rem :: rest else rest = h.arch.lq) →
      let left := if lq then rem.toNat else (h.reg a).toNat
      let cap := if b = 0 then left else (h.reg b).toNat
      let k := min (min left (s.regBytes h / 2 ^ ew.toNat)) cap
      ∃ t u, exec (.vstrip d a b lq ew o) s = .next t ∧ Switched s u ∧ Completes (.vstrip d a b lq ew o) u
        { h with arch := { h.arch.setReg d (BitVec.ofNat 64 k) with vl := BitVec.ofNat 32 k, lq := rest } } t) ∧
    (Issues s h (.vstrip d a b true ew o) → h.arch.lq = [] → PlainHart h → Handled s h →
      Traps (.vstrip d a b true ew o) s h (plainCause 7 0)) ∧
    (Issues s h (.vpopq m o) → h.arch.lq.length < 8 → ∃ t, exec (.vpopq m o) s = .next t ∧ Completes (.vpopq m o) s
      { h with arch := { h.arch with
        lq := h.arch.lq ++ [BitVec.ofNat 32 ((List.range h.arch.vl.toNat).countP fun i => maskOn h.arch m i)] } } t) ∧
    (Issues s h (.vpopq m o) → h.arch.lq.length = 8 → PlainHart h → Handled s h → Traps (.vpopq m o) s h (plainCause 6 0)) ∧
    (Issues s h (.mfmt mn a o) → ¬formatRefused (h.reg a) → ∃ t x, exec (.mfmt mn a o) s = .next t ∧
      Completes (.mfmt mn a o) s { h with arch := { h.arch with mf := x } } t ∧ Store.get 0 x mn.toNat = h.reg a ∧
      ∀ j, j ≠ mn.toNat → Store.get 0 x j = Store.get 0 h.arch.mf j) ∧
    (Issues s h (.mfmt mn a o) → formatRefused (h.reg a) → PlainHart h → Handled s h → Traps (.mfmt mn a o) s h (plainCause 34 0))

/-- Lanes (R124, R125, R127): `vacq`, the grant of a seat to the first in order, by PRIO, issue and frame, and `vrel`; the vector state of R52. The
seat lies in the lowest partition without a hart, or where each holds one it is the lowest partition's free seat. -/
def Obligations.LaneInstructions : Prop :=
  ∀ (s : State) (h : Hart) (g : Group) (d : Reg) (nb : Bool) (o : Cm), s.group h.gid = some g →
    (Issues s h (.vacq d nb o) → g.lanes = 0 → PlainHart h → Handled s h → Traps (.vacq d nb o) s h (plainCause 3 0)) ∧
    (∀ p k, Issues s h (.vacq d nb o) → g.lanes ≠ 0 → h.seat = some (p, k) → ∃ t, exec (.vacq d nb o) s = .next t ∧
      Completes (.vacq d nb o) s { h with arch := h.arch.setReg d (BitVec.ofNat 64 (p + 2 ^ 8 * k)) } t) ∧
    (Issues s h (.vacq d true o) → g.lanes ≠ 0 → h.seat = none → h.pending = none →
      freeSeats g.lanes g.seats (s.seated (spireOf s.cur)) = [] → ∃ t, exec (.vacq d true o) s = .next t ∧
      Completes (.vacq d true o) s { h with arch := h.arch.setReg d (BitVec.allOnes 64) } t) ∧
    (∀ prio stamp k spire x, firstSeeker (s.seekers spire) = some (prio, stamp, k, d) → s.hart k = some h →
      freeSeats g.lanes g.seats (s.seated spire) ≠ [] → x ∈ s.seekers spire →
      let empty (q : Nat) : Prop := q < 32 / g.lanes ∧ ∀ y ∈ s.seated spire, y.1 ≠ q
      x.1 ≤ prio ∧ (x.1 = prio → stamp ≤ x.2.1) ∧ (x.1 = prio → x.2.1 = stamp → k ≤ x.2.2.1) ∧
      ∃ t p n b, exec (.seatGrant spire) s = .next t ∧ (p, n) ∈ freeSeats g.lanes g.seats (s.seated spire) ∧
        (∀ q, empty q → empty p ∧ p ≤ q) ∧
        ((∀ q, ¬empty q) → ∀ q m, q < 32 / g.lanes → m < g.seats → (q, m) ∉ s.seated spire → p < q ∨ p = q ∧ n ≤ m) ∧
        b = { withoutVectors h.arch g.shape with qb := h.arch.qb }.setReg d (BitVec.ofNat 64 (p + 2 ^ 8 * n)) ∧
        CompletedAs k s { h with seat := some (p, n), arch := b } (fallsThrough (.vacq d false ⟨0, 0⟩) b) t) ∧
    (∀ lanes seats (held : List (Nat × Nat)) p n, (p, n) ∈ freeSeats lanes seats held → 0 < seats →
      (p, n) ∉ held ∧ p < 32 / lanes ∧ n < seats) ∧
    (Issues s h (.vrel o) → h.landing = [] → ∃ t u, exec (.vrel o) s = .next t ∧ Switched s u ∧
      Completes (.vrel o) u { h with arch := withoutVectors h.arch g.shape, seat := none } t)

/-- A convoy header (R85 to R87): its members are checked, and it changes no state of its program and no count of instructions. The
model's choices (log 22): a member's fetch fault traps at the header's pc, and a loop may end at the first member. -/
def Obligations.ConvoyHeader : Prop :=
  ∀ (s : State) (h : Hart) (n : BitVec 3) (slots : BitVec 24), Issues s h (.convoy n slots) →
    let k := n.toNat + 2
    (∀ i, s.fetch s.cur { h with arch := { h.arch with pc := h.arch.pc + 4 } } = .instr i → i.size ≠ 8 → PlainHart h → Handled s h →
      Traps (.convoy n slots) s h (plainCause 1 0)) ∧
    (∀ c, s.members s.cur h k (h.arch.pc + 4) = .error (some c) → PlainHart h → Handled s h → Traps (.convoy n slots) s h c) ∧
    (s.members s.cur h k (h.arch.pc + 4) = .error none →
      Waits (.convoy n slots) s h h.pending false s) ∧
    ∀ l, s.members s.cur h k (h.arch.pc + 4) = .ok l →
      let good := (∀ p ∈ l.zip (convoySlots slots), p.1.size = 8 ∧ p.1.wellFormed = true ∧ unitMatches p.1.unit p.2 = true) ∧
        loopInside h.arch (8 * k) = false
      (good → ∃ t u, exec (.convoy n slots) s = .next t ∧ Completes (.convoy n slots) s { h with convoy := k } t ∧
        t.hart s.cur = some u ∧ u.convoy = k ∧ u.arch.hinst = h.arch.hinst) ∧
      (¬good → PlainHart h → Handled s h → Traps (.convoy n slots) s h (plainCause 1 0))

/-- Exits (R170 to R177): `vexit` opens one, and the oldest one acts when it resolves. That the checkpoint stands before the iteration test
of `vexit` itself, and that HANNUL counts the annulled instructions that had completed, a convoy's header among them, and one that had recorded
a cause, is the model's choice (logs 27, 84). -/
def Obligations.Exits : Prop :=
  ∀ (s : State) (h : Hart) (m : BitVec 4) (b : Reg) (off : BitVec 20) (o : Cm) (k : Nat) (e : Exit) (rest : List Exit),
    let issued := h.seq + (h.faults.any (·.stops)).toNat
    (Issues s h (.vexit m b off o) → h.exits.length < 4 → ∃ t u x, exec (.vexit m b off o) s = .next t ∧
      Completes (.vexit m b off o) s { h with exits := h.exits ++ [x] } t ∧ t.hart s.cur = some u ∧ u.exits = h.exits ++ [x] ∧
      x.vl = h.arch.vl.toNat ∧ (∀ i, x.mask.testBit i = activeAt h.arch m i) ∧ x.base = h.reg b ∧
      x.target = BitVec.ofInt 64 (h.arch.pc.toNat + 4 * off.toInt) ∧ x.seq = h.seq + 1 ∧
      x.arch = { h.arch with hinst := h.arch.hinst + 1 }) ∧
    (Issues s h (.vexit m b off o) → h.exits.length = 4 →
      Waits (.vexit m b off o) s h h.pending false s) ∧
    (s.hart k = some h → h.exits = e :: rest → ∃ u, exec (.exitResolution k) s = .next (s.setHart k u) ∧
      (∀ i, i < e.vl → e.mask.testBit i = true → (∀ j, j < i → e.mask.testBit j = false) →
        u.arch = { e.arch with pc := e.target, xidx := e.base + BitVec.ofNat 64 i } ∧ u.exits = [] ∧ u.seq = e.seq ∧
        u.held = h.held.filter (fun x => x.seq < e.seq) ∧ u.faults = h.faults.filter (fun x => x.seq < e.seq) ∧
        u.hannul = h.hannul + BitVec.ofNat 64 (issued - e.seq) ∧ u.pending = none ∧ u.dbg.icnt = e.icnt) ∧
      ((∀ i, i < e.vl → e.mask.testBit i = false) → (∀ f ∈ h.faults, e.seq ≤ f.seq → ∃ x, rest.head? = some x ∧ x.seq ≤ f.seq) →
        u = { h with exits := rest, stalled := false }) ∧
      (∀ older f younger, (∀ i, i < e.vl → e.mask.testBit i = false) → h.faults = older ++ f :: younger → (∀ x ∈ older, x.seq < e.seq) →
        e.seq ≤ f.seq → (∀ x, rest.head? = some x → f.seq < x.seq) →
        u.arch = f.arch ∧ u.exits = [] ∧ u.seq = f.seq ∧ u.held = h.held.filter (fun x => x.seq < f.seq) ∧
        u.hannul = h.hannul + BitVec.ofNat 64 (issued - (f.seq + 1)) ∧ u.dbg.icnt = f.icnt))

/-- The oldest held store (R174, R178, R335): it performs at its homes, joins the requests of its link, or is dropped with a deferred
fault, one for each store. It waits behind an older store of its class on another link, and for tokens (R280, R99). That a store of
several entries raises one cause, beside R335's once for a hart, is the model's choice (logs 25, 48); the ports are log 69's. -/
def Obligations.HeldStoreDrains : Prop :=
  ∀ (s : State) (k : Nat) (h : Hart) (e : Held) (rest : List Held), s.hart k = some h → h.held = e :: rest →
    (∀ x, h.exits.head? = some x → e.seq < x.seq) →
    let c := s.ctxOf h
    let ports := writePorts (spireOf k) e.link e.grant e.writes
    let dropped (x : Cause) := s.setHart k { h with
      held := rest, async := if h.async.any (·.store == some e.seq) then h.async else h.async ++ [⟨x, e.pc, some e.seq⟩] }
    let ready := (∀ q ∈ s.homeq, q.read = false → q.hart = k → q.cls = e.cls → q.link = e.link) ∧ HasTokens s c ports
    (e.revoked = true → exec (.heldEntryDrain k) s = .next (dropped ⟨18, 0, true, false, e.idx, e.addr⟩)) ∧
    (e.revoked = false → ¬ready → exec (.heldEntryDrain k) s = .next s) ∧
    (e.revoked = false → ready → e.link = none → ∃ t v, exec (.heldEntryDrain k) s = .next t ∧ Charged s c ports v ∧
      t.hart k = some { h with held := rest } ∧ (∀ j, j ≠ k → t.hart j = s.hart j) ∧ (∀ j, t.byte j = afterWrites e.writes j (s.byte j)) ∧
      t.groups = s.groups ∧ t.ctxs = v.ctxs) ∧
    (∀ l, e.revoked = false → ready → e.link = some l →
      (s.linkDead l = true → exec (.heldEntryDrain k) s = .next (dropped ⟨17, 5, true, false, e.idx, BitVec.ofNat 64 l⟩)) ∧
      (s.linkDead l = false → ∃ v, Charged s c ports v ∧ exec (.heldEntryDrain k) s = .next { v.setHart k { h with
          held := rest, unacked := h.unacked ++ [⟨l, e.pc, e.seq, e.cls, e.idx⟩] } with
        homeq := s.homeq ++ [⟨k, e.seq, false, c, some l, e.pc, e.cls, e.writes, e.mark, e.counts, e.pins⟩] }))

/-- The mask instructions (R167, Table 12.1): active bits of md, the scalar result, and `mftm`; nothing else changes. -/
def Obligations.MaskResults : Prop :=
  ∀ (s : State) (h : Hart) (i : Instr),
    (∀ f val sc, Issues s h i → maskResult h.arch i = some (f, val, sc) → ∃ t b, exec i s = .next t ∧
      Completes i s { h with arch := b } t ∧ b = { h.arch with m := b.m, s := b.s } ∧
      (∀ w, sc = some w → b.s = (h.arch.setReg f.ss w).s) ∧ (sc = none → b.s = h.arch.s) ∧ (val = none → b.m = h.arch.m) ∧
      ∀ p, val = some p → (∀ n, n ≠ f.md.toNat → Store.get 0 b.m n = Store.get 0 h.arch.m n) ∧
        ∀ j, (Store.get 0 b.m f.md.toNat).testBit j =
          if activeAt h.arch f.mask j then p j else (Store.get 0 h.arch.m f.md.toNat).testBit j) ∧
    (∀ f, Issues s h (.mftm f) → ∃ t b, exec (.mftm f) s = .next t ∧ Completes (.mftm f) s { h with arch := { h.arch with m := b } } t ∧
      (∀ n, n ≠ f.md.toNat → Store.get 0 b n = Store.get 0 h.arch.m n) ∧
      ∀ j, (Store.get 0 b f.md.toNat).testBit j = (decide (j < s.regBytes h) && h.arch.ftm.getLsbD 31 &&
        decide (h.arch.ftm.toNat % 2 ^ 31 ≤ j) && decide (j < h.arch.ftmVl)))

/-- Reading an operand (R62, R187, R190): the value of each active element, the lowest reserved code, and the reconstruction of whole
blocks of a level, encoded again in the operand's own tag; the integer transform of R33 loses nothing. -/
def Obligations.VectorReads : Prop :=
  (∀ (a : Arch) (r act n : Nat) (keep sat : Bool) (m : Rnd),
      let t := a.tagOf r
      let l := a.domOf r
      let v := a.values r act n keep m sat
      let stored (i : Nat) : Option Sys2Proof.Num := decodeNum t 0 (rawCode a r t.bits i % 2 ^ t.memBits)
      v.xs.length = n ∧
      (keep = true ∨ l = 0 → v.flags = 0 ∧ (∀ i, i < n → act.testBit i = true → v.at i = (stored i).getD .zero) ∧
        ∀ i, v.rsv = some i ↔
          i < n ∧ act.testBit i = true ∧ stored i = none ∧ ∀ j, j < i → act.testBit j = true → stored j ≠ none) ∧
      (keep = false → l ≠ 0 → ∀ i, i < n → act.testBit i = true →
        let first := i / 2 ^ l * 2 ^ l
        let block := (List.range (2 ^ l)).map fun j => (stored (first + j)).getD .zero
        v.at i = if i / 2 ^ l < n / 2 ^ l then
            (decodeNum t 0 (encodeNum t m sat 0 ((invHaar (haarKind t) block l).getD (i - first) .zero)).val).getD .zero
          else (stored i).getD .zero)) ∧
  (∀ (l : Nat) (x : List Int), x.length = 2 ^ l → invHaar none (haar none (x.map Num.ofInt) l) l = x.map Num.ofInt)

/-- Vector arithmetic and special functions (R192 to R194, R197, R202): each active element, the flags, and what stays. The model's choices:
`vmulh` of operands of mixed sign (log 15), the neighbour that a special function takes where its bounds do not settle it (log 30), and operands
that P cannot hold (log 62). -/
def Obligations.VectorArithmetic : Prop :=
  ∀ (s : State) (h : Hart) (i : Instr) (w : VectorWork), Issues s h i → arithmeticWork h.arch (s.regBytes h) i = some w →
    Works i s h w

/-- Bitwise instructions, carries, shifts, `vdot2`, compares, `vsel`, `vmov` and `vid` (R195 to R201). That compares act on
the exact values of operands that P cannot hold is the model's choice (log 62). -/
def Obligations.VectorCodes : Prop :=
  ∀ (s : State) (h : Hart) (i : Instr) (w : VectorWork), Issues s h i → codesWork h.arch (s.regBytes h) i = some w →
    Works i s h w

/-- Slides, compress, expand, gather, extract and insert (R203 to R205). -/
def Obligations.VectorPermutations : Prop :=
  ∀ (s : State) (h : Hart) (i : Instr) (w : VectorWork), Issues s h i → permutationWork h.arch (s.regBytes h) i = some w →
    Works i s h w

/-- Reductions over the pairwise tree of R67, scans, and the running argmax (R206 to R208). The model's choices: an empty reduction gives B(0)
without its encoding's flags (log 42), how B(0) is read (log 19), and operands that P cannot hold (logs 15, 62). -/
def Obligations.VectorFolds : Prop :=
  ∀ (s : State) (h : Hart) (i : Instr) (w : VectorWork), Issues s h i → foldWork h.arch (s.regBytes h) i = some w →
    Works i s h w

/-- Random elements, online softmax, sampling and top-k lists (R210 to R216). The model's choices: how a carried element or list is read (log
19), only an active element's reserved code counts (log 63), and which neighbour a special function takes where its bounds do not settle it (log
30). -/
def Obligations.VectorModels : Prop :=
  ∀ (s : State) (h : Hart) (i : Instr) (w : VectorWork), Issues s h i → modelWork h.arch (s.regBytes h) i = some w →
    Works i s h w

/-- Vector loads (R175, R182 to R184, R221, R224 to R226, R322, R335): the faults of their elements, lowest first; the registers, each active
element read, brought to the delivered level and encoded; a speculative load suppresses its faults and gives +0 there; `vld.ff`
trims vl, and where its first active element faults while it is speculative it writes +0 to that element. That element's value and the unread ones
of a suppressed load are the model's choice (log 23), as are an index register read through reconstruction with its flags (log 14) and that only an
active element's reserved code counts (log 63); the ports are log 69's. -/
def Obligations.VectorLoads : Prop :=
  ∀ (s : State) (h : Hart) (g : Group) (i : Instr) (f : VM) (k : VectorForm), Issues s h i → loadOf i = some (f, k) →
    s.group h.gid = some g →
    let rb := s.regBytes h
    let w₀ : VectorAccess := ⟨h.arch, f, k, loadCount h.arch rb f k⟩
    let a := if i = .vldFf f then trimmed w₀ s h g else h.arch
    let w : VectorAccess := ⟨a, f, k, loadCount a rb f k⟩
    let fields := fieldsOf f k
    let index := k = .indexed ∧ (h.arch.tagOf f.f3.toNat).isInt = false
    let stuck e := i = .vldFf f ∧ (List.range w₀.n).find? w₀.act = some e ∧ firstBad w₀ s h g = some e
    let bad e j := e < w.n ∧ j < fields ∧ w.loads s h g e = true ∧ w.loadFault s h g e j ≠ none
    let work := w.loadWork s h g
    let rsv := work.reserved.isSome = true ∧ h.arch.hctl.getLsbD 0 = true
    let places := w.places s g false fields fun e j => w.loads s h g e && (w.loadFault s h g e j).isNone
    (index → PlainHart h → Handled s h → Traps i s h (plainCause 32 0)) ∧
    (∀ e c, stuck e → w₀.loadFault s h g e 0 = some c →
      (PlainHart h → Handled s h → Traps i s h c) ∧
      (h.exits ≠ [] → ∃ t b, exec i s = .next t ∧
        Completes i s { h with arch := b, faults := h.faults ++ [⟨h.seq, h.dbg.icnt, h.arch, false⟩] } t ∧
        VectorWork.Leaves ⟨w₀.n, (· == e), [], true, fun _ => 0, [(f.f1.toNat, w₀.loadTag, w₀.loadLevel, fun _ => ⟨0, 0⟩)], none, none⟩
          h.arch b)) ∧
    (¬index → (∀ e, ¬stuck e) →
      (∀ e j c, bad e j → w.loadFault s h g e j = some c → (∀ x y, bad x y → e < x ∨ (e = x ∧ j ≤ y)) →
        PlainHart h → Handled s h → Traps i s h c) ∧
      ((∀ e j, ¬bad e j) ∨ h.exits ≠ [] → AccessReady s h places → rsv →
        (PlainHart h → Handled s h → Traps i s h (plainCause 24 (work.reserved.getD 0))) ∧
        (h.exits ≠ [] → exec i s = .next (s.setHart s.cur { h with
          faults := h.faults ++ [⟨h.seq, h.dbg.icnt, h.arch, true⟩], stalled := true, memStall := false, awaited := [] }))) ∧
      ((∀ e j, ¬bad e j) ∨ h.exits ≠ [] → AccessReady s h places → ¬rsv → ∃ t u b l x, exec i s = .next t ∧
        Completes i u { h with arch := b, landing := h.landing ++ l, faults := x } t ∧ work.Leaves a b ∧
        ((∃ e, w.loads s h g e = true) → l = [(List.range fields).map (f.f1.toNat + ·) ++ if i = .vldFf f then [64] else []]) ∧ ((∀ e, w.loads s h g e = false) → l = []) ∧
        ((∀ e j, ¬bad e j) → x = h.faults) ∧ ((∃ e j, bad e j) → x = h.faults ++ [⟨h.seq, h.dbg.icnt, h.arch, false⟩]) ∧
        u.harts = s.harts ∧ u.groups = s.groups ∧ ((∀ p ∈ places, p.counted = false) → Accessed s g.ctx places u)))

/-- Vector stores (R222 to R228, R317, R319, R321): faults, a reserved code, unequal tags; the bytes and the granule tags within the
module, the requests of the links, each with its lowest element (R335); a speculative one is held, or suppresses its fault (R174, R175).
It waits behind an older store of its class on another link (R280), and for tokens (R99). An index register read through reconstruction with its
flags (log 14), and that only an active element's reserved code counts (log 63), are the model's choices; the ports are log 69's. -/
def Obligations.VectorStores : Prop :=
  ∀ (s : State) (h : Hart) (g : Group) (i : Instr) (f : VM) (k : VectorForm), Issues s h i → storeOf i = some (f, k) →
    s.group h.gid = some g →
    let w : VectorAccess := ⟨h.arch, f, k, storeCount h.arch (s.regBytes h) f k⟩
    let fields := fieldsOf f k
    let index := k = .indexed ∧ (h.arch.tagOf f.f3.toNat).isInt = false
    let bad e j := e < w.n ∧ j < fields ∧ w.stores e = true ∧ w.storeFault s g e j ≠ none
    let vals := (List.range fields).map w.taken
    let low := (vals.filterMap (·.rsv)).min?
    let rsv := low.isSome = true ∧ h.arch.hctl.getLsbD 0 = true
    let same := ∀ j, j < fields → h.arch.tagOf (f.f1.toNat + j) = h.arch.tagOf f.f1.toNat
    let ws := w.writes s g fields
    let ps := ws.map (·.1)
    let onLink (l : Option Nat) := (ws.filter fun x => x.1.link = l).map (·.2)
    let crosses e m := e < w.n ∧ w.stores e = true ∧ ∃ j q, j < fields ∧ w.place s g true e j = .ok q ∧ ∃ p ∈ q.phys, p.link = some m
    (index → PlainHart h → Handled s h → Traps i s h (plainCause 32 0)) ∧
    (¬index →
      (∀ e j c, bad e j → w.storeFault s g e j = some c → (∀ x y, bad x y → e < x ∨ (e = x ∧ j ≤ y)) →
        (PlainHart h → Handled s h → Traps i s h c) ∧
        (h.exits ≠ [] → ∃ t b, exec i s = .next t ∧
          Completes i s { h with arch := b, faults := h.faults ++ [⟨h.seq, h.dbg.icnt, h.arch, false⟩] } t ∧
          b = { h.arch with fflags := h.arch.fflags ||| (indexFlags h.arch f k w.n).setWidth 32 })) ∧
      ((∀ e j, ¬bad e j) →
        (rsv → PlainHart h → Handled s h → Traps i s h (plainCause 24 (low.getD 0))) ∧
        (¬rsv → ¬same → PlainHart h → Handled s h → Traps i s h (plainCause 32 0)) ∧
        (¬rsv → same → (∀ x ∈ ws, s.writeBlocked g.ctx x.1 = false) →
          ∃ b : Arch, b = { h.arch with fflags := b.fflags } ∧
            (∀ n, b.fflags.getLsbD n = (h.arch.fflags.getLsbD n || (n == 6 && low.isSome) || (indexFlags h.arch f k w.n).getLsbD n ||
              (List.range w.n).any fun e => w.act e && (List.range fields).any fun j => (w.storedCode e j).flags.getLsbD n)) ∧
            (h.exits = [] → SendReady s g.ctx f.cls ps → ∃ t u v l q, exec i s = .next t ∧
              Completes i u { h with arch := b, unacked := h.unacked ++ l } t ∧ Accessed s g.ctx ps v ∧
              u.harts = s.harts ∧ u.groups = s.groups ∧ u.ctxs = v.ctxs ∧ (∀ n, u.byte n = afterWrites (onLink none) n (v.byte n)) ∧
              (∀ x ∈ ws, x.1.link = none → w.Marks u x.1.key) ∧ u.homeq = s.homeq ++ q ∧
              (∀ y, y ∈ l ↔ ∃ m e, y = ⟨m, h.arch.pc, h.seq, f.cls, e⟩ ∧ crosses e m ∧ ∀ x, x < e → ¬crosses x m) ∧
              (∀ m, (∃ x ∈ ws, x.1.link = some m) → ∃ y ∈ q, y.hart = s.cur ∧ y.seq = h.seq ∧ y.read = false ∧ y.cls = f.cls ∧
                y.link = some m ∧ y.writes = onLink (some m))) ∧
            (h.exits ≠ [] → h.held.length + ws.length ≤ 4 * g.lanes / g.seats → ∃ t u es, exec i s = .next t ∧
              Completes i u { h with arch := b, held := h.held ++ es } t ∧ Cached s ps u ∧
              (∀ x ∈ es, x.seq = h.seq ∧ x.pc = h.arch.pc ∧ x.cls = f.cls ∧ x.revoked = false) ∧
              ∀ z, (∃ x ∈ es, z ∈ x.writes) ↔ z ∈ ws.map (·.2)))))

/-- `vld.sc` and `vst.sc` (R229, R285): all checks, then one ticket an element in order, then the completion; from the first ticket on
the pages stay pinned (R254). The ports that it passes are log 69's. -/
def Obligations.StrictAccesses : Prop :=
  ∀ (s : State) (h : Hart) (g : Group) (f : VM), s.group h.gid = some g →
    let wl : VectorAccess := ⟨h.arch, f, .strided, loadCount h.arch (s.regBytes h) f .strided⟩
    let ws : VectorAccess := ⟨h.arch, f, .strided, storeCount h.arch (s.regBytes h) f .strided⟩
    let low := (ws.taken 0).rsv
    let rsv := low.isSome = true ∧ h.arch.hctl.getLsbD 0 = true
    let mark := GranuleMark.vector (storedLevel h.arch f) ws.hksel ws.cmp
    let pl := wl.places s g false 1 fun e _ => wl.loads s h g e
    let ps := ws.places s g true 1 fun e _ => ws.stores e
    let waits (i : Instr) (ps : List Phys) (p : Pending) (mem : Bool) := ∃ u, Accessed s g.ctx ps u ∧ Waits i u h (some p) mem s
    (Issues s h (.vldSc f) → h.pending = none →
      (∀ e c, e < wl.n → wl.loads s h g e = true → wl.strictFault s h g false e = some c →
        (∀ x, x < e → wl.loads s h g x = true → wl.strictFault s h g false x = none) → PlainHart h → Handled s h →
        Traps (.vldSc f) s h c) ∧
      ((∀ e, e < wl.n → wl.loads s h g e = true → wl.strictFault s h g false e = none) → h.unacked = [] →
        HasTokens s g.ctx (accessPorts (spireOf s.cur) pl) →
        waits (.vldSc f) pl (.ticket (((List.range wl.n).filter (wl.loads s h g)).map fun e => (wl.keys s g false e, [])) [] .raw
          (wl.granuleLevel s h g) (pinsOf g.ctx false pl)) true)) ∧
    (∀ codes m lg pins, Issues s h (.vldSc f) → h.pending = some (.ticket [] codes m lg pins) →
      codes.length = (List.range wl.n).countP (wl.needs lg) →
      let work := wl.workOf fun _ => wl.valuesOf lg (wl.ticketCode lg codes)
      (work.reserved.isSome = true ∧ h.arch.hctl.getLsbD 0 = true → PlainHart h → Handled s h →
        Traps (.vldSc f) s h (plainCause 24 (work.reserved.getD 0))) ∧
      (¬(work.reserved.isSome = true ∧ h.arch.hctl.getLsbD 0 = true) → ∃ t b, exec (.vldSc f) s = .next t ∧
        Completes (.vldSc f) s { h with arch := b } t ∧ work.Leaves h.arch b)) ∧
    (Issues s h (.vstSc f) → h.pending = none →
      (∀ e c, e < ws.n → ws.stores e = true → ws.strictFault s h g true e = some c →
        (∀ x, x < e → ws.stores x = true → ws.strictFault s h g true x = none) → PlainHart h → Handled s h → Traps (.vstSc f) s h c) ∧
      ((∀ e, e < ws.n → ws.stores e = true → ws.strictFault s h g true e = none) →
        (rsv → PlainHart h → Handled s h → Traps (.vstSc f) s h (plainCause 24 (low.getD 0))) ∧
        (¬rsv → h.unacked = [] → (∀ p ∈ ps, s.writeBlocked g.ctx p = false) → HasTokens s g.ctx (accessPorts (spireOf s.cur) ps) →
          waits (.vstSc f) ps (.ticket (((List.range ws.n).filter ws.stores).map fun e => ([], ws.strictWrites s g e)) [] mark 0
            (pinsOf g.ctx true ps)) false))) ∧
    (∀ codes m lg pins, Issues s h (.vstSc f) → h.pending = some (.ticket [] codes m lg pins) → ¬rsv → ∃ (t : State) (b : Arch),
      exec (.vstSc f) s = .next t ∧ Completes (.vstSc f) s { h with arch := b } t ∧ b = { h.arch with fflags := b.fflags } ∧
        ∀ n, b.fflags.getLsbD n = (h.arch.fflags.getLsbD n || (n == 6 && low.isSome) || (List.range ws.n).any fun e =>
          ws.act e && (ws.storedCode e 0).flags.getLsbD n)) ∧
    (∀ k keys bw rest codes m lg pins, s.hart k = some h → h.pending = some (.ticket ((keys, bw) :: rest) codes m lg pins) →
      ∃ t, exec (.scTicketGrant k) s = .next t ∧ t.ticket = s.ticket + 1 ∧
        t.hart k = some { h with pending := some (.ticket rest (codes ++ [leNat (keys.map s.byte)]) m lg pins) } ∧
        (∀ j, j ≠ k → t.hart j = s.hart j) ∧ (∀ j, t.byte j = afterWrites bw j (s.byte j)) ∧ t.groups = s.groups ∧ t.ctxs = s.ctxs)

/-- `vldsr` (R230, R277): the window slides over its registers and takes in its tail, whose elements lie one element size apart (log 19); data land later. The tokens of
its tail's access are log 69's. -/
def Obligations.SlidingWindow : Prop :=
  ∀ (s : State) (h : Hart) (g : Group) (f : VM) (k : Nat), s.group h.gid = some g →
    let n := windowShift h.arch (s.regBytes h) f
    let w : VectorAccess := ⟨h.arch, { f with sstr := 0 }, .unit, n⟩
    let work := windowWork h.arch (s.regBytes h) f w (w.loaded s h g 0)
    let rsv := work.reserved.isSome = true ∧ h.arch.hctl.getLsbD 0 = true
    let places := w.places s g false 1 fun _ _ => true
    (∀ e c, Issues s h (.vldsr f) → e < n → w.loadFault s h g e 0 = some c → (∀ x, x < e → w.loadFault s h g x 0 = none) →
      PlainHart h → Handled s h → Traps (.vldsr f) s h c) ∧
    (Issues s h (.vldsr f) → (∀ e, e < n → w.loadFault s h g e 0 = none) → AccessReady s h places →
      (rsv → PlainHart h → Handled s h → Traps (.vldsr f) s h (plainCause 24 (work.reserved.getD 0))) ∧
      (¬rsv → work.ok = false → PlainHart h → Handled s h → Traps (.vldsr f) s h (plainCause 32 0)) ∧
      (¬rsv → work.ok = true → n = 0 → ∃ t, exec (.vldsr f) s = .next t ∧ Completes (.vldsr f) s h t) ∧
      (¬rsv → work.ok = true → n ≠ 0 → ∃ t u b, exec (.vldsr f) s = .next t ∧ Completes (.vldsr f) u { h with
          arch := b, landing := h.landing ++ [(List.range (f.nf.toNat + 1)).map (f.f1.toNat + ·)] } t ∧ work.Leaves h.arch b ∧
        u.harts = s.harts ∧ u.groups = s.groups ∧ ((∀ p ∈ places, p.counted = false) → Accessed s g.ctx places u))) ∧
    (∀ l rest, s.hart k = some h → h.landing = l :: rest →
      exec (.loadDataArrives k) s = .next (s.setHart k { h with landing := rest, landed := h.landed ++ l }))

/-- Accesses over links (R9, R258, R276, R277, R329, R334, R337): a load joins the queue of its link, and its data arrive; a home performs the
first request of a link that carries it, and its acknowledgement ends it; `fence` and `wait` (R240, R241). That an access within the module
waits for nothing of a link's queue but its own class is the model's choice (log 6), as are the ports of log 69. -/
def Obligations.LinkAccesses : Prop :=
  ((∀ (s : State) (h : Hart) (g : Group) (i : Instr) (d a : Reg) (sp : BitVec 2) (e : BitVec 6) (n : Nat) (sg : Bool) (va : Word) (p : Placed),
        Issues s h i → h.pending = none → loadForm i = some (d, a, sp, e, n, sg) → accessForm h.arch i = some (va, sp.toNat, n, false) →
        s.group h.gid = some g → s.placeElem g (spireOf s.cur) sp.toNat n false ⟨0, va, n⟩ = .ok p → (∃ q ∈ p.phys, q.link ≠ none) →
        HasTokens s g.ctx (accessPorts (spireOf s.cur) p.phys) →
        let ls := linksOf p.phys
        ∃ t, exec i s = .next t ∧
          t.hart s.cur = some { h with
            pending := some (.remote ls false false (pinsOf g.ctx false p.phys)), stalled := true, memStall := false, awaited := [] } ∧
          (∀ j, j ≠ s.cur → t.hart j = s.hart j) ∧ t = { s with harts := t.harts, homeq := t.homeq } ∧
          ∃ rs, t.homeq = (s.homeq.filter fun q => !(q.read && q.hart == s.cur)) ++ rs ∧ rs.map (·.link) = ls.map some ∧
            ∀ r ∈ rs, r.hart = s.cur ∧ r.seq = h.seq ∧ r.read = true ∧ r.writes = []) ∧
    (∀ (s : State) (k : Nat) (h : Hart) (ls : List Nat) (rmw : Bool) (pins : List Pin), s.hart k = some h → h.landing = [] →
        h.pending = some (.remote ls false rmw pins) → (∀ l ∈ ls, s.linkUp l = true) →
        exec (.loadDataArrives k) s = .next (s.setHart k { h with pending := some (.remote ls true rmw pins) })) ∧
    (∀ (s : State) (h : Hart) (g : Group) (i : Instr) (d a : Reg) (sp : BitVec 2) (e : BitVec 6) (n : Nat) (sg : Bool) (va : Word) (p : Placed)
        (l : Nat), Issues s h i → h.pending = some (.cut [l]) → loadForm i = some (d, a, sp, e, n, sg) →
        accessForm h.arch i = some (va, sp.toNat, n, false) → s.group h.gid = some g →
        s.placeElem g (spireOf s.cur) sp.toNat n false ⟨0, va, n⟩ = .ok p → (∃ q ∈ p.phys, q.link = some l) → PlainHart h → Handled s h →
        Traps i s h ⟨17, 5, false, false, 0, va⟩) ∧
    (∀ (s : State), let first (q : HomeOp) := q.read = false ∧ (∀ l, q.link = some l → s.linkUp l = true) ∧
          ∃ older younger, s.homeq = older ++ q :: younger ∧ ∀ x ∈ older, s.queued x = true → x.link ≠ q.link
        ((∃ q, first q) → ∃ q, s.nextRequest = some q) ∧ (∀ q, s.nextRequest = some q → first q ∧
          ∃ t, exec .homeAccessStep s = .next t ∧ t.homeq = (s.homeq.erase q).filter s.queued ∧ t.harts = s.harts ∧
            t.groups = s.groups ∧
            (q.counts = [] → t.ctxs = s.ctxs ∧ ∀ k, t.byte k = afterWrites q.writes k (s.byte k)) ∧
            (∀ pte base, q.counts = [(pte, base)] → t.pageCount q.ctx pte = min (s.pageCount q.ctx pte + 1) 0xFFFF))) ∧
    (∀ (s : State) (k : Nat) (h : Hart) (older younger : List Unacked) (u : Unacked), s.hart k = some h →
        h.unacked = older ++ u :: younger → u ∉ older → s.linkUp u.link = true →
        (s.homeq.filter fun q => q.read = false && q.hart = k && q.link = some u.link).length <
          (h.unacked.filter fun v => v.link = u.link).length →
        let acked (i : Instr) := ∃ t, exec i s = .next t ∧ t = { s with harts := t.harts } ∧
          ((h.halted = false ∨ older ++ younger ≠ [] ∨ s.abortedGroup h.gid = true) →
            t.hart k = some { h with unacked := older ++ younger }) ∧
          (s.harts.Pairwise (fun x y => x.1 < y.1) → h.halted = true → older ++ younger = [] → s.abortedGroup h.gid = false →
            t.hart k = none) ∧
          ∀ j x, j ≠ k → s.hart j = some x → x.halted = false → t.hart j = some x
        (u.link = hostLink → (∀ v ∈ older, v.link ≠ hostLink) → acked (.hostWriteAck k)) ∧
        (u.link ≠ hostLink → (∀ v ∈ older, v.link = hostLink) → acked (.remoteResponse k)))) ∧
  (∀ (s : State) (h : Hart) (cm : BitVec 16) (scope : BitVec 3) (l st c n : BitVec 5) (o : Cm),
      let copies (p : CopyTag → Prop) := ∃ x ∈ s.copies, x.2.busy = true ∧ x.2.gid = h.gid ∧ x.2.hart = h.idx ∧ p x.2
      let past (k : Nat) (imm : BitVec 5) : Prop := imm = 31 ∨ k ≤ imm.toNat
      let closing := (s.slots.filter fun x => x.2.gid = h.gid && x.2.hart = h.idx && x.2.state = .closing && !x.2.gone).length
      let busy := (s.copies.filter fun x => x.2.busy && x.2.gid = h.gid && x.2.hart = h.idx).length
      let tasks := match s.group h.gid with
        | some g => (g.tasks.filter fun x => x.hart = h.idx && x.state.live).length
        | none => 0
      let stores := (h.unacked.map (·.seq)).eraseDups.length
      let go := past h.landing.length l ∧ past (stores + closing) st ∧ past busy c ∧ past tasks n
      let fenced := (∀ u ∈ h.unacked, cm.getLsbD u.cls.toNat = false) ∧ ¬copies fun x => cm.getLsbD x.cls.toNat = true
      (Issues s h (.fence cm scope o) →
        (fenced → ∃ t, exec (.fence cm scope o) s = .next t ∧ Completes (.fence cm scope o) s h t) ∧
        (¬fenced → Waits (.fence cm scope o) s h (some .waiting) false s)) ∧
      (Issues s h (.wait l st c n o) →
        (go → ∃ t, exec (.wait l st c n o) s = .next t ∧ Completes (.wait l st c n o) s h t) ∧
        (¬go → Waits (.wait l st c n o) s h (some .waiting) false s)))

/-- Streams (R129, R231 to R233): the declaration, a fetch by the DAU, and a load of the next n elements. A fetch waits for tokens and for
the requests before it on its links, and for its owner's older accesses of the class (R99, R276, R287, R288), on a die that issues (R14). The
ports are log 69's. -/
def Obligations.Streams : Prop :=
  ∀ (s : State) (h : Hart) (n : BitVec 3) (a l st : Reg) (o : Cm) (f : VM) (x : Stream) (spire k : Nat) (g : Group),
    (Issues s h (.stream n a l st o) → ∃ t u y, exec (.stream n a l st o) s = .next t ∧ Completes (.stream n a l st o) u h t ∧
      StreamOnly s (spireOf s.cur) n.toNat y u ∧ y.gid = h.gid ∧ y.owner = h.idx ∧ y.base = h.reg a ∧ y.len = (h.reg l).toNat ∧
      y.unit = (st == 0) ∧ y.fmt = Store.get 0 h.arch.mf o.mf.toNat ∧ y.cls = o.cls ∧ y.space = h.arch.vspace.toNat ∧
      y.stride = (if st = 0 then (((Tag.ofCode (y.fmt.toNat % 16)).getD .i8).bytes : Int) else (h.reg st).toInt) ∧
      y.taken = 0 ∧ y.first = 0 ∧ y.fetched = []) ∧
    (s.streams.find (8 * spire + k) = some x → s.group x.gid = some g → x.taken ≤ x.next →
      let l := s.fetchList spire x
      let ps := l.flatMap fun i => (s.streamElem x g spire i).2
      let ready := s.dieRuns spire = true ∧ HasTokens s g.ctx (accessPorts spire ps) ∧
        (∀ p ∈ ps, ∀ m, p.link = some m → s.linkUp m = true) ∧ NothingBefore s x.gid x.owner x.cls fun m => ∃ p ∈ ps, p.link = some m
      (l ≠ [] ↔ x.next < x.len ∧ (x.next < x.want ∨
        (x.next - x.taken) * ((Tag.ofCode (x.fmt.toNat % 16)).getD .i8).bytes < s.bufferShare spire)) ∧
      (l = (List.range l.length).map (x.next + ·)) ∧
      (∀ i ∈ l, i < x.len ∧ (streamPlace x i).1.addr.toNat / 1024 = (streamPlace x x.next).1.addr.toNat / 1024) ∧
      (¬ready → exec (.dauFetch spire k) s = .next s) ∧
      (l ≠ [] → ready → ∃ t y v, exec (.dauFetch spire k) s = .next t ∧ t.streams.find (8 * spire + k) = some y ∧
        (∀ j, j ≠ 8 * spire + k → t.streams.find j = s.streams.find j) ∧ y = { x with first := y.first, fetched := y.fetched } ∧
        y.next = x.next + l.length ∧ y.first ≤ max x.first x.taken ∧
        (∀ i ∈ l, y.fetched.getD (i - y.first) none = streamCode s x g spire i) ∧
        (∀ i, y.first ≤ i → i < x.next → y.fetched.getD (i - y.first) none = x.fetched.getD (i - x.first) none) ∧
        (∀ j z, s.member x.gid x.owner = some (j, z) → s.hart j = some z → t.hart j = some { z with hbeat := z.hbeat + 1 }) ∧
        (∀ j, (∀ z, s.member x.gid x.owner ≠ some (j, z)) → t.hart j = s.hart j) ∧
        ((∀ p ∈ ps, p.counted = false) → AccessedFrom s spire g.ctx ps v ∧ t.ctxs = v.ctxs ∧ ∀ j, t.byte j = v.byte j))) ∧
    (∀ (own : Group) (c : Nat → Nat), Issues s h (.vldStream f) → s.group h.gid = some g →
      let n := loadCount h.arch (s.regBytes h) f .unit
      let td := h.arch.result f.tag f.f1
      let key := 8 * spireOf s.cur + f.sbn.toNat
      let work (lvl : Nat) (v : Vals) : VectorWork :=
        ⟨n, maskOn h.arch f.mask, [v], true, fun _ => 0, [(f.f1.toNat, td, lvl, fun e => encodeNum td (.ofField f.rnd) f.sat 0 (v.at e))], none, none⟩
      (s.streams.find key = none → ∃ t b, exec (.vldStream f) s = .next t ∧ Completes (.vldStream f) s { h with arch := b } t ∧
        (work 0 ⟨[], 0, none⟩).Leaves h.arch b) ∧
      (s.streams.find key = some x → s.group x.gid = some own →
        let lvl := if td.carries then x.fmt.toNat / 2 ^ 8 % 8 else 0
        let avail := min n (x.len - x.taken)
        let on e := decide (e < avail) && maskOn h.arch f.mask e
        (∀ v, s.deliverStream x own (spireOf s.cur) td n (h.arch.active f.mask n) = .vals v →
          (v.rsv = none ∨ h.arch.hctl.getLsbD 0 = false → ∃ t u b, exec (.vldStream f) s = .next t ∧
            Completes (.vldStream f) u { h with arch := b } t ∧ (work lvl v).Leaves h.arch b ∧
            StreamOnly s (spireOf s.cur) f.sbn.toNat { x with taken := min x.len (x.taken + n) } u) ∧
          (∀ e, v.rsv = some e → h.arch.hctl.getLsbD 0 = true → PlainHart h → Handled s h →
            Traps (.vldStream f) s h (plainCause 24 e))) ∧
        (x.first ≤ x.taken → x.taken + avail ≤ x.next → (∀ e, e < avail → s.streamHeld x own (spireOf s.cur) (x.taken + e) = false) →
          (∀ e, on e = true → x.fetched.getD (x.taken + e - x.first) none = some (c e, lvl)) →
          ∃ v, s.deliverStream x own (spireOf s.cur) td n (h.arch.active f.mask n) = .vals v ∧
            (∀ e, on e = true → v.at e = Num.scale ((x.fmt.extractLsb' 24 8).toInt)
              ((decodeNum ((Tag.ofCode (x.fmt.toNat % 16)).getD .i8) 0 (c e)).getD .zero)) ∧ ∀ e, avail ≤ e → v.at e = .zero) ∧
        (∀ m, s.deliverStream x own (spireOf s.cur) td n (h.arch.active f.mask n) = .want m →
          Waits (.vldStream f) { s with streams := Store.insert s.streams key { x with want := max x.want m } } h h.pending true s) ∧
        (∀ c, s.deliverStream x own (spireOf s.cur) td n (h.arch.active f.mask n) = .fault c → PlainHart h → Handled s h →
          Traps (.vldStream f) s h c)))

/-- Stream registers (R42, R159, R234, R269, R270): a binding, and a read of a buffer, a copy tag or a slot. -/
def Obligations.StreamRegisters : Prop :=
  ∀ (s : State) (h : Hart) (n q : BitVec 3) (kind : BitVec 2) (idx : BitVec 8) (o : Cm) (d : Reg) (b : QBind),
    (Issues s h (.qbind n kind idx o) → ∃ t x, exec (.qbind n kind idx o) s = .next t ∧
      Completes (.qbind n kind idx o) s { h with arch := { h.arch with qb := x } } t ∧
      x.find n.toNat = (if kind = 0 then none else some ⟨kind.toNat, idx.toNat⟩) ∧ ∀ j, j ≠ n.toNat → x.find j = h.arch.qb.find j) ∧
    (Issues s h (.qrd d q) →
      let reads (v : Word) (u : State) := ∃ t, exec (.qrd d q) s = .next t ∧
        Completes (.qrd d q) u { h with arch := h.arch.setReg d v } t
      let unbound := PlainHart h → Handled s h → Traps (.qrd d q) s h (plainCause 5 q.toNat)
      (h.arch.qb.find q.toNat = none → unbound) ∧
      (h.arch.qb.find q.toNat = some b → b.kind = 1 →
        (s.streams.find (8 * spireOf s.cur + b.idx) = none → Waits (.qrd d q) s h (some .waiting) false s) ∧
        ∀ x, s.streams.find (8 * spireOf s.cur + b.idx) = some x →
          (x.len ≤ x.taken → Waits (.qrd d q) s h (some .waiting) false s) ∧
          (x.taken < x.len → x.next ≤ x.taken → ∃ u, StreamOnly s (spireOf s.cur) b.idx { x with want := max x.want (x.taken + 1) } u ∧
            Waits (.qrd d q) u h (some .waiting) false s) ∧
          (∀ g c l, x.taken < x.len → x.taken < x.next → s.group x.gid = some g → x.first ≤ x.taken →
            let kept := x.fetched.getD (x.taken - x.first) none
            let afresh := s.streamElem x g (spireOf s.cur) x.taken
            let up := (∀ p ∈ afresh.2, ∀ m, p.link = some m → s.linkUp m = true) ∧
              NothingBefore s x.gid x.owner x.cls fun m => ∃ p ∈ afresh.2, p.link = some m
            (kept = none → ¬up → Waits (.qrd d q) s h (some .waiting) false s) ∧
            (∀ e, kept = none → up → afresh.1 = .error e → PlainHart h → Handled s h → Traps (.qrd d q) s h { e with idx := 0 }) ∧
            (kept = some (c, l) ∨ (kept = none ∧ up ∧ afresh.1 = .ok (c, l)) →
              ∃ u, StreamOnly s (spireOf s.cur) b.idx { x with taken := x.taken + 1 } u ∧ reads (BitVec.ofNat 64 c) u))) ∧
      (h.arch.qb.find q.toNat = some b → b.kind = 2 → ∀ x, s.copies.find (8 * spireOf s.cur + b.idx) = some x →
        (x.order.length ≤ x.yielded → Waits (.qrd d q) s h (some .waiting) false s) ∧
        (∀ j, x.order[x.yielded]? = some j → ∃ u, CopyOnly s (spireOf s.cur) b.idx { x with yielded := x.yielded + 1 } u ∧
          u = { s with copies := u.copies } ∧ reads (BitVec.ofNat 64 j) u)) ∧
      (h.arch.qb.find q.toNat = some b → b.kind = 3 →
        (s.slots.find (256 * spireOf s.cur + b.idx) = none → unbound) ∧
        ∀ x, s.slots.find (256 * spireOf s.cur + b.idx) = some x →
          (x.gid ≠ h.gid ∨ x.state = .free → unbound) ∧
          (x.gid = h.gid → x.state ≠ .free →
            let word (i : Item) : Word := BitVec.ofNat 64 (i.gone.toNat * 2 ^ 51 + i.closed.toNat * 2 ^ 50 + i.park.toNat * 2 ^ 49 +
              (if x.ovc = 0 then 0 else 2 ^ 48) + i.cnt * 2 ^ 32 + x.ovc * 2 ^ 24 + i.ent * 2 ^ 16 + i.seq.toNat);
            (x.items = [] → Waits (.qrd d q) s h (some .waiting) false s) ∧
            (∀ i rest, x.items = i :: rest → i.closed = true → reads (word i) s) ∧
            (∀ i rest, x.items = i :: rest → i.closed = false → ∃ u,
              SlotOnly s (spireOf s.cur) b.idx { x with items := rest, heldEnt := some i.ent } u ∧
              u = { s with slots := u.slots } ∧ reads (word i) u))))

/-- Copies (R235 to R237, R254, R321): the checks and the start, a chunk that lands, is skipped with REVK or is lost with its link, the window
and status words, and the wait. A chunk waits as R99, R276 and R287 give, its read and its
write each charged (R336), and behind a link for its acknowledgement (R334). That a lost chunk leaves its bit 0 is the model's choice (log 43), and
so are the order of the two ranges' faults (log 85) and the ports (log 69). -/
def Obligations.Copies : Prop :=
  ∀ (s : State) (h : Hart) (g : Group) (n : BitVec 3) (d a b : Reg) (dst src scope : BitVec 3) (o : Cm) (w : BitVec 6) (spire tag j : Nat)
    (x : CopyTag),
    let len := (h.reg b).toNat
    let key := 8 * spireOf s.cur + n.toNat
    let from_ := s.placeRange g (spireOf s.cur) src.toNat (h.reg a) false (pieces (h.reg a) len 32 0)
    let into := s.placeRange g (spireOf s.cur) dst.toNat (h.reg d) true (pieces (h.reg d) len 32 0)
    let chunk (k : Nat) (y : Option CopyTag) : Bool := match y with
      | some y => decide (y.chunks ≤ k) || y.landed.testBit k
      | none => true
    let status (y : Option CopyTag) : Word := match y with
      | some y => BitVec.ofNat 64 (y.busy.toNat + 2 * y.revk.toNat)
      | none => 0
    (Issues s h (.copy n d a b dst src scope o) → s.group h.gid = some g →
      (2 ^ 20 < len → PlainHart h → Handled s h → Traps (.copy n d a b dst src scope o) s h ⟨35, 0, false, false, 0, h.reg b⟩) ∧
      (len ≤ 2 ^ 20 → s.copies.find key = some x → x.busy = true →
        Waits (.copy n d a b dst src scope o) s h (some .waiting) false s) ∧
      (len ≤ 2 ^ 20 → (∀ y, s.copies.find key = some y → y.busy = false) →
        (∀ c, from_ = .error c → PlainHart h → Handled s h → Traps (.copy n d a b dst src scope o) s h c) ∧
        (∀ r c, from_ = .ok r → into = .error c → PlainHart h → Handled s h → Traps (.copy n d a b dst src scope o) s h c) ∧
        (∀ r q, from_ = .ok r → into = .ok q → (∀ z ∈ q, s.writeBlocked g.ctx z.2 = false) →
          let ps := (r ++ q).map (·.2)
          ∃ t u v y, exec (.copy n d a b dst src scope o) s = .next t ∧ Completes (.copy n d a b dst src scope o) u h t ∧ Cached s ps v ∧
            CopyOnly s (spireOf s.cur) n.toNat y u ∧ u = { v with copies := u.copies } ∧ y.gid = h.gid ∧ y.hart = h.idx ∧
            y.ctx = g.ctx ∧ y.cls = o.cls ∧ y.scope = scope.toNat ∧ y.len = len ∧ y.chunks = (len + 511) / 512 ∧ y.landed = 0 ∧
            y.sent = 0 ∧ y.lost = 0 ∧ y.marked = [] ∧ y.pins = pinsOf g.ctx false (r.map (·.2)) ++ pinsOf g.ctx true (q.map (·.2)) ∧
            y.order = [] ∧ y.yielded = 0 ∧ y.revk = false ∧ (y.busy = true ↔ len ≠ 0) ∧ y.src = r.map (·.1) ∧ y.dst = q.map (·.1) ∧
            (y.desc ≠ none ↔ dst = src ∧ (h.reg d).toNat < (h.reg a).toNat + len ∧ (h.reg a).toNat < (h.reg d).toNat + len) ∧
            (y.desc ≠ none → y.desc = some (decide ((h.reg a).toNat < (h.reg d).toNat)))))) ∧
    (s.copies.find (8 * spire + tag) = some x → chunkNext x j →
      let crosses (l : Nat) := ∃ r ∈ x.runs j, r.link = some l
      let sent := x.sent.testBit j = true
      let revoked := ∃ r ∈ x.runs j, r.revoked = true
      let lost := ∃ l, crosses l ∧ s.linkDead l = true
      let ready := (∀ l, crosses l → s.linkUp l = true) ∧ (sent ∨ (HasTokens s x.ctx (x.ports spire j) ∧
        NothingBefore s x.gid x.hart x.cls crosses))
      let far := ∃ r ∈ x.dst, r ∈ x.runs j ∧ r.link.isSome = true
      let landed (r : Bool) : CopyTag :=
        chunkEnds x j { x with landed := x.landed ||| 2 ^ j, order := x.order ++ [j], revk := x.revk || r }
      let goes (y : CopyTag) := ∃ t, exec (.copyChunkLands spire tag j) s = .next t ∧ CopyOnly s spire tag y t ∧
        t = { s with copies := t.copies, pipeWork := t.pipeWork }
      let moves := chunkMoves x j
      (s.dieRuns spire = false → exec (.copyChunkLands spire tag j) s = .next s) ∧
      (s.dieRuns spire = true →
        (revoked → ¬sent → goes (landed true)) ∧
        (¬revoked ∨ sent →
          (lost → goes (chunkEnds x j { x with lost := x.lost ||| 2 ^ j, revk := true })) ∧
          (¬lost → ¬ready → exec (.copyChunkLands spire tag j) s = .next s) ∧ (¬lost → ready → sent → goes (landed false)) ∧
          (¬lost → ready → ¬sent → ∃ t v y, exec (.copyChunkLands spire tag j) s = .next t ∧ CopyOnly s spire tag y t ∧
            (far → y = { x with sent := x.sent ||| 2 ^ j, marked := y.marked }) ∧ (¬far → y = { landed false with marked := y.marked }) ∧
            (∀ m ∈ moves, ∃ z ∈ y.marked, z.1 = m.1 / 1024) ∧ (∀ z ∈ x.marked, z ∈ y.marked) ∧ t.harts = s.harts ∧ t.groups = s.groups ∧
            ((∀ r ∈ x.src ++ x.dst, r.counted = false) →
              (∃ z, Charged s x.ctx (x.portsOn spire j x.src) z ∧ Charged z x.ctx (x.portsOn spire j x.dst) v) ∧ t.ctxs = v.ctxs ∧
              (∀ k, t.byte k = (storedByte (moves.map (·.1)) (moves.map fun m => s.byte m.2) k).getD (s.byte k)) ∧
              ∀ m ∈ moves, m.1 < 2 ^ 42 → t.granule m.1 = 0xF7 &&& match x.marked.find? (fun z => z.1 = m.1 / 1024) with
                | some z => z.2
                | none => ((moves.find? fun z => z.1 / 1024 = m.1 / 1024).map fun z => s.granule z.2).getD 0))))) ∧
    (Issues s h (.cptest d n w o) → ∃ t v, exec (.cptest d n w o) s = .next t ∧
      Completes (.cptest d n w o) s { h with arch := h.arch.setReg d v } t ∧
      (w = 32 → v = status (s.copies.find key)) ∧ (w ≠ 32 → ∀ i, i < 64 → v.getLsbD i = chunk (64 * w.toNat + i) (s.copies.find key))) ∧
    (Issues s h (.cpwait n w d o) →
      let past := h.reg d = 0 ∨ (w = 32 ∧ (status (s.copies.find key)).getLsbD 0 = false) ∨
        (w ≠ 32 ∧ ∀ i, i < 64 → (h.reg d).getLsbD i = true → chunk (64 * w.toNat + i) (s.copies.find key) = true)
      (past → ∃ t, exec (.cpwait n w d o) s = .next t ∧ Completes (.cpwait n w d o) s h t) ∧
      (¬past → Waits (.cpwait n w d o) s h (some .waiting) false s))

/-- Operations at a bank (R217, R238, R239, Table 14.4): one element, a vector's active elements, and the two counters of a filter; no flag
is set; a misaligned base traps. One waits behind a store of its class on a link, and for tokens (R280, R99). That only an active element's
reserved code counts is the model's choice (log 63), as is that the register of a vector `bop` is read through reconstruction under its mask (log
44); the ports are log 69's. -/
def Obligations.BankOperations : Prop :=
  ∀ (s : State) (h : Hart) (g : Group) (d a b : Reg) (op : BitVec 4) (w ord : BitVec 2) (o : MaskCm), s.group h.gid = some g →
    (ord.getLsbD 1 = true → h.unacked = []) → (∀ q ∈ s.homeq, q.read = false → q.hart = s.cur → q.cls ≠ o.cls) →
    let bytes := 2 ^ w.toNat
    let base := h.reg a
    let tokens (ps : List Phys) := HasTokens s g.ctx (accessPorts (spireOf s.cur) ps)
    let charged (ps : List Phys) (v : State) := Charged s g.ctx (accessPorts (spireOf s.cur) ps) v
    (Issues s h (.bop d a b op w ord false o) → op ≠ 6 →
      (base.toNat % bytes ≠ 0 → PlainHart h → Handled s h → Traps (.bop d a b op w ord false o) s h ⟨20, 0, true, false, 0, base⟩) ∧
      (∀ p, s.placeElem g (spireOf s.cur) 3 bytes true ⟨0, base, bytes⟩ = .ok p → tokens p.phys →
        let old := leNat (p.phys.map fun q => s.byte q.key)
        let new := bankResult op.toNat (8 * bytes) old ((h.reg b).toNat % 2 ^ (8 * bytes))
        ∃ t u v, exec (.bop d a b op w ord false o) s = .next t ∧
          Completes (.bop d a b op w ord false o) u { h with arch := h.arch.setReg d (BitVec.ofNat 64 old) } t ∧
          u.harts = s.harts ∧ u.groups = s.groups ∧ charged p.phys v ∧ u.ctxs = v.ctxs ∧
          ∀ k, u.byte k = (storedByte (p.phys.map (·.key)) (leBytes bytes new) k).getD (s.byte k))) ∧
    (Issues s h (.bop d a b 6 w ord false o) →
      (base.toNat % 1024 ≠ 0 → PlainHart h → Handled s h → Traps (.bop d a b 6 w ord false o) s h ⟨20, 0, true, false, 0, base⟩) ∧
      (base.toNat % 1024 = 0 →
        let x := (h.reg b).toNat % 2 ^ 32
        let c := x * 0x2545F491 % 2 ^ 32 / 2 ^ 21
        let e := (x * 0x6C8E9CF5 + 0x3A7D1B43) % 2 ^ 32 / 2 ^ 21
        ∀ z p q, s.placeElem g (spireOf s.cur) 3 0 true ⟨0, base, 1⟩ = .ok z →
          s.placeElem g (spireOf s.cur) 3 0 true ⟨0, base + BitVec.ofNat 64 (c / 2), 1⟩ = .ok p →
          s.placeElem g (spireOf s.cur) 3 0 true ⟨0, base + BitVec.ofNat 64 (e / 2), 1⟩ = .ok q → tokens (p.phys ++ q.phys) →
          ∃ t u v, exec (.bop d a b 6 w ord false o) s = .next t ∧
            Completes (.bop d a b 6 w ord false o) u
              { h with arch := h.arch.setReg d (BitVec.ofNat 64 (min (counterAt s p c) (counterAt s q e))) } t ∧
            u.harts = s.harts ∧ u.groups = s.groups ∧ charged (p.phys ++ q.phys) v ∧ u.ctxs = v.ctxs ∧
            counterAt u p c = min (counterAt s p c + 1) 15 ∧ counterAt u q e = min (counterAt s q e + 1) 15 ∧
            (∀ k, k ∉ (p.phys ++ q.phys).map (·.key) → u.byte k = s.byte k))) ∧
    (Issues s h (.bop d a b op w ord true o) → op ≠ 6 →
      let t := h.arch.tagOf b.toNat
      let n := h.arch.count (s.regBytes h) [t]
      let on (i : Nat) : Prop := i < n ∧ activeAt h.arch o.mask i = true
      let code := h.arch.plainCodes b.toNat (h.arch.active o.mask n) n .rne false
      let place (i : Nat) := s.placeElem g (spireOf s.cur) 3 bytes true ⟨i, base + BitVec.ofNat 64 (i * bytes), bytes⟩
      let at_ (i : Nat) : List Phys := match place i with
        | .ok p => if activeAt h.arch o.mask i then p.phys else []
        | .error _ => []
      let ps := (List.range n).flatMap at_
      (∀ i c, on i → place i = .error c → (∀ j, on j → j < i → ∃ p, place j = .ok p) → PlainHart h → Handled s h →
        Traps (.bop d a b op w ord true o) s h c) ∧
      ((∀ i, on i → ∃ p, place i = .ok p) →
        (∀ i, code.2 = some i → h.arch.hctl.getLsbD 0 = true → PlainHart h → Handled s h →
          Traps (.bop d a b op w ord true o) s h (plainCause 24 i)) ∧
        ((code.2 = none ∨ h.arch.hctl.getLsbD 0 = false) → t.bits ≠ 8 * bytes → PlainHart h → Handled s h →
          Traps (.bop d a b op w ord true o) s h (plainCause 32 0)) ∧
        ((code.2 = none ∨ h.arch.hctl.getLsbD 0 = false) → t.bits = 8 * bytes → tokens ps →
          let keys (i : Nat) : List Nat := (at_ i).map (·.key)
          ∃ v u x, exec (.bop d a b op w ord true o) s = .next v ∧ Completes (.bop d a b op w ord true o) u h v ∧
            u.harts = s.harts ∧ u.groups = s.groups ∧ charged ps x ∧ u.ctxs = x.ctxs ∧
            ∀ k, u.byte k = (storedByte (ps.map (·.key)) ((List.range n).flatMap fun i =>
              leBytes (keys i).length (bankResult op.toNat (8 * bytes) (leNat ((keys i).map s.byte)) (code.1.val.getD i 0))) k).getD
                (s.byte k))))

/-- `stand` (R254, R264, R268, R271, R273, R333): its faults, statuses 2 and 3 at once, or a request to the home, whose answer places the line
and completes it with 0, or with 1 when the table is full. The request pins its page and waits for tokens (R99); that it is charged as a line
is the model's choice (log 69). -/
def Obligations.StandingLoads : Prop :=
  ∀ (s : State) (h : Hart) (g : Group) (d a b : Reg) (dep : BitVec 6) (sp : Bool) (n : BitVec 8) (o : Cm) (spire slot home : Nat) (x : Slot),
    s.group h.gid = some g →
    let i := Instr.stand d a b dep sp n o
    let key := 256 * spireOf s.cur + n.toNat
    let lines := if dep = 0 then 2 else dep.toNat + 1
    let fits := (h.reg a).toNat % 64 = 0 ∧ (h.reg b).toNat % 64 = 0 ∧ (h.reg b).toNat + 64 * lines ≤ g.lspan
    let open_ := s.slots.find key = none ∨ ∃ y, s.slots.find key = some y ∧ (y.state = .free ∨ (y.gid = h.gid ∧ y.state = .closed))
    let answers (v : Word) := ∃ t, exec i s = .next t ∧ Completes i s { h with arch := h.arch.setReg d v } t
    (Issues s h i → h.pending = none →
      ((h.reg a).toNat % 64 ≠ 0 → PlainHart h → Handled s h → Traps i s h ⟨20, 0, false, false, 0, h.reg a⟩) ∧
      ((h.reg a).toNat % 64 = 0 → (h.reg b).toNat % 64 ≠ 0 → PlainHart h → Handled s h →
        Traps i s h ⟨20, 0, false, false, 0, h.reg b⟩) ∧
      ((h.reg a).toNat % 64 = 0 → (h.reg b).toNat % 64 = 0 → g.lspan < (h.reg b).toNat + 64 * lines → PlainHart h → Handled s h →
        Traps i s h ⟨19, 0, false, false, 0, h.reg b⟩) ∧
      (∀ p, fits → s.placeElem g (spireOf s.cur) (if sp then 3 else 0) 0 false ⟨0, h.reg a, 64⟩ = .ok p →
        (¬open_ → answers 3) ∧
        (∀ q, open_ → p.phys.head? = some q → q.tgt = 3 ∨ q.tgt = 4 → answers 2) ∧
        (∀ q, open_ → p.phys.head? = some q → q.tgt ≠ 3 → q.tgt ≠ 4 →
          let tokens := HasTokens s g.ctx (accessPorts (spireOf s.cur) p.phys)
          let pins := pinsOf g.ctx false p.phys
          (¬tokens → Waits i s h none false s) ∧ (tokens → ∃ t y v, exec i s = .next t ∧
            t.hart s.cur = some { h with
              pending := some (.standSent n.toNat d pins), stalled := true, memStall := false, awaited := [] } ∧
            (∀ j, j ≠ s.cur → t.hart j = s.hart j) ∧ SlotOnly s (spireOf s.cur) n.toNat y t ∧ y.state = .arming ∧ y.gid = h.gid ∧
            y.hart = h.idx ∧ y.depth = (if dep = 0 then 0 else dep.toNat + 1) ∧ y.base = (h.reg b).toNat ∧ y.line = q.key / 64 ∧
            y.pins = pins ∧ y.grant = q.grant ∧ y.items = [] ∧ y.heldEnt = none ∧ y.ovc = 0 ∧ y.gone = false ∧
            t.slotRequests = s.slotRequests ++ [(key, true)] ∧ Accessed s g.ctx p.phys v ∧ t.ctxs = v.ctxs ∧ ∀ j, t.byte j = v.byte j)))) ∧
    (s.slots.find (256 * spire + slot) = some x → homeOf (x.line * 64) = some home → (256 * spire + slot, true) ∈ s.slotRequests →
      let used := (s.subs.filter fun u => homeOf (u.line * 64) = some home).length
      let full := (if home < 256 then 1024 else 256) ≤ used
      ∃ t m, exec (.homeSubscribe spire slot) s = .next t ∧ t.slotRequests = s.slotRequests.erase (256 * spire + slot, true) ∧
        t.messages = s.messages ++ [(256 * spire + slot, m)] ∧ t = { s with slotRequests := t.slotRequests, messages := t.messages, subs := t.subs } ∧
        (full → t.subs = s.subs ∧ m = .reply true [] 0) ∧
        (¬full → t.subs = s.subs ++ [⟨x.gid, spire, slot, x.line, false, 0, 0, []⟩] ∧
          m = .reply false ((List.range 64).map fun e => s.byte (x.line * 64 + e)) (Store.get 0 s.hseq home))) ∧
    (∀ full line q k z, s.firstMessage (256 * spire + slot) = some (.reply full line q) → s.slots.find (256 * spire + slot) = some x →
      x.state = .arming → s.standing spire slot = some (k, z, d) → s.hart k = some z →
      ∃ t u, exec (.standReplyArrives spire slot) s = .next t ∧
        CompletedAs k u { z with arch := z.arch.setReg d (BitVec.ofNat 64 full.toNat) }
          (fallsThrough (.stand d 0 0 0 false 0 ⟨0, 0⟩) (z.arch.setReg d (BitVec.ofNat 64 full.toNat))) t ∧
        u.harts = s.harts ∧ u.groups = s.groups ∧ u.ctxs = s.ctxs ∧
        u.messages = s.messages.eraseP (fun m => m.1 == 256 * spire + slot) ∧
        (full = true → u.slots.find (256 * spire + slot) = none ∧ ∀ j, u.byte j = s.byte j) ∧
        (full = false → SlotOnly s spire slot
            { x with state := .standing, items := [⟨false, false, false, 0, 0, q⟩], lastSeq := q, newest := 0 } u ∧
          ∀ y, s.group x.gid = some y → line.length = 64 →
            let at_ := lsKey spire (y.bases.getD (spire % 4) 0 + x.base)
            (∀ e, e < 64 → u.byte (at_ + e) = line.getD e 0) ∧ ∀ j, (j < at_ ∨ at_ + 64 ≤ j) → u.byte j = s.byte j))

/-- Pushes and the end of a subscription (R265, R269, R272, R274): a push is placed before its item is queued, folds into the newest item or
counts an overwrite, and waits for its subscriber's tokens (R99; the ports are log 69's); `unstand`, the home's acknowledgement and the close
item; parking. -/
def Obligations.SubscriptionEvents : Prop :=
  ∀ (s : State) (h : Hart) (n : BitVec 8) (o : Cm) (spire slot : Nat) (x : Slot),
    let key := 256 * spire + slot
    (∀ line mask q g, s.firstMessage key = some (.push line mask q) → s.slots.find key = some x → x.state = .standing ∨ x.state = .closing →
      s.group x.gid = some g → line.length = 64 →
      let unread (e : Nat) := ∃ i ∈ x.items, i.closed = false ∧ i.ent = e
      let folded (e : Nat) := x.items.map fun i =>
        if i.ent = e ∧ i.closed = false then { i with cnt := min (i.cnt + 1) 0xFFFF, seq := q } else i
      let next := if x.depth = 0 then (match x.heldEnt with | some e => 1 - e | none => 0) else (x.newest + 1) % x.depth
      let at_ (e : Nat) := lsKey spire (g.bases.getD (spire % 4) 0 + x.base + 64 * e)
      let placed (e : Nat) (all : Bool) (t : State) := (∀ k, k < 64 → t.byte (at_ e + k) =
          if all ∨ mask.testBit k = true then line.getD k 0 else s.byte (at_ e + k)) ∧
        ∀ j, (j < at_ e ∨ at_ e + 64 ≤ j) → t.byte j = s.byte j
      (¬HasTokens s g.ctx (x.ports spire) → exec (.pushArrives spire slot) s = .next s) ∧
      (HasTokens s g.ctx (x.ports spire) → ∃ t v y, exec (.pushArrives spire slot) s = .next t ∧ SlotOnly s spire slot y t ∧
        Charged s g.ctx (x.ports spire) v ∧
        t = { v with mem := t.mem, slots := t.slots, messages := s.messages.eraseP fun m => m.1 == key } ∧ y.lastSeq = q ∧
        (x.heldEnt ≠ some next ∧ ¬unread next ∨ x.depth = 0 ∧ ¬unread next → placed next true t ∧
          y = { x with items := x.items ++ [⟨false, false, false, 0, next, q⟩], newest := next, lastSeq := q }) ∧
        (x.depth = 0 → unread next → placed next true t ∧ y = { x with items := folded next, lastSeq := q }) ∧
        (x.depth ≠ 0 → x.heldEnt = some next ∨ unread next → placed x.newest false t ∧
          y = { x with items := folded x.newest, lastSeq := q, ovc := min (x.ovc + 1) 255 }))) ∧
    (Issues s h (.unstand n o) →
      let k := 256 * spireOf s.cur + n.toNat
      (∀ y, s.slots.find k = some y → y.state = .standing → y.gid = h.gid → ∃ t u, exec (.unstand n o) s = .next t ∧
        Completes (.unstand n o) u h t ∧ u = { s with slots := u.slots, slotRequests := s.slotRequests ++ [(k, false)] } ∧
        SlotOnly s (spireOf s.cur) n.toNat { y with state := .closing, hart := h.idx, gone := false } u) ∧
      ((∀ y, s.slots.find k = some y → y.state ≠ .standing ∨ y.gid ≠ h.gid) → ∃ t, exec (.unstand n o) s = .next t ∧
        Completes (.unstand n o) s h t)) ∧
    ((key, false) ∈ s.slotRequests → ∃ t, exec (.homeUnsubscribe spire slot) s = .next t ∧
      t = { s with
        subs := s.subs.filter fun u => !(u.spire == spire && u.slot == slot && !u.parked)
        slotRequests := s.slotRequests.erase (key, false), messages := s.messages ++ [(key, .ack)] }) ∧
    (s.firstMessage key = some .ack → s.slots.find key = some x → x.state = .closing →
      ∃ t, exec (.subscriptionAckArrives spire slot) s = .next t ∧
        t = { s with slots := t.slots, messages := s.messages.eraseP fun m => m.1 == key } ∧
        SlotOnly s spire slot { x with state := .closed, items := x.items ++ [⟨x.gone, true, false, 0, 0, x.lastSeq⟩] } t) ∧
    (∀ g, s.slots.find key = some x → x.state = .standing → s.group x.gid = some g → g.state = .running → g.wantPark = true →
      s.firstMessage key = none →
      ∃ t, exec (.homeParkSlot spire slot) s = .next t ∧ t = { s with slots := t.slots, subs := t.subs } ∧
        SlotOnly s spire slot { x with state := .parked } t ∧
        t.subs = s.subs.map fun u =>
          if u.gid == x.gid && u.spire == spire && u.slot == slot then { u with parked := true, missed := 0, newest := 0 } else u)

/-- Tile tasks up to their start (R302 to R308) and group tokens (R309): `task` takes the claim and the slot or waits, for the claim by its first
clock, and for the older stores in the classes of CM; the Fusee checks records in order, and a task starts when its condition holds and its
arrays are free, on a die that issues (R14); `twait`, `tsig`, `tokrd` and `tokwr`. That the condition is looked at when the task starts is
the model's choice (log 76). -/
def Obligations.TileTasks : Prop :=
  (∀ (s : State) (h : Hart) (g : Group) (r : Reg) (n : BitVec 6), s.group h.gid = some g →
      (Issues s h (.tokrd r n) → ∃ t, exec (.tokrd r n) s = .next t ∧
        Completes (.tokrd r n) s { h with arch := h.arch.setReg r ((Store.get 0 g.tokens n.toNat).setWidth 64) } t) ∧
      (Issues s h (.tokwr r n) → ∃ t u x, exec (.tokwr r n) s = .next t ∧ Completes (.tokwr r n) u h t ∧
        u = { s with groups := u.groups } ∧ GroupOnly s h.gid x u ∧ TokenWritten g n.toNat ((h.reg r).setWidth 32) x)) ∧
  (∀ (s : State) (h : Hart) (g : Group) (d a : Reg) (cm : BitVec 16) (o : Cm) (n : BitVec 6) (gid : Nat) (x : Task),
    s.group h.gid = some g →
    let i := Instr.task d a cm o
    let va := h.reg a
    let slot := lsKey (4 * g.quad) (g.bases.getD 0 0 + (g.lspan - 4096) + 64 * (g.taskCount.toNat % 64))
    let src := lsKey (spireOf s.cur) (g.bases.getD (spireOf s.cur % 4) 0 + va.toNat)
    let fits := va.toNat % 64 = 0 ∧ va.toNat + 64 ≤ g.lspan ∧ 4096 ≤ g.lspan
    let new : Task := ⟨g.taskCount, [], h.idx, o.cls, .queued, 0, 0, 0, s.stamp⟩
    let vacant := ∀ y ∈ g.tasks, y.num.toNat % 64 = g.taskCount.toNat % 64 → y.state.live = false
    let older := ∃ u ∈ h.unacked, cm.getLsbD u.cls.toNat = true
    let apart := ∀ y ∈ g.tasks, ∀ z ∈ g.tasks, y.num.toNat % 64 = z.num.toNat % 64 → y = z
    (Issues s h i →
      (va.toNat % 64 ≠ 0 → PlainHart h → Handled s h → Traps i s h ⟨20, 0, false, false, 0, va⟩) ∧
      (va.toNat % 64 = 0 → g.lspan < va.toNat + 64 ∨ g.lspan < 4096 → PlainHart h → Handled s h →
        Traps i s h ⟨19, 0, false, false, 0, va⟩) ∧
      (fits → g.claim = false → (s.claimant g.quad).isSome = true →
        (h.pending = none → Waits i s h (some (.claimWait s.dclk.toNat)) false s) ∧ (h.pending ≠ none → Waits i s h h.pending false s)) ∧
      (fits → g.claim = true → older ∨ ¬vacant → apart → Waits i s h (some .slotWait) false s) ∧
      (fits → g.claim = false → (s.claimant g.quad).isSome = false → older ∨ ¬vacant → apart → ∃ u, Waits i u h (some .slotWait) false s ∧
        u = { s with groups := u.groups, acc := u.acc, accLevel := u.accLevel } ∧ GroupOnly s h.gid { g with claim := true } u) ∧
      (fits → g.claim = true ∨ (s.claimant g.quad).isSome = false → ¬older → vacant → ∃ t u, exec i s = .next t ∧
        Completes i u { h with arch := h.arch.setReg d (g.taskCount.setWidth 64) } t ∧ u.harts = s.harts ∧ u.ctxs = s.ctxs ∧
        GroupOnly s h.gid { g with
          claim := true, tasks := g.tasks.filter (fun y => y.num.toNat % 64 != g.taskCount.toNat % 64) ++ [new]
          taskCount := g.taskCount + 1 } u ∧
        (∀ e, e < 64 → u.byte (slot + e) = s.byte (src + e)) ∧ (∀ j, j < slot ∨ slot + 64 ≤ j → u.byte j = s.byte j) ∧
        (g.claim = true → u.acc = s.acc ∧ u.accLevel = s.accLevel) ∧
        (g.claim = false → ∀ k, Store.get 0 u.acc k = (if k / 2 ^ 19 = g.quad then 0 else Store.get 0 s.acc k) ∧
          Store.get 0 u.accLevel k = if k / 8 = g.quad then 0 else Store.get 0 s.accLevel k))) ∧
    (s.group gid = some g → g.tasks.find? (fun y => y.num == g.nextTake) = some x → x.state = .queued →
      g.state = .running ∨ g.state = .draining →
      (∀ y ∈ g.tasks, y.num = g.nextTake - 1 → y.state ≠ .queued ∧ y.state ≠ .waiting) →
      let r := (List.range 64).map fun e => s.byte (lsKey (4 * g.quad) (g.bases.getD 0 0 + (g.lspan - 4096) + 64 * (g.nextTake.toNat % 64)) + e)
      let ready := (r.getD 46 0).getLsbD 3 = false ∨
        counterReached (Store.get 0 g.tokens (field r 52 1 % 64)) (BitVec.ofNat 32 (field r 56 4))
      ∃ t st, exec (.fuseeTakeRecord gid) s = .next t ∧ t = { s with groups := t.groups } ∧
        GroupOnly s gid { g with
          nextTake := g.nextTake + 1
          tasks := taskMapped g.tasks g.nextTake fun y => { y with
            record := r, state := st, code := if taskCheck r = 0 then y.code else taskCheck r } } t ∧
        (taskCheck r ≠ 0 → st = .failed) ∧ (taskCheck r = 0 → ready → st = .queued) ∧ (taskCheck r = 0 → ¬ready → st = .waiting)) ∧
    (s.group gid = some g → (g.tasks.find? (fun y => y.num == g.nextTake) = none ∧ g.nextTake ≠ g.taskCount) ∨
        (g.tasks.find? (fun y => y.num == g.nextTake) = some x ∧ x.state ≠ .queued ∧ (g.state = .running ∨ g.state = .draining) ∧
          ∀ y ∈ g.tasks, y.num = g.nextTake - 1 → y.state ≠ .queued ∧ y.state ≠ .waiting) →
      ∃ t, exec (.fuseeTakeRecord gid) s = .next t ∧ t = { s with groups := t.groups } ∧
        GroupOnly s gid { g with nextTake := g.nextTake + 1 } t) ∧
    (s.group gid = some g → g.tasks.find? (fun y => y.num == x.num) = some x → x.state = .queued ∨ x.state = .waiting → x.record ≠ [] →
      g.claim = true → g.aborted = false → g.wantPark = false → g.state = .running ∨ g.state = .draining →
      s.dieRuns (4 * g.quad) = true →
      let met := (x.record.getD 46 0).getLsbD 3 = false ∨
        counterReached (Store.get 0 g.tokens (field x.record 52 1 % 64)) (BitVec.ofNat 32 (field x.record 56 4))
      let free := ∀ p ∈ positions x.record, arrayFree g p
      (¬met ∨ ¬free → exec (.taskStart gid x.num.toNat) s = .next s) ∧ (met → free →
      let zeroes := (x.record.getD 46 0).getLsbD 2 = true ∨ (x.record.getD 46 0).getLsbD 0 = true
      let ac := ((x.record.getD 46 0).getLsbD 1).toNat
      let agree := ∀ p ∈ positions x.record, Store.get 0 s.accLevel (2 * (4 * g.quad + p) + ac) = field x.record 51 1 % 8
      ∃ t, exec (.taskStart gid x.num.toNat) s = .next t ∧ t = { s with groups := t.groups } ∧
        (zeroes ∨ agree → GroupOnly s gid { g with tasks := taskMapped g.tasks x.num fun y => { y with state := .running } } t) ∧
        (¬(zeroes ∨ agree) → GroupOnly s gid { g with tasks := taskMapped g.tasks x.num fun y => { y with state := .failed, code := 6 } } t))) ∧
    (Issues s h (.twait n a o) →
      (counterReached (Store.get 0 g.tokens n.toNat) ((h.reg a).setWidth 32) → ∃ t, exec (.twait n a o) s = .next t ∧
        Completes (.twait n a o) s h t) ∧
      (¬counterReached (Store.get 0 g.tokens n.toNat) ((h.reg a).setWidth 32) → Waits (.twait n a o) s h (some .waiting) false s)) ∧
    (Issues s h (.tsig n o) →
      (h.unacked ≠ [] → Waits (.tsig n o) s h (some .waiting) false s) ∧
      (h.unacked = [] → ∃ t u y, exec (.tsig n o) s = .next t ∧ Completes (.tsig n o) u h t ∧ u = { s with groups := u.groups } ∧
        GroupOnly s h.gid y u ∧ TokenWritten g n.toNat (Store.get 0 g.tokens n.toNat + 1) y)))

/-- The steps and the end of a task, its faults and the instructions that control it (R69 to R71, R297, R298, R306 to R312), on a die that
issues (R14), with tokens (R99), behind the requests on its links (R276). A fault suspends the task with a record, or where the handler hart has
halted the task is ABORTED with the fault's code and no record stays (R310, Table 21.3). The model's choices here: a product that no f32 subnormal holds is rounded (log 73), a record that leaves the
queue takes its trap with it (log 26), `tflt` moves the undelivered traps (log 67), RSVCNT (log 43), and the ports (log 69). -/
def Obligations.TaskSteps : Prop :=
  (∀ (s : State) (gid : Nat) (g : Group) (x : Task), s.group gid = some g → g.tasks.find? (fun y => y.num == x.num) = some x →
    x.state = .running → g.aborted = false → g.state = .running ∨ g.state = .draining →
    let r := x.record
    let ac := ((r.getD 46 0).getLsbD 1).toNat
    let zeroes := (r.getD 46 0).getLsbD 2 = true ∨ (r.getD 46 0).getLsbD 0 = true
    let level := field r 51 1 % 8
    let suspended (f : Nat × Nat × Word × Nat) (i : Instr) := (∀ k z, s.member gid g.tfh = some (k, z) → s.hart k = some z →
      z.halted = false → ∃ t, exec i s = .next t ∧ t = { s with groups := t.groups, harts := t.harts, pipeWork := t.pipeWork } ∧
        GroupOnly s gid { g with
          tasks := taskMapped g.tasks x.num fun y => { y with state := .suspended, code := f.2.2.2 }
          faults := g.faults ++ [⟨x.num, f.2.2.2, f.1, f.2.1, x.kdone, f.2.2.1, true⟩] } t ∧
        t.hart k = some { z with async := z.async ++ [⟨plainCause 48 x.num.toNat, 0, none⟩] } ∧ ∀ j, j ≠ k → t.hart j = s.hart j) ∧
      ((∀ k z, s.member gid g.tfh = some (k, z) → z.halted = true) → ∃ t, exec i s = .next t ∧
        t = { s with groups := t.groups, pipeWork := t.pipeWork } ∧
        GroupOnly s gid { g with tasks := taskMapped g.tasks x.num fun y => { y with state := .aborted, code := f.2.2.2 } } t)
    let tok := field r 53 1 % 64
    let done_ : Group := { g with tasks := taskMapped g.tasks x.num fun y => { y with state := .done, code := 0 } }
    let finished (t : State) := (∃ y, GroupOnly s gid y t ∧ ((r.getD 46 0).getLsbD 4 = false → y = done_) ∧
        ((r.getD 46 0).getLsbD 4 = true → TokenWritten done_ tok (Store.get 0 g.tokens tok + 1) y)) ∧ t.harts = s.harts ∧ t.acc = s.acc ∧
      ∀ j, Store.get 0 t.accLevel j = if zeroes ∧ ∃ p ∈ positions r, j = 2 * (4 * g.quad + p) + ac then level else Store.get 0 s.accLevel j
    let ready (l : List (Nat × List Phys)) := ∀ p ∈ l, HasTokens s g.ctx (accessPorts p.1 p.2) ∧
      ∀ q ∈ p.2, ∀ m, q.link = some m → s.linkUp m = true ∧ ∀ z ∈ s.homeq, s.queued z = true → z.link ≠ some m
    (s.dieRuns (4 * g.quad) = false → x.kdone < field r 40 2 → exec (.kStepFoldDone gid x.num.toNat) s = .next s) ∧
    (s.dieRuns (4 * g.quad) = true → g.wantPark = false → x.kdone < field r 40 2 →
      (∀ f, s.stepFault g r x.kdone = some f → suspended f (.kStepFoldDone gid x.num.toNat)) ∧
      (s.stepFault g r x.kdone = none → ready (s.stepPlaces g r x.kdone) →
        ∃ t v, exec (.kStepFoldDone gid x.num.toNat) s = .next t ∧ t.harts = s.harts ∧ t.accLevel = s.accLevel ∧
          (∀ p ∈ positions r, let spire := 4 * g.quad + p
            Store.get 0 t.bankSel spire = 1 - Store.get 0 s.bankSel spire ∧
            ∃ rows special, t.banks.find (2 * spire + Store.get 0 t.bankSel spire) = some ⟨recordTag r 43, rows, special⟩ ∧
              (∀ k b, k < 256 → b < colsAt r p →
                decodeNum (recordTag r 43) 0 ((rows.getD k []).getD b 0) = valueW s g r p (256 * x.kdone + k) b) ∧
              (special = true ↔ ∃ k b, k < 256 ∧ b < colsAt r p ∧ ∃ z, valueW s g r p (256 * x.kdone + k) b = some z ∧
                ∃ b, z = .nan b ∨ z = .inf b)) ∧
          GroupOnly s gid { g with tasks := taskMapped g.tasks x.num fun y => { y with
            kdone := y.kdone + 1, rsv := min (y.rsv + reservedMet s g r x.kdone) 0xFFFF } } t ∧
          (∀ p ∈ positions r, ∀ a b, a < rowsAt r p → b < colsAt r p → Store.get 0 t.acc (accElem g p ac a b) =
            foldedElem s g r x.kdone p a b (if x.kdone = 0 ∧ zeroes then 0 else Store.get 0 s.acc (accElem g p ac a b))) ∧
          (∀ k, (∀ p ∈ positions r, ∀ a b, a < rowsAt r p → b < colsAt r p → k ≠ accElem g p ac a b) →
            Store.get 0 t.acc k = Store.get 0 s.acc k) ∧
          ((∀ p ∈ s.stepPlaces g r x.kdone, ∀ q ∈ p.2, q.counted = false) → ArraysAccessed g.ctx (s.stepPlaces g r x.kdone) s v ∧
            t.ctxs = v.ctxs ∧ ∀ k, t.byte k = v.byte k))) ∧
    (field r 40 2 ≤ x.kdone → (r.getD 46 0).getLsbD 0 = false → ∃ t, exec (.taskDone gid x.num.toNat) s = .next t ∧ finished t ∧
      ∀ k, t.byte k = s.byte k) ∧
    (field r 40 2 ≤ x.kdone → (r.getD 46 0).getLsbD 0 = true → g.wantPark = false → s.dieRuns (4 * g.quad) = true →
      (∀ p e, p ∈ positions r → lowestFault (s.placesC g r p) = some e → (∀ q ∈ positions r, q < p → lowestFault (s.placesC g r q) = none) →
        suspended (p, 2, e.1, e.2) (.taskDone gid x.num.toNat)) ∧
      ((∀ p ∈ positions r, lowestFault (s.placesC g r p) = none) →
        let places := (positions r).map fun p => (4 * g.quad + p, (okPlaces (s.placesC g r p)).flatten)
        ready places → (∀ p ∈ places, ∀ q ∈ p.2, s.writeBlocked g.ctx q = false) →
        let ws := (positions r).flatMap fun p => (List.range (rowsAt r p)).flatMap fun a => writesC s g r p a
        ∃ t v, exec (.taskDone gid x.num.toNat) s = .next t ∧ finished t ∧ ArraysAccessed g.ctx places s v ∧ t.ctxs = v.ctxs ∧
          (∀ k, t.byte k = afterWrites ws k (v.byte k)) ∧
          ∀ w ∈ ws, w.key < 2 ^ 42 → t.granule w.key = BitVec.ofNat 8 level))) ∧
  (∀ (s : State) (h : Hart) (g : Group) (d a : Reg) (o : Cm) (w : Bool), s.group h.gid = some g →
    let n : BitVec 32 := (h.reg a).setWidth 32
    let found := g.tasks.find? fun y => y.num == n
    let answers (i : Instr) (v : Word) := ∃ t, exec i s = .next t ∧ Completes i s { h with arch := h.arch.setReg d v } t
    let without (z : Hart) := { z with async := z.async.filter fun y => !(y.cause.code == 48 && y.cause.idx == n.toNat) }
    let changes (i : Instr) (f : Task → Task) := ∃ t u, exec i s = .next t ∧
      Completes i u { without h with arch := h.arch.setReg d 0 } t ∧ u = { s with groups := u.groups, harts := u.harts } ∧
      GroupOnly s h.gid { g with tasks := g.tasks.map f, faults := g.faults.filter fun y => y.task != n } u ∧
      ∀ j z, s.hart j = some z → u.hart j = some (if z.gid = h.gid then without z else z)
    (Issues s h (.tresume d a o) →
      (∀ x, found = some x → x.state = .suspended →
        changes (.tresume d a o) fun y => if y.num = n then { y with state := .running, code := 0 } else y) ∧
      ((∀ x, found = some x → x.state ≠ .suspended) → answers (.tresume d a o) 1)) ∧
    (Issues s h (.tabort d a o) →
      (∀ x, found = some x → x.state = .running → answers (.tabort d a o) 2) ∧
      (∀ x, found = some x → x.state = .queued ∨ x.state = .waiting ∨ x.state = .suspended →
        changes (.tabort d a o) fun y => if y.num = n ∧ y.state.live = true then { y with state := .aborted, code := 12 } else y) ∧
      ((∀ x, found = some x → x.state.live = false) → answers (.tabort d a o) 1)) ∧
    (Issues s h (.tprog d a o) →
      (found = none → answers (.tprog d a o) (BitVec.ofNat 64 (7 * 2 ^ 56))) ∧
      (∀ x, found = some x → answers (.tprog d a o) (BitVec.ofNat 64 ((match x.state with
        | .queued => 0 | .waiting => 1 | .running => 2 | .suspended => 3 | .done => 4 | .failed => 5 | .aborted => 6) * 2 ^ 56 +
        x.code * 2 ^ 48 + x.rsv * 2 ^ 32 + x.kdone)))) ∧
    (Issues s h (.tflt d a w o) →
      (g.faults = [] → answers (.tflt d a w o) (BitVec.allOnes 64)) ∧
      (∀ f rest, g.faults = f :: rest → answers (.tflt d a w o) (if w then f.addr else
        BitVec.ofNat 64 (f.task.toNat + f.code * 2 ^ 32 + f.pos * 2 ^ 40 + f.operand * 2 ^ 42 + f.kdone % 2 ^ 16 * 2 ^ 48)))) ∧
    (Issues s h (.tfltSet d a o) →
      (g.nhart ≤ (h.reg a).toNat → answers (.tfltSet d a o) (BitVec.allOnes 64)) ∧
      ((h.reg a).toNat < g.nhart →
        let new := (h.reg a).toNat
        let traps (z : Hart) := z.async.filter fun y => y.cause.code == 48
        let rest (z : Hart) : Hart := { z with async := z.async.filter fun y => y.cause.code != 48 }
        ∃ t u w y, exec (.tfltSet d a o) s = .next t ∧ u.hart s.cur = some w ∧
          Completes (.tfltSet d a o) u { w with arch := h.arch.setReg d (BitVec.ofNat 64 g.tfh) } t ∧
          u = { s with groups := u.groups, harts := u.harts } ∧ GroupOnly s h.gid y u ∧
          (new = g.tfh ∨ s.member h.gid g.tfh = none → y = { g with tfh := new } ∧ u.harts = s.harts) ∧
          ∀ j z, new ≠ g.tfh → s.member h.gid g.tfh = some (j, z) → s.hart j = some z →
            (∀ k v, s.member h.gid new = some (k, v) → s.hart k = some v → v.halted = false → y = { g with tfh := new } ∧
              u.hart j = some (rest z) ∧ u.hart k = some { v with async := v.async ++ traps z } ∧
              ∀ m, m ≠ j → m ≠ k → u.hart m = s.hart m) ∧
            ((∀ k v, s.member h.gid new = some (k, v) → v.halted = true) →
              u.hart j = some (rest z) ∧ (∀ m, m ≠ j → u.hart m = s.hart m) ∧
              let lost (n : BitVec 32) : Bool := (traps z).any fun m => BitVec.ofNat 32 m.cause.idx == n
              y = { g with
                tfh := new
                tasks := g.tasks.map fun v => match g.faults.find? fun f => f.task == v.num with
                  | some f => if lost v.num && v.state.live then { v with state := .aborted, code := f.code } else v
                  | none => v
                faults := g.faults.filter fun f => !lost f.task }))))

/-- `axt` (R302, R314) reads a row or a column of an accumulator; `vcfq` (R217, R218) reads the two counters of each token. The
ports that `vcfq` waits for and is charged are log 69's. -/
def Obligations.ExtractAndFilter : Prop :=
  ∀ (s : State) (h : Hart) (g : Group) (f : VA), s.group h.gid = some g →
    let a := h.arch
    let td := a.result f.tag f.vd
    let rb := s.regBytes h
    (Issues s h (.axt f) →
      let n := a.count rb [td]
      let p := spireOf s.cur % 4
      let ac := (f.vc.getLsbD 0).toNat
      let col := f.var.getLsbD 1
      let k : Tag := if f.var.getLsbD 2 then .i32 else .f32
      let r := (a.reg f.ss).toNat
      let l := Store.get 0 s.accLevel (2 * (4 * g.quad + p) + ac)
      let x (e : Nat) : Sys2Proof.Num := if 256 ≤ r ∨ 256 ≤ e then (decodeNum k 0 0).getD .zero
        else (decodeNum k 0 (Store.get 0 s.acc (if col then accElem g p ac e r else accElem g p ac r e)).toNat).getD .zero
      let busy := ∃ t ∈ g.tasks, t.state.live = true ∧ ((s.taskRecord g t).getD 46 0).getLsbD 1 = f.vc.getLsbD 0 ∧
        p ∈ positions (s.taskRecord g t)
      let work (lvl : Nat) (fl : Nat → Flags) (v : Nat → Sys2Proof.Num) : VectorWork :=
        ⟨n, maskOn a f.mask, [], true, fl, [(f.vd.toNat, td, lvl, fun e => encodeNum td (.ofField f.rnd) f.sat 0 (v e))], none, none⟩
      let gives (w : VectorWork) := ∃ t b, exec (.axt f) s = .next t ∧ Completes (.axt f) s { h with arch := b } t ∧ w.Leaves a b
      (g.claim = false → gives (work 0 (fun _ => 0) fun _ => .zero)) ∧
      (g.claim = true → busy → Waits (.axt f) s h (some .waiting) false s) ∧
      (g.claim = true → ¬busy →
        (l = 0 → gives (work 0 (fun _ => 0) x)) ∧
        (l ≠ 0 → col = false → PlainHart h → Handled s h → Traps (.axt f) s h (plainCause 32 0)) ∧
        (l ≠ 0 → col = true → td.carries = true → gives (work l (fun _ => 0) x)) ∧
        (l ≠ 0 → l < 8 → col = true → td.carries = false →
          let rebuilt (e : Nat) : Fl Nat := encodeNum k (.ofField f.rnd) f.sat 0
            ((invHaar (haarKind k) ((List.range (2 ^ l)).map fun i => x (e / 2 ^ l * 2 ^ l + i)) l).getD (e % 2 ^ l) .zero)
          let whole e := e / 2 ^ l < n / 2 ^ l
          gives (work 0 (fun e => if whole e then (rebuilt e).flags else 0) fun e =>
            if whole e then (decodeNum k 0 (rebuilt e).val).getD .zero else x e)))) ∧
    (Issues s h (.vcfq f) →
      let ta := a.tagOf f.va.toNat
      let n := a.count rb [ta, td]
      let base := a.reg f.ss
      let v := a.values f.va.toNat (a.active f.mask n) n false (.ofField f.rnd) f.sat
      let token (e : Nat) : Nat := ((v.at e).floor % 2 ^ 32).toNat
      let c (e : Nat) : Nat := token e * 0x2545F491 % 2 ^ 32 / 2 ^ 21
      let d (e : Nat) : Nat := (token e * 0x6C8E9CF5 + 0x3A7D1B43) % 2 ^ 32 / 2 ^ 21
      let place (e j : Nat) := s.placeElem g (spireOf s.cur) a.vspace.toNat 0 false ⟨e, base + BitVec.ofNat 64 (j / 2), 1⟩
      let count (p : Placed) (j : Nat) : Nat := leNat (p.phys.map fun y => s.readByte h y.key) / 16 ^ (j % 2) % 16
      (ta.isInt = false → PlainHart h → Handled s h → Traps (.vcfq f) s h (plainCause 32 0)) ∧
      (ta.isInt = true → base.toNat % 1024 ≠ 0 → PlainHart h → Handled s h → Traps (.vcfq f) s h ⟨20, 0, false, false, 0, base⟩) ∧
      (ta.isInt = true → base.toNat % 1024 = 0 → ∀ x y : Nat → Placed,
        (∀ e, e < n → maskOn a f.mask e = true → place e (c e) = .ok (x e) ∧ place e (d e) = .ok (y e)) →
        let ps := ((List.range n).filter (maskOn a f.mask)).flatMap fun e => (x e).phys ++ (y e).phys
        AccessReady s h ps →
        ∃ t u b, exec (.vcfq f) s = .next t ∧ Completes (.vcfq f) u { h with arch := b, landing := h.landing ++ [[f.vd.toNat]] } t ∧
          (⟨n, maskOn a f.mask, [⟨[], v.flags, none⟩], true, fun _ => 0, [(f.vd.toNat, td, 0, fun e =>
            encodeNum td (.ofField f.rnd) f.sat 0 (.ofNat (min (count (x e) (c e)) (count (y e) (d e)))))], none, none⟩ : VectorWork).Leaves a b ∧
          u.harts = s.harts ∧ u.groups = s.groups ∧ ((∀ p ∈ ps, p.counted = false) → Accessed s g.ctx ps u)))

/-- The management queue (R93 to R95, Tables 6.2, 6.9): MQWP, MQCFG, and the taking of a record, which a bad record ends with INVAL in its
turn. -/
def Obligations.ManagementQueue : Prop :=
  ∀ (s : State) (v : BitVec 32), s.status = .ready →
    exec (.mqwpWrite v) s = .next { s with mqWp := v } ∧
    (let fixed : BitVec 32 := v &&& 0xF0002
     let n := v.toNat / 2 ^ 16 % 16
     let valid := 4 ≤ n ∧ n ≤ 12 ∧ s.mqBase.toNat % 4096 = 0
     (s.mqCfg.getLsbD 0 = true → exec (.mqcfgWrite v) s = .next { s with mqCfg := (s.mqCfg &&& 0xF0002) ||| (v &&& 1) }) ∧
     (s.mqCfg.getLsbD 0 = false → v.getLsbD 0 = false → exec (.mqcfgWrite v) s = .next { s with mqCfg := fixed }) ∧
     (s.mqCfg.getLsbD 0 = false → v.getLsbD 0 = true → valid →
       exec (.mqcfgWrite v) s = .next { s with mqCfg := fixed ||| 1, mqErr := 0, mqHalt := false }) ∧
     (s.mqCfg.getLsbD 0 = false → v.getLsbD 0 = true → ¬valid → exec (.mqcfgWrite v) s = .next { s with mqCfg := fixed, mqErr := 1 })) ∧
    (s.mqCfg.getLsbD 0 = true → s.mqHalt = false → s.mqWp ≠ s.mqRp →
      let size := 2 ^ (s.mqCfg.toNat / 2 ^ 16 % 16)
      let slot := s.mqRp.toNat
      let past := size < (s.mqWp - s.mqRp).toNat
      let r := (List.range 64).map fun i => s.byte (hostKey (s.mqBase.toNat + 64 * (slot % size)) + i)
      let good := field r 1 1 = 0 ∧ field r 3 1 = 0 ∧ field r 32 24 = 0 ∧ field r 60 4 = 0 ∧ 1 ≤ field r 0 1 ∧ field r 0 1 ≤ 12 ∧
        field r 2 1 < 64
      let c : Cmd := ⟨field r 0 1, field r 2 1, BitVec.ofNat 32 (field r 4 4), BitVec.ofNat 64 (field r 8 8),
        BitVec.ofNat 64 (field r 16 8), BitVec.ofNat 64 (field r 24 8), slot, false, decide ¬good⟩
      let turn := ∀ x ∈ s.cmds, x.2.ctx = c.ctx → s.stamp ≤ x.1
      (past → exec .mqRecordTake s = .next { s with mqHalt := true, mqErr := 3 }) ∧
      (¬past → s.linkDead hostLink = true → exec .mqRecordTake s = .next { s with mqHalt := true, mqErr := 2 }) ∧
      (¬past → s.linkUp hostLink = true → (∀ x ∈ s.cmds, x.2.slot % size ≠ slot % size) →
        ∃ t u, exec .mqRecordTake s = .next t ∧ u = { s with
            mqRp := s.mqRp + 1, stamp := s.stamp + 1, cmds := u.cmds, journal := u.journal, jnext := s.jnext + 1 } ∧
          u.cmds.find s.stamp = some c ∧ (∀ j, j ≠ s.stamp → u.cmds.find j = s.cmds.find j) ∧
          u.journal.head? = some ⟨1, c.ctx, c.opc, 0, c.seq.setWidth 64, c.qmask⟩ ∧ (good ∨ ¬turn → t = u) ∧
          (¬good → turn → CmdEnds u s.stamp c 1 t))) ∧
    ∀ n c, s.cmds.find n = some c → c.refused = true → (∀ x ∈ s.cmds, x.2.ctx = c.ctx → n ≤ x.1) → CmdEnds s n c 1 (s.endRefused n)

/-- CREATE, GROW, SHRINK, DESTROY, RESET and a function-level reset, from their checks to their ends (R91 to R97, R100, R347, Tables 6.3, 6.4).
SHRINK blocks writes to the pages that leave before it moves them, and what leaves a context waits for the accesses under way that reach it;
RESET records each QWP that it takes back to 0. The model's choices: when SHRINK and draining do each (log 70), the RESET entries (log 78), what the
commands do not look at (log 47), SHRINK above the allocation, NOSPACE where no aligned frame is found, and REVK after RESET (log 41). -/
def Obligations.ContextLife : Prop :=
  ∀ (s : State) (n c : Nat) (m : Cmd),
    (CmdTurn s n 1 m →
      ((s.ctx m.ctx).state ≠ .absent → Refused (.create n) s n m 2) ∧
      ((s.ctx m.ctx).state = .absent → ¬PoolGives s m.qmask m.arg0.toNat → Refused (.create n) s n m 3) ∧
      ((s.ctx m.ctx).state = .absent → PoolGives s m.qmask m.arg0.toNat → ∃ t, exec (.create n) s = .next t ∧
        Begun s n m.ctx m { Ctx.zero with
          state := .forming, quads := maskQuads m.qmask, granules := (poolGranules s).take m.arg0.toNat } 1 t)) ∧
    (CmdTurn s n 2 m →
      ((s.ctx m.ctx).state = .absent ∨ (s.ctx m.ctx).state = .faulted → Refused (.grow n) s n m 2) ∧
      ((s.ctx m.ctx).state = .active → ¬PoolGives s m.qmask m.arg0.toNat → Refused (.grow n) s n m 3) ∧
      ((s.ctx m.ctx).state = .active → PoolGives s m.qmask m.arg0.toNat → ∃ t y, exec (.grow n) s = .next t ∧ Begun s n m.ctx m y 1 t ∧
        y = { s.ctx m.ctx with
          state := .growing, quads := y.quads, granules := (s.ctx m.ctx).granules ++ (poolGranules s).take m.arg0.toNat } ∧
        ∀ q, q ∈ y.quads ↔ q ∈ (s.ctx m.ctx).quads ∨ q ∈ maskQuads m.qmask)) ∧
    (∀ i, (i = .contextConstructionDone c ∧ (s.ctx c).state = .forming) ∨ (i = .growQuadsJoined c ∧ (s.ctx c).state = .growing) →
      ((s.ctx c).cmd = none → exec i s = .next (s.setCtx c { s.ctx c with state := .active })) ∧
      ((s.ctx c).cmd = some n → s.cmds.find n = some m → ∃ t u, exec i s = .next t ∧ u = { s with ctxs := u.ctxs } ∧
        CtxOnly s c { s.ctx c with state := .active, cmd := none } u ∧ CmdEnds u n m 0 t)) ∧
    (CmdTurn s n 3 m → (s.ctx m.ctx).state = .active →
      let x := s.ctx m.ctx
      let qs := maskQuads m.qmask
      let valid := (∀ q ∈ qs, q ∈ x.quads) ∧ ∃ q ∈ x.quads, q ∉ qs
      (¬valid → Refused (.shrink n) s n m 1) ∧
      (valid → (s.moves m.ctx qs).isSome = false ∨ s.poolRoom m.ctx qs = none → Refused (.shrink n) s n m 4) ∧
      (∀ plan, valid → (s.moves m.ctx qs).isSome = true → s.poolRoom m.ctx qs = some plan →
        PoolPlanned s m.ctx qs plan ∧ ∃ t, exec (.shrink n) s = .next t ∧
        Begun s n m.ctx m { x with state := .shrinking, leaving := qs, releasing := min m.arg0.toNat x.granules.length } 0 t ∧
        Preempted s m.ctx qs plan t)) ∧
    ((s.ctx c).state = .shrinking → s.quiet c (s.ctx c).leaving = true →
      let x := s.ctx c
      let ls := s.unblocked c x.leaving
      let gone := x.granules.drop (x.granules.length - x.releasing)
      let unmoved := s.pmigOn c x.leaving (s.leavesOn c x.leaving) = false
      (unmoved → ls ≠ [] → ∃ t, exec (.shrinkSequenceDone c) s = .next t ∧
        t = { s with mem := t.mem, blocked := s.blocked ++ ls.map fun l => (c, l.va, l.bits) } ∧
        (∀ l ∈ ls, t.byte (dramKey l.pte + 7) = s.byte (dramKey l.pte + 7) ||| 0x10) ∧
        ∀ k, (∀ l ∈ ls, k ≠ dramKey l.pte + 7) → t.byte k = s.byte k) ∧
      (¬unmoved ∨ (ls = [] ∧ s.leavingUnpinned c x.leaving = false) → exec (.shrinkSequenceDone c) s = .next s) ∧
      ∀ ms, unmoved → ls = [] → s.leavingUnpinned c x.leaving = true → s.moves c x.leaving = some ms → x.cmd = some n →
        s.cmds.find n = some m →
        ∃ t u y, exec (.shrinkSequenceDone c) s = .next t ∧ CmdEnds u n m 0 t ∧ CtxOnly s c y u ∧
          y.state = .active ∧ y.leaving = [] ∧ y.releasing = 0 ∧ y.cmd = none ∧ y.quads = (x.quads.filter fun q => !x.leaving.contains q) ∧
          y.granules = x.granules.take (x.granules.length - x.releasing) ∧ (∀ q ∈ x.leaving, q < 64 → QuadZero q u) ∧
          (∀ g ∈ gone, ∀ k, 2 ^ 40 + 2 ^ 20 * g ≤ k → k < 2 ^ 40 + 2 ^ 20 * (g + 1) →
            u.byte k = 0 ∧ ∀ v ∈ u.subs, 64 * v.line ≠ k) ∧
          u.blocked = s.blocked.filter (fun b => b.1 != c) ∧ u.capGen = s.capGen + (if x.leaving = [] ∧ gone = [] then 0 else 2) ∧ u.harts = s.harts ∧ u.groups = s.groups) ∧
    (CmdTurn s n 4 m → (s.ctx m.ctx).state = .absent → Refused (.destroy n) s n m 2) ∧
    (CmdTurn s n 5 m → (s.ctx m.ctx).state = .absent → Refused (.reset n) s n m 2) ∧
    (∀ i st, (i = .destroy n ∧ CmdTurn s n 4 m ∧ st = .absent ∧ (s.ctx m.ctx).state ∈ [.forming, .active, .draining, .faulted]) ∨
        (i = .reset n ∧ CmdTurn s n 5 m ∧ st = .forming ∧ (s.ctx m.ctx).state ∈ [.active, .faulted]) →
      ∃ t, exec i s = .next t ∧ (t.ctx m.ctx).state = .draining ∧ (t.ctx m.ctx).afterDrain = st ∧ (t.ctx m.ctx).cmd = some n ∧
        t.cmds.find n = some { m with started := true } ∧ NoWork m.ctx s t ∧
        (∀ d g x, (s.ctx d).grants.find g = some x → d ≠ m.ctx → x.owner = m.ctx →
          ∃ y, (t.ctx d).grants.find g = some y ∧ (s.ctxs.Pairwise (fun a b => a.1 < b.1) → y.revoked = true))) ∧
    ((s.ctx c).state = .active ∨ (s.ctx c).state = .faulted → (s.ctx c).cmd = none → ∃ t, exec (.functionLevelReset c) s = .next t ∧
      (t.ctx c).state = .draining ∧ (t.ctx c).afterDrain = .forming ∧ NoWork c s t) ∧
    ((s.ctx c).state = .draining →
      let x := s.ctx c
      let reached := s.reaches (fun k => inGranules x.granules k || inQuads x.quads k) = true
      let limits := ∃ b ∈ x.buckets, b.2.limit ≠ 0
      (reached → exec (.drainingZeroingDone c) s = .next s) ∧
      (¬reached → (s.ctx c).afterDrain = .forming → ∃ t, exec (.drainingZeroingDone c) s = .next t ∧
        CtxOnly s c { Ctx.zero with state := .forming, quads := x.quads, granules := x.granules, revk := x.revk, cmd := x.cmd } t ∧
        (∀ q ∈ x.quads, q < 64 → QuadZero q t) ∧ (limits → t.capGen = s.capGen + 2) ∧ (¬limits → t.capGen = s.capGen) ∧
        ∀ q, (s.queue c q).wp ≠ 0 → x.queues.length < 2 ^ 20 → ⟨3, c, q, 0, (s.queue c q).wp.setWidth 64, 0⟩ ∈ t.journal) ∧
      (¬reached → (s.ctx c).afterDrain ≠ .forming → x.cmd = some n → s.cmds.find n = some m → ∃ t, exec (.drainingZeroingDone c) s = .next t ∧
        CtxOnly s c .zero t ∧ (∀ q ∈ x.quads, q < 64 → QuadZero q t) ∧ t.capGen = s.capGen + 2 ∧ t.mqDone = s.mqDone + 1 ∧
        t.cmds.find n = none))

/-- LIMIT and the refill of its buckets, SHARE, UNSHARE, PARK and UNPARK (R95, R99, R101, R178, R261, R262, R344, R347, R362, Tables 6.7, 17.6).
What their arguments do not name is not looked at, and an instance that Table 6.7 does not have is refused: the model's choice (log 47). -/
def Obligations.ContextResources : Prop :=
  ∀ (s : State) (n : Nat) (m : Cmd),
    (∃ t, exec .bucketRefill s = .next t ∧ t = { s with ctxs := t.ctxs, capGen := t.capGen } ∧
      (let changes := ∃ x ∈ s.ctxs, ∃ b ∈ x.2.buckets, ∃ l, b.2.pend = some l ∧ l ≠ b.2.limit
       (changes → t.capGen = s.capGen + 2) ∧ (¬changes → t.capGen = s.capGen)) ∧
      ∀ c, t.ctx c = { s.ctx c with buckets := (t.ctx c).buckets } ∧
      ∀ k b, (s.ctx c).buckets.filter (fun x => x.1 = k) = [(k, b)] →
        let l := b.pend.getD b.limit
        Store.get .zero (t.ctx c).buckets k = ⟨l, none, min (b.tokens + l) (4 * l)⟩) ∧
    (∀ i opc, (i, opc) ∈ [(Instr.limit n, 6), (.share n, 7), (.unshare n, 8), (.park n, 10), (.unpark n, 11)] → CmdTurn s n opc m →
      (s.ctx m.ctx).state = .absent ∨ (s.ctx m.ctx).state = .faulted → Refused i s n m 2) ∧
    ((s.ctx m.ctx).state = .active →
      let x := s.ctx m.ctx
      let a0 := m.arg0.toNat
      let a1 := m.arg1.toNat
      let g := a1 / 2 ^ 32 % 64
      let r := a1 / 2 ^ 40 % 64
      let reserved := ∃ i, (i = 38 ∨ i = 39 ∨ i = 46 ∨ i = 47 ∨ 49 ≤ i) ∧ m.arg1.getLsbD i = true
      let quads := if m.qmask = 0 then x.quads else maskQuads m.qmask
      let mine := ∀ q ∈ quads, q ∈ x.quads
      (CmdTurn s n 6 m →
        let limits := a0 % 2 ^ 16 < limited (a0 / 2 ^ 16 % 2 ^ 16)
        (¬limits → Refused (.limit n) s n m 1) ∧
        (limits → ∃ t u, exec (.limit n) s = .next t ∧ CmdEnds u n m 0 t ∧ u = { s with ctxs := u.ctxs } ∧
          CtxOnly s m.ctx { x with buckets := (u.ctx m.ctx).buckets } u ∧
          ∀ k, Store.get .zero (u.ctx m.ctx).buckets k = if k = a0 % 2 ^ 32 then { Store.get .zero x.buckets k with pend := some (a1 % 2 ^ 32) }
            else Store.get .zero x.buckets k)) ∧
      (CmdTurn s n 7 m →
        let bad := a0 % 65536 ≠ 0 ∨ a1 % 2 ^ 32 = 0 ∨ r = m.ctx ∨ reserved
        let taken := ∃ y, (s.ctx r).grants.find g = some y ∧ y.revoked = false
        (bad → Refused (.share n) s n m 1) ∧ (¬bad → (s.ctx r).state ≠ .active → Refused (.share n) s n m 2) ∧
        (¬bad → (s.ctx r).state = .active → taken → Refused (.share n) s n m 3) ∧
        (¬bad → (s.ctx r).state = .active → ¬taken → ∃ t u, exec (.share n) s = .next t ∧ CmdEnds u n m 0 t ∧
          u = { s with ctxs := u.ctxs, tlb := u.tlb, mtlb := u.mtlb } ∧ CtxOnly s r { s.ctx r with grants := (u.ctx r).grants } u ∧
          (u.ctx r).grants.find g = some ⟨m.ctx, a0, a1 % 2 ^ 32, m.arg1.getLsbD 48, false⟩ ∧
          (∀ j, j ≠ g → (u.ctx r).grants.find j = (s.ctx r).grants.find j) ∧
          ∀ y, y ∈ u.tlb ∨ y ∈ u.mtlb → ∀ z ∈ y.2, z.ctx = r → pteTgt z.leaf = 5 → pteNum z.leaf ≠ g)) ∧
      (CmdTurn s n 8 m →
        ((∀ y, (s.ctx r).grants.find g = some y → y.owner ≠ m.ctx) → Refused (.unshare n) s n m 1) ∧
        ∀ y, (s.ctx r).grants.find g = some y → y.owner = m.ctx → (y.revoked = true → Refused (.unshare n) s n m 0) ∧
          (y.revoked = false → ∃ t u, exec (.unshare n) s = .next t ∧ CmdEnds u n m 0 t ∧
            (u.ctx r).grants.find g = some { y with revoked := true } ∧ (∀ j, j ≠ g → (u.ctx r).grants.find j = (s.ctx r).grants.find j) ∧
            CtxOnly s r { s.ctx r with grants := (u.ctx r).grants, revk := true, nq := (u.ctx r).nq, buckets := (u.ctx r).buckets } u ∧
            (∀ k h w, s.hart k = some h → s.group h.gid = some w → w.ctx = r → u.hart k = some { h with
              held := h.held.map fun e => if e.grant = some g then { e with revoked := true } else e }) ∧
            (let q := (s.ctx r).nq
             let size := 2 ^ (q.cfg.toNat / 2 ^ 16 % 16)
             q.cfg.getLsbD 0 = true → 16 ≤ size → size ≤ 4096 → s.linkUp hostLink = true → (q.wp - q.rp).toNat ≠ size →
               (u.ctx r).nq = { q with wp := q.wp + 1 } ∧
               (u.ctx r).buckets = ((s.ctx r).spend fun p => if p = linkPort hostLink then 1 else 0).buckets ∧ ∀ i, i < 16 → u.byte (hostKey (q.base.toNat + 16 * (q.wp.toNat % size)) + i) =
                 BitVec.ofNat 8 ((g + 2 * 2 ^ 80 + q.wp.toNat * 2 ^ 96) / 2 ^ (8 * i))) ∧
            ∀ k z w, s.slots.filter (fun y => y.1 = k) = [(k, z)] → z.state = .standing → z.grant = some g → s.group z.gid = some w →
              w.ctx = r → u.slots.find k = some { z with state := .closing, gone := true })) ∧
      (CmdTurn s n 10 m →
        let busy := ∃ y ∈ s.groups, y.2.ctx = m.ctx ∧ (y.2.quad ∈ x.suspended ∨ y.2.quad ∈ quads) ∧
          y.2.state ∈ [.forming, .running, .draining]
        (¬mine → Refused (.park n) s n m 1) ∧ (mine → s.poolRoom m.ctx quads = none → Refused (.park n) s n m 4) ∧
        (∀ plan, mine → s.poolRoom m.ctx quads = some plan → PoolPlanned s m.ctx quads plan ∧
          ∃ t sus, exec (.park n) s = .next t ∧ (∀ q, q ∈ sus ↔ q ∈ x.suspended ∨ q ∈ quads) ∧
          (busy → Begun s n m.ctx m { x with suspended := sus } 0 t ∧ Preempted s m.ctx quads plan t) ∧
          (¬busy → ∃ u, CmdEnds u n m 0 t ∧ u = { s with ctxs := u.ctxs, cmds := u.cmds } ∧ (∀ j, j ≠ n → u.cmds.find j = s.cmds.find j) ∧
            CtxOnly s m.ctx { x with
              suspended := sus, fullPark := x.fullPark || x.quads.all fun q => sus.contains q, cmd := none } u))) ∧
      (CmdTurn s n 11 m → (¬mine → Refused (.unpark n) s n m 1) ∧
        (mine → ∃ t u, exec (.unpark n) s = .next t ∧ CmdEnds u n m 0 t ∧ u = { s with ctxs := u.ctxs } ∧
          CtxOnly s m.ctx { x with suspended := x.suspended.filter fun q => !quads.contains q, fullPark := false } u)))

/-- The LINK command, training, replay and the host link's changes of state (R102, R328, R331, R332, R337, Table 24.2). The model's choices: LINK
is a command of context 0 (log 47), how corrected flits are reported (log 37), an atomic in flight on a failed link ends with the deferred fault
(log 48), and a chunk that a failed link carried leaves its bit 0 (log 43). -/
def Obligations.Links : Prop :=
  ∀ (s : State) (n l lanes rate corrected : Nat) (m : Cmd),
    let was (l : Nat) : Nat := (s.link l).rate
    (CmdTurn s n 9 m →
      let l := m.arg0.toNat
      let st := (s.link l).state
      let valid := m.ctx = 0 ∧ m.qmask = 0 ∧ l < 64 ∧ m.arg1.toNat < 3 ∧ l ∉ s.fencedLinks
      (∀ i, i ∈ [Instr.linkTrain n, .linkDown n, .linkRetrain n] → ¬valid → Refused i s n m 1) ∧
      ∀ i new from_, (i, m.arg1.toNat, new, from_) ∈ [(Instr.linkTrain n, 0, LinkState.training, [LinkState.down, .failed]),
          (.linkDown n, 1, .down, [.training, .up, .degraded]), (.linkRetrain n, 2, .training, [.up, .degraded])] → valid →
        (st ∈ from_ → ∃ t u, exec i s = .next t ∧ LinkMoved s l new 0 (was l) u ∧ CmdEnds u n m 0 t) ∧ (st ∉ from_ → Refused i s n m 2)) ∧
    (l < 64 → (s.link l).state = .training →
      (1 ≤ lanes → lanes ≤ 4 → ∃ t, exec (.linkTrainingDone l lanes) s = .next t ∧
        LinkMoved s l (if lanes = 4 then .up else .degraded) lanes (was l) t) ∧
      ∃ t, exec (.linkTrainingTimeout l) s = .next t ∧ LinkMoved s l .failed 0 (was l) t) ∧
    (s.linkUp l = true →
      let x := s.link l
      let y := { x with corr := min (x.corr + corrected) 65535 }
      let z := { y with replay := min (x.replay + 1) 65535 }
      let only (w : Link) (t : State) : Prop := t = { s with links := t.links } ∧ t.link l = w ∧ ∀ j, j ≠ l → t.link j = s.link j
      (∃ t, exec (.flitReplay l ⟨corrected, none⟩) s = .next t ∧ only y t) ∧
      (∃ t, exec (.flitReplay l ⟨corrected, some true⟩) s = .next t ∧ only { z with tries := 0 } t) ∧
      (x.tries ≠ 7 → ∃ t, exec (.flitReplay l ⟨corrected, some false⟩) s = .next t ∧ only { z with tries := x.tries + 1 } t) ∧
      (x.tries = 7 → ∃ t u, exec (.flitReplay l ⟨corrected, some false⟩) s = .next t ∧ only z u ∧ LinkMoved u l .training 0 (was l) t)) ∧
    (s.status ≠ .reset →
      let st := (s.link hostLink).state
      (st ≠ .training → ∃ t, exec (.hostLinkStateChange 1 ⟨lanes, rate⟩) s = .next t ∧ LinkMoved s hostLink .training 0 (was hostLink) t) ∧
      (st ≠ .down → st ≠ .failed → ∃ t, exec (.hostLinkStateChange 0 ⟨lanes, rate⟩) s = .next t ∧
        LinkMoved s hostLink .down 0 (was hostLink) t) ∧
      (st = .training →
        (∃ t, exec (.hostLinkStateChange 2 ⟨16, rate⟩) s = .next t ∧ LinkMoved s hostLink .up 16 rate t) ∧
        (lanes ∈ [1, 2, 4, 8] → ∃ t, exec (.hostLinkStateChange 3 ⟨lanes, rate⟩) s = .next t ∧ LinkMoved s hostLink .degraded lanes rate t) ∧
        ∃ t, exec (.hostLinkStateChange 4 ⟨lanes, rate⟩) s = .next t ∧ LinkMoved s hostLink .failed 0 (was hostLink) t))

/-- ARM, STOP and CLEAR of a queue, the take of its next record with the checks of Table 8.3, kernel tokens, and the end of a kernel
(R105 to R108, R112 to R116, R119, R336, Tables 7.5, 7.6, 8.2, 8.3). The model's choices: KTOK takes writes where doorbells are taken, and ARM
drops a CLEAR that waits (log 46); a LOG2N above the range that a table gives (log 38); a record read over a link is charged there (log 69). -/
def Obligations.LaunchQueues : Prop :=
  ∀ (s : State) (c q j n : Nat) (v : BitVec 32) (ps : List Phys) (k : Kernel),
    (Doorbells s c →
      let x := s.queue c q
      let open_ := x.state = .idle ∨ x.state = .stopped
      let good := 4 ≤ x.cfg.toNat / 2 ^ 16 % 16 ∧ x.base.toNat % 4096 = 0
      (open_ → ∃ t, exec (.qctlArm c q) s = .next t ∧ t = { s with ctxs := t.ctxs } ∧
        QueueOnly s c q (if good then queueMoved s { x with state := .armed, err := 0, clearing := false } (x.wp - x.rp).toNat else { x with err := 1 }) t) ∧
      (¬open_ → ∃ t, exec (.qctlStop c q) s = .next t ∧ t = { s with ctxs := t.ctxs } ∧ QueueOnly s c q { x with state := .stopped } t) ∧
      (x.state = .stopped →
        let ended := ∀ w ∈ s.kernels, w.2.ctx = c → w.2.queue = q → w.2.state = .done ∨ w.2.state = .aborted
        ∃ t, exec (.qctlClear c q) s = .next t ∧ t = { s with ctxs := t.ctxs, journal := t.journal, jnext := t.jnext } ∧
        QueueOnly s c q (if ended
          then { x with wp := 0, rp := 0, done := 0, state := .idle, clearing := false } else { x with clearing := true }) t ∧
        (¬(ended ∧ x.wp ≠ 0) → t.journal = s.journal ∧ t.jnext = s.jnext) ∧
        (ended ∧ x.wp ≠ 0 → t.jnext = s.jnext + 1 ∧ t.journal.head? = some ⟨3, c, q, 0, x.wp.setWidth 64, 0⟩)) ∧
      (x.state = .running → x.wp ≠ x.rp →
        (∀ i y, x.last = some i → s.kernels.find i = some y → y.state ≠ .queued ∧ y.state ≠ .waiting) →
        let places := s.devicePlaces c (x.base + BitVec.ofNat 64 (128 * (x.rp.toNat % 2 ^ (x.cfg.toNat / 2 ^ 16 % 16)))) false 128
        (places = none → ∃ t, exec (.queueTake c q) s = .next t ∧ t = { s with ctxs := t.ctxs } ∧
          QueueOnly s c q { x with state := .stopped, err := 2 } t) ∧
        let ready := (∀ p ∈ ps, ∀ l, p.link = some l → s.linkUp l = true) ∧ HasTokens s c (linkPorts ps)
        (places = some ps → ¬ready → exec (.queueTake c q) s = .next s) ∧
        (places = some ps → ready →
          let r := ps.map fun p => s.byte p.key
          let flag (i : Nat) : Bool := (r.getD 23 0).getLsbD i
          let lanes := field r 21 1
          let fails : List Bool := [field r 36 4 != 0 || field r 48 80 != 0 || 8 ≤ field r 23 1, field r 0 8 % 4 != 0, field r 16 4 == 0,
            field r 20 1 == 0 || 64 < field r 20 1, !([0, 4, 8, 16, 32].contains lanes) || (lanes == 0 && flag 2),
            !([8, 16, 32, 64].contains (field r 22 1)), field r 24 4 % 4096 != 0 || 2 ^ 20 < field r 24 4,
            (flag 0 && 256 ≤ field r 28 2) || (flag 1 && 256 ≤ field r 30 2)]
          let wtok := field r 28 2
          let wval := BitVec.ofNat 32 (field r 32 4)
          let y : Kernel := ⟨c, q, x.rp.toNat, .queued, 0, x.cfg.toNat / 2 ^ 8 % 8, BitVec.ofNat 64 (field r 0 8), BitVec.ofNat 64 (field r 8 8),
            field r 16 4, field r 20 1, lanes, field r 22 1, flag 0, flag 1, flag 2, field r 24 4, wtok, field r 30 2, wval,
            BitVec.ofNat 64 (field r 40 8), 0, 0⟩
          let z := { x with rp := x.rp + 1, last := some s.nextKernel }
          ∃ t b, exec (.queueTake c q) s = .next t ∧ Charged s c (linkPorts ps) b ∧
            (true ∉ fails → t = { b with kernels := t.kernels, nextKernel := s.nextKernel + 1, ctxs := t.ctxs } ∧
              QueueOnly b c q (queueMoved t z (x.wp - x.rp).toNat) t ∧ (∀ i, i ≠ s.nextKernel → t.kernels.find i = s.kernels.find i) ∧
              t.kernels.find s.nextKernel = some { y with
                state := if flag 0 = true ∧ 2 ^ 31 ≤ ((s.ctx c).kt wtok - wval).toNat then .waiting else .placing }) ∧
            ∀ i, fails.findIdx? id = some i → ∃ u w, KernelEnds u s.nextKernel y .aborted (i + 1) w ∧ QueueOnly b c q z u ∧
              u = { b with kernels := u.kernels, nextKernel := s.nextKernel + 1, ctxs := u.ctxs } ∧
              u.kernels.find s.nextKernel = some y ∧ (∀ i, i ≠ s.nextKernel → u.kernels.find i = s.kernels.find i) ∧
              t = { w with ctxs := t.ctxs } ∧ QueueOnly w c q (let v := w.queue c q
                if v.state = .idle ∨ v.state = .stopped then v else queueMoved w v (x.wp - x.rp).toNat) t))) ∧
    (Doorbells s c → s.kernels.Pairwise (fun a b => a.1 < b.1) → ∃ t, exec (.ktokWrite c j v) s = .next t ∧ TokenSet s c j v t) ∧
    (s.kernels.find n = some k → k.state = .draining → s.kernels.Pairwise (fun a b => a.1 < b.1) →
      (∀ y ∈ s.groups, y.2.kernel = n → ∀ z ∈ s.copies, z.2.gid = y.1 → z.2.busy = false) →
      ∃ t u, exec (.kernelDone n) s = .next t ∧ KernelEnds u n k .done 0 t ∧ (k.sigv = false → u = s) ∧
        (k.sigv = true → TokenSet s k.ctx k.ctok ((s.ctx k.ctx).kt k.ctok + 1) u))

/-- The placement of a group, its ls image, its end, its pre-emption and its resume, and the grants of a pipe (R110, R117 to R119, R121 to
R123, R130, R302, R337, R345, R347 to R349, R360, Tables 8.4, 9.2). The model's choices: each span takes the lowest free place (log 10), which of
the quads that fit a resume goes to is the schedule's (log 11), where the ls image lies and that its copy leaves the domain tags (logs 53, 80), the
layout and the check word of an image (log 51) and its charge (log 69), pipes by unit (log 60), when work at a pipe ends (log 65), one refill of D
in a step (log 82), and a resumed stream of packed elements (log 74). -/
def Obligations.Groups : Prop :=
  ∀ (s : State) (c n spire pipe : Nat) (g : Group),
    (Doorbells s c → (s.ctx c).parked = [] → s.kernels.Pairwise (fun a b => a.1 < b.1) →
      let fits (k : Kernel) (q : Nat) : Prop := q ∈ openQuads (s.ctx c) ∧ s.quadFits q k.nhart k.lanes k.lspan k.pair = true
      let able (k : Kernel) : Prop := k.ctx = c ∧ k.state = .placing ∧ ∃ q, fits k q
      let turn (k : Kernel) : Nat := (k.queue + 15 - (s.ctx c).lastQueue) % 16
      (∃ x ∈ s.kernels, able x.2) →
      ∃ t i k q y, exec (.groupPlacement c) s = .next t ∧ s.kernels.find i = some k ∧ able k ∧ fits k q ∧
        (∀ x ∈ s.kernels, able x.2 → x.2.prio < k.prio ∨ 7 < x.2.prio ∨
          (x.2.prio = k.prio ∧ (turn k < turn x.2 ∨ (turn k = turn x.2 ∧ i ≤ x.1)))) ∧
        (∀ p, fits k p → s.quadFrames p < s.quadFrames q ∨ (s.quadFrames p = s.quadFrames q ∧ q ≤ p)) ∧
        t = { s with groups := t.groups, nextGroup := s.nextGroup + 1, harts := t.harts, kernels := t.kernels, ctxs := t.ctxs } ∧
        CtxOnly s c { s.ctx c with lastQueue := k.queue } t ∧ (∀ j, j ≠ i → t.kernels.find j = s.kernels.find j) ∧
        t.kernels.find i = some { k with placed := k.placed + 1, state := if k.placed + 1 = k.ngrp then .running else .placing } ∧
        t.group s.nextGroup = some y ∧ (∀ j, j ≠ s.nextGroup → t.group j = s.group j) ∧
        y = ⟨c, i, k.placed, q, .forming, k.nhart, k.lanes, k.pair, k.shape, k.lspan, y.bases, y.frames, [], [], 0, 0, [], 0, [], false, false,
          false, none, none⟩ ∧
        (∀ p, p < 4 → y.bases.getD p 0 % 4096 = 0 ∧ y.bases.getD p 0 + k.lspan ≤ 2 ^ 20 ∧
          ∀ x ∈ s.groups, x.2.quad = q → x.2.state ∈ [.forming, .running, .draining] → 0 < x.2.lspan → 0 < k.lspan →
            y.bases.getD p 0 + k.lspan ≤ x.2.bases.getD p 0 ∨ x.2.bases.getD p 0 + x.2.lspan ≤ y.bases.getD p 0) ∧
        y.frames.length = k.nhart ∧ (∀ f, f ∉ y.frames → t.hart f = s.hart f) ∧
        ∀ j, j < k.nhart → let f := y.frames.getD j 0
          f / 16 = 4 * q + j % 4 ∧ s.hart f = none ∧
          (∀ e, e / 16 = f / 16 → s.hart e = none → e < f → ∃ i, i < j ∧ y.frames.getD i 0 = e) ∧ ∃ h, t.hart f = some h ∧
            h = { Hart.entry s.nextGroup j { Arch.entry with
              pc := k.code, shape := if k.lanes = 0 then 0 else k.shape, s := h.arch.s } with stopped := true } ∧
            ∀ r : Reg, h.reg r = if r = 3 then k.args else if r = 4 then BitVec.ofNat 64 k.placed else if r = 5 then BitVec.ofNat 64 j
              else if r = 6 then BitVec.ofNat 64 k.ngrp else if r = 7 then BitVec.ofNat 64 k.nhart else 0) ∧
    (s.group n = some g → g.state = .forming → (∀ p, p < 4 → g.bases.getD p 0 + g.lspan ≤ 2 ^ 20) →
      let image := (s.lsImage g.ctx (((s.kernels.find g.kernel).elim 0 (·.code)))).take g.lspan
      let park := g.quad ∈ (s.ctx g.ctx).suspended ∨ g.quad ∈ (s.ctx g.ctx).leaving
      let key (p : Nat) : Nat := lsKey (4 * g.quad + p) (g.bases.getD p 0)
      ∃ t, exec (.groupLsImageCopied n) s = .next t ∧
        (g.aborted = false → (∀ p i, p < 4 → i < image.length → t.byte (key p + i) = image.getD i 0) ∧
          (∀ k, (∀ p, p < 4 → k < key p ∨ key p + image.length ≤ k) → t.byte k = s.byte k) ∧ t = { s with mem := t.mem, groups := t.groups, harts := t.harts } ∧
          (∃ y, t.group n = some y ∧ y = { g with state := .running, wantPark := y.wantPark } ∧ (y.wantPark = true ↔ park)) ∧
          (∀ j, j ≠ n → t.group j = s.group j) ∧
          ∀ k h, s.hart k = some h → ∃ b : Bool, (b = true ↔ park) ∧ t.hart k = some (if h.gid = n then { h with stopped := b } else h)) ∧
        (g.aborted = true → (∃ y, t.group n = some y ∧ y.state = .draining) ∧
          ∀ x ∈ t.harts, x.2.gid = n → x.2.halted = true ∨ x.2.ending = true)) ∧
    (Drained s n g → ∃ t y, exec (.groupDrainDone n) s = .next t ∧ t.group n = some y ∧
      y.state = .done ∧ y.claim = false ∧ y.barriers = [] ∧ y.tokens = [] ∧ y.image = none ∧
      (∀ x ∈ t.slots, x.2.gid ≠ n) ∧ (∀ x ∈ t.streams, x.2.gid ≠ n) ∧ (∀ x, x ∈ t.harts ↔ x ∈ s.harts ∧ x.2.gid ≠ n) ∧
      (∀ p i, p < 8 → i < 64 → credit t p (64 * n + i) = 0) ∧ (∀ j, j ≠ g.kernel → t.kernels.find j = s.kernels.find j) ∧
      ∀ k, s.kernels.find g.kernel = some k → t.kernels.find g.kernel = some { k with
        doneGroups := k.doneGroups + 1
        state := if k.doneGroups + 1 = k.ngrp ∧ k.state ∈ [.placing, .running] then .draining else k.state }) ∧
    (∀ i, (i = .groupDrainDone n ∧ Drained s n g) ∨ (i = .groupParked n ∧ ReadyToPark s n g) → s.groups.Pairwise (fun a b => a.1 < b.1) →
      (∀ x ∈ s.groups, x.2.quad = g.quad → x.1 ≠ n → x.2.claim = false) →
      let waits (x : Nat × Hart) (τ : Nat) : Prop := x ∈ s.harts ∧ x.2.pending = some (.claimWait τ) ∧ x.2.gid ≠ n ∧
        ∃ y, s.group x.2.gid = some y ∧ y.quad = g.quad ∧ y.state = .running ∧ y.wantPark = false
      ∀ x τ, waits x τ → (∀ z υ, waits z υ → τ < υ ∨ (τ = υ ∧ (x.1 < z.1 ∨ z = x))) →
        ∃ t y, exec i s = .next t ∧ s.group x.2.gid = some y ∧ t.group x.2.gid = some { y with claim := true } ∧
          (∀ a, a / 2 ^ 19 = g.quad → Store.get 0 t.acc a = 0) ∧ ∀ a, a / 8 = g.quad → Store.get 0 t.accLevel a = 0) ∧
    (ReadyToPark s n g → ∃ t y image, exec (.groupParked n) s = .next t ∧ t.group n = some y ∧
      y = { g with state := .parked, wantPark := false, claim := false, reserved := none, image := some image } ∧
      (∀ x, x ∈ t.harts ↔ x ∈ s.harts ∧ x.2.gid ≠ n) ∧ (∀ x, x ∈ t.streams ↔ x ∈ s.streams ∧ x.2.gid ≠ n) ∧
      (∀ x, x ∈ t.copies ↔ x ∈ s.copies ∧ x.2.gid ≠ n) ∧ (∀ x, x ∈ t.slots ↔ x ∈ s.slots ∧ x.2.gid ≠ n) ∧
      (t.ctx g.ctx).parked = (s.ctx g.ctx).parked ++ [n] ∧ (∀ d, d ≠ g.ctx → t.ctx d = s.ctx d) ∧
      (Store.get [] s.tlb 256 = [] → (∀ q ∈ (s.ctx g.ctx).quads, q < 64) → ∀ k, 2 ^ 40 ≤ k → k < 2 ^ 60 → t.byte k = s.byte k) ∧
      image.claimed = g.claim ∧ image.start = s.starts ∧ image.address = imageAt s g ∧
      (∃ v, Spent s g.ctx (fun key => if key = linkPort hostLink then
          1024 * ((s.poolPages g (imageAt s g)).filter fun p => p.any fun q => q.link.isSome).length else 0) v ∧
        (t.ctx g.ctx).buckets = (v.ctx g.ctx).buckets) ∧
      (∀ x ∈ s.harts, x.2.gid = n → x.2.halted = false → ∃ h, (x.2.idx, h) ∈ image.harts ∧
        h = { x.2 with pending := h.pending, faults := [], stalled := false, memStall := false, awaited := [], convoy := 0 } ∧
        (let arrived := ∃ b τ, x.2.pending = some (.barrierWait b τ true)
         (arrived → h.pending = x.2.pending) ∧ (¬arrived → h.pending = none))) ∧
      (∀ i, i ∈ image.sought ↔ ∃ x ∈ s.harts, x.2.gid = n ∧ x.2.idx = i ∧ ∃ τ d, x.2.pending = some (.seeking τ d)) ∧
      (∀ p i, p < 4 → i < g.lspan →
        Store.get 0 (image.span.getD p []) i = s.byte (lsKey (4 * g.quad + p) (g.bases.getD p 0) + i)) ∧
      (g.claim = true → ∀ p i, p < 4 → i < 2 ^ 17 →
        Store.get 0 (image.acc.getD p []) i = Store.get 0 s.acc (2 ^ 17 * (4 * g.quad + p) + i)) ∧
      (∀ x ∈ s.slots, x.2.gid = n → (x.1 / 256 % 4, x.1 % 256, x.2) ∈ image.slots) ∧
      (∀ x ∈ s.streams, x.2.gid = n → (x.1 / 8 % 4, x.1 % 8, x.2) ∈ image.streams) ∧
      (∀ x ∈ s.copies, x.2.gid = n → (x.1 / 8 % 4, x.1 % 8, x.2) ∈ image.tags) ∧
      (let pages := s.poolPages g (imageAt s g)
       ∀ i p, pages[i]? = some (some p) → p.key + 65536 ≤ 2 ^ 40 →
         (∀ j q, j ≠ i → pages[j]? = some (some q) → p.key + 65536 ≤ q.key ∨ q.key + 65536 ≤ p.key) →
         ∀ j, j < 65536 → t.byte (p.key + j) = (s.parkedBytes g image).getD (65536 * i + j) 0) ∧
      (let l := s.parkedBytes g image
       l.length = imageBytes g ∧ CheckHolds s.starts l) ∧
      (let spans := 16384 + 4096 * g.nhart + if g.lanes = 0 then 0 else 5 * g.nhart * 65536 / (32 / g.lanes * (if g.pair then 2 else 1))
       (∀ p i, p < 4 → i < g.lspan → (s.parkedBytes g image).getD (spans + g.lspan * p + i) 0 = Store.get 0 (image.span.getD p []) i) ∧
       (g.claim = true → ∀ p e b, p < 4 → e < 2 ^ 17 → b < 4 → (s.parkedBytes g image).getD (spans + 4 * g.lspan + 2 ^ 19 * p + 4 * e + b) 0 =
         BitVec.ofNat 8 ((Store.get 0 (image.acc.getD p []) e).toNat / 256 ^ b)))) ∧
    (∀ image q, s.group n = some g → g.image = some image → g.state = .parked → Doorbells s g.ctx → (s.ctx g.ctx).parked.head? = some n →
      let fits := q ∈ openQuads (s.ctx g.ctx) ∧ s.resumeFits g image q = true
      let pages := s.poolPages g image.address
      let linked := ∀ p, some p ∈ pages → ∀ l, p.link = some l → s.linkUp l = true
      let stored := pages.flatMap fun x => x.elim [] fun p => (List.range 65536).map fun j => s.byte (p.key + j)
      let good := image.start = s.starts ∧ none ∉ pages ∧ CheckHolds s.starts stored
      (¬fits ∨ ¬linked → exec (.groupResume n q) s = .next s) ∧
      (fits → linked → ¬good → ∃ t y, exec (.groupResume n q) s = .next t ∧ t.group n = some y ∧
        y.state = .done ∧ y.image = none ∧ n ∉ (t.ctx g.ctx).parked ∧
        ∀ k, s.kernels.find g.kernel = some k → k.state = .placing ∨ k.state = .running →
          t.kernels.find g.kernel = some { k with state := .aborted, status := 10 }) ∧
      (fits → linked → good → ∃ t y, exec (.groupResume n q) s = .next t ∧ t.group n = some y ∧
        y = { g with
          state := .running, quad := q, bases := y.bases, frames := y.frames, image := none, claim := g.claim || image.claimed } ∧
        n ∉ (t.ctx g.ctx).parked ∧ (∀ d, d ≠ g.ctx → t.ctx d = s.ctx d) ∧ y.frames.length = g.nhart ∧
        ((∀ z ∈ image.harts, z.1 < g.nhart) → (image.harts.map (·.1)).Nodup → ∀ x ∈ image.harts, let f := y.frames.getD x.1 0
          f / 16 = 4 * q + x.1 % 4 ∧ s.hart f = none ∧
          (∀ e, e / 16 = f / 16 → s.hart e = none → e < f → ∃ z ∈ image.harts, z.1 < x.1 ∧ y.frames.getD z.1 0 = e) ∧
          ∃ h, t.hart f = some h ∧ h = { x.2 with stopped := false, seat := h.seat, async := h.async } ∧
            (h.seat.isSome = true ↔ x.2.seat.isSome = true)) ∧
        ((∀ z ∈ image.streams, z.1 < 4 ∧ z.2.1 < 8) → ∀ x,
          (image.streams.filter fun z => z.1 = x.1 ∧ z.2.1 = x.2.1) = [x] →
          t.streams.find (8 * (4 * q + x.1) + x.2.1) = some (
            let y := { x.2.2 with fetched := [] }
            if x.2.2.unit = true ∧ (Tag.ofCode (x.2.2.fmt.toNat % 16)).getD .i8 = .t6 then { y with first := y.taken, want := y.taken }
            else { y with
              base := y.base + BitVec.ofInt 64 (y.taken * y.stride), len := y.len - y.taken, taken := 0, first := 0, want := 0 })) ∧
        (image.span.length = 4 → (∀ x ∈ image.slots, x.2.2.state ≠ .parked) → (∀ m ∈ image.span, m.Pairwise (fun a b => a.1 < b.1) ∧ ∀ x ∈ m, x.1 < g.lspan) →
          ∀ p i, p < 4 → i < g.lspan → t.byte (lsKey (4 * q + p) (y.bases.getD p 0) + i) = Store.get 0 (image.span.getD p []) i) ∧
        (image.claimed = true → image.acc.length = 4 → (∀ m ∈ image.acc, m.Pairwise (fun a b => a.1 < b.1) ∧ ∀ x ∈ m, x.1 < 2 ^ 17) →
          ∀ p i, p < 4 → i < 2 ^ 17 →
            Store.get 0 t.acc (2 ^ 17 * (4 * q + p) + i) = Store.get 0 (image.acc.getD p []) i))) ∧
    (spire / 64 ∈ s.stopped → exec (.pipeGrant spire pipe) s = .next s) ∧
    (pipe = 0 ∨ pipe = 6 ∨ pipe = 7 → spire / 64 ∉ s.stopped →
      ∀ f w, f < 16 → asks s spire pipe f = some w → (∀ i, i < f → asks s spire pipe i = none) →
      ∃ t, exec (.pipeGrant spire pipe) s = .next t ∧ Granted s w t) ∧
    (1 ≤ pipe → pipe ≤ 5 → spire / 64 ∉ s.stopped →
      let counter (f : Nat) : Option Nat := match asks s spire pipe f with
        | some w => some (64 * w.gid + w.idx)
        | none => (s.hart (16 * spire + f)).map fun h => 64 * h.gid + h.idx
      let now (f : Nat) : Int := (counter f).elim 0 (credit s pipe)
      let asking (f : Nat) : Prop := f < 16 ∧ (asks s spire pipe f).isSome = true
      let ready : Bool := (List.range 16).any fun f => (asks s spire pipe f).isSome && decide (0 < now f)
      let d (f : Nat) : Int := if ready then now f else match asks s spire pipe f with
        | some w => now f + refillOf s w.gid
        | none => min (now f) 0
      let last := Store.get 0 s.lastGrant (8 * spire + pipe)
      let order (f : Nat) : Nat := if last ≤ f then f else f + 16
      (∀ i j x, i < 16 → j < 16 → counter i = some x → counter j = some x → i = j) →
      (∃ f, asking f) → ∃ t u, exec (.pipeGrant spire pipe) s = .next t ∧
        ((∀ f, asking f → d f ≤ 0) → t = u ∧ u = { s with deficits := u.deficits } ∧
          ∀ f x, f < 16 → counter f = some x → credit u pipe x = d f) ∧
        ∀ f w, f < 16 → asks s spire pipe f = some w → 0 < d f → (∀ i, asking i → 0 < d i → order f ≤ order i) →
          Granted u w t ∧ u = { s with deficits := u.deficits, lastGrant := u.lastGrant } ∧
          (∀ i x, i < 16 → counter i = some x → credit u pipe x = if i = f then d i - w.cost else d i) ∧
          Store.get 0 u.lastGrant (8 * spire + pipe) = f + 1)

/-- What the host reads that clears, the identity block and the capability table, what the host writes in the BARs, and the debug block (R101
to R105, R258, R259, R354 to R360, R362, R365, R368, R372, Tables 6.5 to 6.8, 17.5, 25.4, 27.1 to 27.3, 28.3). The model's choices: reads are
functions of the state (log 54), which writes are ignored (log 55), whose DADDR, DLOGB and DCFG are and what a replay restores (log 56), the view
of the table (log 39), one GEN for the table and its views (log 77), the registers of a FAULTED context (log 79), rates of links (logs 40, 69), the
bytes of a checkpoint (log 50), and the codes of log records (log 34). -/
def Obligations.HostRegisters : Prop :=
  ∀ (s : State) (c k : Nat) (v : Word) (h : Hart) (g : Group),
    (let x := s.ctx c
     let code := match x.state with
       | .absent => 0 | .forming => 1 | .active => 2 | .growing => 3 | .shrinking => 4 | .draining => 5 | .faulted => 6
     let stat (r : Ring) : Word := BitVec.ofNat 64 ((r.lost * 2 ^ 16 + r.ovf.toNat) % 2 ^ 32)
     let changed (i : Instr) (y : Ctx) : Prop := ∃ t, exec i s = .next t ∧ CtxOnly s c y t ∧ t = { s with ctxs := t.ctxs, hostRead := t.hostRead } ∧
       (∀ o w, i = .registerWrite (some c) o w → t.hostRead = s.hostRead) ∧
       (i = .cstatRead c → t.hostRead = BitVec.ofNat 64
         ((x.quads.length * 256 + x.revk.toNat * 32 + (if x.state = .faulted then 16 else 0) + code) % 2 ^ 32)) ∧
       (i = .nqstatRead c → t.hostRead = stat x.nq) ∧ (i = .trstatRead c → t.hostRead = stat x.trace)
     (s.status = .ready → changed (.cstatRead c) { x with revk := false }) ∧
     (s.status ≠ .ready → exec (.cstatRead c) s = .next { s with hostRead := 0 }) ∧
     (HostOpen s c → changed (.nqstatRead c) { x with nq := { x.nq with lost := 0, ovf := false } } ∧
       changed (.trstatRead c) { x with trace := { x.trace with lost := 0, ovf := false } }) ∧
     (¬HostOpen s c → exec (.nqstatRead c) s = .next { s with hostRead := 0 } ∧ exec (.trstatRead c) s = .next { s with hostRead := 0 } ∧
       ∀ o, exec (.registerWrite (some c) o v) s = .next s) ∧
     (HostOpen s c → c < 64 →
       let w : BitVec 32 := v.setWidth 32
       let write (o : Nat) : Instr := .registerWrite (some c) o v
       (∀ o y, (o, y) ∈ [(0x88, { x with tvec := v }), (0x90, { x with tsaveBase := v }), (0x2000, { x with nq := { x.nq with base := v } }),
           (0x2008, { x with nq := { x.nq with cfg := w &&& 0xF0001 } }), (0x200C, { x with nq := { x.nq with thr := w &&& 0xFFFF } }),
           (0x2014, { x with nq := { x.nq with rp := w } }), (0x3008, { x with toff := v }), (0x3010, { x with tmul := w }),
           (0x4000, { x with dsel := w &&& 0xFFF }), (0x4010, { x with daddr := v }), (0x4020, { x with dlogb := v }),
           (0x4028, { x with dlogl := v }), (0x5000, { x with trace := { x.trace with base := v } }),
           (0x5008, { x with trace := { x.trace with cfg := w &&& 0xFFF01 } }), (0x5010, { x with trace := { x.trace with rp := w } }),
           (0x3000, { x with tctl := if v.toNat % 4 = 3 then x.tctl else w &&& 3 }),
           (0xA0, { x with saveBase := if x.parked = [] then v else x.saveBase }),
           (0xA8, { x with saveLen := if x.parked = [] then v else x.saveLen })] → changed (write o) y) ∧
       (∀ o i, (o, i) ∈ [(0x80, Instr.ptbaseWrite c v), (0x4018, .ddataWrite c v), (0x4038, .drtgtWrite c v)] → exec (write o) s = exec i s) ∧
       (∀ n, n < 256 → exec (write (0x1400 + 4 * n)) s = exec (.ktokWrite c n w) s) ∧
       (∀ q, q < 16 → Doorbells s c → let y := s.queue c q
         exec (write (0x1000 + 64 * q + 0x10)) s = exec (.qwpWrite c q w) s ∧
         (y.state = .idle ∨ y.state = .stopped → ∀ o z, (o, z) ∈ [(0, { y with base := v }), (8, { y with cfg := w &&& 0xF0701 })] →
           ∃ t, exec (write (0x1000 + 64 * q + o)) s = .next t ∧ QueueOnly s c q z t ∧ t = { s with ctxs := t.ctxs }) ∧
         exec (write (0x1000 + 64 * q + 0xC)) s = if w.getLsbD 2 then exec (.qctlClear c q) s else if w.getLsbD 1 then exec (.qctlStop c q) s
           else if w.getLsbD 0 then exec (.qctlArm c q) s else .next s) ∧
       exec (write 0x4004) s = (if w.getLsbD 3 then exec (.dctlCkpt c) s else if w.getLsbD 2 then exec (.dctlStep c) s
         else if w.getLsbD 1 then exec (.dctlResume c) s else if w.getLsbD 0 then exec (.dctlHalt c) s else .next s) ∧
       (Selected s c k h → exec (write 0x400C) s =
         .next (s.setHart k { h with dbg := { h.dbg with recording := w.getLsbD 1, att := w.getLsbD 0 } })))) ∧
    (let w : BitVec 32 := v.setWidth 32
     let write (o : Nat) : Instr := .registerWrite none o v
     (s.status = .ready → exec (write 0x8000) s = .next (if s.mqCfg.getLsbD 0 then s else { s with mqBase := v }) ∧
       exec (write 0x8008) s = exec (.mqcfgWrite w) s ∧ exec (write 0x800C) s = exec (.mqwpWrite w) s) ∧
     (s.status = .recovery → exec (write 0x40) s = exec (.recoveryStatusWrite w) s ∧
       ∀ o, 0x300000 ≤ o → o + 8 ≤ 0x1300000 → s.verifying = false → ∃ t, exec (write o) s = .next t ∧ t = { s with window := t.window } ∧
         ∀ i, Store.get 0 t.window i = if o ≤ 0x300000 + i ∧ 0x300000 + i < o + 8 then v.extractLsb' (8 * (0x300000 + i - o)) 8
           else Store.get 0 s.window i)) ∧
    (s.readPf 0 = 0x900 ∧ s.readPf 4 = 0x10000 ∧ s.readPf 56 = 0 ∧ s.readPf 60 = 0 ∧
      (∀ i, i < 4 → s.readPf (8 + 4 * i) = (Config.serial.extractLsb' (32 * i) 32).setWidth 64) ∧
      ∀ i, i < 8 → (s.readPf (24 + 4 * i)).toNat = leNat (((shake256 Config.publicKey.toList 32).drop (4 * i)).take 4)) ∧
    (s.status = .ready → CapabilitiesRead s none 0x7000 fun o => s.readPf (0x1000 + o)) ∧
    (HostOpen s c → CapabilitiesRead s (some (s.ctx c)) 0xF00 fun o => s.readVf c (0x100 + o)) ∧
    ((∀ j y, ¬Selected s c j y) → (∀ i, i ∈ [Instr.dctlHalt c, .dctlResume c, .dctlStep c, .dctlCkpt c, .drtgtWrite c v] → exec i s = .next s) ∧
      (¬HostOpen s c ∨ s.selectedParked c = none → exec (.ddataWrite c v) s = .next s) ∧
      ∀ n e y, HostOpen s c → s.selectedParked c = some (n, e, y) → s.group n = some g → g.claim = false →
        let kind := (s.ctx c).daddr.toNat / 2 ^ 56
        let idx := (s.ctx c).daddr.toNat % 2 ^ 56
        let marked (x : Group) (b : Bool) : Group := { x with image := x.image.map fun i => { i with
          harts := i.harts.map fun z => if z.1 = e then (z.1, { z.2 with dbg := { z.2.dbg with err := b } }) else z } }
        let changed (i : Instr) (x : Group) (b : Bool) (w : Word) := ∃ t, exec i s = .next t ∧ GroupOnly s n (marked x b) t ∧
          t = { s with groups := t.groups, hostRead := w }
        (kind ∈ [6, 7, 8] → changed (.ddataRead c) g false (itemValue s 0 y g kind idx)) ∧
        (kind ∉ [6, 7, 8] → changed (.ddataRead c) g true 0) ∧ (kind ≠ 8 → changed (.ddataWrite c v) g true s.hostRead) ∧
        (kind = 8 → ∃ x, TokenWritten g (idx % 64) (v.setWidth 32) x ∧ changed (.ddataWrite c v) x false s.hostRead)) ∧
    (let d := h.dbg
     let back (p : Point) (x : Debug) : Hart := { h with
       arch := p.arch, convoy := p.convoy, seat := p.seat, hstall := p.hstall, hannul := p.hannul, hbeat := p.hbeat, dbg := x }
     let first (p : Point) : Prop := ∃ newer older, d.hist = newer ++ p :: older ∧ ∀ y ∈ older, y.count ≠ p.count
     let put (y : Hart) : State := s.setHart k y
     let restarts (i : Instr) (y : Hart) : Prop := ∃ t, exec i s = .next t ∧ IssuePassed (put y) k y t
     (s.hart k = some h → h.halted = false →
       (d.want = true → h.exits = [] → h.held = [] → h.finishing = false → ∃ w : Bool,
         (w = true ↔ ∃ b τ, h.pending = some (.barrierWait b τ true)) ∧
         exec (.debugStopReached k) s = .next (put { h with
           convoy := 0, faults := [], pending := if w then h.pending else none
           dbg := { d with want := false, halted := true, stepping := false, why := if d.stepping then 3 else 1, inWait := w } })) ∧
       (d.replay = true → ∀ p, first p → p.count = d.target → exec (.replayTargetReached k) s = .next (put
         (back p { d with replay := false, halted := true, why := 4, icnt := p.count, pos := p.pos })))) ∧
     (Selected s c k h →
      let ahead (y : Point) : Prop := d.pos < y.pos ∧ y.convoy = 0
      let here : Point := ⟨d.hist.length, d.icnt, h.arch, h.convoy, h.seat, h.hstall, h.hannul, h.hbeat⟩
      (exec (.dctlHalt c) s = .next (if d.halted then s else put { h with dbg := { d with want := true, stepping := false } })) ∧
      (¬HaltedHart h → ∀ i, i ∈ [Instr.dctlResume c, .dctlStep c, .dctlCkpt c] → exec i s = .next s) ∧
      (HaltedHart h →
        (d.live = none → restarts (.dctlResume c) { h with dbg := { d with halted := false, why := 0, inWait := false } } ∧
          restarts (.dctlStep c) { h with dbg := { d with halted := false, stepping := true, why := 0, inWait := false } }) ∧
        (∀ p, d.live = some p →
          restarts (.dctlResume c) (back p { d with halted := false, why := 0, inWait := false, live := none, icnt := p.count }) ∧
          ((∀ y ∈ d.hist, ¬ahead y) → restarts (.dctlStep c)
            (back p { d with halted := false, stepping := true, why := 0, inWait := false, live := none, icnt := p.count })) ∧
          (∀ newer y older, d.hist = newer ++ y :: older → ahead y → (∀ z ∈ older, ¬ahead z) →
            exec (.dctlStep c) s = .next (put (back y { d with why := 3, icnt := y.count, pos := y.pos })))) ∧
        (let x := s.ctx c
         let n := s.checkpointSize h
         let place := s.logWrite k c x.dlogb ((List.range n).map fun j =>
           if j < 4096 then Config.sectionByte h.section j else Config.sectionByte (.vector [h.vectorPart]) (j - 4096))
         (x.dlogl.toNat < n ∨ place = none → exec (.dctlCkpt c) s = .next (put { h with dbg := { d with recording := false, logFull := true } })) ∧
         ∀ u, n ≤ x.dlogl.toNat → place = some u → exec (.dctlCkpt c) s = .next (u.setHart k { h with dbg := { d with
           recording := true, logFull := false, icnt := 0, pos := 0, hist := [{ here with count := 0, pos := 0 }], logPos := x.dlogb + BitVec.ofNat 64 n
           logEnd := x.dlogb + x.dlogl } })) ∧
        (∀ p, (∃ y ∈ d.hist, y.count = v.toNat) → first p → p.count = 0 → exec (.drtgtWrite c v) s = .next (put
          (back p { d with
            err := false, replay := true, target := v.toNat, icnt := 0, pos := p.pos, live := some (d.live.getD here) })))) ∧
      (¬HaltedHart h ∨ (∀ y ∈ d.hist, y.count ≠ v.toNat) → exec (.drtgtWrite c v) s = .next (put { h with dbg := { d with err := true } })) ∧
      (s.group h.gid = some g →
        let kind := (s.ctx c).daddr.toNat / 2 ^ 56
        let idx := (s.ctx c).daddr.toNat % 2 ^ 56
        let wide (f : Nat) (w : Nat) : Nat := f - f / 2 ^ (64 * w) % 2 ^ 64 * 2 ^ (64 * w) + v.toNat * 2 ^ (64 * w)
        let cleared (y : Hart) : Hart := { y with dbg := { y.dbg with err := false } }
        let refused := exec (.ddataWrite c v) s = .next (put { h with dbg := { d with err := true } })
        let written (y : Hart) : Prop := ∃ t, exec (.ddataWrite c v) s = .next t ∧ t = { s with harts := t.harts } ∧
          t.hart k = some (cleared y) ∧ ∀ j, j ≠ k → t.hart j = s.hart j
        (itemOpen s h g kind idx → exec (.ddataRead c) s = .next { put (cleared h) with hostRead := itemValue s k h g kind idx }) ∧
        (¬itemOpen s h g kind idx → refused ∧
          exec (.ddataRead c) s = .next { put { h with dbg := { d with err := true } } with hostRead := 0 }) ∧
        (kind ∈ [6, 7, 9, 10] → refused) ∧
        (itemOpen s h g kind idx →
          (kind = 0 → written { h with arch := h.arch.setReg (BitVec.ofNat 6 idx) v }) ∧
          (kind = 1 → let b := BitVec.ofNat 4 (idx / 256)
            let i := BitVec.ofNat 8 idx
            let no := writableIndex b i = false ∨ (b = 0 ∧ i.toNat < 2 ∧ h.seat = none) ∨ (b = 0 ∧ i = 1 ∧ v.getLsbD 2 = true)
            (no → refused) ∧ (¬no → written (h.setControl (s.regBytes h) b i v))) ∧
          (kind = 2 → let m := idx / 4096 % 16
            (m = 0 → refused) ∧
            (m ≠ 0 → written { h with arch := h.arch.setMask m (wide (h.arch.mask (s.regBytes h) m) (idx % 4096)) })) ∧
          (kind = 3 → let r := idx / 4096 % 64
            ∃ y, written y ∧ y = { h with arch := { h.arch with v := y.arch.v, extent := y.arch.extent } } ∧
              (∀ i, Store.get 0 y.arch.v i = if i = r then wide (Store.get 0 h.arch.v r) (idx % 4096) else Store.get 0 h.arch.v i)) ∧
          (kind = 4 → (∀ t, Tag.ofCode (v.toNat % 16) = some t →
              ∃ y, written y ∧ y = { h with arch := { h.arch with vtag := y.arch.vtag } } ∧
                ∀ i, Store.get .zero y.arch.vtag i = if i = idx % 64 then ⟨t, BitVec.ofNat 3 (v.toNat / 16)⟩ else Store.get .zero h.arch.vtag i) ∧
            (Tag.ofCode (v.toNat % 16) = none → refused)) ∧
          (kind = 5 → s.targeted g (k / 16 % 4) (idx / 2 ^ 16 % 2) = true → refused) ∧
          (kind = 5 → s.targeted g (k / 16 % 4) (idx / 2 ^ 16 % 2) = false →
            ∃ t, exec (.ddataWrite c v) s = .next t ∧ t = { s with harts := t.harts, acc := t.acc } ∧ t.hart k = some (cleared h) ∧
              ∀ a, Store.get 0 t.acc a =
                (let e := accElem g (k / 16 % 4) (idx / 2 ^ 16 % 2) (idx / 256 % 256) (2 * (idx % 128))
                 if a = e then v.setWidth 32 else if a = e + 1 then v.extractLsb' 32 32 else Store.get 0 s.acc a)) ∧
          (kind = 8 → ∃ t y, exec (.ddataWrite c v) s = .next t ∧ t = { s with harts := t.harts, groups := t.groups } ∧
            t.hart k = some (cleared h) ∧ t.group h.gid = some y ∧ TokenWritten g (idx % 64) (v.setWidth 32) y ∧
            ∀ j, j ≠ h.gid → t.group j = s.group j)))))

/-- Power, temperature, faults, soft errors, the start and the recovery, power loss, the clock and ATTEST (R10, R13, R14, R50, R244, R350,
R351, R360, R362, R366 to R370, Table 28.4). The model's choices: secrets, signature, fused values and trip codes are free values (logs 31, 32,
33, 36), no rule gives a power measurement before READY an effect (log 71), what power loss keeps (log 49), ATTEST is a command of context 0 (log
47), hstall counts no bank conflict (log 9), how long a flash write lasts (log 52), the fields of start-record entries (log 57), the end of a pipe's
work (log 65), SHAKE256 and the chain's components (log 68), and how power is limited (log 71). -/
def Obligations.Crown : Prop :=
  ∀ (s : State) (n c unit fcode mw die : Nat) (a : Word) (m : Cmd) (r : StartReport) (v : BitVec 32),
    let entered (u : State) (e : Entry) (t : State) : Prop := t.jnext = u.jnext + 1 ∧ t.journal = (e :: u.journal).take (2 ^ 20)
    let noted := entered s
    let counted (u t : State) : Prop :=
      let due := u.softErrors ≠ 0 ∧ ∀ d, u.softLast = some d → d + 700000000 ≤ u.dclk.toNat
      (¬due → t = u) ∧ (due → entered u ⟨8, 0xFF, 0, 0, BitVec.ofNat 64 u.softErrors, 0⟩ t ∧
        t = { u with journal := t.journal, jnext := t.jnext, softErrors := 0, softLast := some u.dclk.toNat })
    (s.status = .ready → ∃ t, exec (.powerMeasurement mw) s = .next t ∧
      t = { s with limiting := t.limiting, withhold := t.withhold, belowFor := t.belowFor, journal := t.journal, jnext := t.jnext } ∧
      (3200000 < mw → t.limiting = true ∧ t.withhold = min 2 (s.withhold + 1) ∧ t.belowFor = 0) ∧
      (mw ≤ 3200000 → t.limiting = s.limiting ∧ t.withhold = s.withhold ∧ t.belowFor = if mw < 3100000 then s.belowFor + 1 else 0) ∧
      (3200000 < mw ∧ s.limiting = false → noted ⟨5, 0xFF, 0, 1, 0, 0⟩ t) ∧
      (mw ≤ 3200000 ∨ s.limiting = true → t.journal = s.journal ∧ t.jnext = s.jnext)) ∧
    (s.status ≠ .ready → exec (.powerMeasurement mw) s = .next s) ∧
    (s.limiting = true → 10 ≤ s.belowFor → ∃ t, exec .powerLimitRelease s = .next t ∧ noted ⟨5, 0xFF, 0, 0, 0, 0⟩ t ∧
      t = { s with limiting := false, withhold := 0, journal := t.journal, jnext := t.jnext }) ∧
    (die < 4 → ∃ t, exec (.thermalStop die) s = .next t ∧ t = { s with stopped := t.stopped } ∧ ∀ d, d ∈ t.stopped ↔ d ∈ s.stopped ∨ d = die) ∧
    (∃ t, exec (.thermalRestart die) s = .next t ∧ t = { s with stopped := t.stopped } ∧ ∀ d, d ∈ t.stopped ↔ d ∈ s.stopped ∧ d ≠ die) ∧
    (∀ i, (i = .thermalTrip die ∨ i = .deviceWideFault unit fcode a) → s.status ≠ .reset → s.status ≠ .fault → ∃ t e, exec i s = .next t ∧ t.devf = true ∧
      t.journal.head? = some e ∧ e.kind = 7 ∧ e.ctx = 0xFF ∧
      (i = .deviceWideFault unit fcode a → e = ⟨7, 0xFF, unit, BitVec.ofNat 32 fcode, a, 0⟩) ∧
      ∀ d, (s.ctx d).state ≠ .absent → FaultedIn d s t) ∧
    ((s.ctx c).state ∈ [.active, .growing, .shrinking] → ∃ t, exec (.uncorrectableFault c unit fcode a) s = .next t ∧ FaultedIn c s t ∧
      t.journal.head? = some ⟨7, c, unit, BitVec.ofNat 32 fcode, a, 0⟩ ∧ (∀ d, d ≠ c → t.ctx d = s.ctx d) ∧
      ((s.ctx c).cmd = none → t.mqDone = s.mqDone ∧ t.jnext = s.jnext + 1) ∧
      ∀ i x, (s.ctx c).cmd = some i → s.cmds.find i = some x → ∃ u w, CmdEnds u i x 5 w ∧ t.cmds = w.cmds ∧ t.mem = w.mem ∧
        t.mqDone = s.mqDone + 1 ∧ t.jnext = s.jnext + 2 ∧ u.mqBase = s.mqBase ∧ u.mqCfg = s.mqCfg ∧ u.cmds = s.cmds) ∧
    ((s.ctx c).state ∈ [.forming, .draining, .faulted] → ∃ t, exec (.uncorrectableFault c unit fcode a) s = .next t ∧
      noted ⟨7, c, unit, BitVec.ofNat 32 fcode, a, 0⟩ t ∧ t = { s with journal := t.journal, jnext := t.jnext }) ∧
    (s.status = .ready → ∃ t, exec (.correctedSoftError n) s = .next t ∧ counted { s with softErrors := s.softErrors + n } t) ∧
    (256 ≤ (s.escaped.filter fun p => p / 2 ^ 31 = n).length → ∃ t, exec (.exceptionTableSpill n) s = .next t ∧
      t = { s with escaped := t.escaped, spilled := s.spilled ++ s.escaped.filter fun p => p / 2 ^ 31 = n } ∧
      ∀ p, p ∈ t.escaped ↔ p ∈ s.escaped ∧ p / 2 ^ 31 ≠ n) ∧
    (s.status = .reset → ∃ t, exec (.crownStart r) s = .next t ∧ t.starts = s.starts + 1 ∧ t.recoveries = [] ∧
      t.booted = (if s.flashOk then s.flash else .spoiled) ∧
      (s.flashOk = true → r.firmwareOk = true → Started s r ⟨1, 0, 0, 0⟩ t) ∧
      (s.flashOk = false ∨ r.firmwareOk = false → t = { s with
          status := .recovery, step := 1, starts := s.starts + 1, startRecord := t.startRecord, booted := t.booted, recoveries := [] } ∧
        ∀ e, e ∈ t.startRecord ↔ e = ⟨1, 0, 3, 0⟩ ∨ (e ∈ s.startRecord ∧ e.step ≠ 1))) ∧
    (s.status = .recovery → s.verifying = false → exec (.recoveryStatusWrite v) s = .next (if v = 1 then { s with verifying := true } else s)) ∧
    (s.status = .recovery → s.verifying = true →
      exec (.recoveryImageVerified false r) s = .next { s with verifying := false, fcode := 1 } ∧
      exec (.recoveryImageVerified true r) s = .next { s with
        verifying := false, flashOk := false, flash := .written s.window, writingFlash := true, report := some r
        recoveries := s.recoveries ++ [s.window], status := .starting, fcode := 0 }) ∧
    (s.writingFlash = true → ∀ r, s.report = some r → ∃ t, exec .clock s = .next t ∧ t.writingFlash = false ∧ t.flashOk = true ∧
      t.flash = s.flash ∧ t.recoveries = s.recoveries ∧ Started s r ⟨1, 0, 3, 0⟩ t) ∧
    (∃ t, exec .powerLoss s = .next t ∧ t.status = .reset ∧
      (∀ k, t.byte k = if k < 2 ^ 60 then 0 else s.byte k) ∧ t = { State.reset with
        mem := t.mem, flashOk := s.flashOk, flash := s.flash, startRecord := s.startRecord, starts := s.starts, attests := s.attests
        stamp := s.stamp, agenda := s.agenda }) ∧
    (s.writingFlash = false → s.status ≠ .ready → exec .clock s = .next s) ∧
    (s.writingFlash = false → s.status = .ready → ∃ t u, exec .clock s = .next t ∧
      counted (s.pipeBusy.foldl (fun s w => Traced s w 1) u) t ∧
      u = { s with dclk := s.dclk + 1, harts := u.harts, ctxs := u.ctxs, pipeBusy := [] } ∧
      (∀ d, u.ctx d = { s.ctx d with tstolen := if (s.ctx d).fullPark then (s.ctx d).tstolen + 1 else (s.ctx d).tstolen }) ∧
      ∀ k h, s.hart k = some h →
        let here (r : Nat) : Prop := (r < 128 → ∀ l ∈ h.landing, r ∉ l) ∧
          (128 ≤ r → ∀ x, s.streams.find (8 * spireOf k + (r - 128)) = some x → x.want ≤ x.next)
        let came : Prop := match h.pending with
          | some (.remote _ there _ _) => there = true
          | some (.ticket todo _ _ _ _) => todo = []
          | _ => h.awaited ≠ [] ∧ ∀ r ∈ h.awaited, here r
        (¬(h.halted = false ∧ (s.group h.gid).any (fun g => g.state = .running)) → u.hart k = some h) ∧
        (h.halted = false → (s.group h.gid).any (fun g => g.state = .running) = true → ∃ x, u.hart k = some x ∧
          x = { h with hclk := h.hclk + 1, hstall := x.hstall, memStall := x.memStall, landed := [] } ∧
          (x.memStall = true ↔ h.memStall = true ∧ ¬came) ∧
          x.hstall = if h.memStall = true ∧ h.live = true ∧ s.mayIssue k = true ∧ s.dieRuns (spireOf k) = true then h.hstall + 1 else h.hstall)) ∧
    (CmdTurn s n 12 m →
      let bad := m.ctx ≠ 0 ∨ m.arg0.toNat % 4096 ≠ 0 ∨ m.arg1 ≠ 0 ∨ m.qmask ≠ 0
      let at_ := hostKey m.arg0.toNat
      let st := (s.link hostLink).state
      let measured := [s.firmwareBytes, s.recordBytes, Config.fused] ++ s.recoveries.map fun w => (List.range (2 ^ 24)).map (Store.get 0 w)
      let chain := measured.foldl (fun m c => shake256 (m ++ shake256 c 64) 64) (List.replicate 64 0)
      let nonce := (List.range 32).map fun i => s.byte (at_ + i)
      let sig := (Config.signature s.attests (shake256 (nonce ++ chain ++ identity) 64)).take 3902
      (bad → Refused (.attest n) s n m 1) ∧
      (¬bad → st = .training → exec (.attest n) s = .next s) ∧
      (¬bad → st ≠ .training → ∃ t u, exec (.attest n) s = .next t ∧ CmdEnds u n m 0 t ∧
        u = { s with mem := u.mem, attests := s.attests + 1 } ∧ (s.linkUp hostLink = false → u.mem = s.mem) ∧
        (s.linkUp hostLink = true →
          (∀ i, i < 64 → u.byte (at_ + 64 + i) = chain.getD i 0) ∧
          (∀ i, i < 8 → u.byte (at_ + 128 + i) = BitVec.ofNat 8 (measured.length / 2 ^ (8 * i))) ∧
          (∀ i, i < 2 → u.byte (at_ + 192 + i) = BitVec.ofNat 8 (sig.length / 2 ^ (8 * i))) ∧
          (∀ i, i < sig.length → u.byte (at_ + 194 + i) = sig.getD i 0) ∧
          ∀ k, (k < at_ ∨ at_ + 4096 ≤ k) → u.byte k = s.byte k)))

end
end

