-- ==== Sys2Proof/Laws/Store.lean ====
section
/-! SUPPORT. Laws of sparse stores: a read after a write, and what keeps the canonical form. -/

namespace Sys2Proof

variable {α : Type}

@[simp] theorem Store.get_nil (d : α) (k : Nat) : Store.get d [] k = d := rfl

@[simp] theorem Store.find_nil (k : Nat) : Store.find ([] : Store α) k = none := rfl

@[simp] theorem Store.find_insert_same (s : Store α) (k : Nat) (v : α) : (Store.insert s k v).find k = some v := by
  induction s with
  | nil => simp [Store.insert, Store.find]
  | cons p t ih => simp only [Store.insert]; (repeat' split) <;> simp_all [Store.find]

theorem Store.find_insert_other (s : Store α) {j k : Nat} (v : α) (h : j ≠ k) : (Store.insert s k v).find j = s.find j := by
  induction s with
  | nil => simp [Store.insert, Store.find, Ne.symm h]
  | cons p t ih => simp only [Store.insert]; (repeat' split) <;> simp_all [Store.find, Ne.symm h]

@[simp] theorem Store.get_insert_same (d : α) (s : Store α) (k : Nat) (v : α) : Store.get d (Store.insert s k v) k = v := by
  induction s with
  | nil => simp [Store.insert, Store.get]
  | cons p t ih => simp only [Store.insert]; (repeat' split) <;> simp_all [Store.get]

theorem Store.get_insert_other (d : α) (s : Store α) {j k : Nat} (v : α) (h : j ≠ k) :
    Store.get d (Store.insert s k v) j = Store.get d s j := by
  induction s with
  | nil => simp [Store.insert, Store.get, Ne.symm h]
  | cons p t ih => simp only [Store.insert]; (repeat' split) <;> simp_all [Store.get, Ne.symm h]

@[simp] theorem Store.get_erase_same (d : α) (s : Store α) (k : Nat) : Store.get d (Store.erase s k) k = d := by
  unfold Store.erase
  induction s with
  | nil => rfl
  | cons p t ih => rw [List.filter_cons]; split <;> simp_all [Store.get]

theorem Store.get_erase_other (d : α) (s : Store α) {j k : Nat} (h : j ≠ k) :
    Store.get d (Store.erase s k) j = Store.get d s j := by
  unfold Store.erase
  induction s with
  | nil => rfl
  | cons p t ih => rw [List.filter_cons]; split <;> simp_all [Store.get, Ne.symm h]

@[simp] theorem Store.find_modify_same (s : Store α) (k : Nat) (f : α → α) : (Store.modify s k f).find k = (s.find k).map f := by
  induction s with
  | nil => rfl
  | cons p t ih => simp only [Store.modify, Store.find]; split <;> simp_all [Store.find]

theorem Store.find_modify_other (s : Store α) {j k : Nat} (f : α → α) (h : j ≠ k) : (Store.modify s k f).find j = s.find j := by
  induction s with
  | nil => rfl
  | cons p t ih => simp only [Store.modify]; split <;> simp_all [Store.find, Ne.symm h]

theorem Store.above_mono {s : Store α} {j k : Nat} (h : Store.above j s = true) (hk : k ≤ j) : Store.above k s = true := by
  induction s with
  | nil => rfl
  | cons p t ih =>
    simp only [Store.above, Bool.and_eq_true, decide_eq_true_eq] at h ⊢
    exact ⟨by omega, ih h.2⟩

theorem Store.above_insert {s : Store α} {j k : Nat} (v : α) (h : Store.above j s = true) (hk : j < k) :
    Store.above j (Store.insert s k v) = true := by
  induction s with
  | nil => simp [Store.insert, Store.above, hk]
  | cons p t ih =>
    simp only [Store.above, Bool.and_eq_true] at h
    simp only [Store.insert]
    (repeat' split) <;> simp_all [Store.above]

theorem Store.above_filter {s : Store α} {j : Nat} (p : Nat × α → Bool) (h : Store.above j s = true) :
    Store.above j (s.filter p) = true := by
  induction s with
  | nil => rfl
  | cons q t ih =>
    simp only [Store.above, Bool.and_eq_true] at h
    simp only [List.filter_cons]
    split <;> simp_all [Store.above]

theorem Store.above_iff {s : Store α} {k : Nat} : Store.above k s = true ↔ ∀ q ∈ s, k < q.1 := by
  induction s with
  | nil => simp [Store.above]
  | cons p t ih => simp [Store.above, ih]

section Canonical

variable [DecidableEq α]

@[simp] theorem Store.wf_nil (d : α) : Store.wf d [] = true := rfl

theorem Store.wf_cons {d : α} {p : Nat × α} {t : Store α} :
    Store.wf d (p :: t) = true ↔ p.2 ≠ d ∧ Store.above p.1 t = true ∧ Store.wf d t = true := by
  simp [Store.wf, and_assoc]

theorem Store.wf_insert {d : α} {s : Store α} {k : Nat} {v : α} (hv : v ≠ d) (h : Store.wf d s = true) :
    Store.wf d (Store.insert s k v) = true := by
  induction s with
  | nil => simp [Store.insert, Store.wf, Store.above, hv]
  | cons p t ih =>
    have h' := Store.wf_cons.1 h
    simp only [Store.insert]
    split
    · subst_vars
      exact Store.wf_cons.2 ⟨hv, h'.2.1, h'.2.2⟩
    · split
      · refine Store.wf_cons.2 ⟨hv, ?_, h⟩
        simp only [Store.above, Bool.and_eq_true, decide_eq_true_eq]
        exact ⟨by assumption, Store.above_mono h'.2.1 (by omega)⟩
      · exact Store.wf_cons.2 ⟨h'.1, Store.above_insert v h'.2.1 (by omega), ih h'.2.2⟩

theorem Store.wf_filter {d : α} {s : Store α} (p : Nat × α → Bool) (h : Store.wf d s = true) :
    Store.wf d (s.filter p) = true := by
  induction s with
  | nil => rfl
  | cons q t ih =>
    rw [Store.wf_cons] at h
    simp only [List.filter_cons]
    split
    · exact Store.wf_cons.2 ⟨h.1, Store.above_filter p h.2.1, ih h.2.2⟩
    · exact ih h.2.2

theorem Store.wf_erase {d : α} {s : Store α} (k : Nat) (h : Store.wf d s = true) : Store.wf d (Store.erase s k) = true :=
  Store.wf_filter _ h

theorem Store.wf_drop {d : α} {s : Store α} (lo hi : Nat) (h : Store.wf d s = true) : Store.wf d (Store.drop s lo hi) = true :=
  Store.wf_filter _ h

/-- A write keeps the canonical form. -/
theorem Store.wf_set {d : α} {s : Store α} (k : Nat) (v : α) (h : Store.wf d s = true) :
    Store.wf d (Store.set d s k v) = true := by
  unfold Store.set
  split
  · exact Store.wf_erase k h
  · exact Store.wf_insert (by assumption) h

/-- Writes that follow one another keep the canonical form. -/
theorem Store.wf_foldl_set {β : Type} {d : α} (l : List β) (key : β → Nat) (val : β → α) {s : Store α} (h : Store.wf d s = true) :
    Store.wf d (l.foldl (fun m c => Store.set d m (key c) (val c)) s) = true := by
  induction l generalizing s with
  | nil => exact h
  | cons c t ih => exact ih (Store.wf_set _ _ h)

/-- Two canonical stores, the second above the first, make one. -/
theorem Store.wf_append {d : α} {s t : Store α} (hs : Store.wf d s = true) (ht : Store.wf d t = true)
    (h : ∀ p ∈ s, ∀ q ∈ t, p.1 < q.1) : Store.wf d (s ++ t) = true := by
  induction s with
  | nil => exact ht
  | cons p u ih =>
    have hp := Store.wf_cons.1 hs
    refine Store.wf_cons.2 ⟨hp.1, Store.above_iff.2 fun q hq => ?_, ih hp.2.2 fun r hr => h r (by simp [hr])⟩
    rcases List.mem_append.1 hq with h' | h'
    · exact Store.above_iff.1 hp.2.1 q h'
    · exact h p (by simp) q h'

/-- The values of a function on n keys from k, but for those that an unlisted key reads as. -/
theorem Store.wf_span (d : α) (f : Nat → α) (k n : Nat) :
    Store.wf d (((List.range n).map fun i => (k + i, f i)).filter fun c => c.2 != d) = true := by
  induction n with
  | zero => rfl
  | succ n ih =>
    rw [List.range_succ, List.map_append, List.filter_append]
    refine Store.wf_append ih ?_ fun p hp q hq => ?_
    · by_cases h : f n = d <;> simp [h, Store.wf, Store.above]
    · simp only [List.mem_filter, List.mem_map, List.mem_range, List.map_cons, List.map_nil, List.mem_cons, List.not_mem_nil,
        or_false] at hp hq
      obtain ⟨⟨i, hi, rfl⟩, -⟩ := hp
      obtain ⟨rfl, -⟩ := hq
      simp only
      omega

/-- A read after a write to the same key gives the value written. -/
@[simp] theorem Store.get_set_same (d : α) (s : Store α) (k : Nat) (v : α) : Store.get d (Store.set d s k v) k = v := by
  unfold Store.set
  split
  · rw [Store.get_erase_same]
    exact Eq.symm (by assumption)
  · exact Store.get_insert_same d s k v

/-- A write leaves every other key as it is. -/
theorem Store.get_set_other (d : α) (s : Store α) {j k : Nat} (v : α) (h : j ≠ k) :
    Store.get d (Store.set d s k v) j = Store.get d s j := by
  unfold Store.set
  split
  · exact Store.get_erase_other d s h
  · exact Store.get_insert_other d s v h

end Canonical

end Sys2Proof
end

