-- ==== Sys2Proof/Laws/State.lean ====
section
/-! SUPPORT. One lemma per field for the named updates of State and of the program-visible state. -/

namespace Sys2Proof.Machine


@[simp] theorem State.setByte_gtag (s : State) (k : Nat) (b : Byte) : (s.setByte k b).gtag = s.gtag := rfl
@[simp] theorem State.setByte_escaped (s : State) (k : Nat) (b : Byte) : (s.setByte k b).escaped = s.escaped := rfl
@[simp] theorem State.setByte_spilled (s : State) (k : Nat) (b : Byte) : (s.setByte k b).spilled = s.spilled := rfl
@[simp] theorem State.setByte_harts (s : State) (k : Nat) (b : Byte) : (s.setByte k b).harts = s.harts := rfl
@[simp] theorem State.setByte_groups (s : State) (k : Nat) (b : Byte) : (s.setByte k b).groups = s.groups := rfl
@[simp] theorem State.setByte_kernels (s : State) (k : Nat) (b : Byte) : (s.setByte k b).kernels = s.kernels := rfl
@[simp] theorem State.setByte_ctxs (s : State) (k : Nat) (b : Byte) : (s.setByte k b).ctxs = s.ctxs := rfl
@[simp] theorem State.setByte_nextGroup (s : State) (k : Nat) (b : Byte) : (s.setByte k b).nextGroup = s.nextGroup := rfl
@[simp] theorem State.setByte_nextKernel (s : State) (k : Nat) (b : Byte) : (s.setByte k b).nextKernel = s.nextKernel := rfl
@[simp] theorem State.setByte_acc (s : State) (k : Nat) (b : Byte) : (s.setByte k b).acc = s.acc := rfl
@[simp] theorem State.setByte_accLevel (s : State) (k : Nat) (b : Byte) : (s.setByte k b).accLevel = s.accLevel := rfl
@[simp] theorem State.setByte_banks (s : State) (k : Nat) (b : Byte) : (s.setByte k b).banks = s.banks := rfl
@[simp] theorem State.setByte_bankSel (s : State) (k : Nat) (b : Byte) : (s.setByte k b).bankSel = s.bankSel := rfl
@[simp] theorem State.setByte_streams (s : State) (k : Nat) (b : Byte) : (s.setByte k b).streams = s.streams := rfl
@[simp] theorem State.setByte_copies (s : State) (k : Nat) (b : Byte) : (s.setByte k b).copies = s.copies := rfl
@[simp] theorem State.setByte_slots (s : State) (k : Nat) (b : Byte) : (s.setByte k b).slots = s.slots := rfl
@[simp] theorem State.setByte_subs (s : State) (k : Nat) (b : Byte) : (s.setByte k b).subs = s.subs := rfl
@[simp] theorem State.setByte_hseq (s : State) (k : Nat) (b : Byte) : (s.setByte k b).hseq = s.hseq := rfl
@[simp] theorem State.setByte_messages (s : State) (k : Nat) (b : Byte) : (s.setByte k b).messages = s.messages := rfl
@[simp] theorem State.setByte_slotRequests (s : State) (k : Nat) (b : Byte) : (s.setByte k b).slotRequests = s.slotRequests := rfl
@[simp] theorem State.setByte_homeq (s : State) (k : Nat) (b : Byte) : (s.setByte k b).homeq = s.homeq := rfl
@[simp] theorem State.setByte_tlb (s : State) (k : Nat) (b : Byte) : (s.setByte k b).tlb = s.tlb := rfl
@[simp] theorem State.setByte_mtlb (s : State) (k : Nat) (b : Byte) : (s.setByte k b).mtlb = s.mtlb := rfl
@[simp] theorem State.setByte_issuing (s : State) (k : Nat) (b : Byte) : (s.setByte k b).issuing = s.issuing := rfl
@[simp] theorem State.setByte_pipeWork (s : State) (k : Nat) (b : Byte) : (s.setByte k b).pipeWork = s.pipeWork := rfl
@[simp] theorem State.setByte_pipeBusy (s : State) (k : Nat) (b : Byte) : (s.setByte k b).pipeBusy = s.pipeBusy := rfl
@[simp] theorem State.setByte_deficits (s : State) (k : Nat) (b : Byte) : (s.setByte k b).deficits = s.deficits := rfl
@[simp] theorem State.setByte_lastGrant (s : State) (k : Nat) (b : Byte) : (s.setByte k b).lastGrant = s.lastGrant := rfl
@[simp] theorem State.setByte_ticket (s : State) (k : Nat) (b : Byte) : (s.setByte k b).ticket = s.ticket := rfl
@[simp] theorem State.setByte_blocked (s : State) (k : Nat) (b : Byte) : (s.setByte k b).blocked = s.blocked := rfl
@[simp] theorem State.setByte_links (s : State) (k : Nat) (b : Byte) : (s.setByte k b).links = s.links := rfl
@[simp] theorem State.setByte_held (s : State) (k : Nat) (b : Byte) : (s.setByte k b).held = s.held := rfl
@[simp] theorem State.setByte_notices (s : State) (k : Nat) (b : Byte) : (s.setByte k b).notices = s.notices := rfl
@[simp] theorem State.setByte_traces (s : State) (k : Nat) (b : Byte) : (s.setByte k b).traces = s.traces := rfl
@[simp] theorem State.setByte_dclk (s : State) (k : Nat) (b : Byte) : (s.setByte k b).dclk = s.dclk := rfl
@[simp] theorem State.setByte_status (s : State) (k : Nat) (b : Byte) : (s.setByte k b).status = s.status := rfl
@[simp] theorem State.setByte_step (s : State) (k : Nat) (b : Byte) : (s.setByte k b).step = s.step := rfl
@[simp] theorem State.setByte_fcode (s : State) (k : Nat) (b : Byte) : (s.setByte k b).fcode = s.fcode := rfl
@[simp] theorem State.setByte_devf (s : State) (k : Nat) (b : Byte) : (s.setByte k b).devf = s.devf := rfl
@[simp] theorem State.setByte_limiting (s : State) (k : Nat) (b : Byte) : (s.setByte k b).limiting = s.limiting := rfl
@[simp] theorem State.setByte_belowFor (s : State) (k : Nat) (b : Byte) : (s.setByte k b).belowFor = s.belowFor := rfl
@[simp] theorem State.setByte_withhold (s : State) (k : Nat) (b : Byte) : (s.setByte k b).withhold = s.withhold := rfl
@[simp] theorem State.setByte_stopped (s : State) (k : Nat) (b : Byte) : (s.setByte k b).stopped = s.stopped := rfl
@[simp] theorem State.setByte_starts (s : State) (k : Nat) (b : Byte) : (s.setByte k b).starts = s.starts := rfl
@[simp] theorem State.setByte_flashOk (s : State) (k : Nat) (b : Byte) : (s.setByte k b).flashOk = s.flashOk := rfl
@[simp] theorem State.setByte_flash (s : State) (k : Nat) (b : Byte) : (s.setByte k b).flash = s.flash := rfl
@[simp] theorem State.setByte_booted (s : State) (k : Nat) (b : Byte) : (s.setByte k b).booted = s.booted := rfl
@[simp] theorem State.setByte_writingFlash (s : State) (k : Nat) (b : Byte) : (s.setByte k b).writingFlash = s.writingFlash := rfl
@[simp] theorem State.setByte_report (s : State) (k : Nat) (b : Byte) : (s.setByte k b).report = s.report := rfl
@[simp] theorem State.setByte_verifying (s : State) (k : Nat) (b : Byte) : (s.setByte k b).verifying = s.verifying := rfl
@[simp] theorem State.setByte_window (s : State) (k : Nat) (b : Byte) : (s.setByte k b).window = s.window := rfl
@[simp] theorem State.setByte_startRecord (s : State) (k : Nat) (b : Byte) : (s.setByte k b).startRecord = s.startRecord := rfl
@[simp] theorem State.setByte_fencedSpires (s : State) (k : Nat) (b : Byte) : (s.setByte k b).fencedSpires = s.fencedSpires := rfl
@[simp] theorem State.setByte_fencedShafts (s : State) (k : Nat) (b : Byte) : (s.setByte k b).fencedShafts = s.fencedShafts := rfl
@[simp] theorem State.setByte_fencedLinks (s : State) (k : Nat) (b : Byte) : (s.setByte k b).fencedLinks = s.fencedLinks := rfl
@[simp] theorem State.setByte_recoveries (s : State) (k : Nat) (b : Byte) : (s.setByte k b).recoveries = s.recoveries := rfl
@[simp] theorem State.setByte_attests (s : State) (k : Nat) (b : Byte) : (s.setByte k b).attests = s.attests := rfl
@[simp] theorem State.setByte_softErrors (s : State) (k : Nat) (b : Byte) : (s.setByte k b).softErrors = s.softErrors := rfl
@[simp] theorem State.setByte_softLast (s : State) (k : Nat) (b : Byte) : (s.setByte k b).softLast = s.softLast := rfl
@[simp] theorem State.setByte_capGen (s : State) (k : Nat) (b : Byte) : (s.setByte k b).capGen = s.capGen := rfl
@[simp] theorem State.setByte_mqBase (s : State) (k : Nat) (b : Byte) : (s.setByte k b).mqBase = s.mqBase := rfl
@[simp] theorem State.setByte_mqCfg (s : State) (k : Nat) (b : Byte) : (s.setByte k b).mqCfg = s.mqCfg := rfl
@[simp] theorem State.setByte_mqWp (s : State) (k : Nat) (b : Byte) : (s.setByte k b).mqWp = s.mqWp := rfl
@[simp] theorem State.setByte_mqRp (s : State) (k : Nat) (b : Byte) : (s.setByte k b).mqRp = s.mqRp := rfl
@[simp] theorem State.setByte_mqDone (s : State) (k : Nat) (b : Byte) : (s.setByte k b).mqDone = s.mqDone := rfl
@[simp] theorem State.setByte_mqErr (s : State) (k : Nat) (b : Byte) : (s.setByte k b).mqErr = s.mqErr := rfl
@[simp] theorem State.setByte_mqHalt (s : State) (k : Nat) (b : Byte) : (s.setByte k b).mqHalt = s.mqHalt := rfl
@[simp] theorem State.setByte_msix (s : State) (k : Nat) (b : Byte) : (s.setByte k b).msix = s.msix := rfl
@[simp] theorem State.setByte_cmds (s : State) (k : Nat) (b : Byte) : (s.setByte k b).cmds = s.cmds := rfl
@[simp] theorem State.setByte_journal (s : State) (k : Nat) (b : Byte) : (s.setByte k b).journal = s.journal := rfl
@[simp] theorem State.setByte_jnext (s : State) (k : Nat) (b : Byte) : (s.setByte k b).jnext = s.jnext := rfl
@[simp] theorem State.setByte_lsImages (s : State) (k : Nat) (b : Byte) : (s.setByte k b).lsImages = s.lsImages := rfl
@[simp] theorem State.setByte_hostRead (s : State) (k : Nat) (b : Byte) : (s.setByte k b).hostRead = s.hostRead := rfl
@[simp] theorem State.setByte_stamp (s : State) (k : Nat) (b : Byte) : (s.setByte k b).stamp = s.stamp := rfl
@[simp] theorem State.setByte_clockDue (s : State) (k : Nat) (b : Byte) : (s.setByte k b).clockDue = s.clockDue := rfl
@[simp] theorem State.setByte_hartTurn (s : State) (k : Nat) (b : Byte) : (s.setByte k b).hartTurn = s.hartTurn := rfl
@[simp] theorem State.setByte_agenda (s : State) (k : Nat) (b : Byte) : (s.setByte k b).agenda = s.agenda := rfl
@[simp] theorem State.setByte_cur (s : State) (k : Nat) (b : Byte) : (s.setByte k b).cur = s.cur := rfl

@[simp] theorem State.setHart_mem (s : State) (k : Nat) (h : Hart) : (s.setHart k h).mem = s.mem := rfl
@[simp] theorem State.setHart_gtag (s : State) (k : Nat) (h : Hart) : (s.setHart k h).gtag = s.gtag := rfl
@[simp] theorem State.setHart_escaped (s : State) (k : Nat) (h : Hart) : (s.setHart k h).escaped = s.escaped := rfl
@[simp] theorem State.setHart_spilled (s : State) (k : Nat) (h : Hart) : (s.setHart k h).spilled = s.spilled := rfl
@[simp] theorem State.setHart_groups (s : State) (k : Nat) (h : Hart) : (s.setHart k h).groups = s.groups := rfl
@[simp] theorem State.setHart_kernels (s : State) (k : Nat) (h : Hart) : (s.setHart k h).kernels = s.kernels := rfl
@[simp] theorem State.setHart_ctxs (s : State) (k : Nat) (h : Hart) : (s.setHart k h).ctxs = s.ctxs := rfl
@[simp] theorem State.setHart_nextGroup (s : State) (k : Nat) (h : Hart) : (s.setHart k h).nextGroup = s.nextGroup := rfl
@[simp] theorem State.setHart_nextKernel (s : State) (k : Nat) (h : Hart) : (s.setHart k h).nextKernel = s.nextKernel := rfl
@[simp] theorem State.setHart_acc (s : State) (k : Nat) (h : Hart) : (s.setHart k h).acc = s.acc := rfl
@[simp] theorem State.setHart_accLevel (s : State) (k : Nat) (h : Hart) : (s.setHart k h).accLevel = s.accLevel := rfl
@[simp] theorem State.setHart_banks (s : State) (k : Nat) (h : Hart) : (s.setHart k h).banks = s.banks := rfl
@[simp] theorem State.setHart_bankSel (s : State) (k : Nat) (h : Hart) : (s.setHart k h).bankSel = s.bankSel := rfl
@[simp] theorem State.setHart_streams (s : State) (k : Nat) (h : Hart) : (s.setHart k h).streams = s.streams := rfl
@[simp] theorem State.setHart_copies (s : State) (k : Nat) (h : Hart) : (s.setHart k h).copies = s.copies := rfl
@[simp] theorem State.setHart_slots (s : State) (k : Nat) (h : Hart) : (s.setHart k h).slots = s.slots := rfl
@[simp] theorem State.setHart_subs (s : State) (k : Nat) (h : Hart) : (s.setHart k h).subs = s.subs := rfl
@[simp] theorem State.setHart_hseq (s : State) (k : Nat) (h : Hart) : (s.setHart k h).hseq = s.hseq := rfl
@[simp] theorem State.setHart_messages (s : State) (k : Nat) (h : Hart) : (s.setHart k h).messages = s.messages := rfl
@[simp] theorem State.setHart_slotRequests (s : State) (k : Nat) (h : Hart) : (s.setHart k h).slotRequests = s.slotRequests := rfl
@[simp] theorem State.setHart_homeq (s : State) (k : Nat) (h : Hart) : (s.setHart k h).homeq = s.homeq := rfl
@[simp] theorem State.setHart_tlb (s : State) (k : Nat) (h : Hart) : (s.setHart k h).tlb = s.tlb := rfl
@[simp] theorem State.setHart_mtlb (s : State) (k : Nat) (h : Hart) : (s.setHart k h).mtlb = s.mtlb := rfl
@[simp] theorem State.setHart_issuing (s : State) (k : Nat) (h : Hart) : (s.setHart k h).issuing = s.issuing := rfl
@[simp] theorem State.setHart_pipeWork (s : State) (k : Nat) (h : Hart) : (s.setHart k h).pipeWork = s.pipeWork := rfl
@[simp] theorem State.setHart_pipeBusy (s : State) (k : Nat) (h : Hart) : (s.setHart k h).pipeBusy = s.pipeBusy := rfl
@[simp] theorem State.setHart_deficits (s : State) (k : Nat) (h : Hart) : (s.setHart k h).deficits = s.deficits := rfl
@[simp] theorem State.setHart_lastGrant (s : State) (k : Nat) (h : Hart) : (s.setHart k h).lastGrant = s.lastGrant := rfl
@[simp] theorem State.setHart_ticket (s : State) (k : Nat) (h : Hart) : (s.setHart k h).ticket = s.ticket := rfl
@[simp] theorem State.setHart_blocked (s : State) (k : Nat) (h : Hart) : (s.setHart k h).blocked = s.blocked := rfl
@[simp] theorem State.setHart_links (s : State) (k : Nat) (h : Hart) : (s.setHart k h).links = s.links := rfl
@[simp] theorem State.setHart_held (s : State) (k : Nat) (h : Hart) : (s.setHart k h).held = s.held := rfl
@[simp] theorem State.setHart_notices (s : State) (k : Nat) (h : Hart) : (s.setHart k h).notices = s.notices := rfl
@[simp] theorem State.setHart_traces (s : State) (k : Nat) (h : Hart) : (s.setHart k h).traces = s.traces := rfl
@[simp] theorem State.setHart_dclk (s : State) (k : Nat) (h : Hart) : (s.setHart k h).dclk = s.dclk := rfl
@[simp] theorem State.setHart_status (s : State) (k : Nat) (h : Hart) : (s.setHart k h).status = s.status := rfl
@[simp] theorem State.setHart_step (s : State) (k : Nat) (h : Hart) : (s.setHart k h).step = s.step := rfl
@[simp] theorem State.setHart_fcode (s : State) (k : Nat) (h : Hart) : (s.setHart k h).fcode = s.fcode := rfl
@[simp] theorem State.setHart_devf (s : State) (k : Nat) (h : Hart) : (s.setHart k h).devf = s.devf := rfl
@[simp] theorem State.setHart_limiting (s : State) (k : Nat) (h : Hart) : (s.setHart k h).limiting = s.limiting := rfl
@[simp] theorem State.setHart_belowFor (s : State) (k : Nat) (h : Hart) : (s.setHart k h).belowFor = s.belowFor := rfl
@[simp] theorem State.setHart_withhold (s : State) (k : Nat) (h : Hart) : (s.setHart k h).withhold = s.withhold := rfl
@[simp] theorem State.setHart_stopped (s : State) (k : Nat) (h : Hart) : (s.setHart k h).stopped = s.stopped := rfl
@[simp] theorem State.setHart_starts (s : State) (k : Nat) (h : Hart) : (s.setHart k h).starts = s.starts := rfl
@[simp] theorem State.setHart_flashOk (s : State) (k : Nat) (h : Hart) : (s.setHart k h).flashOk = s.flashOk := rfl
@[simp] theorem State.setHart_flash (s : State) (k : Nat) (h : Hart) : (s.setHart k h).flash = s.flash := rfl
@[simp] theorem State.setHart_booted (s : State) (k : Nat) (h : Hart) : (s.setHart k h).booted = s.booted := rfl
@[simp] theorem State.setHart_writingFlash (s : State) (k : Nat) (h : Hart) : (s.setHart k h).writingFlash = s.writingFlash := rfl
@[simp] theorem State.setHart_report (s : State) (k : Nat) (h : Hart) : (s.setHart k h).report = s.report := rfl
@[simp] theorem State.setHart_verifying (s : State) (k : Nat) (h : Hart) : (s.setHart k h).verifying = s.verifying := rfl
@[simp] theorem State.setHart_window (s : State) (k : Nat) (h : Hart) : (s.setHart k h).window = s.window := rfl
@[simp] theorem State.setHart_startRecord (s : State) (k : Nat) (h : Hart) : (s.setHart k h).startRecord = s.startRecord := rfl
@[simp] theorem State.setHart_fencedSpires (s : State) (k : Nat) (h : Hart) : (s.setHart k h).fencedSpires = s.fencedSpires := rfl
@[simp] theorem State.setHart_fencedShafts (s : State) (k : Nat) (h : Hart) : (s.setHart k h).fencedShafts = s.fencedShafts := rfl
@[simp] theorem State.setHart_fencedLinks (s : State) (k : Nat) (h : Hart) : (s.setHart k h).fencedLinks = s.fencedLinks := rfl
@[simp] theorem State.setHart_recoveries (s : State) (k : Nat) (h : Hart) : (s.setHart k h).recoveries = s.recoveries := rfl
@[simp] theorem State.setHart_attests (s : State) (k : Nat) (h : Hart) : (s.setHart k h).attests = s.attests := rfl
@[simp] theorem State.setHart_softErrors (s : State) (k : Nat) (h : Hart) : (s.setHart k h).softErrors = s.softErrors := rfl
@[simp] theorem State.setHart_softLast (s : State) (k : Nat) (h : Hart) : (s.setHart k h).softLast = s.softLast := rfl
@[simp] theorem State.setHart_capGen (s : State) (k : Nat) (h : Hart) : (s.setHart k h).capGen = s.capGen := rfl
@[simp] theorem State.setHart_mqBase (s : State) (k : Nat) (h : Hart) : (s.setHart k h).mqBase = s.mqBase := rfl
@[simp] theorem State.setHart_mqCfg (s : State) (k : Nat) (h : Hart) : (s.setHart k h).mqCfg = s.mqCfg := rfl
@[simp] theorem State.setHart_mqWp (s : State) (k : Nat) (h : Hart) : (s.setHart k h).mqWp = s.mqWp := rfl
@[simp] theorem State.setHart_mqRp (s : State) (k : Nat) (h : Hart) : (s.setHart k h).mqRp = s.mqRp := rfl
@[simp] theorem State.setHart_mqDone (s : State) (k : Nat) (h : Hart) : (s.setHart k h).mqDone = s.mqDone := rfl
@[simp] theorem State.setHart_mqErr (s : State) (k : Nat) (h : Hart) : (s.setHart k h).mqErr = s.mqErr := rfl
@[simp] theorem State.setHart_mqHalt (s : State) (k : Nat) (h : Hart) : (s.setHart k h).mqHalt = s.mqHalt := rfl
@[simp] theorem State.setHart_msix (s : State) (k : Nat) (h : Hart) : (s.setHart k h).msix = s.msix := rfl
@[simp] theorem State.setHart_cmds (s : State) (k : Nat) (h : Hart) : (s.setHart k h).cmds = s.cmds := rfl
@[simp] theorem State.setHart_journal (s : State) (k : Nat) (h : Hart) : (s.setHart k h).journal = s.journal := rfl
@[simp] theorem State.setHart_jnext (s : State) (k : Nat) (h : Hart) : (s.setHart k h).jnext = s.jnext := rfl
@[simp] theorem State.setHart_lsImages (s : State) (k : Nat) (h : Hart) : (s.setHart k h).lsImages = s.lsImages := rfl
@[simp] theorem State.setHart_hostRead (s : State) (k : Nat) (h : Hart) : (s.setHart k h).hostRead = s.hostRead := rfl
@[simp] theorem State.setHart_stamp (s : State) (k : Nat) (h : Hart) : (s.setHart k h).stamp = s.stamp := rfl
@[simp] theorem State.setHart_clockDue (s : State) (k : Nat) (h : Hart) : (s.setHart k h).clockDue = s.clockDue := rfl
@[simp] theorem State.setHart_hartTurn (s : State) (k : Nat) (h : Hart) : (s.setHart k h).hartTurn = s.hartTurn := rfl
@[simp] theorem State.setHart_agenda (s : State) (k : Nat) (h : Hart) : (s.setHart k h).agenda = s.agenda := rfl
@[simp] theorem State.setHart_cur (s : State) (k : Nat) (h : Hart) : (s.setHart k h).cur = s.cur := rfl

@[simp] theorem State.modHart_mem (s : State) (k : Nat) (f : Hart → Hart) : (s.modHart k f).mem = s.mem := rfl
@[simp] theorem State.modHart_gtag (s : State) (k : Nat) (f : Hart → Hart) : (s.modHart k f).gtag = s.gtag := rfl
@[simp] theorem State.modHart_escaped (s : State) (k : Nat) (f : Hart → Hart) : (s.modHart k f).escaped = s.escaped := rfl
@[simp] theorem State.modHart_spilled (s : State) (k : Nat) (f : Hart → Hart) : (s.modHart k f).spilled = s.spilled := rfl
@[simp] theorem State.modHart_groups (s : State) (k : Nat) (f : Hart → Hart) : (s.modHart k f).groups = s.groups := rfl
@[simp] theorem State.modHart_kernels (s : State) (k : Nat) (f : Hart → Hart) : (s.modHart k f).kernels = s.kernels := rfl
@[simp] theorem State.modHart_ctxs (s : State) (k : Nat) (f : Hart → Hart) : (s.modHart k f).ctxs = s.ctxs := rfl
@[simp] theorem State.modHart_nextGroup (s : State) (k : Nat) (f : Hart → Hart) : (s.modHart k f).nextGroup = s.nextGroup := rfl
@[simp] theorem State.modHart_nextKernel (s : State) (k : Nat) (f : Hart → Hart) : (s.modHart k f).nextKernel = s.nextKernel := rfl
@[simp] theorem State.modHart_acc (s : State) (k : Nat) (f : Hart → Hart) : (s.modHart k f).acc = s.acc := rfl
@[simp] theorem State.modHart_accLevel (s : State) (k : Nat) (f : Hart → Hart) : (s.modHart k f).accLevel = s.accLevel := rfl
@[simp] theorem State.modHart_banks (s : State) (k : Nat) (f : Hart → Hart) : (s.modHart k f).banks = s.banks := rfl
@[simp] theorem State.modHart_bankSel (s : State) (k : Nat) (f : Hart → Hart) : (s.modHart k f).bankSel = s.bankSel := rfl
@[simp] theorem State.modHart_streams (s : State) (k : Nat) (f : Hart → Hart) : (s.modHart k f).streams = s.streams := rfl
@[simp] theorem State.modHart_copies (s : State) (k : Nat) (f : Hart → Hart) : (s.modHart k f).copies = s.copies := rfl
@[simp] theorem State.modHart_slots (s : State) (k : Nat) (f : Hart → Hart) : (s.modHart k f).slots = s.slots := rfl
@[simp] theorem State.modHart_subs (s : State) (k : Nat) (f : Hart → Hart) : (s.modHart k f).subs = s.subs := rfl
@[simp] theorem State.modHart_hseq (s : State) (k : Nat) (f : Hart → Hart) : (s.modHart k f).hseq = s.hseq := rfl
@[simp] theorem State.modHart_messages (s : State) (k : Nat) (f : Hart → Hart) : (s.modHart k f).messages = s.messages := rfl
@[simp] theorem State.modHart_slotRequests (s : State) (k : Nat) (f : Hart → Hart) : (s.modHart k f).slotRequests = s.slotRequests := rfl
@[simp] theorem State.modHart_homeq (s : State) (k : Nat) (f : Hart → Hart) : (s.modHart k f).homeq = s.homeq := rfl
@[simp] theorem State.modHart_tlb (s : State) (k : Nat) (f : Hart → Hart) : (s.modHart k f).tlb = s.tlb := rfl
@[simp] theorem State.modHart_mtlb (s : State) (k : Nat) (f : Hart → Hart) : (s.modHart k f).mtlb = s.mtlb := rfl
@[simp] theorem State.modHart_issuing (s : State) (k : Nat) (f : Hart → Hart) : (s.modHart k f).issuing = s.issuing := rfl
@[simp] theorem State.modHart_pipeWork (s : State) (k : Nat) (f : Hart → Hart) : (s.modHart k f).pipeWork = s.pipeWork := rfl
@[simp] theorem State.modHart_pipeBusy (s : State) (k : Nat) (f : Hart → Hart) : (s.modHart k f).pipeBusy = s.pipeBusy := rfl
@[simp] theorem State.modHart_deficits (s : State) (k : Nat) (f : Hart → Hart) : (s.modHart k f).deficits = s.deficits := rfl
@[simp] theorem State.modHart_lastGrant (s : State) (k : Nat) (f : Hart → Hart) : (s.modHart k f).lastGrant = s.lastGrant := rfl
@[simp] theorem State.modHart_ticket (s : State) (k : Nat) (f : Hart → Hart) : (s.modHart k f).ticket = s.ticket := rfl
@[simp] theorem State.modHart_blocked (s : State) (k : Nat) (f : Hart → Hart) : (s.modHart k f).blocked = s.blocked := rfl
@[simp] theorem State.modHart_links (s : State) (k : Nat) (f : Hart → Hart) : (s.modHart k f).links = s.links := rfl
@[simp] theorem State.modHart_held (s : State) (k : Nat) (f : Hart → Hart) : (s.modHart k f).held = s.held := rfl
@[simp] theorem State.modHart_notices (s : State) (k : Nat) (f : Hart → Hart) : (s.modHart k f).notices = s.notices := rfl
@[simp] theorem State.modHart_traces (s : State) (k : Nat) (f : Hart → Hart) : (s.modHart k f).traces = s.traces := rfl
@[simp] theorem State.modHart_dclk (s : State) (k : Nat) (f : Hart → Hart) : (s.modHart k f).dclk = s.dclk := rfl
@[simp] theorem State.modHart_status (s : State) (k : Nat) (f : Hart → Hart) : (s.modHart k f).status = s.status := rfl
@[simp] theorem State.modHart_step (s : State) (k : Nat) (f : Hart → Hart) : (s.modHart k f).step = s.step := rfl
@[simp] theorem State.modHart_fcode (s : State) (k : Nat) (f : Hart → Hart) : (s.modHart k f).fcode = s.fcode := rfl
@[simp] theorem State.modHart_devf (s : State) (k : Nat) (f : Hart → Hart) : (s.modHart k f).devf = s.devf := rfl
@[simp] theorem State.modHart_limiting (s : State) (k : Nat) (f : Hart → Hart) : (s.modHart k f).limiting = s.limiting := rfl
@[simp] theorem State.modHart_belowFor (s : State) (k : Nat) (f : Hart → Hart) : (s.modHart k f).belowFor = s.belowFor := rfl
@[simp] theorem State.modHart_withhold (s : State) (k : Nat) (f : Hart → Hart) : (s.modHart k f).withhold = s.withhold := rfl
@[simp] theorem State.modHart_stopped (s : State) (k : Nat) (f : Hart → Hart) : (s.modHart k f).stopped = s.stopped := rfl
@[simp] theorem State.modHart_starts (s : State) (k : Nat) (f : Hart → Hart) : (s.modHart k f).starts = s.starts := rfl
@[simp] theorem State.modHart_flashOk (s : State) (k : Nat) (f : Hart → Hart) : (s.modHart k f).flashOk = s.flashOk := rfl
@[simp] theorem State.modHart_flash (s : State) (k : Nat) (f : Hart → Hart) : (s.modHart k f).flash = s.flash := rfl
@[simp] theorem State.modHart_booted (s : State) (k : Nat) (f : Hart → Hart) : (s.modHart k f).booted = s.booted := rfl
@[simp] theorem State.modHart_writingFlash (s : State) (k : Nat) (f : Hart → Hart) : (s.modHart k f).writingFlash = s.writingFlash := rfl
@[simp] theorem State.modHart_report (s : State) (k : Nat) (f : Hart → Hart) : (s.modHart k f).report = s.report := rfl
@[simp] theorem State.modHart_verifying (s : State) (k : Nat) (f : Hart → Hart) : (s.modHart k f).verifying = s.verifying := rfl
@[simp] theorem State.modHart_window (s : State) (k : Nat) (f : Hart → Hart) : (s.modHart k f).window = s.window := rfl
@[simp] theorem State.modHart_startRecord (s : State) (k : Nat) (f : Hart → Hart) : (s.modHart k f).startRecord = s.startRecord := rfl
@[simp] theorem State.modHart_fencedSpires (s : State) (k : Nat) (f : Hart → Hart) : (s.modHart k f).fencedSpires = s.fencedSpires := rfl
@[simp] theorem State.modHart_fencedShafts (s : State) (k : Nat) (f : Hart → Hart) : (s.modHart k f).fencedShafts = s.fencedShafts := rfl
@[simp] theorem State.modHart_fencedLinks (s : State) (k : Nat) (f : Hart → Hart) : (s.modHart k f).fencedLinks = s.fencedLinks := rfl
@[simp] theorem State.modHart_recoveries (s : State) (k : Nat) (f : Hart → Hart) : (s.modHart k f).recoveries = s.recoveries := rfl
@[simp] theorem State.modHart_attests (s : State) (k : Nat) (f : Hart → Hart) : (s.modHart k f).attests = s.attests := rfl
@[simp] theorem State.modHart_softErrors (s : State) (k : Nat) (f : Hart → Hart) : (s.modHart k f).softErrors = s.softErrors := rfl
@[simp] theorem State.modHart_softLast (s : State) (k : Nat) (f : Hart → Hart) : (s.modHart k f).softLast = s.softLast := rfl
@[simp] theorem State.modHart_capGen (s : State) (k : Nat) (f : Hart → Hart) : (s.modHart k f).capGen = s.capGen := rfl
@[simp] theorem State.modHart_mqBase (s : State) (k : Nat) (f : Hart → Hart) : (s.modHart k f).mqBase = s.mqBase := rfl
@[simp] theorem State.modHart_mqCfg (s : State) (k : Nat) (f : Hart → Hart) : (s.modHart k f).mqCfg = s.mqCfg := rfl
@[simp] theorem State.modHart_mqWp (s : State) (k : Nat) (f : Hart → Hart) : (s.modHart k f).mqWp = s.mqWp := rfl
@[simp] theorem State.modHart_mqRp (s : State) (k : Nat) (f : Hart → Hart) : (s.modHart k f).mqRp = s.mqRp := rfl
@[simp] theorem State.modHart_mqDone (s : State) (k : Nat) (f : Hart → Hart) : (s.modHart k f).mqDone = s.mqDone := rfl
@[simp] theorem State.modHart_mqErr (s : State) (k : Nat) (f : Hart → Hart) : (s.modHart k f).mqErr = s.mqErr := rfl
@[simp] theorem State.modHart_mqHalt (s : State) (k : Nat) (f : Hart → Hart) : (s.modHart k f).mqHalt = s.mqHalt := rfl
@[simp] theorem State.modHart_msix (s : State) (k : Nat) (f : Hart → Hart) : (s.modHart k f).msix = s.msix := rfl
@[simp] theorem State.modHart_cmds (s : State) (k : Nat) (f : Hart → Hart) : (s.modHart k f).cmds = s.cmds := rfl
@[simp] theorem State.modHart_journal (s : State) (k : Nat) (f : Hart → Hart) : (s.modHart k f).journal = s.journal := rfl
@[simp] theorem State.modHart_jnext (s : State) (k : Nat) (f : Hart → Hart) : (s.modHart k f).jnext = s.jnext := rfl
@[simp] theorem State.modHart_lsImages (s : State) (k : Nat) (f : Hart → Hart) : (s.modHart k f).lsImages = s.lsImages := rfl
@[simp] theorem State.modHart_hostRead (s : State) (k : Nat) (f : Hart → Hart) : (s.modHart k f).hostRead = s.hostRead := rfl
@[simp] theorem State.modHart_stamp (s : State) (k : Nat) (f : Hart → Hart) : (s.modHart k f).stamp = s.stamp := rfl
@[simp] theorem State.modHart_clockDue (s : State) (k : Nat) (f : Hart → Hart) : (s.modHart k f).clockDue = s.clockDue := rfl
@[simp] theorem State.modHart_hartTurn (s : State) (k : Nat) (f : Hart → Hart) : (s.modHart k f).hartTurn = s.hartTurn := rfl
@[simp] theorem State.modHart_agenda (s : State) (k : Nat) (f : Hart → Hart) : (s.modHart k f).agenda = s.agenda := rfl
@[simp] theorem State.modHart_cur (s : State) (k : Nat) (f : Hart → Hart) : (s.modHart k f).cur = s.cur := rfl

@[simp] theorem State.modGroup_mem (s : State) (g : Nat) (f : Group → Group) : (s.modGroup g f).mem = s.mem := rfl
@[simp] theorem State.modGroup_gtag (s : State) (g : Nat) (f : Group → Group) : (s.modGroup g f).gtag = s.gtag := rfl
@[simp] theorem State.modGroup_escaped (s : State) (g : Nat) (f : Group → Group) : (s.modGroup g f).escaped = s.escaped := rfl
@[simp] theorem State.modGroup_spilled (s : State) (g : Nat) (f : Group → Group) : (s.modGroup g f).spilled = s.spilled := rfl
@[simp] theorem State.modGroup_harts (s : State) (g : Nat) (f : Group → Group) : (s.modGroup g f).harts = s.harts := rfl
@[simp] theorem State.modGroup_kernels (s : State) (g : Nat) (f : Group → Group) : (s.modGroup g f).kernels = s.kernels := rfl
@[simp] theorem State.modGroup_ctxs (s : State) (g : Nat) (f : Group → Group) : (s.modGroup g f).ctxs = s.ctxs := rfl
@[simp] theorem State.modGroup_nextGroup (s : State) (g : Nat) (f : Group → Group) : (s.modGroup g f).nextGroup = s.nextGroup := rfl
@[simp] theorem State.modGroup_nextKernel (s : State) (g : Nat) (f : Group → Group) : (s.modGroup g f).nextKernel = s.nextKernel := rfl
@[simp] theorem State.modGroup_acc (s : State) (g : Nat) (f : Group → Group) : (s.modGroup g f).acc = s.acc := rfl
@[simp] theorem State.modGroup_accLevel (s : State) (g : Nat) (f : Group → Group) : (s.modGroup g f).accLevel = s.accLevel := rfl
@[simp] theorem State.modGroup_banks (s : State) (g : Nat) (f : Group → Group) : (s.modGroup g f).banks = s.banks := rfl
@[simp] theorem State.modGroup_bankSel (s : State) (g : Nat) (f : Group → Group) : (s.modGroup g f).bankSel = s.bankSel := rfl
@[simp] theorem State.modGroup_streams (s : State) (g : Nat) (f : Group → Group) : (s.modGroup g f).streams = s.streams := rfl
@[simp] theorem State.modGroup_copies (s : State) (g : Nat) (f : Group → Group) : (s.modGroup g f).copies = s.copies := rfl
@[simp] theorem State.modGroup_slots (s : State) (g : Nat) (f : Group → Group) : (s.modGroup g f).slots = s.slots := rfl
@[simp] theorem State.modGroup_subs (s : State) (g : Nat) (f : Group → Group) : (s.modGroup g f).subs = s.subs := rfl
@[simp] theorem State.modGroup_hseq (s : State) (g : Nat) (f : Group → Group) : (s.modGroup g f).hseq = s.hseq := rfl
@[simp] theorem State.modGroup_messages (s : State) (g : Nat) (f : Group → Group) : (s.modGroup g f).messages = s.messages := rfl
@[simp] theorem State.modGroup_slotRequests (s : State) (g : Nat) (f : Group → Group) : (s.modGroup g f).slotRequests = s.slotRequests := rfl
@[simp] theorem State.modGroup_homeq (s : State) (g : Nat) (f : Group → Group) : (s.modGroup g f).homeq = s.homeq := rfl
@[simp] theorem State.modGroup_tlb (s : State) (g : Nat) (f : Group → Group) : (s.modGroup g f).tlb = s.tlb := rfl
@[simp] theorem State.modGroup_mtlb (s : State) (g : Nat) (f : Group → Group) : (s.modGroup g f).mtlb = s.mtlb := rfl
@[simp] theorem State.modGroup_issuing (s : State) (g : Nat) (f : Group → Group) : (s.modGroup g f).issuing = s.issuing := rfl
@[simp] theorem State.modGroup_pipeWork (s : State) (g : Nat) (f : Group → Group) : (s.modGroup g f).pipeWork = s.pipeWork := rfl
@[simp] theorem State.modGroup_pipeBusy (s : State) (g : Nat) (f : Group → Group) : (s.modGroup g f).pipeBusy = s.pipeBusy := rfl
@[simp] theorem State.modGroup_deficits (s : State) (g : Nat) (f : Group → Group) : (s.modGroup g f).deficits = s.deficits := rfl
@[simp] theorem State.modGroup_lastGrant (s : State) (g : Nat) (f : Group → Group) : (s.modGroup g f).lastGrant = s.lastGrant := rfl
@[simp] theorem State.modGroup_ticket (s : State) (g : Nat) (f : Group → Group) : (s.modGroup g f).ticket = s.ticket := rfl
@[simp] theorem State.modGroup_blocked (s : State) (g : Nat) (f : Group → Group) : (s.modGroup g f).blocked = s.blocked := rfl
@[simp] theorem State.modGroup_links (s : State) (g : Nat) (f : Group → Group) : (s.modGroup g f).links = s.links := rfl
@[simp] theorem State.modGroup_held (s : State) (g : Nat) (f : Group → Group) : (s.modGroup g f).held = s.held := rfl
@[simp] theorem State.modGroup_notices (s : State) (g : Nat) (f : Group → Group) : (s.modGroup g f).notices = s.notices := rfl
@[simp] theorem State.modGroup_traces (s : State) (g : Nat) (f : Group → Group) : (s.modGroup g f).traces = s.traces := rfl
@[simp] theorem State.modGroup_dclk (s : State) (g : Nat) (f : Group → Group) : (s.modGroup g f).dclk = s.dclk := rfl
@[simp] theorem State.modGroup_status (s : State) (g : Nat) (f : Group → Group) : (s.modGroup g f).status = s.status := rfl
@[simp] theorem State.modGroup_step (s : State) (g : Nat) (f : Group → Group) : (s.modGroup g f).step = s.step := rfl
@[simp] theorem State.modGroup_fcode (s : State) (g : Nat) (f : Group → Group) : (s.modGroup g f).fcode = s.fcode := rfl
@[simp] theorem State.modGroup_devf (s : State) (g : Nat) (f : Group → Group) : (s.modGroup g f).devf = s.devf := rfl
@[simp] theorem State.modGroup_limiting (s : State) (g : Nat) (f : Group → Group) : (s.modGroup g f).limiting = s.limiting := rfl
@[simp] theorem State.modGroup_belowFor (s : State) (g : Nat) (f : Group → Group) : (s.modGroup g f).belowFor = s.belowFor := rfl
@[simp] theorem State.modGroup_withhold (s : State) (g : Nat) (f : Group → Group) : (s.modGroup g f).withhold = s.withhold := rfl
@[simp] theorem State.modGroup_stopped (s : State) (g : Nat) (f : Group → Group) : (s.modGroup g f).stopped = s.stopped := rfl
@[simp] theorem State.modGroup_starts (s : State) (g : Nat) (f : Group → Group) : (s.modGroup g f).starts = s.starts := rfl
@[simp] theorem State.modGroup_flashOk (s : State) (g : Nat) (f : Group → Group) : (s.modGroup g f).flashOk = s.flashOk := rfl
@[simp] theorem State.modGroup_flash (s : State) (g : Nat) (f : Group → Group) : (s.modGroup g f).flash = s.flash := rfl
@[simp] theorem State.modGroup_booted (s : State) (g : Nat) (f : Group → Group) : (s.modGroup g f).booted = s.booted := rfl
@[simp] theorem State.modGroup_writingFlash (s : State) (g : Nat) (f : Group → Group) : (s.modGroup g f).writingFlash = s.writingFlash := rfl
@[simp] theorem State.modGroup_report (s : State) (g : Nat) (f : Group → Group) : (s.modGroup g f).report = s.report := rfl
@[simp] theorem State.modGroup_verifying (s : State) (g : Nat) (f : Group → Group) : (s.modGroup g f).verifying = s.verifying := rfl
@[simp] theorem State.modGroup_window (s : State) (g : Nat) (f : Group → Group) : (s.modGroup g f).window = s.window := rfl
@[simp] theorem State.modGroup_startRecord (s : State) (g : Nat) (f : Group → Group) : (s.modGroup g f).startRecord = s.startRecord := rfl
@[simp] theorem State.modGroup_fencedSpires (s : State) (g : Nat) (f : Group → Group) : (s.modGroup g f).fencedSpires = s.fencedSpires := rfl
@[simp] theorem State.modGroup_fencedShafts (s : State) (g : Nat) (f : Group → Group) : (s.modGroup g f).fencedShafts = s.fencedShafts := rfl
@[simp] theorem State.modGroup_fencedLinks (s : State) (g : Nat) (f : Group → Group) : (s.modGroup g f).fencedLinks = s.fencedLinks := rfl
@[simp] theorem State.modGroup_recoveries (s : State) (g : Nat) (f : Group → Group) : (s.modGroup g f).recoveries = s.recoveries := rfl
@[simp] theorem State.modGroup_attests (s : State) (g : Nat) (f : Group → Group) : (s.modGroup g f).attests = s.attests := rfl
@[simp] theorem State.modGroup_softErrors (s : State) (g : Nat) (f : Group → Group) : (s.modGroup g f).softErrors = s.softErrors := rfl
@[simp] theorem State.modGroup_softLast (s : State) (g : Nat) (f : Group → Group) : (s.modGroup g f).softLast = s.softLast := rfl
@[simp] theorem State.modGroup_capGen (s : State) (g : Nat) (f : Group → Group) : (s.modGroup g f).capGen = s.capGen := rfl
@[simp] theorem State.modGroup_mqBase (s : State) (g : Nat) (f : Group → Group) : (s.modGroup g f).mqBase = s.mqBase := rfl
@[simp] theorem State.modGroup_mqCfg (s : State) (g : Nat) (f : Group → Group) : (s.modGroup g f).mqCfg = s.mqCfg := rfl
@[simp] theorem State.modGroup_mqWp (s : State) (g : Nat) (f : Group → Group) : (s.modGroup g f).mqWp = s.mqWp := rfl
@[simp] theorem State.modGroup_mqRp (s : State) (g : Nat) (f : Group → Group) : (s.modGroup g f).mqRp = s.mqRp := rfl
@[simp] theorem State.modGroup_mqDone (s : State) (g : Nat) (f : Group → Group) : (s.modGroup g f).mqDone = s.mqDone := rfl
@[simp] theorem State.modGroup_mqErr (s : State) (g : Nat) (f : Group → Group) : (s.modGroup g f).mqErr = s.mqErr := rfl
@[simp] theorem State.modGroup_mqHalt (s : State) (g : Nat) (f : Group → Group) : (s.modGroup g f).mqHalt = s.mqHalt := rfl
@[simp] theorem State.modGroup_msix (s : State) (g : Nat) (f : Group → Group) : (s.modGroup g f).msix = s.msix := rfl
@[simp] theorem State.modGroup_cmds (s : State) (g : Nat) (f : Group → Group) : (s.modGroup g f).cmds = s.cmds := rfl
@[simp] theorem State.modGroup_journal (s : State) (g : Nat) (f : Group → Group) : (s.modGroup g f).journal = s.journal := rfl
@[simp] theorem State.modGroup_jnext (s : State) (g : Nat) (f : Group → Group) : (s.modGroup g f).jnext = s.jnext := rfl
@[simp] theorem State.modGroup_lsImages (s : State) (g : Nat) (f : Group → Group) : (s.modGroup g f).lsImages = s.lsImages := rfl
@[simp] theorem State.modGroup_hostRead (s : State) (g : Nat) (f : Group → Group) : (s.modGroup g f).hostRead = s.hostRead := rfl
@[simp] theorem State.modGroup_stamp (s : State) (g : Nat) (f : Group → Group) : (s.modGroup g f).stamp = s.stamp := rfl
@[simp] theorem State.modGroup_clockDue (s : State) (g : Nat) (f : Group → Group) : (s.modGroup g f).clockDue = s.clockDue := rfl
@[simp] theorem State.modGroup_hartTurn (s : State) (g : Nat) (f : Group → Group) : (s.modGroup g f).hartTurn = s.hartTurn := rfl
@[simp] theorem State.modGroup_agenda (s : State) (g : Nat) (f : Group → Group) : (s.modGroup g f).agenda = s.agenda := rfl
@[simp] theorem State.modGroup_cur (s : State) (g : Nat) (f : Group → Group) : (s.modGroup g f).cur = s.cur := rfl

@[simp] theorem State.setCtx_mem (s : State) (c : Nat) (x : Ctx) : (s.setCtx c x).mem = s.mem := rfl
@[simp] theorem State.setCtx_gtag (s : State) (c : Nat) (x : Ctx) : (s.setCtx c x).gtag = s.gtag := rfl
@[simp] theorem State.setCtx_escaped (s : State) (c : Nat) (x : Ctx) : (s.setCtx c x).escaped = s.escaped := rfl
@[simp] theorem State.setCtx_spilled (s : State) (c : Nat) (x : Ctx) : (s.setCtx c x).spilled = s.spilled := rfl
@[simp] theorem State.setCtx_harts (s : State) (c : Nat) (x : Ctx) : (s.setCtx c x).harts = s.harts := rfl
@[simp] theorem State.setCtx_groups (s : State) (c : Nat) (x : Ctx) : (s.setCtx c x).groups = s.groups := rfl
@[simp] theorem State.setCtx_kernels (s : State) (c : Nat) (x : Ctx) : (s.setCtx c x).kernels = s.kernels := rfl
@[simp] theorem State.setCtx_nextGroup (s : State) (c : Nat) (x : Ctx) : (s.setCtx c x).nextGroup = s.nextGroup := rfl
@[simp] theorem State.setCtx_nextKernel (s : State) (c : Nat) (x : Ctx) : (s.setCtx c x).nextKernel = s.nextKernel := rfl
@[simp] theorem State.setCtx_acc (s : State) (c : Nat) (x : Ctx) : (s.setCtx c x).acc = s.acc := rfl
@[simp] theorem State.setCtx_accLevel (s : State) (c : Nat) (x : Ctx) : (s.setCtx c x).accLevel = s.accLevel := rfl
@[simp] theorem State.setCtx_banks (s : State) (c : Nat) (x : Ctx) : (s.setCtx c x).banks = s.banks := rfl
@[simp] theorem State.setCtx_bankSel (s : State) (c : Nat) (x : Ctx) : (s.setCtx c x).bankSel = s.bankSel := rfl
@[simp] theorem State.setCtx_streams (s : State) (c : Nat) (x : Ctx) : (s.setCtx c x).streams = s.streams := rfl
@[simp] theorem State.setCtx_copies (s : State) (c : Nat) (x : Ctx) : (s.setCtx c x).copies = s.copies := rfl
@[simp] theorem State.setCtx_slots (s : State) (c : Nat) (x : Ctx) : (s.setCtx c x).slots = s.slots := rfl
@[simp] theorem State.setCtx_subs (s : State) (c : Nat) (x : Ctx) : (s.setCtx c x).subs = s.subs := rfl
@[simp] theorem State.setCtx_hseq (s : State) (c : Nat) (x : Ctx) : (s.setCtx c x).hseq = s.hseq := rfl
@[simp] theorem State.setCtx_messages (s : State) (c : Nat) (x : Ctx) : (s.setCtx c x).messages = s.messages := rfl
@[simp] theorem State.setCtx_slotRequests (s : State) (c : Nat) (x : Ctx) : (s.setCtx c x).slotRequests = s.slotRequests := rfl
@[simp] theorem State.setCtx_homeq (s : State) (c : Nat) (x : Ctx) : (s.setCtx c x).homeq = s.homeq := rfl
@[simp] theorem State.setCtx_tlb (s : State) (c : Nat) (x : Ctx) : (s.setCtx c x).tlb = s.tlb := rfl
@[simp] theorem State.setCtx_mtlb (s : State) (c : Nat) (x : Ctx) : (s.setCtx c x).mtlb = s.mtlb := rfl
@[simp] theorem State.setCtx_issuing (s : State) (c : Nat) (x : Ctx) : (s.setCtx c x).issuing = s.issuing := rfl
@[simp] theorem State.setCtx_pipeWork (s : State) (c : Nat) (x : Ctx) : (s.setCtx c x).pipeWork = s.pipeWork := rfl
@[simp] theorem State.setCtx_pipeBusy (s : State) (c : Nat) (x : Ctx) : (s.setCtx c x).pipeBusy = s.pipeBusy := rfl
@[simp] theorem State.setCtx_deficits (s : State) (c : Nat) (x : Ctx) : (s.setCtx c x).deficits = s.deficits := rfl
@[simp] theorem State.setCtx_lastGrant (s : State) (c : Nat) (x : Ctx) : (s.setCtx c x).lastGrant = s.lastGrant := rfl
@[simp] theorem State.setCtx_ticket (s : State) (c : Nat) (x : Ctx) : (s.setCtx c x).ticket = s.ticket := rfl
@[simp] theorem State.setCtx_blocked (s : State) (c : Nat) (x : Ctx) : (s.setCtx c x).blocked = s.blocked := rfl
@[simp] theorem State.setCtx_links (s : State) (c : Nat) (x : Ctx) : (s.setCtx c x).links = s.links := rfl
@[simp] theorem State.setCtx_held (s : State) (c : Nat) (x : Ctx) : (s.setCtx c x).held = s.held := rfl
@[simp] theorem State.setCtx_notices (s : State) (c : Nat) (x : Ctx) : (s.setCtx c x).notices = s.notices := rfl
@[simp] theorem State.setCtx_traces (s : State) (c : Nat) (x : Ctx) : (s.setCtx c x).traces = s.traces := rfl
@[simp] theorem State.setCtx_dclk (s : State) (c : Nat) (x : Ctx) : (s.setCtx c x).dclk = s.dclk := rfl
@[simp] theorem State.setCtx_status (s : State) (c : Nat) (x : Ctx) : (s.setCtx c x).status = s.status := rfl
@[simp] theorem State.setCtx_step (s : State) (c : Nat) (x : Ctx) : (s.setCtx c x).step = s.step := rfl
@[simp] theorem State.setCtx_fcode (s : State) (c : Nat) (x : Ctx) : (s.setCtx c x).fcode = s.fcode := rfl
@[simp] theorem State.setCtx_devf (s : State) (c : Nat) (x : Ctx) : (s.setCtx c x).devf = s.devf := rfl
@[simp] theorem State.setCtx_limiting (s : State) (c : Nat) (x : Ctx) : (s.setCtx c x).limiting = s.limiting := rfl
@[simp] theorem State.setCtx_belowFor (s : State) (c : Nat) (x : Ctx) : (s.setCtx c x).belowFor = s.belowFor := rfl
@[simp] theorem State.setCtx_withhold (s : State) (c : Nat) (x : Ctx) : (s.setCtx c x).withhold = s.withhold := rfl
@[simp] theorem State.setCtx_stopped (s : State) (c : Nat) (x : Ctx) : (s.setCtx c x).stopped = s.stopped := rfl
@[simp] theorem State.setCtx_starts (s : State) (c : Nat) (x : Ctx) : (s.setCtx c x).starts = s.starts := rfl
@[simp] theorem State.setCtx_flashOk (s : State) (c : Nat) (x : Ctx) : (s.setCtx c x).flashOk = s.flashOk := rfl
@[simp] theorem State.setCtx_flash (s : State) (c : Nat) (x : Ctx) : (s.setCtx c x).flash = s.flash := rfl
@[simp] theorem State.setCtx_booted (s : State) (c : Nat) (x : Ctx) : (s.setCtx c x).booted = s.booted := rfl
@[simp] theorem State.setCtx_writingFlash (s : State) (c : Nat) (x : Ctx) : (s.setCtx c x).writingFlash = s.writingFlash := rfl
@[simp] theorem State.setCtx_report (s : State) (c : Nat) (x : Ctx) : (s.setCtx c x).report = s.report := rfl
@[simp] theorem State.setCtx_verifying (s : State) (c : Nat) (x : Ctx) : (s.setCtx c x).verifying = s.verifying := rfl
@[simp] theorem State.setCtx_window (s : State) (c : Nat) (x : Ctx) : (s.setCtx c x).window = s.window := rfl
@[simp] theorem State.setCtx_startRecord (s : State) (c : Nat) (x : Ctx) : (s.setCtx c x).startRecord = s.startRecord := rfl
@[simp] theorem State.setCtx_fencedSpires (s : State) (c : Nat) (x : Ctx) : (s.setCtx c x).fencedSpires = s.fencedSpires := rfl
@[simp] theorem State.setCtx_fencedShafts (s : State) (c : Nat) (x : Ctx) : (s.setCtx c x).fencedShafts = s.fencedShafts := rfl
@[simp] theorem State.setCtx_fencedLinks (s : State) (c : Nat) (x : Ctx) : (s.setCtx c x).fencedLinks = s.fencedLinks := rfl
@[simp] theorem State.setCtx_recoveries (s : State) (c : Nat) (x : Ctx) : (s.setCtx c x).recoveries = s.recoveries := rfl
@[simp] theorem State.setCtx_attests (s : State) (c : Nat) (x : Ctx) : (s.setCtx c x).attests = s.attests := rfl
@[simp] theorem State.setCtx_softErrors (s : State) (c : Nat) (x : Ctx) : (s.setCtx c x).softErrors = s.softErrors := rfl
@[simp] theorem State.setCtx_softLast (s : State) (c : Nat) (x : Ctx) : (s.setCtx c x).softLast = s.softLast := rfl
@[simp] theorem State.setCtx_capGen (s : State) (c : Nat) (x : Ctx) : (s.setCtx c x).capGen = s.capGen := rfl
@[simp] theorem State.setCtx_mqBase (s : State) (c : Nat) (x : Ctx) : (s.setCtx c x).mqBase = s.mqBase := rfl
@[simp] theorem State.setCtx_mqCfg (s : State) (c : Nat) (x : Ctx) : (s.setCtx c x).mqCfg = s.mqCfg := rfl
@[simp] theorem State.setCtx_mqWp (s : State) (c : Nat) (x : Ctx) : (s.setCtx c x).mqWp = s.mqWp := rfl
@[simp] theorem State.setCtx_mqRp (s : State) (c : Nat) (x : Ctx) : (s.setCtx c x).mqRp = s.mqRp := rfl
@[simp] theorem State.setCtx_mqDone (s : State) (c : Nat) (x : Ctx) : (s.setCtx c x).mqDone = s.mqDone := rfl
@[simp] theorem State.setCtx_mqErr (s : State) (c : Nat) (x : Ctx) : (s.setCtx c x).mqErr = s.mqErr := rfl
@[simp] theorem State.setCtx_mqHalt (s : State) (c : Nat) (x : Ctx) : (s.setCtx c x).mqHalt = s.mqHalt := rfl
@[simp] theorem State.setCtx_msix (s : State) (c : Nat) (x : Ctx) : (s.setCtx c x).msix = s.msix := rfl
@[simp] theorem State.setCtx_cmds (s : State) (c : Nat) (x : Ctx) : (s.setCtx c x).cmds = s.cmds := rfl
@[simp] theorem State.setCtx_journal (s : State) (c : Nat) (x : Ctx) : (s.setCtx c x).journal = s.journal := rfl
@[simp] theorem State.setCtx_jnext (s : State) (c : Nat) (x : Ctx) : (s.setCtx c x).jnext = s.jnext := rfl
@[simp] theorem State.setCtx_lsImages (s : State) (c : Nat) (x : Ctx) : (s.setCtx c x).lsImages = s.lsImages := rfl
@[simp] theorem State.setCtx_hostRead (s : State) (c : Nat) (x : Ctx) : (s.setCtx c x).hostRead = s.hostRead := rfl
@[simp] theorem State.setCtx_stamp (s : State) (c : Nat) (x : Ctx) : (s.setCtx c x).stamp = s.stamp := rfl
@[simp] theorem State.setCtx_clockDue (s : State) (c : Nat) (x : Ctx) : (s.setCtx c x).clockDue = s.clockDue := rfl
@[simp] theorem State.setCtx_hartTurn (s : State) (c : Nat) (x : Ctx) : (s.setCtx c x).hartTurn = s.hartTurn := rfl
@[simp] theorem State.setCtx_agenda (s : State) (c : Nat) (x : Ctx) : (s.setCtx c x).agenda = s.agenda := rfl
@[simp] theorem State.setCtx_cur (s : State) (c : Nat) (x : Ctx) : (s.setCtx c x).cur = s.cur := rfl

@[simp] theorem State.modCtx_mem (s : State) (c : Nat) (f : Ctx → Ctx) : (s.modCtx c f).mem = s.mem := rfl
@[simp] theorem State.modCtx_gtag (s : State) (c : Nat) (f : Ctx → Ctx) : (s.modCtx c f).gtag = s.gtag := rfl
@[simp] theorem State.modCtx_escaped (s : State) (c : Nat) (f : Ctx → Ctx) : (s.modCtx c f).escaped = s.escaped := rfl
@[simp] theorem State.modCtx_spilled (s : State) (c : Nat) (f : Ctx → Ctx) : (s.modCtx c f).spilled = s.spilled := rfl
@[simp] theorem State.modCtx_harts (s : State) (c : Nat) (f : Ctx → Ctx) : (s.modCtx c f).harts = s.harts := rfl
@[simp] theorem State.modCtx_groups (s : State) (c : Nat) (f : Ctx → Ctx) : (s.modCtx c f).groups = s.groups := rfl
@[simp] theorem State.modCtx_kernels (s : State) (c : Nat) (f : Ctx → Ctx) : (s.modCtx c f).kernels = s.kernels := rfl
@[simp] theorem State.modCtx_nextGroup (s : State) (c : Nat) (f : Ctx → Ctx) : (s.modCtx c f).nextGroup = s.nextGroup := rfl
@[simp] theorem State.modCtx_nextKernel (s : State) (c : Nat) (f : Ctx → Ctx) : (s.modCtx c f).nextKernel = s.nextKernel := rfl
@[simp] theorem State.modCtx_acc (s : State) (c : Nat) (f : Ctx → Ctx) : (s.modCtx c f).acc = s.acc := rfl
@[simp] theorem State.modCtx_accLevel (s : State) (c : Nat) (f : Ctx → Ctx) : (s.modCtx c f).accLevel = s.accLevel := rfl
@[simp] theorem State.modCtx_banks (s : State) (c : Nat) (f : Ctx → Ctx) : (s.modCtx c f).banks = s.banks := rfl
@[simp] theorem State.modCtx_bankSel (s : State) (c : Nat) (f : Ctx → Ctx) : (s.modCtx c f).bankSel = s.bankSel := rfl
@[simp] theorem State.modCtx_streams (s : State) (c : Nat) (f : Ctx → Ctx) : (s.modCtx c f).streams = s.streams := rfl
@[simp] theorem State.modCtx_copies (s : State) (c : Nat) (f : Ctx → Ctx) : (s.modCtx c f).copies = s.copies := rfl
@[simp] theorem State.modCtx_slots (s : State) (c : Nat) (f : Ctx → Ctx) : (s.modCtx c f).slots = s.slots := rfl
@[simp] theorem State.modCtx_subs (s : State) (c : Nat) (f : Ctx → Ctx) : (s.modCtx c f).subs = s.subs := rfl
@[simp] theorem State.modCtx_hseq (s : State) (c : Nat) (f : Ctx → Ctx) : (s.modCtx c f).hseq = s.hseq := rfl
@[simp] theorem State.modCtx_messages (s : State) (c : Nat) (f : Ctx → Ctx) : (s.modCtx c f).messages = s.messages := rfl
@[simp] theorem State.modCtx_slotRequests (s : State) (c : Nat) (f : Ctx → Ctx) : (s.modCtx c f).slotRequests = s.slotRequests := rfl
@[simp] theorem State.modCtx_homeq (s : State) (c : Nat) (f : Ctx → Ctx) : (s.modCtx c f).homeq = s.homeq := rfl
@[simp] theorem State.modCtx_tlb (s : State) (c : Nat) (f : Ctx → Ctx) : (s.modCtx c f).tlb = s.tlb := rfl
@[simp] theorem State.modCtx_mtlb (s : State) (c : Nat) (f : Ctx → Ctx) : (s.modCtx c f).mtlb = s.mtlb := rfl
@[simp] theorem State.modCtx_issuing (s : State) (c : Nat) (f : Ctx → Ctx) : (s.modCtx c f).issuing = s.issuing := rfl
@[simp] theorem State.modCtx_pipeWork (s : State) (c : Nat) (f : Ctx → Ctx) : (s.modCtx c f).pipeWork = s.pipeWork := rfl
@[simp] theorem State.modCtx_pipeBusy (s : State) (c : Nat) (f : Ctx → Ctx) : (s.modCtx c f).pipeBusy = s.pipeBusy := rfl
@[simp] theorem State.modCtx_deficits (s : State) (c : Nat) (f : Ctx → Ctx) : (s.modCtx c f).deficits = s.deficits := rfl
@[simp] theorem State.modCtx_lastGrant (s : State) (c : Nat) (f : Ctx → Ctx) : (s.modCtx c f).lastGrant = s.lastGrant := rfl
@[simp] theorem State.modCtx_ticket (s : State) (c : Nat) (f : Ctx → Ctx) : (s.modCtx c f).ticket = s.ticket := rfl
@[simp] theorem State.modCtx_blocked (s : State) (c : Nat) (f : Ctx → Ctx) : (s.modCtx c f).blocked = s.blocked := rfl
@[simp] theorem State.modCtx_links (s : State) (c : Nat) (f : Ctx → Ctx) : (s.modCtx c f).links = s.links := rfl
@[simp] theorem State.modCtx_held (s : State) (c : Nat) (f : Ctx → Ctx) : (s.modCtx c f).held = s.held := rfl
@[simp] theorem State.modCtx_notices (s : State) (c : Nat) (f : Ctx → Ctx) : (s.modCtx c f).notices = s.notices := rfl
@[simp] theorem State.modCtx_traces (s : State) (c : Nat) (f : Ctx → Ctx) : (s.modCtx c f).traces = s.traces := rfl
@[simp] theorem State.modCtx_dclk (s : State) (c : Nat) (f : Ctx → Ctx) : (s.modCtx c f).dclk = s.dclk := rfl
@[simp] theorem State.modCtx_status (s : State) (c : Nat) (f : Ctx → Ctx) : (s.modCtx c f).status = s.status := rfl
@[simp] theorem State.modCtx_step (s : State) (c : Nat) (f : Ctx → Ctx) : (s.modCtx c f).step = s.step := rfl
@[simp] theorem State.modCtx_fcode (s : State) (c : Nat) (f : Ctx → Ctx) : (s.modCtx c f).fcode = s.fcode := rfl
@[simp] theorem State.modCtx_devf (s : State) (c : Nat) (f : Ctx → Ctx) : (s.modCtx c f).devf = s.devf := rfl
@[simp] theorem State.modCtx_limiting (s : State) (c : Nat) (f : Ctx → Ctx) : (s.modCtx c f).limiting = s.limiting := rfl
@[simp] theorem State.modCtx_belowFor (s : State) (c : Nat) (f : Ctx → Ctx) : (s.modCtx c f).belowFor = s.belowFor := rfl
@[simp] theorem State.modCtx_withhold (s : State) (c : Nat) (f : Ctx → Ctx) : (s.modCtx c f).withhold = s.withhold := rfl
@[simp] theorem State.modCtx_stopped (s : State) (c : Nat) (f : Ctx → Ctx) : (s.modCtx c f).stopped = s.stopped := rfl
@[simp] theorem State.modCtx_starts (s : State) (c : Nat) (f : Ctx → Ctx) : (s.modCtx c f).starts = s.starts := rfl
@[simp] theorem State.modCtx_flashOk (s : State) (c : Nat) (f : Ctx → Ctx) : (s.modCtx c f).flashOk = s.flashOk := rfl
@[simp] theorem State.modCtx_flash (s : State) (c : Nat) (f : Ctx → Ctx) : (s.modCtx c f).flash = s.flash := rfl
@[simp] theorem State.modCtx_booted (s : State) (c : Nat) (f : Ctx → Ctx) : (s.modCtx c f).booted = s.booted := rfl
@[simp] theorem State.modCtx_writingFlash (s : State) (c : Nat) (f : Ctx → Ctx) : (s.modCtx c f).writingFlash = s.writingFlash := rfl
@[simp] theorem State.modCtx_report (s : State) (c : Nat) (f : Ctx → Ctx) : (s.modCtx c f).report = s.report := rfl
@[simp] theorem State.modCtx_verifying (s : State) (c : Nat) (f : Ctx → Ctx) : (s.modCtx c f).verifying = s.verifying := rfl
@[simp] theorem State.modCtx_window (s : State) (c : Nat) (f : Ctx → Ctx) : (s.modCtx c f).window = s.window := rfl
@[simp] theorem State.modCtx_startRecord (s : State) (c : Nat) (f : Ctx → Ctx) : (s.modCtx c f).startRecord = s.startRecord := rfl
@[simp] theorem State.modCtx_fencedSpires (s : State) (c : Nat) (f : Ctx → Ctx) : (s.modCtx c f).fencedSpires = s.fencedSpires := rfl
@[simp] theorem State.modCtx_fencedShafts (s : State) (c : Nat) (f : Ctx → Ctx) : (s.modCtx c f).fencedShafts = s.fencedShafts := rfl
@[simp] theorem State.modCtx_fencedLinks (s : State) (c : Nat) (f : Ctx → Ctx) : (s.modCtx c f).fencedLinks = s.fencedLinks := rfl
@[simp] theorem State.modCtx_recoveries (s : State) (c : Nat) (f : Ctx → Ctx) : (s.modCtx c f).recoveries = s.recoveries := rfl
@[simp] theorem State.modCtx_attests (s : State) (c : Nat) (f : Ctx → Ctx) : (s.modCtx c f).attests = s.attests := rfl
@[simp] theorem State.modCtx_softErrors (s : State) (c : Nat) (f : Ctx → Ctx) : (s.modCtx c f).softErrors = s.softErrors := rfl
@[simp] theorem State.modCtx_softLast (s : State) (c : Nat) (f : Ctx → Ctx) : (s.modCtx c f).softLast = s.softLast := rfl
@[simp] theorem State.modCtx_capGen (s : State) (c : Nat) (f : Ctx → Ctx) : (s.modCtx c f).capGen = s.capGen := rfl
@[simp] theorem State.modCtx_mqBase (s : State) (c : Nat) (f : Ctx → Ctx) : (s.modCtx c f).mqBase = s.mqBase := rfl
@[simp] theorem State.modCtx_mqCfg (s : State) (c : Nat) (f : Ctx → Ctx) : (s.modCtx c f).mqCfg = s.mqCfg := rfl
@[simp] theorem State.modCtx_mqWp (s : State) (c : Nat) (f : Ctx → Ctx) : (s.modCtx c f).mqWp = s.mqWp := rfl
@[simp] theorem State.modCtx_mqRp (s : State) (c : Nat) (f : Ctx → Ctx) : (s.modCtx c f).mqRp = s.mqRp := rfl
@[simp] theorem State.modCtx_mqDone (s : State) (c : Nat) (f : Ctx → Ctx) : (s.modCtx c f).mqDone = s.mqDone := rfl
@[simp] theorem State.modCtx_mqErr (s : State) (c : Nat) (f : Ctx → Ctx) : (s.modCtx c f).mqErr = s.mqErr := rfl
@[simp] theorem State.modCtx_mqHalt (s : State) (c : Nat) (f : Ctx → Ctx) : (s.modCtx c f).mqHalt = s.mqHalt := rfl
@[simp] theorem State.modCtx_msix (s : State) (c : Nat) (f : Ctx → Ctx) : (s.modCtx c f).msix = s.msix := rfl
@[simp] theorem State.modCtx_cmds (s : State) (c : Nat) (f : Ctx → Ctx) : (s.modCtx c f).cmds = s.cmds := rfl
@[simp] theorem State.modCtx_journal (s : State) (c : Nat) (f : Ctx → Ctx) : (s.modCtx c f).journal = s.journal := rfl
@[simp] theorem State.modCtx_jnext (s : State) (c : Nat) (f : Ctx → Ctx) : (s.modCtx c f).jnext = s.jnext := rfl
@[simp] theorem State.modCtx_lsImages (s : State) (c : Nat) (f : Ctx → Ctx) : (s.modCtx c f).lsImages = s.lsImages := rfl
@[simp] theorem State.modCtx_hostRead (s : State) (c : Nat) (f : Ctx → Ctx) : (s.modCtx c f).hostRead = s.hostRead := rfl
@[simp] theorem State.modCtx_stamp (s : State) (c : Nat) (f : Ctx → Ctx) : (s.modCtx c f).stamp = s.stamp := rfl
@[simp] theorem State.modCtx_clockDue (s : State) (c : Nat) (f : Ctx → Ctx) : (s.modCtx c f).clockDue = s.clockDue := rfl
@[simp] theorem State.modCtx_hartTurn (s : State) (c : Nat) (f : Ctx → Ctx) : (s.modCtx c f).hartTurn = s.hartTurn := rfl
@[simp] theorem State.modCtx_agenda (s : State) (c : Nat) (f : Ctx → Ctx) : (s.modCtx c f).agenda = s.agenda := rfl
@[simp] theorem State.modCtx_cur (s : State) (c : Nat) (f : Ctx → Ctx) : (s.modCtx c f).cur = s.cur := rfl

@[simp] theorem State.giveWork_mem (s : State) (c gid idx spire f pipe cost unit item : Nat) : (s.giveWork c gid idx spire f pipe cost unit item).mem = s.mem := rfl
@[simp] theorem State.giveWork_gtag (s : State) (c gid idx spire f pipe cost unit item : Nat) : (s.giveWork c gid idx spire f pipe cost unit item).gtag = s.gtag := rfl
@[simp] theorem State.giveWork_escaped (s : State) (c gid idx spire f pipe cost unit item : Nat) : (s.giveWork c gid idx spire f pipe cost unit item).escaped = s.escaped := rfl
@[simp] theorem State.giveWork_spilled (s : State) (c gid idx spire f pipe cost unit item : Nat) : (s.giveWork c gid idx spire f pipe cost unit item).spilled = s.spilled := rfl
@[simp] theorem State.giveWork_harts (s : State) (c gid idx spire f pipe cost unit item : Nat) : (s.giveWork c gid idx spire f pipe cost unit item).harts = s.harts := rfl
@[simp] theorem State.giveWork_groups (s : State) (c gid idx spire f pipe cost unit item : Nat) : (s.giveWork c gid idx spire f pipe cost unit item).groups = s.groups := rfl
@[simp] theorem State.giveWork_kernels (s : State) (c gid idx spire f pipe cost unit item : Nat) : (s.giveWork c gid idx spire f pipe cost unit item).kernels = s.kernels := rfl
@[simp] theorem State.giveWork_ctxs (s : State) (c gid idx spire f pipe cost unit item : Nat) : (s.giveWork c gid idx spire f pipe cost unit item).ctxs = s.ctxs := rfl
@[simp] theorem State.giveWork_nextGroup (s : State) (c gid idx spire f pipe cost unit item : Nat) : (s.giveWork c gid idx spire f pipe cost unit item).nextGroup = s.nextGroup := rfl
@[simp] theorem State.giveWork_nextKernel (s : State) (c gid idx spire f pipe cost unit item : Nat) : (s.giveWork c gid idx spire f pipe cost unit item).nextKernel = s.nextKernel := rfl
@[simp] theorem State.giveWork_acc (s : State) (c gid idx spire f pipe cost unit item : Nat) : (s.giveWork c gid idx spire f pipe cost unit item).acc = s.acc := rfl
@[simp] theorem State.giveWork_accLevel (s : State) (c gid idx spire f pipe cost unit item : Nat) : (s.giveWork c gid idx spire f pipe cost unit item).accLevel = s.accLevel := rfl
@[simp] theorem State.giveWork_banks (s : State) (c gid idx spire f pipe cost unit item : Nat) : (s.giveWork c gid idx spire f pipe cost unit item).banks = s.banks := rfl
@[simp] theorem State.giveWork_bankSel (s : State) (c gid idx spire f pipe cost unit item : Nat) : (s.giveWork c gid idx spire f pipe cost unit item).bankSel = s.bankSel := rfl
@[simp] theorem State.giveWork_streams (s : State) (c gid idx spire f pipe cost unit item : Nat) : (s.giveWork c gid idx spire f pipe cost unit item).streams = s.streams := rfl
@[simp] theorem State.giveWork_copies (s : State) (c gid idx spire f pipe cost unit item : Nat) : (s.giveWork c gid idx spire f pipe cost unit item).copies = s.copies := rfl
@[simp] theorem State.giveWork_slots (s : State) (c gid idx spire f pipe cost unit item : Nat) : (s.giveWork c gid idx spire f pipe cost unit item).slots = s.slots := rfl
@[simp] theorem State.giveWork_subs (s : State) (c gid idx spire f pipe cost unit item : Nat) : (s.giveWork c gid idx spire f pipe cost unit item).subs = s.subs := rfl
@[simp] theorem State.giveWork_hseq (s : State) (c gid idx spire f pipe cost unit item : Nat) : (s.giveWork c gid idx spire f pipe cost unit item).hseq = s.hseq := rfl
@[simp] theorem State.giveWork_messages (s : State) (c gid idx spire f pipe cost unit item : Nat) : (s.giveWork c gid idx spire f pipe cost unit item).messages = s.messages := rfl
@[simp] theorem State.giveWork_slotRequests (s : State) (c gid idx spire f pipe cost unit item : Nat) : (s.giveWork c gid idx spire f pipe cost unit item).slotRequests = s.slotRequests := rfl
@[simp] theorem State.giveWork_homeq (s : State) (c gid idx spire f pipe cost unit item : Nat) : (s.giveWork c gid idx spire f pipe cost unit item).homeq = s.homeq := rfl
@[simp] theorem State.giveWork_tlb (s : State) (c gid idx spire f pipe cost unit item : Nat) : (s.giveWork c gid idx spire f pipe cost unit item).tlb = s.tlb := rfl
@[simp] theorem State.giveWork_mtlb (s : State) (c gid idx spire f pipe cost unit item : Nat) : (s.giveWork c gid idx spire f pipe cost unit item).mtlb = s.mtlb := rfl
@[simp] theorem State.giveWork_issuing (s : State) (c gid idx spire f pipe cost unit item : Nat) : (s.giveWork c gid idx spire f pipe cost unit item).issuing = s.issuing := rfl
@[simp] theorem State.giveWork_pipeBusy (s : State) (c gid idx spire f pipe cost unit item : Nat) : (s.giveWork c gid idx spire f pipe cost unit item).pipeBusy = s.pipeBusy := rfl
@[simp] theorem State.giveWork_deficits (s : State) (c gid idx spire f pipe cost unit item : Nat) : (s.giveWork c gid idx spire f pipe cost unit item).deficits = s.deficits := rfl
@[simp] theorem State.giveWork_lastGrant (s : State) (c gid idx spire f pipe cost unit item : Nat) : (s.giveWork c gid idx spire f pipe cost unit item).lastGrant = s.lastGrant := rfl
@[simp] theorem State.giveWork_ticket (s : State) (c gid idx spire f pipe cost unit item : Nat) : (s.giveWork c gid idx spire f pipe cost unit item).ticket = s.ticket := rfl
@[simp] theorem State.giveWork_blocked (s : State) (c gid idx spire f pipe cost unit item : Nat) : (s.giveWork c gid idx spire f pipe cost unit item).blocked = s.blocked := rfl
@[simp] theorem State.giveWork_links (s : State) (c gid idx spire f pipe cost unit item : Nat) : (s.giveWork c gid idx spire f pipe cost unit item).links = s.links := rfl
@[simp] theorem State.giveWork_held (s : State) (c gid idx spire f pipe cost unit item : Nat) : (s.giveWork c gid idx spire f pipe cost unit item).held = s.held := rfl
@[simp] theorem State.giveWork_notices (s : State) (c gid idx spire f pipe cost unit item : Nat) : (s.giveWork c gid idx spire f pipe cost unit item).notices = s.notices := rfl
@[simp] theorem State.giveWork_traces (s : State) (c gid idx spire f pipe cost unit item : Nat) : (s.giveWork c gid idx spire f pipe cost unit item).traces = s.traces := rfl
@[simp] theorem State.giveWork_dclk (s : State) (c gid idx spire f pipe cost unit item : Nat) : (s.giveWork c gid idx spire f pipe cost unit item).dclk = s.dclk := rfl
@[simp] theorem State.giveWork_status (s : State) (c gid idx spire f pipe cost unit item : Nat) : (s.giveWork c gid idx spire f pipe cost unit item).status = s.status := rfl
@[simp] theorem State.giveWork_step (s : State) (c gid idx spire f pipe cost unit item : Nat) : (s.giveWork c gid idx spire f pipe cost unit item).step = s.step := rfl
@[simp] theorem State.giveWork_fcode (s : State) (c gid idx spire f pipe cost unit item : Nat) : (s.giveWork c gid idx spire f pipe cost unit item).fcode = s.fcode := rfl
@[simp] theorem State.giveWork_devf (s : State) (c gid idx spire f pipe cost unit item : Nat) : (s.giveWork c gid idx spire f pipe cost unit item).devf = s.devf := rfl
@[simp] theorem State.giveWork_limiting (s : State) (c gid idx spire f pipe cost unit item : Nat) : (s.giveWork c gid idx spire f pipe cost unit item).limiting = s.limiting := rfl
@[simp] theorem State.giveWork_belowFor (s : State) (c gid idx spire f pipe cost unit item : Nat) : (s.giveWork c gid idx spire f pipe cost unit item).belowFor = s.belowFor := rfl
@[simp] theorem State.giveWork_withhold (s : State) (c gid idx spire f pipe cost unit item : Nat) : (s.giveWork c gid idx spire f pipe cost unit item).withhold = s.withhold := rfl
@[simp] theorem State.giveWork_stopped (s : State) (c gid idx spire f pipe cost unit item : Nat) : (s.giveWork c gid idx spire f pipe cost unit item).stopped = s.stopped := rfl
@[simp] theorem State.giveWork_starts (s : State) (c gid idx spire f pipe cost unit item : Nat) : (s.giveWork c gid idx spire f pipe cost unit item).starts = s.starts := rfl
@[simp] theorem State.giveWork_flashOk (s : State) (c gid idx spire f pipe cost unit item : Nat) : (s.giveWork c gid idx spire f pipe cost unit item).flashOk = s.flashOk := rfl
@[simp] theorem State.giveWork_flash (s : State) (c gid idx spire f pipe cost unit item : Nat) : (s.giveWork c gid idx spire f pipe cost unit item).flash = s.flash := rfl
@[simp] theorem State.giveWork_booted (s : State) (c gid idx spire f pipe cost unit item : Nat) : (s.giveWork c gid idx spire f pipe cost unit item).booted = s.booted := rfl
@[simp] theorem State.giveWork_writingFlash (s : State) (c gid idx spire f pipe cost unit item : Nat) : (s.giveWork c gid idx spire f pipe cost unit item).writingFlash = s.writingFlash := rfl
@[simp] theorem State.giveWork_report (s : State) (c gid idx spire f pipe cost unit item : Nat) : (s.giveWork c gid idx spire f pipe cost unit item).report = s.report := rfl
@[simp] theorem State.giveWork_verifying (s : State) (c gid idx spire f pipe cost unit item : Nat) : (s.giveWork c gid idx spire f pipe cost unit item).verifying = s.verifying := rfl
@[simp] theorem State.giveWork_window (s : State) (c gid idx spire f pipe cost unit item : Nat) : (s.giveWork c gid idx spire f pipe cost unit item).window = s.window := rfl
@[simp] theorem State.giveWork_startRecord (s : State) (c gid idx spire f pipe cost unit item : Nat) : (s.giveWork c gid idx spire f pipe cost unit item).startRecord = s.startRecord := rfl
@[simp] theorem State.giveWork_fencedSpires (s : State) (c gid idx spire f pipe cost unit item : Nat) : (s.giveWork c gid idx spire f pipe cost unit item).fencedSpires = s.fencedSpires := rfl
@[simp] theorem State.giveWork_fencedShafts (s : State) (c gid idx spire f pipe cost unit item : Nat) : (s.giveWork c gid idx spire f pipe cost unit item).fencedShafts = s.fencedShafts := rfl
@[simp] theorem State.giveWork_fencedLinks (s : State) (c gid idx spire f pipe cost unit item : Nat) : (s.giveWork c gid idx spire f pipe cost unit item).fencedLinks = s.fencedLinks := rfl
@[simp] theorem State.giveWork_recoveries (s : State) (c gid idx spire f pipe cost unit item : Nat) : (s.giveWork c gid idx spire f pipe cost unit item).recoveries = s.recoveries := rfl
@[simp] theorem State.giveWork_attests (s : State) (c gid idx spire f pipe cost unit item : Nat) : (s.giveWork c gid idx spire f pipe cost unit item).attests = s.attests := rfl
@[simp] theorem State.giveWork_softErrors (s : State) (c gid idx spire f pipe cost unit item : Nat) : (s.giveWork c gid idx spire f pipe cost unit item).softErrors = s.softErrors := rfl
@[simp] theorem State.giveWork_softLast (s : State) (c gid idx spire f pipe cost unit item : Nat) : (s.giveWork c gid idx spire f pipe cost unit item).softLast = s.softLast := rfl
@[simp] theorem State.giveWork_capGen (s : State) (c gid idx spire f pipe cost unit item : Nat) : (s.giveWork c gid idx spire f pipe cost unit item).capGen = s.capGen := rfl
@[simp] theorem State.giveWork_mqBase (s : State) (c gid idx spire f pipe cost unit item : Nat) : (s.giveWork c gid idx spire f pipe cost unit item).mqBase = s.mqBase := rfl
@[simp] theorem State.giveWork_mqCfg (s : State) (c gid idx spire f pipe cost unit item : Nat) : (s.giveWork c gid idx spire f pipe cost unit item).mqCfg = s.mqCfg := rfl
@[simp] theorem State.giveWork_mqWp (s : State) (c gid idx spire f pipe cost unit item : Nat) : (s.giveWork c gid idx spire f pipe cost unit item).mqWp = s.mqWp := rfl
@[simp] theorem State.giveWork_mqRp (s : State) (c gid idx spire f pipe cost unit item : Nat) : (s.giveWork c gid idx spire f pipe cost unit item).mqRp = s.mqRp := rfl
@[simp] theorem State.giveWork_mqDone (s : State) (c gid idx spire f pipe cost unit item : Nat) : (s.giveWork c gid idx spire f pipe cost unit item).mqDone = s.mqDone := rfl
@[simp] theorem State.giveWork_mqErr (s : State) (c gid idx spire f pipe cost unit item : Nat) : (s.giveWork c gid idx spire f pipe cost unit item).mqErr = s.mqErr := rfl
@[simp] theorem State.giveWork_mqHalt (s : State) (c gid idx spire f pipe cost unit item : Nat) : (s.giveWork c gid idx spire f pipe cost unit item).mqHalt = s.mqHalt := rfl
@[simp] theorem State.giveWork_msix (s : State) (c gid idx spire f pipe cost unit item : Nat) : (s.giveWork c gid idx spire f pipe cost unit item).msix = s.msix := rfl
@[simp] theorem State.giveWork_cmds (s : State) (c gid idx spire f pipe cost unit item : Nat) : (s.giveWork c gid idx spire f pipe cost unit item).cmds = s.cmds := rfl
@[simp] theorem State.giveWork_journal (s : State) (c gid idx spire f pipe cost unit item : Nat) : (s.giveWork c gid idx spire f pipe cost unit item).journal = s.journal := rfl
@[simp] theorem State.giveWork_jnext (s : State) (c gid idx spire f pipe cost unit item : Nat) : (s.giveWork c gid idx spire f pipe cost unit item).jnext = s.jnext := rfl
@[simp] theorem State.giveWork_lsImages (s : State) (c gid idx spire f pipe cost unit item : Nat) : (s.giveWork c gid idx spire f pipe cost unit item).lsImages = s.lsImages := rfl
@[simp] theorem State.giveWork_hostRead (s : State) (c gid idx spire f pipe cost unit item : Nat) : (s.giveWork c gid idx spire f pipe cost unit item).hostRead = s.hostRead := rfl
@[simp] theorem State.giveWork_stamp (s : State) (c gid idx spire f pipe cost unit item : Nat) : (s.giveWork c gid idx spire f pipe cost unit item).stamp = s.stamp := rfl
@[simp] theorem State.giveWork_clockDue (s : State) (c gid idx spire f pipe cost unit item : Nat) : (s.giveWork c gid idx spire f pipe cost unit item).clockDue = s.clockDue := rfl
@[simp] theorem State.giveWork_hartTurn (s : State) (c gid idx spire f pipe cost unit item : Nat) : (s.giveWork c gid idx spire f pipe cost unit item).hartTurn = s.hartTurn := rfl
@[simp] theorem State.giveWork_agenda (s : State) (c gid idx spire f pipe cost unit item : Nat) : (s.giveWork c gid idx spire f pipe cost unit item).agenda = s.agenda := rfl
@[simp] theorem State.giveWork_cur (s : State) (c gid idx spire f pipe cost unit item : Nat) : (s.giveWork c gid idx spire f pipe cost unit item).cur = s.cur := rfl

@[simp] theorem State.charge_mem (s : State) (c : Nat) (ports : List Nat) : (s.charge c ports).mem = s.mem := by
  unfold State.charge; split <;> rfl
@[simp] theorem State.charge_gtag (s : State) (c : Nat) (ports : List Nat) : (s.charge c ports).gtag = s.gtag := by
  unfold State.charge; split <;> rfl
@[simp] theorem State.charge_escaped (s : State) (c : Nat) (ports : List Nat) : (s.charge c ports).escaped = s.escaped := by
  unfold State.charge; split <;> rfl
@[simp] theorem State.charge_spilled (s : State) (c : Nat) (ports : List Nat) : (s.charge c ports).spilled = s.spilled := by
  unfold State.charge; split <;> rfl
@[simp] theorem State.charge_harts (s : State) (c : Nat) (ports : List Nat) : (s.charge c ports).harts = s.harts := by
  unfold State.charge; split <;> rfl
@[simp] theorem State.charge_groups (s : State) (c : Nat) (ports : List Nat) : (s.charge c ports).groups = s.groups := by
  unfold State.charge; split <;> rfl
@[simp] theorem State.charge_kernels (s : State) (c : Nat) (ports : List Nat) : (s.charge c ports).kernels = s.kernels := by
  unfold State.charge; split <;> rfl
@[simp] theorem State.charge_nextGroup (s : State) (c : Nat) (ports : List Nat) : (s.charge c ports).nextGroup = s.nextGroup := by
  unfold State.charge; split <;> rfl
@[simp] theorem State.charge_nextKernel (s : State) (c : Nat) (ports : List Nat) : (s.charge c ports).nextKernel = s.nextKernel := by
  unfold State.charge; split <;> rfl
@[simp] theorem State.charge_acc (s : State) (c : Nat) (ports : List Nat) : (s.charge c ports).acc = s.acc := by
  unfold State.charge; split <;> rfl
@[simp] theorem State.charge_accLevel (s : State) (c : Nat) (ports : List Nat) : (s.charge c ports).accLevel = s.accLevel := by
  unfold State.charge; split <;> rfl
@[simp] theorem State.charge_banks (s : State) (c : Nat) (ports : List Nat) : (s.charge c ports).banks = s.banks := by
  unfold State.charge; split <;> rfl
@[simp] theorem State.charge_bankSel (s : State) (c : Nat) (ports : List Nat) : (s.charge c ports).bankSel = s.bankSel := by
  unfold State.charge; split <;> rfl
@[simp] theorem State.charge_streams (s : State) (c : Nat) (ports : List Nat) : (s.charge c ports).streams = s.streams := by
  unfold State.charge; split <;> rfl
@[simp] theorem State.charge_copies (s : State) (c : Nat) (ports : List Nat) : (s.charge c ports).copies = s.copies := by
  unfold State.charge; split <;> rfl
@[simp] theorem State.charge_slots (s : State) (c : Nat) (ports : List Nat) : (s.charge c ports).slots = s.slots := by
  unfold State.charge; split <;> rfl
@[simp] theorem State.charge_subs (s : State) (c : Nat) (ports : List Nat) : (s.charge c ports).subs = s.subs := by
  unfold State.charge; split <;> rfl
@[simp] theorem State.charge_hseq (s : State) (c : Nat) (ports : List Nat) : (s.charge c ports).hseq = s.hseq := by
  unfold State.charge; split <;> rfl
@[simp] theorem State.charge_messages (s : State) (c : Nat) (ports : List Nat) : (s.charge c ports).messages = s.messages := by
  unfold State.charge; split <;> rfl
@[simp] theorem State.charge_slotRequests (s : State) (c : Nat) (ports : List Nat) : (s.charge c ports).slotRequests = s.slotRequests := by
  unfold State.charge; split <;> rfl
@[simp] theorem State.charge_homeq (s : State) (c : Nat) (ports : List Nat) : (s.charge c ports).homeq = s.homeq := by
  unfold State.charge; split <;> rfl
@[simp] theorem State.charge_tlb (s : State) (c : Nat) (ports : List Nat) : (s.charge c ports).tlb = s.tlb := by
  unfold State.charge; split <;> rfl
@[simp] theorem State.charge_mtlb (s : State) (c : Nat) (ports : List Nat) : (s.charge c ports).mtlb = s.mtlb := by
  unfold State.charge; split <;> rfl
@[simp] theorem State.charge_issuing (s : State) (c : Nat) (ports : List Nat) : (s.charge c ports).issuing = s.issuing := by
  unfold State.charge; split <;> rfl
@[simp] theorem State.charge_pipeWork (s : State) (c : Nat) (ports : List Nat) : (s.charge c ports).pipeWork = s.pipeWork := by
  unfold State.charge; split <;> rfl
@[simp] theorem State.charge_pipeBusy (s : State) (c : Nat) (ports : List Nat) : (s.charge c ports).pipeBusy = s.pipeBusy := by
  unfold State.charge; split <;> rfl
@[simp] theorem State.charge_deficits (s : State) (c : Nat) (ports : List Nat) : (s.charge c ports).deficits = s.deficits := by
  unfold State.charge; split <;> rfl
@[simp] theorem State.charge_lastGrant (s : State) (c : Nat) (ports : List Nat) : (s.charge c ports).lastGrant = s.lastGrant := by
  unfold State.charge; split <;> rfl
@[simp] theorem State.charge_ticket (s : State) (c : Nat) (ports : List Nat) : (s.charge c ports).ticket = s.ticket := by
  unfold State.charge; split <;> rfl
@[simp] theorem State.charge_blocked (s : State) (c : Nat) (ports : List Nat) : (s.charge c ports).blocked = s.blocked := by
  unfold State.charge; split <;> rfl
@[simp] theorem State.charge_links (s : State) (c : Nat) (ports : List Nat) : (s.charge c ports).links = s.links := by
  unfold State.charge; split <;> rfl
@[simp] theorem State.charge_held (s : State) (c : Nat) (ports : List Nat) : (s.charge c ports).held = s.held := by
  unfold State.charge; split <;> rfl
@[simp] theorem State.charge_notices (s : State) (c : Nat) (ports : List Nat) : (s.charge c ports).notices = s.notices := by
  unfold State.charge; split <;> rfl
@[simp] theorem State.charge_traces (s : State) (c : Nat) (ports : List Nat) : (s.charge c ports).traces = s.traces := by
  unfold State.charge; split <;> rfl
@[simp] theorem State.charge_dclk (s : State) (c : Nat) (ports : List Nat) : (s.charge c ports).dclk = s.dclk := by
  unfold State.charge; split <;> rfl
@[simp] theorem State.charge_status (s : State) (c : Nat) (ports : List Nat) : (s.charge c ports).status = s.status := by
  unfold State.charge; split <;> rfl
@[simp] theorem State.charge_step (s : State) (c : Nat) (ports : List Nat) : (s.charge c ports).step = s.step := by
  unfold State.charge; split <;> rfl
@[simp] theorem State.charge_fcode (s : State) (c : Nat) (ports : List Nat) : (s.charge c ports).fcode = s.fcode := by
  unfold State.charge; split <;> rfl
@[simp] theorem State.charge_devf (s : State) (c : Nat) (ports : List Nat) : (s.charge c ports).devf = s.devf := by
  unfold State.charge; split <;> rfl
@[simp] theorem State.charge_limiting (s : State) (c : Nat) (ports : List Nat) : (s.charge c ports).limiting = s.limiting := by
  unfold State.charge; split <;> rfl
@[simp] theorem State.charge_belowFor (s : State) (c : Nat) (ports : List Nat) : (s.charge c ports).belowFor = s.belowFor := by
  unfold State.charge; split <;> rfl
@[simp] theorem State.charge_withhold (s : State) (c : Nat) (ports : List Nat) : (s.charge c ports).withhold = s.withhold := by
  unfold State.charge; split <;> rfl
@[simp] theorem State.charge_stopped (s : State) (c : Nat) (ports : List Nat) : (s.charge c ports).stopped = s.stopped := by
  unfold State.charge; split <;> rfl
@[simp] theorem State.charge_starts (s : State) (c : Nat) (ports : List Nat) : (s.charge c ports).starts = s.starts := by
  unfold State.charge; split <;> rfl
@[simp] theorem State.charge_flashOk (s : State) (c : Nat) (ports : List Nat) : (s.charge c ports).flashOk = s.flashOk := by
  unfold State.charge; split <;> rfl
@[simp] theorem State.charge_flash (s : State) (c : Nat) (ports : List Nat) : (s.charge c ports).flash = s.flash := by
  unfold State.charge; split <;> rfl
@[simp] theorem State.charge_booted (s : State) (c : Nat) (ports : List Nat) : (s.charge c ports).booted = s.booted := by
  unfold State.charge; split <;> rfl
@[simp] theorem State.charge_writingFlash (s : State) (c : Nat) (ports : List Nat) : (s.charge c ports).writingFlash = s.writingFlash := by
  unfold State.charge; split <;> rfl
@[simp] theorem State.charge_report (s : State) (c : Nat) (ports : List Nat) : (s.charge c ports).report = s.report := by
  unfold State.charge; split <;> rfl
@[simp] theorem State.charge_verifying (s : State) (c : Nat) (ports : List Nat) : (s.charge c ports).verifying = s.verifying := by
  unfold State.charge; split <;> rfl
@[simp] theorem State.charge_window (s : State) (c : Nat) (ports : List Nat) : (s.charge c ports).window = s.window := by
  unfold State.charge; split <;> rfl
@[simp] theorem State.charge_startRecord (s : State) (c : Nat) (ports : List Nat) : (s.charge c ports).startRecord = s.startRecord := by
  unfold State.charge; split <;> rfl
@[simp] theorem State.charge_fencedSpires (s : State) (c : Nat) (ports : List Nat) : (s.charge c ports).fencedSpires = s.fencedSpires := by
  unfold State.charge; split <;> rfl
@[simp] theorem State.charge_fencedShafts (s : State) (c : Nat) (ports : List Nat) : (s.charge c ports).fencedShafts = s.fencedShafts := by
  unfold State.charge; split <;> rfl
@[simp] theorem State.charge_fencedLinks (s : State) (c : Nat) (ports : List Nat) : (s.charge c ports).fencedLinks = s.fencedLinks := by
  unfold State.charge; split <;> rfl
@[simp] theorem State.charge_recoveries (s : State) (c : Nat) (ports : List Nat) : (s.charge c ports).recoveries = s.recoveries := by
  unfold State.charge; split <;> rfl
@[simp] theorem State.charge_attests (s : State) (c : Nat) (ports : List Nat) : (s.charge c ports).attests = s.attests := by
  unfold State.charge; split <;> rfl
@[simp] theorem State.charge_softErrors (s : State) (c : Nat) (ports : List Nat) : (s.charge c ports).softErrors = s.softErrors := by
  unfold State.charge; split <;> rfl
@[simp] theorem State.charge_softLast (s : State) (c : Nat) (ports : List Nat) : (s.charge c ports).softLast = s.softLast := by
  unfold State.charge; split <;> rfl
@[simp] theorem State.charge_capGen (s : State) (c : Nat) (ports : List Nat) : (s.charge c ports).capGen = s.capGen := by
  unfold State.charge; split <;> rfl
@[simp] theorem State.charge_mqBase (s : State) (c : Nat) (ports : List Nat) : (s.charge c ports).mqBase = s.mqBase := by
  unfold State.charge; split <;> rfl
@[simp] theorem State.charge_mqCfg (s : State) (c : Nat) (ports : List Nat) : (s.charge c ports).mqCfg = s.mqCfg := by
  unfold State.charge; split <;> rfl
@[simp] theorem State.charge_mqWp (s : State) (c : Nat) (ports : List Nat) : (s.charge c ports).mqWp = s.mqWp := by
  unfold State.charge; split <;> rfl
@[simp] theorem State.charge_mqRp (s : State) (c : Nat) (ports : List Nat) : (s.charge c ports).mqRp = s.mqRp := by
  unfold State.charge; split <;> rfl
@[simp] theorem State.charge_mqDone (s : State) (c : Nat) (ports : List Nat) : (s.charge c ports).mqDone = s.mqDone := by
  unfold State.charge; split <;> rfl
@[simp] theorem State.charge_mqErr (s : State) (c : Nat) (ports : List Nat) : (s.charge c ports).mqErr = s.mqErr := by
  unfold State.charge; split <;> rfl
@[simp] theorem State.charge_mqHalt (s : State) (c : Nat) (ports : List Nat) : (s.charge c ports).mqHalt = s.mqHalt := by
  unfold State.charge; split <;> rfl
@[simp] theorem State.charge_msix (s : State) (c : Nat) (ports : List Nat) : (s.charge c ports).msix = s.msix := by
  unfold State.charge; split <;> rfl
@[simp] theorem State.charge_cmds (s : State) (c : Nat) (ports : List Nat) : (s.charge c ports).cmds = s.cmds := by
  unfold State.charge; split <;> rfl
@[simp] theorem State.charge_journal (s : State) (c : Nat) (ports : List Nat) : (s.charge c ports).journal = s.journal := by
  unfold State.charge; split <;> rfl
@[simp] theorem State.charge_jnext (s : State) (c : Nat) (ports : List Nat) : (s.charge c ports).jnext = s.jnext := by
  unfold State.charge; split <;> rfl
@[simp] theorem State.charge_lsImages (s : State) (c : Nat) (ports : List Nat) : (s.charge c ports).lsImages = s.lsImages := by
  unfold State.charge; split <;> rfl
@[simp] theorem State.charge_hostRead (s : State) (c : Nat) (ports : List Nat) : (s.charge c ports).hostRead = s.hostRead := by
  unfold State.charge; split <;> rfl
@[simp] theorem State.charge_stamp (s : State) (c : Nat) (ports : List Nat) : (s.charge c ports).stamp = s.stamp := by
  unfold State.charge; split <;> rfl
@[simp] theorem State.charge_clockDue (s : State) (c : Nat) (ports : List Nat) : (s.charge c ports).clockDue = s.clockDue := by
  unfold State.charge; split <;> rfl
@[simp] theorem State.charge_hartTurn (s : State) (c : Nat) (ports : List Nat) : (s.charge c ports).hartTurn = s.hartTurn := by
  unfold State.charge; split <;> rfl
@[simp] theorem State.charge_agenda (s : State) (c : Nat) (ports : List Nat) : (s.charge c ports).agenda = s.agenda := by
  unfold State.charge; split <;> rfl
@[simp] theorem State.charge_cur (s : State) (c : Nat) (ports : List Nat) : (s.charge c ports).cur = s.cur := by
  unfold State.charge; split <;> rfl

@[simp] theorem Arch.setReg_pc (a : Arch) (r : Reg) (v : Word) : (a.setReg r v).pc = a.pc := by
  unfold Arch.setReg; split <;> rfl
@[simp] theorem Arch.setReg_level (a : Arch) (r : Reg) (v : Word) : (a.setReg r v).level = a.level := by
  unfold Arch.setReg; split <;> rfl
@[simp] theorem Arch.setReg_vl (a : Arch) (r : Reg) (v : Word) : (a.setReg r v).vl = a.vl := by
  unfold Arch.setReg; split <;> rfl
@[simp] theorem Arch.setReg_vspace (a : Arch) (r : Reg) (v : Word) : (a.setReg r v).vspace = a.vspace := by
  unfold Arch.setReg; split <;> rfl
@[simp] theorem Arch.setReg_shape (a : Arch) (r : Reg) (v : Word) : (a.setReg r v).shape = a.shape := by
  unfold Arch.setReg; split <;> rfl
@[simp] theorem Arch.setReg_xidx (a : Arch) (r : Reg) (v : Word) : (a.setReg r v).xidx = a.xidx := by
  unfold Arch.setReg; split <;> rfl
@[simp] theorem Arch.setReg_ftm (a : Arch) (r : Reg) (v : Word) : (a.setReg r v).ftm = a.ftm := by
  unfold Arch.setReg; split <;> rfl
@[simp] theorem Arch.setReg_ftmVl (a : Arch) (r : Reg) (v : Word) : (a.setReg r v).ftmVl = a.ftmVl := by
  unfold Arch.setReg; split <;> rfl
@[simp] theorem Arch.setReg_fflags (a : Arch) (r : Reg) (v : Word) : (a.setReg r v).fflags = a.fflags := by
  unfold Arch.setReg; split <;> rfl
@[simp] theorem Arch.setReg_hctl (a : Arch) (r : Reg) (v : Word) : (a.setReg r v).hctl = a.hctl := by
  unfold Arch.setReg; split <;> rfl
@[simp] theorem Arch.setReg_lq (a : Arch) (r : Reg) (v : Word) : (a.setReg r v).lq = a.lq := by
  unfold Arch.setReg; split <;> rfl
@[simp] theorem Arch.setReg_lc0 (a : Arch) (r : Reg) (v : Word) : (a.setReg r v).lc0 = a.lc0 := by
  unfold Arch.setReg; split <;> rfl
@[simp] theorem Arch.setReg_lc1 (a : Arch) (r : Reg) (v : Word) : (a.setReg r v).lc1 = a.lc1 := by
  unfold Arch.setReg; split <;> rfl
@[simp] theorem Arch.setReg_armed (a : Arch) (r : Reg) (v : Word) : (a.setReg r v).armed = a.armed := by
  unfold Arch.setReg; split <;> rfl
@[simp] theorem Arch.setReg_hinst (a : Arch) (r : Reg) (v : Word) : (a.setReg r v).hinst = a.hinst := by
  unfold Arch.setReg; split <;> rfl
@[simp] theorem Arch.setReg_v (a : Arch) (r : Reg) (v : Word) : (a.setReg r v).v = a.v := by
  unfold Arch.setReg; split <;> rfl
@[simp] theorem Arch.setReg_vtag (a : Arch) (r : Reg) (v : Word) : (a.setReg r v).vtag = a.vtag := by
  unfold Arch.setReg; split <;> rfl
@[simp] theorem Arch.setReg_extent (a : Arch) (r : Reg) (v : Word) : (a.setReg r v).extent = a.extent := by
  unfold Arch.setReg; split <;> rfl
@[simp] theorem Arch.setReg_m (a : Arch) (r : Reg) (v : Word) : (a.setReg r v).m = a.m := by
  unfold Arch.setReg; split <;> rfl
@[simp] theorem Arch.setReg_mf (a : Arch) (r : Reg) (v : Word) : (a.setReg r v).mf = a.mf := by
  unfold Arch.setReg; split <;> rfl
@[simp] theorem Arch.setReg_hk (a : Arch) (r : Reg) (v : Word) : (a.setReg r v).hk = a.hk := by
  unfold Arch.setReg; split <;> rfl
@[simp] theorem Arch.setReg_qb (a : Arch) (r : Reg) (v : Word) : (a.setReg r v).qb = a.qb := by
  unfold Arch.setReg; split <;> rfl
@[simp] theorem Arch.setReg_tcause (a : Arch) (r : Reg) (v : Word) : (a.setReg r v).tcause = a.tcause := by
  unfold Arch.setReg; split <;> rfl
@[simp] theorem Arch.setReg_tepc (a : Arch) (r : Reg) (v : Word) : (a.setReg r v).tepc = a.tepc := by
  unfold Arch.setReg; split <;> rfl
@[simp] theorem Arch.setReg_tspc (a : Arch) (r : Reg) (v : Word) : (a.setReg r v).tspc = a.tspc := by
  unfold Arch.setReg; split <;> rfl
@[simp] theorem Arch.setReg_taddr (a : Arch) (r : Reg) (v : Word) : (a.setReg r v).taddr = a.taddr := by
  unfold Arch.setReg; split <;> rfl
@[simp] theorem Arch.setReg_tidx (a : Arch) (r : Reg) (v : Word) : (a.setReg r v).tidx = a.tidx := by
  unfold Arch.setReg; split <;> rfl
@[simp] theorem Arch.setReg_ttag (a : Arch) (r : Reg) (v : Word) : (a.setReg r v).ttag = a.ttag := by
  unfold Arch.setReg; split <;> rfl
@[simp] theorem Arch.setReg_tsave (a : Arch) (r : Reg) (v : Word) : (a.setReg r v).tsave = a.tsave := by
  unfold Arch.setReg; split <;> rfl
@[simp] theorem Arch.setReg_tscr (a : Arch) (r : Reg) (v : Word) : (a.setReg r v).tscr = a.tscr := by
  unfold Arch.setReg; split <;> rfl

@[simp] theorem Arch.setMask_pc (a : Arch) (n v : Nat) : (a.setMask n v).pc = a.pc := rfl
@[simp] theorem Arch.setMask_level (a : Arch) (n v : Nat) : (a.setMask n v).level = a.level := rfl
@[simp] theorem Arch.setMask_s (a : Arch) (n v : Nat) : (a.setMask n v).s = a.s := rfl
@[simp] theorem Arch.setMask_vl (a : Arch) (n v : Nat) : (a.setMask n v).vl = a.vl := rfl
@[simp] theorem Arch.setMask_vspace (a : Arch) (n v : Nat) : (a.setMask n v).vspace = a.vspace := rfl
@[simp] theorem Arch.setMask_shape (a : Arch) (n v : Nat) : (a.setMask n v).shape = a.shape := rfl
@[simp] theorem Arch.setMask_xidx (a : Arch) (n v : Nat) : (a.setMask n v).xidx = a.xidx := rfl
@[simp] theorem Arch.setMask_ftm (a : Arch) (n v : Nat) : (a.setMask n v).ftm = a.ftm := rfl
@[simp] theorem Arch.setMask_ftmVl (a : Arch) (n v : Nat) : (a.setMask n v).ftmVl = a.ftmVl := rfl
@[simp] theorem Arch.setMask_fflags (a : Arch) (n v : Nat) : (a.setMask n v).fflags = a.fflags := rfl
@[simp] theorem Arch.setMask_hctl (a : Arch) (n v : Nat) : (a.setMask n v).hctl = a.hctl := rfl
@[simp] theorem Arch.setMask_lq (a : Arch) (n v : Nat) : (a.setMask n v).lq = a.lq := rfl
@[simp] theorem Arch.setMask_lc0 (a : Arch) (n v : Nat) : (a.setMask n v).lc0 = a.lc0 := rfl
@[simp] theorem Arch.setMask_lc1 (a : Arch) (n v : Nat) : (a.setMask n v).lc1 = a.lc1 := rfl
@[simp] theorem Arch.setMask_armed (a : Arch) (n v : Nat) : (a.setMask n v).armed = a.armed := rfl
@[simp] theorem Arch.setMask_hinst (a : Arch) (n v : Nat) : (a.setMask n v).hinst = a.hinst := rfl
@[simp] theorem Arch.setMask_v (a : Arch) (n v : Nat) : (a.setMask n v).v = a.v := rfl
@[simp] theorem Arch.setMask_vtag (a : Arch) (n v : Nat) : (a.setMask n v).vtag = a.vtag := rfl
@[simp] theorem Arch.setMask_extent (a : Arch) (n v : Nat) : (a.setMask n v).extent = a.extent := rfl
@[simp] theorem Arch.setMask_mf (a : Arch) (n v : Nat) : (a.setMask n v).mf = a.mf := rfl
@[simp] theorem Arch.setMask_hk (a : Arch) (n v : Nat) : (a.setMask n v).hk = a.hk := rfl
@[simp] theorem Arch.setMask_qb (a : Arch) (n v : Nat) : (a.setMask n v).qb = a.qb := rfl
@[simp] theorem Arch.setMask_tcause (a : Arch) (n v : Nat) : (a.setMask n v).tcause = a.tcause := rfl
@[simp] theorem Arch.setMask_tepc (a : Arch) (n v : Nat) : (a.setMask n v).tepc = a.tepc := rfl
@[simp] theorem Arch.setMask_tspc (a : Arch) (n v : Nat) : (a.setMask n v).tspc = a.tspc := rfl
@[simp] theorem Arch.setMask_taddr (a : Arch) (n v : Nat) : (a.setMask n v).taddr = a.taddr := rfl
@[simp] theorem Arch.setMask_tidx (a : Arch) (n v : Nat) : (a.setMask n v).tidx = a.tidx := rfl
@[simp] theorem Arch.setMask_ttag (a : Arch) (n v : Nat) : (a.setMask n v).ttag = a.ttag := rfl
@[simp] theorem Arch.setMask_tsave (a : Arch) (n v : Nat) : (a.setMask n v).tsave = a.tsave := rfl
@[simp] theorem Arch.setMask_tscr (a : Arch) (n v : Nat) : (a.setMask n v).tscr = a.tscr := rfl

@[simp] theorem Arch.addFlags_pc (a : Arch) (f : Flags) : (a.addFlags f).pc = a.pc := rfl
@[simp] theorem Arch.addFlags_level (a : Arch) (f : Flags) : (a.addFlags f).level = a.level := rfl
@[simp] theorem Arch.addFlags_s (a : Arch) (f : Flags) : (a.addFlags f).s = a.s := rfl
@[simp] theorem Arch.addFlags_vl (a : Arch) (f : Flags) : (a.addFlags f).vl = a.vl := rfl
@[simp] theorem Arch.addFlags_vspace (a : Arch) (f : Flags) : (a.addFlags f).vspace = a.vspace := rfl
@[simp] theorem Arch.addFlags_shape (a : Arch) (f : Flags) : (a.addFlags f).shape = a.shape := rfl
@[simp] theorem Arch.addFlags_xidx (a : Arch) (f : Flags) : (a.addFlags f).xidx = a.xidx := rfl
@[simp] theorem Arch.addFlags_ftm (a : Arch) (f : Flags) : (a.addFlags f).ftm = a.ftm := rfl
@[simp] theorem Arch.addFlags_ftmVl (a : Arch) (f : Flags) : (a.addFlags f).ftmVl = a.ftmVl := rfl
@[simp] theorem Arch.addFlags_hctl (a : Arch) (f : Flags) : (a.addFlags f).hctl = a.hctl := rfl
@[simp] theorem Arch.addFlags_lq (a : Arch) (f : Flags) : (a.addFlags f).lq = a.lq := rfl
@[simp] theorem Arch.addFlags_lc0 (a : Arch) (f : Flags) : (a.addFlags f).lc0 = a.lc0 := rfl
@[simp] theorem Arch.addFlags_lc1 (a : Arch) (f : Flags) : (a.addFlags f).lc1 = a.lc1 := rfl
@[simp] theorem Arch.addFlags_armed (a : Arch) (f : Flags) : (a.addFlags f).armed = a.armed := rfl
@[simp] theorem Arch.addFlags_hinst (a : Arch) (f : Flags) : (a.addFlags f).hinst = a.hinst := rfl
@[simp] theorem Arch.addFlags_v (a : Arch) (f : Flags) : (a.addFlags f).v = a.v := rfl
@[simp] theorem Arch.addFlags_vtag (a : Arch) (f : Flags) : (a.addFlags f).vtag = a.vtag := rfl
@[simp] theorem Arch.addFlags_extent (a : Arch) (f : Flags) : (a.addFlags f).extent = a.extent := rfl
@[simp] theorem Arch.addFlags_m (a : Arch) (f : Flags) : (a.addFlags f).m = a.m := rfl
@[simp] theorem Arch.addFlags_mf (a : Arch) (f : Flags) : (a.addFlags f).mf = a.mf := rfl
@[simp] theorem Arch.addFlags_hk (a : Arch) (f : Flags) : (a.addFlags f).hk = a.hk := rfl
@[simp] theorem Arch.addFlags_qb (a : Arch) (f : Flags) : (a.addFlags f).qb = a.qb := rfl
@[simp] theorem Arch.addFlags_tcause (a : Arch) (f : Flags) : (a.addFlags f).tcause = a.tcause := rfl
@[simp] theorem Arch.addFlags_tepc (a : Arch) (f : Flags) : (a.addFlags f).tepc = a.tepc := rfl
@[simp] theorem Arch.addFlags_tspc (a : Arch) (f : Flags) : (a.addFlags f).tspc = a.tspc := rfl
@[simp] theorem Arch.addFlags_taddr (a : Arch) (f : Flags) : (a.addFlags f).taddr = a.taddr := rfl
@[simp] theorem Arch.addFlags_tidx (a : Arch) (f : Flags) : (a.addFlags f).tidx = a.tidx := rfl
@[simp] theorem Arch.addFlags_ttag (a : Arch) (f : Flags) : (a.addFlags f).ttag = a.ttag := rfl
@[simp] theorem Arch.addFlags_tsave (a : Arch) (f : Flags) : (a.addFlags f).tsave = a.tsave := rfl
@[simp] theorem Arch.addFlags_tscr (a : Arch) (f : Flags) : (a.addFlags f).tscr = a.tscr := rfl

@[simp] theorem Arch.setTag_pc (a : Arch) (r : Nat) (t : Tag) (d : Nat) : (a.setTag r t d).pc = a.pc := rfl
@[simp] theorem Arch.setTag_level (a : Arch) (r : Nat) (t : Tag) (d : Nat) : (a.setTag r t d).level = a.level := rfl
@[simp] theorem Arch.setTag_s (a : Arch) (r : Nat) (t : Tag) (d : Nat) : (a.setTag r t d).s = a.s := rfl
@[simp] theorem Arch.setTag_vl (a : Arch) (r : Nat) (t : Tag) (d : Nat) : (a.setTag r t d).vl = a.vl := rfl
@[simp] theorem Arch.setTag_vspace (a : Arch) (r : Nat) (t : Tag) (d : Nat) : (a.setTag r t d).vspace = a.vspace := rfl
@[simp] theorem Arch.setTag_shape (a : Arch) (r : Nat) (t : Tag) (d : Nat) : (a.setTag r t d).shape = a.shape := rfl
@[simp] theorem Arch.setTag_xidx (a : Arch) (r : Nat) (t : Tag) (d : Nat) : (a.setTag r t d).xidx = a.xidx := rfl
@[simp] theorem Arch.setTag_ftm (a : Arch) (r : Nat) (t : Tag) (d : Nat) : (a.setTag r t d).ftm = a.ftm := rfl
@[simp] theorem Arch.setTag_ftmVl (a : Arch) (r : Nat) (t : Tag) (d : Nat) : (a.setTag r t d).ftmVl = a.ftmVl := rfl
@[simp] theorem Arch.setTag_fflags (a : Arch) (r : Nat) (t : Tag) (d : Nat) : (a.setTag r t d).fflags = a.fflags := rfl
@[simp] theorem Arch.setTag_hctl (a : Arch) (r : Nat) (t : Tag) (d : Nat) : (a.setTag r t d).hctl = a.hctl := rfl
@[simp] theorem Arch.setTag_lq (a : Arch) (r : Nat) (t : Tag) (d : Nat) : (a.setTag r t d).lq = a.lq := rfl
@[simp] theorem Arch.setTag_lc0 (a : Arch) (r : Nat) (t : Tag) (d : Nat) : (a.setTag r t d).lc0 = a.lc0 := rfl
@[simp] theorem Arch.setTag_lc1 (a : Arch) (r : Nat) (t : Tag) (d : Nat) : (a.setTag r t d).lc1 = a.lc1 := rfl
@[simp] theorem Arch.setTag_armed (a : Arch) (r : Nat) (t : Tag) (d : Nat) : (a.setTag r t d).armed = a.armed := rfl
@[simp] theorem Arch.setTag_hinst (a : Arch) (r : Nat) (t : Tag) (d : Nat) : (a.setTag r t d).hinst = a.hinst := rfl
@[simp] theorem Arch.setTag_v (a : Arch) (r : Nat) (t : Tag) (d : Nat) : (a.setTag r t d).v = a.v := rfl
@[simp] theorem Arch.setTag_extent (a : Arch) (r : Nat) (t : Tag) (d : Nat) : (a.setTag r t d).extent = a.extent := rfl
@[simp] theorem Arch.setTag_m (a : Arch) (r : Nat) (t : Tag) (d : Nat) : (a.setTag r t d).m = a.m := rfl
@[simp] theorem Arch.setTag_mf (a : Arch) (r : Nat) (t : Tag) (d : Nat) : (a.setTag r t d).mf = a.mf := rfl
@[simp] theorem Arch.setTag_hk (a : Arch) (r : Nat) (t : Tag) (d : Nat) : (a.setTag r t d).hk = a.hk := rfl
@[simp] theorem Arch.setTag_qb (a : Arch) (r : Nat) (t : Tag) (d : Nat) : (a.setTag r t d).qb = a.qb := rfl
@[simp] theorem Arch.setTag_tcause (a : Arch) (r : Nat) (t : Tag) (d : Nat) : (a.setTag r t d).tcause = a.tcause := rfl
@[simp] theorem Arch.setTag_tepc (a : Arch) (r : Nat) (t : Tag) (d : Nat) : (a.setTag r t d).tepc = a.tepc := rfl
@[simp] theorem Arch.setTag_tspc (a : Arch) (r : Nat) (t : Tag) (d : Nat) : (a.setTag r t d).tspc = a.tspc := rfl
@[simp] theorem Arch.setTag_taddr (a : Arch) (r : Nat) (t : Tag) (d : Nat) : (a.setTag r t d).taddr = a.taddr := rfl
@[simp] theorem Arch.setTag_tidx (a : Arch) (r : Nat) (t : Tag) (d : Nat) : (a.setTag r t d).tidx = a.tidx := rfl
@[simp] theorem Arch.setTag_ttag (a : Arch) (r : Nat) (t : Tag) (d : Nat) : (a.setTag r t d).ttag = a.ttag := rfl
@[simp] theorem Arch.setTag_tsave (a : Arch) (r : Nat) (t : Tag) (d : Nat) : (a.setTag r t d).tsave = a.tsave := rfl
@[simp] theorem Arch.setTag_tscr (a : Arch) (r : Nat) (t : Tag) (d : Nat) : (a.setTag r t d).tscr = a.tscr := rfl

@[simp] theorem Arch.setCodes_pc (a : Arch) (r : Nat) (t : Tag) (d : Nat) (l : List (Option Nat)) : (a.setCodes r t d l).pc = a.pc := rfl
@[simp] theorem Arch.setCodes_level (a : Arch) (r : Nat) (t : Tag) (d : Nat) (l : List (Option Nat)) : (a.setCodes r t d l).level = a.level := rfl
@[simp] theorem Arch.setCodes_s (a : Arch) (r : Nat) (t : Tag) (d : Nat) (l : List (Option Nat)) : (a.setCodes r t d l).s = a.s := rfl
@[simp] theorem Arch.setCodes_vl (a : Arch) (r : Nat) (t : Tag) (d : Nat) (l : List (Option Nat)) : (a.setCodes r t d l).vl = a.vl := rfl
@[simp] theorem Arch.setCodes_vspace (a : Arch) (r : Nat) (t : Tag) (d : Nat) (l : List (Option Nat)) : (a.setCodes r t d l).vspace = a.vspace := rfl
@[simp] theorem Arch.setCodes_shape (a : Arch) (r : Nat) (t : Tag) (d : Nat) (l : List (Option Nat)) : (a.setCodes r t d l).shape = a.shape := rfl
@[simp] theorem Arch.setCodes_xidx (a : Arch) (r : Nat) (t : Tag) (d : Nat) (l : List (Option Nat)) : (a.setCodes r t d l).xidx = a.xidx := rfl
@[simp] theorem Arch.setCodes_ftm (a : Arch) (r : Nat) (t : Tag) (d : Nat) (l : List (Option Nat)) : (a.setCodes r t d l).ftm = a.ftm := rfl
@[simp] theorem Arch.setCodes_ftmVl (a : Arch) (r : Nat) (t : Tag) (d : Nat) (l : List (Option Nat)) : (a.setCodes r t d l).ftmVl = a.ftmVl := rfl
@[simp] theorem Arch.setCodes_fflags (a : Arch) (r : Nat) (t : Tag) (d : Nat) (l : List (Option Nat)) : (a.setCodes r t d l).fflags = a.fflags := rfl
@[simp] theorem Arch.setCodes_hctl (a : Arch) (r : Nat) (t : Tag) (d : Nat) (l : List (Option Nat)) : (a.setCodes r t d l).hctl = a.hctl := rfl
@[simp] theorem Arch.setCodes_lq (a : Arch) (r : Nat) (t : Tag) (d : Nat) (l : List (Option Nat)) : (a.setCodes r t d l).lq = a.lq := rfl
@[simp] theorem Arch.setCodes_lc0 (a : Arch) (r : Nat) (t : Tag) (d : Nat) (l : List (Option Nat)) : (a.setCodes r t d l).lc0 = a.lc0 := rfl
@[simp] theorem Arch.setCodes_lc1 (a : Arch) (r : Nat) (t : Tag) (d : Nat) (l : List (Option Nat)) : (a.setCodes r t d l).lc1 = a.lc1 := rfl
@[simp] theorem Arch.setCodes_armed (a : Arch) (r : Nat) (t : Tag) (d : Nat) (l : List (Option Nat)) : (a.setCodes r t d l).armed = a.armed := rfl
@[simp] theorem Arch.setCodes_hinst (a : Arch) (r : Nat) (t : Tag) (d : Nat) (l : List (Option Nat)) : (a.setCodes r t d l).hinst = a.hinst := rfl
@[simp] theorem Arch.setCodes_m (a : Arch) (r : Nat) (t : Tag) (d : Nat) (l : List (Option Nat)) : (a.setCodes r t d l).m = a.m := rfl
@[simp] theorem Arch.setCodes_mf (a : Arch) (r : Nat) (t : Tag) (d : Nat) (l : List (Option Nat)) : (a.setCodes r t d l).mf = a.mf := rfl
@[simp] theorem Arch.setCodes_hk (a : Arch) (r : Nat) (t : Tag) (d : Nat) (l : List (Option Nat)) : (a.setCodes r t d l).hk = a.hk := rfl
@[simp] theorem Arch.setCodes_qb (a : Arch) (r : Nat) (t : Tag) (d : Nat) (l : List (Option Nat)) : (a.setCodes r t d l).qb = a.qb := rfl
@[simp] theorem Arch.setCodes_tcause (a : Arch) (r : Nat) (t : Tag) (d : Nat) (l : List (Option Nat)) : (a.setCodes r t d l).tcause = a.tcause := rfl
@[simp] theorem Arch.setCodes_tepc (a : Arch) (r : Nat) (t : Tag) (d : Nat) (l : List (Option Nat)) : (a.setCodes r t d l).tepc = a.tepc := rfl
@[simp] theorem Arch.setCodes_tspc (a : Arch) (r : Nat) (t : Tag) (d : Nat) (l : List (Option Nat)) : (a.setCodes r t d l).tspc = a.tspc := rfl
@[simp] theorem Arch.setCodes_taddr (a : Arch) (r : Nat) (t : Tag) (d : Nat) (l : List (Option Nat)) : (a.setCodes r t d l).taddr = a.taddr := rfl
@[simp] theorem Arch.setCodes_tidx (a : Arch) (r : Nat) (t : Tag) (d : Nat) (l : List (Option Nat)) : (a.setCodes r t d l).tidx = a.tidx := rfl
@[simp] theorem Arch.setCodes_ttag (a : Arch) (r : Nat) (t : Tag) (d : Nat) (l : List (Option Nat)) : (a.setCodes r t d l).ttag = a.ttag := rfl
@[simp] theorem Arch.setCodes_tsave (a : Arch) (r : Nat) (t : Tag) (d : Nat) (l : List (Option Nat)) : (a.setCodes r t d l).tsave = a.tsave := rfl
@[simp] theorem Arch.setCodes_tscr (a : Arch) (r : Nat) (t : Tag) (d : Nat) (l : List (Option Nat)) : (a.setCodes r t d l).tscr = a.tscr := rfl

/-- A read of a scalar register after a write (R35). -/
theorem Arch.reg_setReg (a : Arch) (r d : Reg) (v : Word) :
    (a.setReg d v).reg r = if r = d ∧ r ≠ 0 then v else a.reg r := by
  unfold Arch.setReg Arch.reg
  by_cases hr : r = 0
  · simp [hr]
  · by_cases hd : d = 0
    · simp [hd]
    · simp only [hr, hd, if_false, ne_eq, not_false_eq_true, and_true]
      by_cases e : r = d
      · subst e
        simp
      · rw [if_neg e]
        exact Store.get_set_other 0 a.s v (fun x => e (BitVec.eq_of_toNat_eq x))

@[simp] theorem Arch.reg_zero (a : Arch) : a.reg 0 = 0 := rfl

@[simp] theorem Arch.setReg_zero (a : Arch) (v : Word) : a.setReg 0 v = a := rfl

@[simp] theorem State.hart_setHart_same (s : State) (k : Nat) (h : Hart) : (s.setHart k h).hart k = some h :=
  Store.find_insert_same s.harts k h

theorem State.hart_setHart_other (s : State) {j k : Nat} (h : Hart) (hj : j ≠ k) : (s.setHart k h).hart j = s.hart j :=
  Store.find_insert_other s.harts h hj

@[simp] theorem State.byte_setHart (s : State) (k : Nat) (h : Hart) (a : Nat) : (s.setHart k h).byte a = s.byte a := rfl

@[simp] theorem State.byte_giveWork (s : State) (c gid idx spire f pipe cost unit item a : Nat) :
    (s.giveWork c gid idx spire f pipe cost unit item).byte a = s.byte a := rfl

@[simp] theorem State.hart_giveWork (s : State) (c gid idx spire f pipe cost unit item j : Nat) :
    (s.giveWork c gid idx spire f pipe cost unit item).hart j = s.hart j := rfl

@[simp] theorem State.byte_charge (s : State) (c : Nat) (ports : List Nat) (a : Nat) : (s.charge c ports).byte a = s.byte a := by
  simp [State.byte]

@[simp] theorem State.hart_charge (s : State) (c : Nat) (ports : List Nat) (j : Nat) : (s.charge c ports).hart j = s.hart j := by
  simp [State.hart]

/-- A context without limits is charged nothing (R99). -/
theorem State.charge_free {s : State} {c : Nat} (ports : List Nat) (free : (s.ctx c).buckets = []) : s.charge c ports = s := by
  simp [State.charge, free]

/-- A context without limits waits at no port (R99). -/
theorem State.portWait_free {s : State} {c : Nat} (ports : List Nat) (free : (s.ctx c).buckets = []) : s.portWait c ports = false := by
  simp [State.portWait, Ctx.portWait, free]

end Sys2Proof.Machine
end

