-- ==== Sys2Proof/Laws/Memory.lean ====
section
/-! SUPPORT. What the operations of memory can do: the bytes that a write changes, and the fields that stay. -/

namespace Sys2Proof.Machine

@[simp] theorem State.byte_setByte_same (s : State) (k : Nat) (b : Byte) : (s.setByte k b).byte k = b := by
  simp [State.byte, State.setByte]

theorem State.byte_setByte_other (s : State) {j k : Nat} (b : Byte) (h : j ≠ k) : (s.setByte k b).byte j = s.byte j :=
  Store.get_set_other Memory.fill s.mem b h

/-- A write of bytes at consecutive keys changes memory alone. -/
theorem State.setBytes_frame (s : State) (k : Nat) (l : List Byte) : s.setBytes k l = { s with mem := (s.setBytes k l).mem } := by
  induction l generalizing s k with
  | nil => rfl
  | cons b t ih => exact ih (s.setByte k b) (k + 1)

/-- Bytes outside the keys written stay (R15). -/
theorem State.byte_setBytes_outside (s : State) (k a : Nat) (l : List Byte) (h : a < k ∨ k + l.length ≤ a) :
    (s.setBytes k l).byte a = s.byte a := by
  induction l generalizing s k with
  | nil => rfl
  | cons b t ih =>
    simp only [List.length_cons] at h
    rw [State.setBytes, ih _ _ (by omega)]
    exact s.byte_setByte_other b (by omega)

/-- Byte i of the bytes written. -/
theorem State.byte_setBytes_inside (s : State) (k i : Nat) (l : List Byte) (h : i < l.length) :
    (s.setBytes k l).byte (k + i) = l[i] := by
  induction l generalizing s k i with
  | nil => simp at h
  | cons b t ih =>
    rw [State.setBytes]
    cases i with
    | zero => rw [Nat.add_zero, State.byte_setBytes_outside _ _ _ _ (by omega)]; simp
    | succ i =>
      have := ih (s.setByte k b) (k + 1) i (by simpa using h)
      rw [show k + (i + 1) = k + 1 + i by omega, this]
      simp

/-- What writes make of the byte b at key a. -/
def written (ws : List ByteWrite) (a : Nat) (b : Byte) : Byte := ws.foldl (fun b w => if w.key = a then w.onto b else b) b

theorem State.byte_writeAll (s : State) (ws : List ByteWrite) (a : Nat) : (s.writeAll ws).byte a = written ws a (s.byte a) := by
  induction ws generalizing s with
  | nil => rfl
  | cons w t ih =>
    rw [State.writeAll, ih]
    unfold written
    rw [List.foldl_cons]
    split
    · subst_vars; simp
    · rw [s.byte_setByte_other _ (by omega)]

/-- A byte that no write names stays. -/
theorem written_none {ws : List ByteWrite} {a : Nat} (b : Byte) (h : ∀ w ∈ ws, w.key ≠ a) : written ws a b = b := by
  induction ws generalizing b with
  | nil => rfl
  | cons w t ih =>
    unfold written at ih ⊢
    rw [List.foldl_cons, if_neg (h w (by simp))]
    exact ih b fun x hx => h x (by simp [hx])

theorem State.writeAll_frame (s : State) (ws : List ByteWrite) : s.writeAll ws = { s with mem := (s.writeAll ws).mem } := by
  induction ws generalizing s with
  | nil => rfl
  | cons w t ih => exact ih (s.setByte w.key (w.onto (s.byte w.key)))

/-- Marking a granule changes tags and the exception tables alone. -/
theorem State.markGranule_frame (s : State) (m : GranuleMark) (g : Nat) :
    s.markGranule m g =
      { s with gtag := (s.markGranule m g).gtag, escaped := (s.markGranule m g).escaped, spilled := (s.markGranule m g).spilled } := by
  unfold State.markGranule
  dsimp only
  (repeat' split) <;> rfl

/-- Serving a line's subscribers changes HSEQ, the paths and the table alone. -/
theorem State.pushLine_frame (s : State) (ws : List ByteWrite) (l : Nat) :
    s.pushLine ws l =
      { s with hseq := (s.pushLine ws l).hseq, messages := (s.pushLine ws l).messages, subs := (s.pushLine ws l).subs } := by
  unfold State.pushLine
  dsimp only
  (repeat' split) <;> rfl

/-- What a step of homes may change besides bytes. -/
def State.Homes (s t : State) : Prop :=
  t = { s with gtag := t.gtag, escaped := t.escaped, spilled := t.spilled, hseq := t.hseq, messages := t.messages, subs := t.subs }

theorem State.Homes.refl (s : State) : s.Homes s := rfl

theorem State.Homes.trans {s t u : State} (h : s.Homes t) (g : t.Homes u) : s.Homes u := by
  unfold State.Homes at *
  rw [g, h]

theorem State.homes_markGranule (s : State) (m : GranuleMark) (g : Nat) : s.Homes (s.markGranule m g) := by
  unfold State.Homes
  rw [State.markGranule_frame]

theorem State.homes_pushLine (s : State) (ws : List ByteWrite) (l : Nat) : s.Homes (s.pushLine ws l) := by
  unfold State.Homes
  rw [State.pushLine_frame]

theorem State.homes_foldl {β : Type} (f : State → β → State) (hf : ∀ (s : State) (b : β), s.Homes (f s b)) (l : List β)
    (s : State) : s.Homes (l.foldl f s) := by
  induction l generalizing s with
  | nil => exact State.Homes.refl s
  | cons b t ih => exact (hf s b).trans (ih (f s b))

/-- A step of homes writes its bytes and changes nothing beyond granule tags and subscriptions. -/
theorem State.homes_perform (s : State) (m : GranuleMark) (ws : List ByteWrite) : (s.writeAll ws).Homes (s.perform m ws) := by
  unfold State.perform
  exact (State.homes_foldl _ (fun s g => s.homes_markGranule m g) _ _).trans
    (State.homes_foldl _ (fun s l => s.homes_pushLine ws l) _ _)

theorem State.perform_frame (s : State) (m : GranuleMark) (ws : List ByteWrite) :
    s.perform m ws = { s with
      mem := (s.writeAll ws).mem
      gtag := (s.perform m ws).gtag, escaped := (s.perform m ws).escaped, spilled := (s.perform m ws).spilled
      hseq := (s.perform m ws).hseq, messages := (s.perform m ws).messages, subs := (s.perform m ws).subs } := by
  have h := s.homes_perform m ws
  unfold State.Homes at h
  rw [s.writeAll_frame ws] at h
  exact h

@[simp] theorem State.perform_mem (s : State) (m : GranuleMark) (ws : List ByteWrite) : (s.perform m ws).mem = (s.writeAll ws).mem := by
  rw [State.perform_frame]

@[simp] theorem State.perform_harts (s : State) (m : GranuleMark) (ws : List ByteWrite) : (s.perform m ws).harts = s.harts := by
  rw [State.perform_frame]

@[simp] theorem State.perform_groups (s : State) (m : GranuleMark) (ws : List ByteWrite) : (s.perform m ws).groups = s.groups := by
  rw [State.perform_frame]

@[simp] theorem State.perform_ctxs (s : State) (m : GranuleMark) (ws : List ByteWrite) : (s.perform m ws).ctxs = s.ctxs := by
  rw [State.perform_frame]

@[simp] theorem State.perform_cur (s : State) (m : GranuleMark) (ws : List ByteWrite) : (s.perform m ws).cur = s.cur := by
  rw [State.perform_frame]

@[simp] theorem State.hart_perform (s : State) (m : GranuleMark) (ws : List ByteWrite) (k : Nat) :
    (s.perform m ws).hart k = s.hart k := by
  unfold State.hart; rw [State.perform_harts]

/-- The byte at a key after a step of homes. -/
theorem State.byte_perform (s : State) (m : GranuleMark) (ws : List ByteWrite) (a : Nat) :
    (s.perform m ws).byte a = written ws a (s.byte a) := by
  rw [← State.byte_writeAll]
  unfold State.byte
  rw [State.perform_mem]

/-- A device store changes memory, tags, subscriptions and the requests of links alone. -/
theorem State.deviceStore_harts {s t : State} {c : Nat} {va : Word} {bs : List Byte} (h : s.deviceStore c va bs = some t) :
    t.harts = s.harts := by
  unfold State.deviceStore at h
  obtain ⟨ps, -, rfl⟩ := Option.map_eq_some_iff.1 h
  have fold : ∀ (l : List Nat) (f : State → Nat → State), (∀ s n, (f s n).harts = s.harts) → ∀ s, (l.foldl f s).harts = s.harts := by
    intro l f hf
    induction l with
    | nil => intro s; rfl
    | cons n t ih => intro s; rw [List.foldl_cons, ih, hf]
  rw [fold]
  · simp
  · intro s n
    dsimp only
    split <;> rfl

/-- A device write, and the entry of bytes in a log, change buckets beside what a device store changes. -/
theorem State.deviceWrite_harts {s t : State} {c : Nat} {va : Word} {bs : List Byte} (h : s.deviceWrite c va bs = some t) :
    t.harts = s.harts := by
  unfold State.deviceWrite at h
  obtain ⟨u, hu, rfl⟩ := Option.map_eq_some_iff.1 h
  rw [State.charge_harts, State.deviceStore_harts hu]

theorem State.logWrite_harts {s t : State} {k c : Nat} {va : Word} {bs : List Byte} (h : s.logWrite k c va bs = some t) :
    t.harts = s.harts := by
  unfold State.logWrite at h
  obtain ⟨u, hu, rfl⟩ := Option.map_eq_some_iff.1 h
  rw [State.charge_harts, State.deviceStore_harts hu]

end Sys2Proof.Machine
end

