-- ==== Sys2Proof/Laws/Complete.lean ====
section
/-! SUPPORT. What running an instruction can do: one law for each result of a meaning, and one for completion. -/

namespace Sys2Proof.Machine

theorem State.logValue_spec (s : State) (k : Nat) (h : Hart) (n : Nat) (bs : List Byte) :
    (s.logValue k h n bs).1.harts = s.harts ∧ (s.logValue k h n bs).2 = { h with dbg := (s.logValue k h n bs).2.dbg } := by
  unfold State.logValue
  dsimp only
  split
  · exact ⟨rfl, rfl⟩
  · split
    · exact ⟨rfl, rfl⟩
    · rename_i hw
      exact ⟨State.logWrite_harts hw, rfl⟩

theorem State.logStep_spec (s : State) (k : Nat) (h : Hart) (a : Arch) (i : Instr) :
    (s.logStep k h a i).1.harts = s.harts ∧ (s.logStep k h a i).2 = { h with dbg := (s.logStep k h a i).2.dbg } := by
  unfold State.logStep
  split
  · split
    · exact s.logValue_spec _ _ _ _
    · exact ⟨rfl, rfl⟩
  · exact ⟨rfl, rfl⟩

theorem State.logStep_off {s : State} {h : Hart} (k : Nat) (a : Arch) (i : Instr) (r : h.dbg.recording = false) :
    s.logStep k h a i = (s, h) := by
  simp [State.logStep, r]

/-- Recording, and the halt after a step, touch a hart's debug registers alone. -/
theorem Hart.record_spec (c : Prop) [Decidable c] (h : Hart) (n : Nat) :
    (if c then (h.record n).stepDone else h.record n) =
      { h with dbg := (if c then (h.record n).stepDone else h.record n).dbg } := by
  have hk (h : Hart) : ∃ d, h.keep = { h with dbg := d } := by
    unfold Hart.keep
    split
    · exact ⟨_, rfl⟩
    · exact ⟨h.dbg, rfl⟩
  have hr : ∃ d, h.record n = { h with dbg := d } := by
    unfold Hart.record
    split
    · exact ⟨h.dbg, rfl⟩
    · obtain ⟨d, hd⟩ := hk { h with dbg := { h.dbg with icnt := h.dbg.icnt + n } }
      exact ⟨d, hd⟩
  obtain ⟨d, hd⟩ := hr
  rw [hd]
  unfold Hart.stepDone
  (repeat' split) <;> rfl

theorem State.pipeFor_frame (s : State) (k : Nat) (h : Hart) (i : Instr) (pc : Word) (cost : Nat) :
    s.pipeFor k h i pc cost = { s with pipeWork := (s.pipeFor k h i pc cost).pipeWork } := by
  unfold State.pipeFor
  (repeat' split) <;> rfl

/-- The program-visible state after a completion. -/
def State.completeArch (i : Instr) (h : Hart) (target : Option Word) : Arch := match target with
  | none => fallsThrough i h.arch
  | some t => jumpsTo i h.arch t

/-- COMPLETION: what `complete` leaves. -/
theorem State.complete_spec (s : State) (k : Nat) (i : Instr) (a₀ : Arch) (h : Hart) (target : Option Word) :
    CompletedAs k s h (State.completeArch i h target) (s.complete k i a₀ h target) := by
  have hp := fun (s : State) (cost : Nat) => s.pipeFor_frame k h i a₀.pc cost
  refine ⟨?_, ?_, ?_⟩
  · unfold State.complete
    dsimp only
    refine ⟨_, State.hart_setHart_same _ _ _, ?_⟩
    rw [Hart.record_spec]
    constructor
    · cases hx : h.exits.getLast? with
      | none => simp [List.getLast?_eq_none_iff.1 hx]
      | some e =>
        have : h.exits ≠ [] := by rintro e'; simp [e'] at hx
        have := List.length_pos_iff.2 this
        simp
        omega
    · cases target <;> rfl
  · intro j hj
    unfold State.complete
    dsimp only
    rw [State.hart_setHart_other _ _ hj]
    unfold State.hart
    rw [hp]
    dsimp only
    rw [(s.logStep_spec k h h.arch i).1]
  · intro r
    unfold State.complete
    dsimp only
    rw [State.logStep_off _ _ _ r]
    dsimp only
    rw [hp]
    rfl

theorem State.complete_next (s : State) (k : Nat) (i : Instr) (a₀ : Arch) (h : Hart) :
    CompletedAs k s h (fallsThrough i h.arch) (s.complete k i a₀ h none) := s.complete_spec k i a₀ h none

theorem State.complete_jump (s : State) (k : Nat) (i : Instr) (a₀ : Arch) (h : Hart) (p : Word) :
    CompletedAs k s h (jumpsTo i h.arch p) (s.complete k i a₀ h (some p)) := s.complete_spec k i a₀ h (some p)

/-- An instruction that issues runs its meaning. -/
theorem State.run_issues {s : State} {h : Hart} {i : Instr} (hi : Issues s h i) (body : State → Hart → Result) :
    s.run i body = s.settle s.cur h i (body s h) := by
  simp [State.run, hi.1, hi.2]

/-- What an instruction that is no vector instruction charges. -/
theorem beats_scalar {i : Instr} (hl : i.needsLanes = false) (a b : Arch) (w : Nat) : beats a b w i = scalarBeats i := by
  cases i <;> first | rfl | exact Bool.noConfusion hl

theorem vsrcs_scalar {i : Instr} (hl : i.needsLanes = false) : i.vsrcs = [] := by
  cases i <;> first | rfl | exact Bool.noConfusion hl | simp_all [Instr.vsrcs, Instr.needsLanes]

theorem rebuilt_scalar {i : Instr} (hl : i.needsLanes = false) (a : Arch) : a.rebuilt i = [] := by
  have := vsrcs_scalar hl
  cases i <;> first | exact Bool.noConfusion hl | simp [Arch.rebuilt, this]

/-- HBEAT after a completion (R129, R325). -/
theorem State.complete_hbeat (s : State) (k : Nat) (i : Instr) (a₀ : Arch) (h : Hart) (target : Option Word) :
    let a := State.completeArch i h target
    ((s.complete k i a₀ h target).hart k).map (·.hbeat) = some (h.hbeat + BitVec.ofNat 64
      (beats a₀ a (s.lanesOf h) i + a₀.rebuildBeats a (s.lanesOf h) (s.regBytes { h with arch := a₀ }) i)) := by
  unfold State.complete
  dsimp only
  rw [State.hart_setHart_same, Hart.record_spec]
  cases target <;> rfl

/-- The iteration tests leave the registers' tags. -/
@[simp] theorem Arch.testLoop_vtag (a : Arch) (n : Bool) : (a.testLoop n).1.vtag = a.vtag := by
  cases n <;> (unfold Arch.testLoop; dsimp only; (repeat' split) <;> rfl)

@[simp] theorem Arch.retire_vtag (a : Arch) (t : Word) : (a.retire t).vtag = a.vtag := by
  unfold Arch.retire
  dsimp only
  (repeat' split) <;> simp

theorem State.complete_charged (s : State) (k : Nat) (i : Instr) (a₀ : Arch) (h : Hart) (target : Option Word) :
    ScalarCharged i k h (s.complete k i a₀ h target) := by
  intro hl
  rw [s.complete_hbeat k i a₀ h target, beats_scalar hl]
  simp [Arch.rebuildBeats, rebuilt_scalar hl]

theorem State.run_done {s s' : State} {h h' : Hart} {i : Instr} {body : State → Hart → Result} (hi : Issues s h i)
    (hb : body s h = .done s' h') (hc : s'.cur = s.cur := by rfl) : Completes i s' h' (s.run i body) := by
  rw [State.run_issues hi, hb]
  unfold Completes
  rw [hc]
  exact ⟨s'.complete_next s.cur i h.arch h', s'.complete_charged s.cur i h.arch h' none⟩

theorem State.run_jump {s s' : State} {h h' : Hart} {i : Instr} {p : Word} {body : State → Hart → Result} (hi : Issues s h i)
    (hb : body s h = .jump s' h' p) (hc : s'.cur = s.cur := by rfl) : Jumps i s' h' p (s.run i body) := by
  rw [State.run_issues hi, hb]
  unfold Jumps
  rw [hc]
  exact ⟨s'.complete_jump s.cur i h.arch h' p, s'.complete_charged s.cur i h.arch h' (some p)⟩

theorem State.run_trap {s : State} {h : Hart} {i : Instr} {c : Cause} {body : State → Hart → Result} (hi : Issues s h i)
    (hb : body s h = .trap c) : s.run i body = s.trap s.cur h i c := by
  rw [State.run_issues hi, hb]
  rfl

theorem State.run_left {s s' : State} {h : Hart} {i : Instr} {body : State → Hart → Result} (hi : Issues s h i)
    (hb : body s h = .left s') : s.run i body = s' := by
  rw [State.run_issues hi, hb]
  rfl

theorem State.run_stall {s s' : State} {h h' : Hart} {i : Instr} {m : Bool} {body : State → Hart → Result} (hi : Issues s h i)
    (hb : body s h = .stall s' h' m) : s.run i body = s'.stallOn s.cur h' i m (h.awaits i) := by
  rw [State.run_issues hi, hb]
  rfl

/-- A switch point passes issue to a partner that can issue, and does nothing else. -/
theorem State.pairSwitch_spec {v : State} {k : Nat} {h : Hart} (hv : v.hart k = some h) : IssuePassed v k h (v.pairSwitch k) := by
  unfold State.pairSwitch
  rw [hv]
  dsimp only
  refine ⟨?_, ?_⟩
  · rintro j x ⟨hc, hp, hl⟩
    have hs : ∃ q, h.seat = some q := by
      cases hq : h.seat with
      | none => simp [State.partner, hq] at hp
      | some q => exact ⟨q, rfl⟩
    obtain ⟨⟨p, w⟩, hq⟩ := hs
    rw [hq, hp]
    simp only [hl, hc, decide_true, Bool.and_self, if_true]
    refine ⟨⟨p, w, rfl, ?_⟩, rfl, ?_⟩
    · exact Store.get_set_same _ _ _ _
    · intro m
      show (v.modHart j _).hart m = _
      unfold State.modHart State.hart
      dsimp only
      split
      · subst m
        rw [Store.find_modify_same]
      · rename_i hm
        rw [Store.find_modify_other _ _ hm]
  · intro hn
    split
    · rename_i p j x hq hp
      rw [if_neg]
      intro hx
      rw [Bool.and_eq_true, decide_eq_true_iff] at hx
      exact hn j x ⟨hx.2, hp, hx.1⟩
    · rfl

/-- What a stall leaves: the wait, and issue with the partner at a switch point. -/
theorem State.stallOn_spec (s : State) (k : Nat) (h : Hart) (i : Instr) (m : Bool) (ws : List Nat) :
    Stalls i s k { h with stalled := true, memStall := m, awaited := if m then ws else [] } (s.stallOn k h i m ws) := by
  have he : switchPoint i = Instr.switches i := by cases i <;> rfl
  refine ⟨fun hi => ?_, fun hi => ?_⟩ <;> rw [he] at hi <;> unfold State.stallOn <;> dsimp only <;> rw [hi]
  · exact State.pairSwitch_spec (State.hart_setHart_same _ _ _)
  · rfl

/-- A meaning that stalls leaves the hart waiting. -/
theorem State.run_waits {s s' : State} {h h' : Hart} {i : Instr} {m : Bool} {body : State → Hart → Result} (hi : Issues s h i)
    (hb : body s h = .stall s' h' m) : Stalls i s' s.cur
      { h' with stalled := true, memStall := m, awaited := if m then h.awaits i else [] } (s.run i body) := by
  rw [State.run_stall hi hb]
  exact s'.stallOn_spec _ _ _ _ _

/-- An instruction that only computes on its hart. -/
theorem State.compute_spec {s : State} {h : Hart} {i : Instr} (hi : Issues s h i) (f : Arch → Arch) :
    Completes i s { h with arch := f h.arch } (s.compute i f) := State.run_done hi rfl

/-- A vector instruction that computes on its hart's registers. -/
theorem State.vector_ok {s : State} {h : Hart} {i : Instr} {f : Arch → Nat → Except Cause Arch} {a : Arch} (hi : Issues s h i)
    (hf : f h.arch (s.regBytes h) = .ok a) : Completes i s { h with arch := a } (s.vector i f) :=
  State.run_done hi (by rw [hf])

theorem State.vector_error {s : State} {h : Hart} {i : Instr} {f : Arch → Nat → Except Cause Arch} {c : Cause} (hi : Issues s h i)
    (hf : f h.arch (s.regBytes h) = .error c) : s.vector i f = s.trap s.cur h i c :=
  State.run_trap hi (by rw [hf])

end Sys2Proof.Machine
end

