-- ==== Sys2Proof/Laws/Shake.lean ====
section
/-! SUPPORT. How many bytes SHAKE256 gives. -/

namespace Sys2Proof.Machine

@[simp] theorem bytesOf_length (v n : Nat) : (bytesOf v n).length = n := by
  induction n generalizing v with
  | zero => rfl
  | succ n ih => simp [bytesOf, ih]

/-- SHAKE256 gives as many bytes as are asked for. -/
theorem shake256_length (m : List Byte) (n : Nat) : (shake256 m n).length = n := bytesOf_length _ n

end Sys2Proof.Machine
end

