-- ==== Sys2Proof/Laws/Image.lean ====
section
/-! SUPPORT. The check word of a save image holds of the bytes that a pre-emption writes. -/

namespace Sys2Proof.Machine

theorem putCheck_length (l w : List Byte) (h : checkOffset + 8 ≤ l.length) (hw : w.length = 8) : (putCheck l w).length = l.length := by
  simp only [putCheck, List.length_append, List.length_take, List.length_drop, hw]
  omega

/-- The parts of an image around its check word. -/
theorem putCheck_parts (l w : List Byte) (h : checkOffset + 8 ≤ l.length) (hw : w.length = 8) :
    (putCheck l w).take checkOffset = l.take checkOffset ∧ ((putCheck l w).drop checkOffset).take 8 = w ∧
      (putCheck l w).drop (checkOffset + 8) = l.drop (checkOffset + 8) := by
  have ht : (l.take checkOffset).length = checkOffset := by rw [List.length_take]; omega
  refine ⟨?_, ?_, ?_⟩
  · rw [putCheck, List.append_assoc, List.take_left' ht]
  · rw [putCheck, List.append_assoc, List.drop_left' ht, List.take_left' hw]
  · rw [putCheck, List.drop_left' (by rw [List.length_append, ht, hw])]

/-- The image of a group has its size, and its check word holds. -/
theorem parkedBytes_check (s : State) (g : Group) (i : Image) (h : 4096 ≤ g.imageSize) :
    (s.parkedBytes g i).length = g.imageSize ∧ CheckHolds s.starts (s.parkedBytes g i) := by
  have hc : checkOffset + 8 ≤ ((List.range g.imageSize).map (s.parkedByte g i)).length := by
    have : checkOffset < 4089 := Nat.mod_lt _ (by decide)
    rw [List.length_map, List.length_range]
    omega
  have hw : (checkWord s.starts ((List.range g.imageSize).map (s.parkedByte g i))).length = 8 := shake256_length _ _
  refine ⟨by rw [State.parkedBytes, putCheck_length _ _ hc hw, List.length_map, List.length_range], ?_⟩
  obtain ⟨h1, h2, h3⟩ := putCheck_parts _ _ hc hw
  rw [CheckHolds, State.parkedBytes, h1, h2, h3, checkWord, putCheck]
  simp only [List.append_assoc]

end Sys2Proof.Machine
end

