-- ==== Sys2Proof/Laws/Runs.lean ====
section
/-! SUPPORT. Every instruction runs a meaning behind the checks at issue (R90). -/

namespace Sys2Proof.Machine

/-- What instruction i does in every state is to run one meaning. -/
def RunsMeaning (i : Instr) : Prop := ∃ body : State → Hart → Result, ∀ s, exec i s = .next (s.run i body)

/-- Every instruction that a hart fetches is run so. -/
theorem exec_runs (i : Instr) (h : i.isEvent = false) : RunsMeaning i := by
  cases i
  all_goals first | exact ⟨_, fun _ => rfl⟩ | exact Bool.noConfusion h

end Sys2Proof.Machine
end

