-- ==== Sys2Proof/Laws/Safe.lean ====
section
/-! SUPPORT. The operations keep memory and granule tags in canonical form: one law for each operation. -/

namespace Sys2Proof.Machine

/-- The canonical form depends on bytes and tags alone. -/
theorem safe_of_eq {s t : State} (hm : t.mem = s.mem) (hg : t.gtag = s.gtag) : Safe t ↔ Safe s := by
  simp [Safe, hm, hg]

/-- A state written out. -/
@[simp] theorem safe_mk {m g x2 x3 x4 x5 x6 x7 x8 x9 x10 x11 x12 x13 x14 x15 x16 x17 x18 x19 x20 x21 x22 x23 x24 x25 x26 x27 x28 x29 x30 x31 x32 x33 x34 x35 x36 x37 x38 x39 x40 x41 x42 x43 x44 x45 x46 x47 x48 x49 x50 x51 x52 x53 x54 x55 x56 x57 x58 x59 x60 x61 x62 x63 x64 x65 x66 x67 x68 x69 x70 x71 x72 x73 x74 x75 x76 x77 x78} :
    Safe (State.mk m g x2 x3 x4 x5 x6 x7 x8 x9 x10 x11 x12 x13 x14 x15 x16 x17 x18 x19 x20 x21 x22 x23 x24 x25 x26 x27 x28 x29 x30 x31 x32 x33 x34 x35 x36 x37 x38 x39 x40 x41 x42 x43 x44 x45 x46 x47 x48 x49 x50 x51 x52 x53 x54 x55 x56 x57 x58 x59 x60 x61 x62 x63 x64 x65 x66 x67 x68 x69 x70 x71 x72 x73 x74 x75 x76 x77 x78) ↔ SafeMem m g := Iff.rfl

@[simp] theorem safeMem_iff (s : State) : SafeMem s.mem s.gtag ↔ Safe s := Iff.rfl

theorem safeMem_filter {m : List Host.Cell} {g : Store Byte} (p : Host.Cell → Bool) (h : SafeMem m g) : SafeMem (m.filter p) g :=
  ⟨Store.wf_filter p h.1, h.2⟩

/-- The canonical form of the state that a meaning's result goes on with. -/
def SafeResult : Result → Prop
  | .done s _ | .jump s _ _ | .soft s _ | .stall s _ _ | .left s => Safe s
  | .trap _ => True

@[simp] theorem safeResult_done (s : State) (h : Hart) : SafeResult (.done s h) ↔ Safe s := Iff.rfl
@[simp] theorem safeResult_jump (s : State) (h : Hart) (p : Word) : SafeResult (.jump s h p) ↔ Safe s := Iff.rfl
@[simp] theorem safeResult_soft (s : State) (h : Hart) : SafeResult (.soft s h) ↔ Safe s := Iff.rfl
@[simp] theorem safeResult_stall (s : State) (h : Hart) (m : Bool) : SafeResult (.stall s h m) ↔ Safe s := Iff.rfl
@[simp] theorem safeResult_left (s : State) : SafeResult (.left s) ↔ Safe s := Iff.rfl
@[simp] theorem safeResult_trap (c : Cause) : SafeResult (.trap c) := trivial

@[simp] theorem safe_resultFlags {r : Result} (ok : SafeResult r) (f : Flags) : SafeResult (Result.addFlags f r) := by
  cases r <;> exact ok

/-- The canonical form of the state that a read of a queue goes on with. -/
def SafeItem : QItem → Prop
  | .item _ s | .nothing s => Safe s
  | .cause _ => True

@[simp] theorem safeItem_item (v : Word) (s : State) : SafeItem (.item v s) ↔ Safe s := Iff.rfl
@[simp] theorem safeItem_nothing (s : State) : SafeItem (.nothing s) ↔ Safe s := Iff.rfl
@[simp] theorem safeItem_cause (c : Cause) : SafeItem (.cause c) := trivial

/-- The canonical form of an outcome's next state, of an optional state, and of a state in a pair. -/
def SafeOutcome (o : Host.Outcome State Fault Refusal) : Prop := ∀ t, o = .next t → Safe t

@[simp] theorem safeOutcome_next {s : State} : SafeOutcome (.next s) ↔ Safe s :=
  ⟨fun h => h s rfl, fun h t e => by cases e; exact h⟩

def SafeOption (o : Option State) : Prop := ∀ t, o = some t → Safe t

@[simp] theorem safeOption_some {s : State} : SafeOption (some s) ↔ Safe s :=
  ⟨fun h => h s rfl, fun h t e => by cases e; exact h⟩

@[simp] theorem safeOption_none : SafeOption none := fun _ e => nomatch e

def SafePair (p : State × Hart) : Prop := Safe p.1

@[simp] theorem safePair_mk (s : State) (h : Hart) : SafePair (s, h) ↔ Safe s := Iff.rfl

def SafeSnd (p : Nat × State) : Prop := Safe p.2

@[simp] theorem safeSnd_mk (n : Nat) (s : State) : SafeSnd (n, s) ↔ Safe s := Iff.rfl

theorem safe_ite {c : Prop} [Decidable c] {s t : State} (hs : Safe s) (ht : Safe t) : Safe (if c then s else t) := by
  split <;> assumption

@[simp] theorem safe_ite_iff {c : Prop} [Decidable c] {s t : State} :
    Safe (if c then s else t) ↔ (c → Safe s) ∧ (¬c → Safe t) := by
  split <;> simp_all

/-- A function of states folded over a list keeps the canonical form when it does at each element. -/
theorem safe_foldl {β : Type} {f : State → β → State} (hf : ∀ s b, Safe s → Safe (f s b)) {s : State} (h : Safe s) (l : List β) :
    Safe (l.foldl f s) := by
  induction l generalizing s with
  | nil => exact h
  | cons b t ih => exact ih (hf s b h)

theorem safeResult_ite {c : Prop} [Decidable c] {r q : Result} (hr : SafeResult r) (hq : SafeResult q) :
    SafeResult (if c then r else q) := by
  split <;> assumption

@[simp] theorem safe_setByte {s : State} (h : Safe s) (k : Nat) (b : Byte) : Safe (s.setByte k b) := ⟨Store.wf_set k b h.1, h.2⟩

@[simp] theorem safe_setBytes {s : State} (h : Safe s) (k : Nat) (l : List Byte) : Safe (s.setBytes k l) := by
  induction l generalizing s k with
  | nil => exact h
  | cons b t ih => exact ih (safe_setByte h k b) (k + 1)

@[simp] theorem safe_writeAll {s : State} (h : Safe s) (ws : List ByteWrite) : Safe (s.writeAll ws) := by
  induction ws generalizing s with
  | nil => exact h
  | cons w t ih => exact ih (safe_setByte h _ _)

@[simp] theorem safe_markGranule {s : State} (h : Safe s) (m : GranuleMark) (g : Nat) : Safe (s.markGranule m g) := by
  unfold State.markGranule
  dsimp only
  (repeat' split) <;> first | exact h | exact ⟨h.1, Store.wf_set _ _ h.2⟩

@[simp] theorem safe_pushLine {s : State} (h : Safe s) (ws : List ByteWrite) (l : Nat) : Safe (s.pushLine ws l) := by
  unfold State.pushLine
  dsimp only
  (repeat' split) <;> exact h

@[simp] theorem safe_perform {s : State} (h : Safe s) (m : GranuleMark) (ws : List ByteWrite) : Safe (s.perform m ws) := by
  unfold State.perform
  exact safe_foldl (fun s l hs => safe_pushLine hs ws l) (safe_foldl (fun s g hs => safe_markGranule hs m g)
    (safe_writeAll h ws) _) _

@[simp] theorem safe_hostWrite {s : State} (h : Safe s) (a : Nat) (bs : List Byte) : Safe (s.hostWrite a bs) := by
  unfold State.hostWrite
  (repeat' split) <;> first | exact h | exact safe_setBytes h _ _

@[simp] theorem safe_flushHeld {s : State} (h : Safe s) : Safe s.flushHeld := by
  unfold State.flushHeld
  exact safe_foldl (fun s w hs => safe_setBytes hs _ _) h _

@[simp] theorem safe_zeroRange {s : State} (h : Safe s) (lo hi : Nat) : Safe (s.zeroRange lo hi) :=
  ⟨Store.wf_drop lo hi h.1, Store.wf_drop _ _ h.2⟩

end Sys2Proof.Machine
end

