-- ==== Sys2Proof/Laws/SafeHart.lean ====
section
/-! SUPPORT. The operations of a hart, its accesses and the scalar meanings keep memory and granule tags in canonical form. -/

namespace Sys2Proof.Machine

@[simp] theorem safe_journalAdd {s : State} (safe : Safe s) (e : Entry) :
    Safe (State.journalAdd s e) := by simp [State.journalAdd, safe]

@[simp] theorem safe_setCtx {s : State} (safe : Safe s) (c : Nat) (x : Ctx) :
    Safe (State.setCtx s c x) := by simp [State.setCtx, safe]

@[simp] theorem safe_modCtx {s : State} (safe : Safe s) (c : Nat) (f : Ctx → Ctx) :
    Safe (State.modCtx s c f) := by simp [State.modCtx, safe]

@[simp] theorem safe_writeEntry {s : State} (safe : Safe s) (pte : Nat) (mask val : Word) :
    Safe (State.writeEntry s pte mask val) := by simp [State.writeEntry, safe]

@[simp] theorem safe_writeBack {s : State} (safe : Safe s) (c pte : Nat) :
    Safe (State.writeBack s c pte) := by simp [State.writeBack, safe]

@[simp] theorem safe_evict {s : State} (safe : Safe s) (t : Tlb) :
    Safe (State.evict s t) := by
  unfold State.evict
  split <;> simp [safe]

@[simp] theorem safe_cacheIn {s : State} (safe : Safe s) (spire c : Nat) (p : Phys) :
    Safe (State.cacheIn s spire c p) := by
  unfold State.cacheIn
  dsimp only
  split
  · refine safe_foldl (fun s t hs => safe_evict hs t) ?_ _
    exact (safe_of_eq rfl rfl).2 safe
  · exact safe

@[simp] theorem safe_matrixIn {s : State} (safe : Safe s) (spire c : Nat) (p : Phys) :
    Safe (State.matrixIn s spire c p) := by
  unfold State.matrixIn
  dsimp only
  split
  · refine safe_foldl (fun s t hs => safe_evict hs t) ?_ _
    exact (safe_of_eq rfl rfl).2 safe
  · exact safe

@[simp] theorem safe_cacheAll {s : State} (safe : Safe s) (spire c : Nat) (ps : List Phys) :
    Safe (State.cacheAll s spire c ps) := by
  unfold State.cacheAll
  exact safe_foldl (fun s p hs => safe_cacheIn hs _ _ _) safe _

@[simp] theorem safe_charge {s : State} (safe : Safe s) (c : Nat) (ports : List Nat) :
    Safe (State.charge s c ports) := by
  unfold State.charge
  split <;> simp [safe]

@[simp] theorem safe_access {s : State} (safe : Safe s) (spire c : Nat) (ps : List Phys) :
    Safe (State.access s spire c ps) := by simp [State.access, safe]

@[simp] theorem safe_matrixAccess {s : State} (safe : Safe s) (spire c : Nat) (ps : List Phys) :
    Safe (State.matrixAccess s spire c ps) :=
  safe_charge (safe_foldl (fun s p hs => safe_matrixIn hs _ _ _) safe _) _ _

@[simp] theorem safe_uncache {s : State} (safe : Safe s) (c : Nat) (drop : Tlb → Bool) :
    Safe (State.uncache s c drop) := by simp [State.uncache, safe]

@[simp] theorem safe_notify {s : State} (safe : Safe s) (c : Nat) (first : Word) (cnt kind : Nat) :
    Safe (State.notify s c first cnt kind) := by simp [State.notify, safe]

@[simp] theorem safe_countPage {s : State} (safe : Safe s) (c pte vbase : Nat) :
    Safe (State.countPage s c pte vbase) := by
  unfold State.countPage
  repeat' first | assumption | split | dsimp only | (simp (maxDischargeDepth := 30) [*]; done) | (refine safe_withGroup (by assumption) _ fun g => ?_) | (refine safe_onSelected (by assumption) _ fun k h => ?_) | (refine safe_foldl (fun s x hs => ?_) ?_ _) | (refine safeOutcome_next.2 ?_)

@[simp] theorem safe_countAll {s : State} (safe : Safe s) (c : Nat) (ps : List Phys) :
    Safe (State.countAll s c ps) := by
  unfold State.countAll
  refine safe_foldl (fun s p hs => ?_) safe _
  split <;> simp [*]

@[simp] theorem safe_deviceStore {s : State} (safe : Safe s) (c : Nat) (va : Word) (bs : List Byte) :
    SafeOption (State.deviceStore s c va bs) := by
  unfold State.deviceStore
  intro t e
  obtain ⟨ps, -, rfl⟩ := Option.map_eq_some_iff.1 e
  refine safe_foldl (fun s l hs => ?_) (safe_perform safe _ _) _
  dsimp only
  split <;> exact hs

@[simp] theorem safe_deviceWrite {s : State} (safe : Safe s) (c : Nat) (va : Word) (bs : List Byte) :
    SafeOption (State.deviceWrite s c va bs) := by
  unfold State.deviceWrite
  intro t e
  obtain ⟨u, hu, rfl⟩ := Option.map_eq_some_iff.1 e
  exact safe_charge (safe_deviceStore safe _ _ _ _ hu) _ _

@[simp] theorem safe_logWrite {s : State} (safe : Safe s) (k c : Nat) (va : Word) (bs : List Byte) :
    SafeOption (State.logWrite s k c va bs) := by
  unfold State.logWrite
  intro t e
  obtain ⟨u, hu, rfl⟩ := Option.map_eq_some_iff.1 e
  exact safe_charge (safe_deviceStore safe _ _ _ _ hu) _ _

@[simp] theorem safe_modGroup {s : State} (safe : Safe s) (g : Nat) (f : Group → Group) :
    Safe (State.modGroup s g f) := by simp [State.modGroup, safe]

@[simp] theorem safe_modKernel {s : State} (safe : Safe s) (k : Nat) (f : Kernel → Kernel) :
    Safe (State.modKernel s k f) := by simp [State.modKernel, safe]

@[simp] theorem safe_setHart {s : State} (safe : Safe s) (k : Nat) (h : Hart) :
    Safe (State.setHart s k h) := by simp [State.setHart, safe]

@[simp] theorem safe_modHart {s : State} (safe : Safe s) (k : Nat) (f : Hart → Hart) :
    Safe (State.modHart s k f) := by simp [State.modHart, safe]

@[simp] theorem safe_setQueue {s : State} (safe : Safe s) (c q : Nat) (x : Queue) :
    Safe (State.setQueue s c q x) := by simp [State.setQueue, safe]

@[simp] theorem safe_setQwp {s : State} (safe : Safe s) (c q : Nat) (wp : BitVec 32) :
    Safe (State.setQwp s c q wp) := by
  unfold State.setQwp
  dsimp only
  split <;> simp [safe]

@[simp] theorem safe_queueStep {s : State} (safe : Safe s) (c q old : Nat) :
    Safe (State.queueStep s c q old) := by simp [State.queueStep, safe]

@[simp] theorem safe_advanceQueue {s : State} (safe : Safe s) (c q : Nat) (wp : BitVec 32) :
    Safe (State.advanceQueue s c q wp) := by simp [State.advanceQueue, safe]

@[simp] theorem safe_queueClear {s : State} (safe : Safe s) (c q : Nat) :
    Safe (State.queueClear s c q) := by simp [State.queueClear, safe]

@[simp] theorem safe_endKernel {s : State} (safe : Safe s) (kid : Nat) (st : KernelState) (status : Nat) :
    Safe (State.endKernel s kid st status) := by
  unfold State.endKernel
  split
  · exact safe
  · extract_lets s1 s2 q1 s3 q2 s4
    have h3 : Safe s3 := by simp (maxDischargeDepth := 30) only [s3, s2, s1, safe, safe_setQueue, safe_journalAdd, safe_modKernel]
    have h4 : Safe s4 := safe_ite (safe_setQueue h3 _ _ _) h3
    exact safe_queueClear h4 _ _

@[simp] theorem safe_modSlot {s : State} (safe : Safe s) (k : Nat) (f : Slot → Slot) :
    Safe (State.modSlot s k f) := by simp [State.modSlot, safe]

@[simp] theorem safe_closeSlot {s : State} (safe : Safe s) (k : Nat) (gone : Bool) :
    Safe (State.closeSlot s k gone) := by
  unfold State.closeSlot
  (repeat' split) <;> simp [*]

@[simp] theorem safe_closeGroupSlots {s : State} (safe : Safe s) (g : Nat) :
    Safe (State.closeGroupSlots s g) := by
  unfold State.closeGroupSlots
  exact safe_foldl (fun s x hs => safe_closeSlot hs _ _) safe _

@[simp] theorem safe_dropSlots {s : State} (safe : Safe s) (p : Nat → Bool) :
    Safe (State.dropSlots s p) := by simp [State.dropSlots, safe]

@[simp] theorem safe_closeLines {s : State} (safe : Safe s) (p : Slot → Bool) :
    Safe (State.closeLines s p) := by
  unfold State.closeLines
  exact safe_foldl (fun s x hs => safe_closeSlot hs _ _) safe _

@[simp] theorem safe_mapTasks {s : State} (safe : Safe s) (g : Nat) (f : Task → Task) :
    Safe (State.mapTasks s g f) := by simp [State.mapTasks, safe]

@[simp] theorem safe_abortTask {s : State} (safe : Safe s) (g : Nat) (n : BitVec 32) (code : Nat) :
    Safe (State.abortTask s g n code) := by simp [State.abortTask, safe]

@[simp] theorem safe_abandonTasks {s : State} (safe : Safe s) (g : Nat) :
    Safe (State.abandonTasks s g) := by simp [State.abandonTasks, safe]

@[simp] theorem safe_freeSeat {s : State} (safe : Safe s) (k : Nat) :
    Safe (State.freeSeat s k) := by simp [State.freeSeat, safe]

@[simp] theorem safe_reap {s : State} (safe : Safe s) :
    Safe (State.reap s) := by simp [State.reap, safe]

@[simp] theorem safe_freeGroup {s : State} (safe : Safe s) (g : Nat) :
    Safe (State.freeGroup s g) := by simp [State.freeGroup, safe]

@[simp] theorem safe_endStop {s : State} (safe : Safe s) (k : Nat) :
    Safe (State.endStop s k) := by
  unfold State.endStop
  (repeat' split) <;> simp [safe]

@[simp] theorem safe_discardParked {s : State} (safe : Safe s) (g : Nat) :
    Safe (State.discardParked s g) := by
  unfold State.discardParked
  repeat' first | assumption | split | (simp [*]; done)

@[simp] theorem safe_abortGroup {s : State} (safe : Safe s) (g : Nat) :
    Safe (State.abortGroup s g) := by
  unfold State.abortGroup
  repeat' first | assumption | split | dsimp only | (simp (maxDischargeDepth := 30) [*]; done) | (refine safe_withGroup (by assumption) _ fun g => ?_) | (refine safe_onSelected (by assumption) _ fun k h => ?_) | (refine safe_foldl (fun s x hs => ?_) ?_ _) | (refine safeOutcome_next.2 ?_)

@[simp] theorem safe_abortKernel {s : State} (safe : Safe s) (kid status : Nat) :
    Safe (State.abortKernel s kid status) := by
  unfold State.abortKernel
  split
  · exact safe
  · split
    · exact safe_foldl (fun s g hs => safe_abortGroup hs g) (safe_endKernel safe _ _ _) _
    · exact safe

@[simp] theorem safe_groupMaybeDrain {s : State} (safe : Safe s) (g : Nat) :
    Safe (State.groupMaybeDrain s g) := by
  unfold State.groupMaybeDrain
  (repeat' split) <;> simp [*]

@[simp] theorem safe_wakeKernels {s : State} (safe : Safe s) (c : Nat) :
    Safe (State.wakeKernels s c) := by
  unfold State.wakeKernels
  exact safe_foldl (fun s k hs => safe_queueStep (safe_modKernel hs _ _) _ _ _) safe _

@[simp] theorem safe_setKtok {s : State} (safe : Safe s) (c t : Nat) (v : BitVec 32) :
    Safe (State.setKtok s c t v) := by simp [State.setKtok, safe]

@[simp] theorem safe_setToken {s : State} (safe : Safe s) (g t : Nat) (v : BitVec 32) :
    Safe (State.setToken s g t v) := by simp [State.setToken, safe]

@[simp] theorem safe_takeClaim {s : State} (safe : Safe s) (g : Nat) :
    Safe (State.takeClaim s g) := by
  unfold State.takeClaim
  (repeat' split) <;> simp [*]

@[simp] theorem safe_passClaim {s : State} (safe : Safe s) (quad : Nat) :
    Safe (State.passClaim s quad) := by
  unfold State.passClaim
  repeat' first | assumption | split | dsimp only | (simp [*]; done)

@[simp] theorem safe_endCmd {s : State} (safe : Safe s) (n : Nat) (st : CmdStatus) :
    Safe (State.endCmd s n st) := by
  unfold State.endCmd
  (repeat' split) <;> simp [*]

@[simp] theorem safe_finishCmd {s : State} (safe : Safe s) (c : Nat) (st : CmdStatus) :
    Safe (State.finishCmd s c st) := by
  unfold State.finishCmd
  (repeat' split) <;> simp [*]

@[simp] theorem safe_parkSettle {s : State} (safe : Safe s) (c : Nat) :
    Safe (State.parkSettle s c) := by
  unfold State.parkSettle
  repeat' first | assumption | split | dsimp only | (simp [*]; done)

@[simp] theorem safe_revokeAccesses {s : State} (safe : Safe s) (r g : Nat) :
    Safe (State.revokeAccesses s r g) := by simp [State.revokeAccesses, safe]

@[simp] theorem safe_revokeGrant {s : State} (safe : Safe s) (r g : Nat) :
    Safe (State.revokeGrant s r g) := by
  unfold State.revokeGrant
  repeat' first | assumption | split | dsimp only | (simp (maxDischargeDepth := 30) [*]; done) | (refine safe_withGroup (by assumption) _ fun g => ?_) | (refine safe_onSelected (by assumption) _ fun k h => ?_) | (refine safe_foldl (fun s x hs => ?_) ?_ _) | (refine safeOutcome_next.2 ?_)

@[simp] theorem safe_revokeShares {s : State} (safe : Safe s) (c : Nat) :
    Safe (State.revokeShares s c) := by
  unfold State.revokeShares
  refine safe_foldl (fun s x hs => safe_foldl (fun s g hs => ?_) hs _) ?_ _
  · split
    · exact safe_revokeGrant hs _ _
    · exact hs
  · exact safe_foldl (fun s g hs => safe_revokeGrant hs _ _) safe _

@[simp] theorem safe_discardWork {s : State} (safe : Safe s) (c : Nat) :
    Safe (State.discardWork s c) := by simp [State.discardWork, safe]

@[simp] theorem safe_abortHart {s : State} (safe : Safe s) (k : Nat) :
    Safe (State.abortHart s k) := by
  unfold State.abortHart
  repeat' first | assumption | split | dsimp only | (simp (maxDischargeDepth := 30) [*]; done) | (refine safe_withGroup (by assumption) _ fun g => ?_) | (refine safe_onSelected (by assumption) _ fun k h => ?_) | (refine safe_foldl (fun s x hs => ?_) ?_ _) | (refine safeOutcome_next.2 ?_)

@[simp] theorem safe_enterTrap {s : State} (safe : Safe s) (k : Nat) (h : Hart) (c : Cause) (syl : Syl) (deferred : Bool) (tspc : Word) :
    Safe (State.enterTrap s k h c syl deferred tspc) := by simp [State.enterTrap, safe]

@[simp] theorem safe_trap {s : State} (safe : Safe s) (k : Nat) (h : Hart) (i : Instr) (c : Cause) :
    Safe (State.trap s k h i c) := by simp [State.trap, safe]

@[simp] theorem safe_giveWork {s : State} (safe : Safe s) (c gid idx spire f pipe cost unit item : Nat) :
    Safe (State.giveWork s c gid idx spire f pipe cost unit item) := by simp [State.giveWork, safe]

@[simp] theorem safe_pipeFor {s : State} (safe : Safe s) (k : Nat) (h : Hart) (i : Instr) (pc : Word) (cost : Nat) :
    Safe (State.pipeFor s k h i pc cost) := by
  unfold State.pipeFor
  repeat' first | exact safe | split

@[simp] theorem safe_logValue {s : State} (safe : Safe s) (k : Nat) (h : Hart) (sort : Nat) (bs : List Byte) :
    SafePair (State.logValue s k h sort bs) := by
  unfold State.logValue
  extract_lets d hd r full
  split
  · exact safe
  · split
    · exact safe
    · rename_i hw
      exact safe_logWrite safe _ _ _ _ _ hw

@[simp] theorem safe_logStep {s : State} (safe : Safe s) (k : Nat) (h : Hart) (a : Arch) (i : Instr) :
    SafePair (State.logStep s k h a i) := by
  unfold State.logStep
  (repeat' split) <;> simp [*]

@[simp] theorem safe_complete {s : State} (safe : Safe s) (k : Nat) (i : Instr) (a₀ : Arch) (h : Hart) (target : Option Word) :
    Safe (State.complete s k i a₀ h target) := by
  unfold State.complete
  extract_lets a a' copy exits convoy r d cost
  refine safe_setHart (safe_pipeFor ?_ _ _ _ _ _) _ _
  exact safe_logStep safe _ _ _ _

@[simp] theorem safe_pairSwitch {s : State} (safe : Safe s) (k : Nat) :
    Safe (State.pairSwitch s k) := by
  unfold State.pairSwitch
  (repeat' split) <;> simp [*]

@[simp] theorem safe_stallOn {s : State} (safe : Safe s) (k : Nat) (h : Hart) (i : Instr) (m : Bool) (ws : List Nat) :
    Safe (State.stallOn s k h i m ws) := by
  unfold State.stallOn
  dsimp only
  split <;> simp [*]

@[simp] theorem safe_settle {s : State} (safe : Safe s) (k : Nat) (h : Hart) (i : Instr) {r : Result} (ok : SafeResult r) :
    Safe (s.settle k h i r) := by
  cases r <;> simp only [State.settle, safeResult_done, safeResult_jump, safeResult_soft, safeResult_stall, safeResult_left] at ok ⊢
  · exact safe_complete ok _ _ _ _ _
  · exact safe_complete ok _ _ _ _ _
  · exact safe_trap safe _ _ _ _
  · exact safe_complete ok _ _ _ _ _
  · exact safe_stallOn ok _ _ _ _ _
  · exact ok

theorem safe_run {s : State} (safe : Safe s) {i : Instr} {body : State → Hart → Result}
    (ok : ∀ s h, Safe s → SafeResult (body s h)) : Safe (s.run i body) := by
  unfold State.run
  split
  · exact safe
  · split
    · exact safe
    · exact safe_stallOn safe _ _ _ _ _
    · exact safe_trap safe _ _ _ _
    · exact safe_settle safe _ _ _ (ok _ _ safe)

@[simp] theorem safe_compute {s : State} (safe : Safe s) (i : Instr) (f : Arch → Arch) : Safe (s.compute i f) :=
  safe_run safe fun _ _ safe => safe

@[simp] theorem safe_takeIssue {s : State} (safe : Safe s) (k : Nat) :
    Safe (State.takeIssue s k) := by
  unfold State.takeIssue
  (repeat' split) <;> simp [*]

@[simp] theorem safe_sendStore {s : State} (safe : Safe s) (k : Nat) (h : Hart) (cls : BitVec 4) (mark : GranuleMark)
    (ws : List (Phys × List ByteWrite)) (els : List Elem) : SafePair (State.sendStore s k h cls mark ws els) := by
  unfold State.sendStore
  extract_lets c s1
  have h1 : Safe s1 := safe_perform safe _ _
  clear_value s1
  generalize linksOf (ws.map (·.1)) = l
  suffices ∀ p : State × Hart, SafePair p → SafePair (l.foldl _ p) from this (s1, h) h1
  intro p hp
  induction l generalizing p with
  | nil => exact hp
  | cons x t ih => exact ih _ hp

@[simp] theorem safe_store {s : State} (safe : Safe s) (k : Nat) (g : Group) (h : Hart) (cls : BitVec 4) (mark : GranuleMark)
    (ws : List (Phys × List ByteWrite)) (els : List Elem) : SafeResult (State.store s k g h cls mark ws els) := by
  unfold State.store
  dsimp only
  (repeat' split) <;> first
    | exact safe
    | exact safe_sendStore (safe_access safe _ _ _) _ _ _ _ _ _
    | exact safe_cacheAll safe _ _ _

/-- A load or an atomic that waits for a link or for tokens leaves memory and tags as they are. -/
theorem State.awaitLinks_spec {s : State} {k : Nat} {h : Hart} {cls : BitVec 4} {rmw : Bool} {ps : List Phys} {r : State × Hart}
    (e : s.awaitLinks k h cls rmw ps = some r) :
    r.1.harts = s.harts ∧ r.1.mem = s.mem ∧ r.1.gtag = s.gtag ∧ r.2 = { h with pending := r.2.pending } := by
  unfold State.awaitLinks at e
  dsimp only at e
  (repeat' split at e) <;> simp at e <;> subst e <;> exact ⟨rfl, rfl, rfl, rfl⟩

theorem safe_awaitLinks {s : State} (safe : Safe s) {k : Nat} {h : Hart} {cls : BitVec 4} {rmw : Bool} {ps : List Phys}
    {r : State × Hart} (e : s.awaitLinks k h cls rmw ps = some r) : Safe r.1 :=
  (safe_of_eq (State.awaitLinks_spec e).2.1 (State.awaitLinks_spec e).2.2.1).2 safe

@[simp] theorem safe_suppress {s : State} (safe : Safe s) (h : Hart) (c : Cause) (effect : Hart → Hart) :
    SafeResult (suppress s h c effect) := by
  unfold suppress
  split
  · trivial
  · exact safe

theorem safe_withGroup {s : State} (safe : Safe s) (h : Hart) {f : Group → Result} (ok : ∀ g, SafeResult (f g)) :
    SafeResult (s.withGroup h f) := by
  unfold State.withGroup
  split
  · exact ok _
  · exact safe

@[simp] theorem safe_alu {s : State} (safe : Safe s) (i : Instr) (d a b : Reg) (f : Word → Word → Word) :
    Safe (State.alu s i d a b f) := by simp [State.alu, safe]

@[simp] theorem safe_alu1 {s : State} (safe : Safe s) (i : Instr) (d a : Reg) (f : Word → Word) :
    Safe (State.alu1 s i d a f) := by simp [State.alu1, safe]

@[simp] theorem safe_execAdd {s : State} (safe : Safe s) (d a b : Reg) :
    SafeOutcome (execAdd d a b s) := by simp [execAdd, safe]

@[simp] theorem safe_execSub {s : State} (safe : Safe s) (d a b : Reg) :
    SafeOutcome (execSub d a b s) := by simp [execSub, safe]

@[simp] theorem safe_execMul {s : State} (safe : Safe s) (d a b : Reg) :
    SafeOutcome (execMul d a b s) := by simp [execMul, safe]

@[simp] theorem safe_execMulh {s : State} (safe : Safe s) (d a b : Reg) :
    SafeOutcome (execMulh d a b s) := by simp [execMulh, safe]

@[simp] theorem safe_execMulhu {s : State} (safe : Safe s) (d a b : Reg) :
    SafeOutcome (execMulhu d a b s) := by simp [execMulhu, safe]

@[simp] theorem safe_execDiv {s : State} (safe : Safe s) (d a b : Reg) :
    SafeOutcome (execDiv d a b s) := by simp [execDiv, safe]

@[simp] theorem safe_execDivu {s : State} (safe : Safe s) (d a b : Reg) :
    SafeOutcome (execDivu d a b s) := by simp [execDivu, safe]

@[simp] theorem safe_execRem {s : State} (safe : Safe s) (d a b : Reg) :
    SafeOutcome (execRem d a b s) := by simp [execRem, safe]

@[simp] theorem safe_execRemu {s : State} (safe : Safe s) (d a b : Reg) :
    SafeOutcome (execRemu d a b s) := by simp [execRemu, safe]

@[simp] theorem safe_execAnd {s : State} (safe : Safe s) (d a b : Reg) :
    SafeOutcome (execAnd d a b s) := by simp [execAnd, safe]

@[simp] theorem safe_execOr {s : State} (safe : Safe s) (d a b : Reg) :
    SafeOutcome (execOr d a b s) := by simp [execOr, safe]

@[simp] theorem safe_execXor {s : State} (safe : Safe s) (d a b : Reg) :
    SafeOutcome (execXor d a b s) := by simp [execXor, safe]

@[simp] theorem safe_execAndn {s : State} (safe : Safe s) (d a b : Reg) :
    SafeOutcome (execAndn d a b s) := by simp [execAndn, safe]

@[simp] theorem safe_execSll {s : State} (safe : Safe s) (d a b : Reg) :
    SafeOutcome (execSll d a b s) := by simp [execSll, safe]

@[simp] theorem safe_execSrl {s : State} (safe : Safe s) (d a b : Reg) :
    SafeOutcome (execSrl d a b s) := by simp [execSrl, safe]

@[simp] theorem safe_execSra {s : State} (safe : Safe s) (d a b : Reg) :
    SafeOutcome (execSra d a b s) := by simp [execSra, safe]

@[simp] theorem safe_execSlt {s : State} (safe : Safe s) (d a b : Reg) :
    SafeOutcome (execSlt d a b s) := by simp [execSlt, safe]

@[simp] theorem safe_execSltu {s : State} (safe : Safe s) (d a b : Reg) :
    SafeOutcome (execSltu d a b s) := by simp [execSltu, safe]

@[simp] theorem safe_execMin {s : State} (safe : Safe s) (d a b : Reg) :
    SafeOutcome (execMin d a b s) := by simp [execMin, safe]

@[simp] theorem safe_execMax {s : State} (safe : Safe s) (d a b : Reg) :
    SafeOutcome (execMax d a b s) := by simp [execMax, safe]

@[simp] theorem safe_execMinu {s : State} (safe : Safe s) (d a b : Reg) :
    SafeOutcome (execMinu d a b s) := by simp [execMinu, safe]

@[simp] theorem safe_execMaxu {s : State} (safe : Safe s) (d a b : Reg) :
    SafeOutcome (execMaxu d a b s) := by simp [execMaxu, safe]

@[simp] theorem safe_execClz {s : State} (safe : Safe s) (d a : Reg) :
    SafeOutcome (execClz d a s) := by simp [execClz, safe]

@[simp] theorem safe_execCtz {s : State} (safe : Safe s) (d a : Reg) :
    SafeOutcome (execCtz d a s) := by simp [execCtz, safe]

@[simp] theorem safe_execCnt {s : State} (safe : Safe s) (d a : Reg) :
    SafeOutcome (execCnt d a s) := by simp [execCnt, safe]

@[simp] theorem safe_execSextB {s : State} (safe : Safe s) (d a : Reg) :
    SafeOutcome (execSextB d a s) := by simp [execSextB, safe]

@[simp] theorem safe_execSextH {s : State} (safe : Safe s) (d a : Reg) :
    SafeOutcome (execSextH d a s) := by simp [execSextH, safe]

@[simp] theorem safe_execSextW {s : State} (safe : Safe s) (d a : Reg) :
    SafeOutcome (execSextW d a s) := by simp [execSextW, safe]

@[simp] theorem safe_execZextB {s : State} (safe : Safe s) (d a : Reg) :
    SafeOutcome (execZextB d a s) := by simp [execZextB, safe]

@[simp] theorem safe_execZextH {s : State} (safe : Safe s) (d a : Reg) :
    SafeOutcome (execZextH d a s) := by simp [execZextH, safe]

@[simp] theorem safe_execZextW {s : State} (safe : Safe s) (d a : Reg) :
    SafeOutcome (execZextW d a s) := by simp [execZextW, safe]

@[simp] theorem safe_execAddi {s : State} (safe : Safe s) (d a : Reg) (imm : BitVec 12) :
    SafeOutcome (execAddi d a imm s) := by simp [execAddi, safe]

@[simp] theorem safe_execAndi {s : State} (safe : Safe s) (d a : Reg) (imm : BitVec 12) :
    SafeOutcome (execAndi d a imm s) := by simp [execAndi, safe]

@[simp] theorem safe_execOri {s : State} (safe : Safe s) (d a : Reg) (imm : BitVec 12) :
    SafeOutcome (execOri d a imm s) := by simp [execOri, safe]

@[simp] theorem safe_execXori {s : State} (safe : Safe s) (d a : Reg) (imm : BitVec 12) :
    SafeOutcome (execXori d a imm s) := by simp [execXori, safe]

@[simp] theorem safe_execSlti {s : State} (safe : Safe s) (d a : Reg) (imm : BitVec 12) :
    SafeOutcome (execSlti d a imm s) := by simp [execSlti, safe]

@[simp] theorem safe_execSltiu {s : State} (safe : Safe s) (d a : Reg) (imm : BitVec 12) :
    SafeOutcome (execSltiu d a imm s) := by simp [execSltiu, safe]

@[simp] theorem safe_execSlli {s : State} (safe : Safe s) (d a : Reg) (n : BitVec 6) :
    SafeOutcome (execSlli d a n s) := by simp [execSlli, safe]

@[simp] theorem safe_execSrli {s : State} (safe : Safe s) (d a : Reg) (n : BitVec 6) :
    SafeOutcome (execSrli d a n s) := by simp [execSrli, safe]

@[simp] theorem safe_execSrai {s : State} (safe : Safe s) (d a : Reg) (n : BitVec 6) :
    SafeOutcome (execSrai d a n s) := by simp [execSrai, safe]

@[simp] theorem safe_execBfx {s : State} (safe : Safe s) (d a : Reg) (lo wm1 : BitVec 6) :
    SafeOutcome (execBfx d a lo wm1 s) := by simp [execBfx, safe]

@[simp] theorem safe_execLui {s : State} (safe : Safe s) (d : Reg) (imm : BitVec 18) :
    SafeOutcome (execLui d imm s) := by simp [execLui, safe]

@[simp] theorem safe_execAupc {s : State} (safe : Safe s) (d : Reg) (imm : BitVec 18) :
    SafeOutcome (execAupc d imm s) := by simp [execAupc, safe]

@[simp] theorem safe_fpu {s : State} (safe : Safe s) (i : Instr) (d a b : Reg) (w : Bool) (m : Rnd) (f : Num → Num → Fl Num) :
    Safe (State.fpu s i d a b w m f) := by simp [State.fpu, safe]

@[simp] theorem safe_fcmp {s : State} (safe : Safe s) (i : Instr) (d a b : Reg) (w : Bool) (rel : Nat) :
    Safe (State.fcmp s i d a b w rel) := by simp [State.fcmp, safe]

@[simp] theorem safe_execFadd {s : State} (safe : Safe s) (d a b : Reg) (rnd : BitVec 2) (w : Bool) :
    SafeOutcome (execFadd d a b rnd w s) := by simp [execFadd, safe]

@[simp] theorem safe_execFsub {s : State} (safe : Safe s) (d a b : Reg) (rnd : BitVec 2) (w : Bool) :
    SafeOutcome (execFsub d a b rnd w s) := by simp [execFsub, safe]

@[simp] theorem safe_execFmul {s : State} (safe : Safe s) (d a b : Reg) (rnd : BitVec 2) (w : Bool) :
    SafeOutcome (execFmul d a b rnd w s) := by simp [execFmul, safe]

@[simp] theorem safe_execFdiv {s : State} (safe : Safe s) (d a b : Reg) (rnd : BitVec 2) (w : Bool) :
    SafeOutcome (execFdiv d a b rnd w s) := by simp [execFdiv, safe]

@[simp] theorem safe_execFsqrt {s : State} (safe : Safe s) (d a : Reg) (rnd : BitVec 2) (w : Bool) :
    SafeOutcome (execFsqrt d a rnd w s) := by simp [execFsqrt, safe]

@[simp] theorem safe_execFmac {s : State} (safe : Safe s) (d a b : Reg) (rnd : BitVec 2) (w : Bool) :
    SafeOutcome (execFmac d a b rnd w s) := by simp [execFmac, safe]

@[simp] theorem safe_execFmin {s : State} (safe : Safe s) (d a b : Reg) (w : Bool) :
    SafeOutcome (execFmin d a b w s) := by simp [execFmin, safe]

@[simp] theorem safe_execFmax {s : State} (safe : Safe s) (d a b : Reg) (w : Bool) :
    SafeOutcome (execFmax d a b w s) := by simp [execFmax, safe]

@[simp] theorem safe_execFeq {s : State} (safe : Safe s) (d a b : Reg) (w : Bool) :
    SafeOutcome (execFeq d a b w s) := by simp [execFeq, safe]

@[simp] theorem safe_execFlt {s : State} (safe : Safe s) (d a b : Reg) (w : Bool) :
    SafeOutcome (execFlt d a b w s) := by simp [execFlt, safe]

@[simp] theorem safe_execFle {s : State} (safe : Safe s) (d a b : Reg) (w : Bool) :
    SafeOutcome (execFle d a b w s) := by simp [execFle, safe]

@[simp] theorem safe_execFtoi {s : State} (safe : Safe s) (d a : Reg) (rnd : BitVec 2) (w : Bool) :
    SafeOutcome (execFtoi d a rnd w s) := by simp [execFtoi, safe]

@[simp] theorem safe_execFtou {s : State} (safe : Safe s) (d a : Reg) (rnd : BitVec 2) (w : Bool) :
    SafeOutcome (execFtou d a rnd w s) := by simp [execFtou, safe]

@[simp] theorem safe_execItof {s : State} (safe : Safe s) (d a : Reg) (rnd : BitVec 2) (w : Bool) :
    SafeOutcome (execItof d a rnd w s) := by simp [execItof, safe]

@[simp] theorem safe_execUtof {s : State} (safe : Safe s) (d a : Reg) (rnd : BitVec 2) (w : Bool) :
    SafeOutcome (execUtof d a rnd w s) := by simp [execUtof, safe]

@[simp] theorem safe_execFnarrow {s : State} (safe : Safe s) (d a : Reg) (rnd : BitVec 2) :
    SafeOutcome (execFnarrow d a rnd s) := by simp [execFnarrow, safe]

@[simp] theorem safe_execFwiden {s : State} (safe : Safe s) (d a : Reg) (rnd : BitVec 2) :
    SafeOutcome (execFwiden d a rnd s) := by simp [execFwiden, safe]

@[simp] theorem safe_branch {s : State} (safe : Safe s) {n : Nat} (i : Instr) (off : BitVec n) (taken : State → Hart → Bool) :
    Safe (State.branch s i off taken) := safe_run safe fun s h safe => by (repeat' split) <;> simp [*]

@[simp] theorem safe_execBeq {s : State} (safe : Safe s) (a b : Reg) (off : BitVec 12) :
    SafeOutcome (execBeq a b off s) := by simp [execBeq, safe]

@[simp] theorem safe_execBne {s : State} (safe : Safe s) (a b : Reg) (off : BitVec 12) :
    SafeOutcome (execBne a b off s) := by simp [execBne, safe]

@[simp] theorem safe_execBlt {s : State} (safe : Safe s) (a b : Reg) (off : BitVec 12) :
    SafeOutcome (execBlt a b off s) := by simp [execBlt, safe]

@[simp] theorem safe_execBge {s : State} (safe : Safe s) (a b : Reg) (off : BitVec 12) :
    SafeOutcome (execBge a b off s) := by simp [execBge, safe]

@[simp] theorem safe_execBltu {s : State} (safe : Safe s) (a b : Reg) (off : BitVec 12) :
    SafeOutcome (execBltu a b off s) := by simp [execBltu, safe]

@[simp] theorem safe_execBgeu {s : State} (safe : Safe s) (a b : Reg) (off : BitVec 12) :
    SafeOutcome (execBgeu a b off s) := by simp [execBgeu, safe]

@[simp] theorem safe_execJal {s : State} (safe : Safe s) (off : BitVec 24) :
    SafeOutcome (execJal off s) := safeOutcome_next.2 (safe_run safe fun s h safe => by (repeat' split) <;> simp [*])

@[simp] theorem safe_execJalr {s : State} (safe : Safe s) (d a : Reg) (imm : BitVec 12) :
    SafeOutcome (execJalr d a imm s) := safeOutcome_next.2 (safe_run safe fun s h safe => by (repeat' split) <;> simp [*])

@[simp] theorem safe_arm {s : State} (safe : Safe s) (i : Instr) (n : Bool) (c : Hart → Nat) (e : Nat) :
    Safe (State.arm s i n c e) := safe_run safe fun s h safe => by (repeat' split) <;> simp [*]

@[simp] theorem safe_execLoop {s : State} (safe : Safe s) (n : Bool) (a : Reg) (e : BitVec 16) :
    SafeOutcome (execLoop n a e s) := by simp [execLoop, safe]

@[simp] theorem safe_execLoopi {s : State} (safe : Safe s) (n : Bool) (count : BitVec 11) (e : BitVec 12) :
    SafeOutcome (execLoopi n count e s) := by simp [execLoopi, safe]

@[simp] theorem safe_execBany {s : State} (safe : Safe s) (m : BitVec 4) (off : BitVec 18) :
    SafeOutcome (execBany m off s) := by simp [execBany, safe]

@[simp] theorem safe_execBnone {s : State} (safe : Safe s) (m : BitVec 4) (off : BitVec 18) :
    SafeOutcome (execBnone m off s) := by simp [execBnone, safe]

end Sys2Proof.Machine
end

