-- ==== Sys2Proof/Laws/SafeMemory.lean ====
section
/-! SUPPORT. The meanings of scalar memory, of barriers and pages and of vector arithmetic keep memory and granule tags in canonical form. -/

namespace Sys2Proof.Machine

@[simp] theorem safe_loadScalar {s : State} (safe : Safe s) (i : Instr) (d a : Reg) (cls : BitVec 4) (sp : BitVec 2) (disp : BitVec 6) (size : Nat) (ext : Nat → Word) :
    Safe (State.loadScalar s i d a cls sp disp size ext) := safe_run safe fun s h safe => by
  repeat' first | assumption | exact safe_awaitLinks safe (by assumption) | split | dsimp only | (simp (maxDischargeDepth := 30) [*]; done) | refine safe_withGroup safe _ fun g => ?_

@[simp] theorem safe_storeScalar {s : State} (safe : Safe s) (i : Instr) (d a : Reg) (cls : BitVec 4) (sp : BitVec 2) (disp : BitVec 6) (size : Nat) :
    Safe (State.storeScalar s i d a cls sp disp size) := safe_run safe fun s h safe => by
  repeat' first | assumption | exact safe_awaitLinks safe (by assumption) | split | dsimp only | (simp (maxDischargeDepth := 30) [*]; done) | refine safe_withGroup safe _ fun g => ?_

@[simp] theorem safe_atomic {s : State} (safe : Safe s) (i : Instr) (d a b : Reg) (ord : BitVec 2) (cls : BitVec 4) (sp : Nat) (hostOk : Bool) (f : Word → Word → Word → Word) :
    Safe (State.atomic s i d a b ord cls sp hostOk f) := safe_run safe fun s h safe => by
  repeat' first | assumption | exact safe_awaitLinks safe (by assumption) | split | dsimp only | (simp (maxDischargeDepth := 30) [*]; done) | refine safe_withGroup safe _ fun g => ?_

@[simp] theorem safe_execLdb {s : State} (safe : Safe s) (d a : Reg) (cls : BitVec 4) (sp : BitVec 2) (disp : BitVec 6) :
    SafeOutcome (execLdb d a cls sp disp s) := by simp [execLdb, safe]

@[simp] theorem safe_execLdbu {s : State} (safe : Safe s) (d a : Reg) (cls : BitVec 4) (sp : BitVec 2) (disp : BitVec 6) :
    SafeOutcome (execLdbu d a cls sp disp s) := by simp [execLdbu, safe]

@[simp] theorem safe_execLdh {s : State} (safe : Safe s) (d a : Reg) (cls : BitVec 4) (sp : BitVec 2) (disp : BitVec 6) :
    SafeOutcome (execLdh d a cls sp disp s) := by simp [execLdh, safe]

@[simp] theorem safe_execLdhu {s : State} (safe : Safe s) (d a : Reg) (cls : BitVec 4) (sp : BitVec 2) (disp : BitVec 6) :
    SafeOutcome (execLdhu d a cls sp disp s) := by simp [execLdhu, safe]

@[simp] theorem safe_execLdw {s : State} (safe : Safe s) (d a : Reg) (cls : BitVec 4) (sp : BitVec 2) (disp : BitVec 6) :
    SafeOutcome (execLdw d a cls sp disp s) := by simp [execLdw, safe]

@[simp] theorem safe_execLdwu {s : State} (safe : Safe s) (d a : Reg) (cls : BitVec 4) (sp : BitVec 2) (disp : BitVec 6) :
    SafeOutcome (execLdwu d a cls sp disp s) := by simp [execLdwu, safe]

@[simp] theorem safe_execLdd {s : State} (safe : Safe s) (d a : Reg) (cls : BitVec 4) (sp : BitVec 2) (disp : BitVec 6) :
    SafeOutcome (execLdd d a cls sp disp s) := by simp [execLdd, safe]

@[simp] theorem safe_execStb {s : State} (safe : Safe s) (d a : Reg) (cls : BitVec 4) (sp : BitVec 2) (disp : BitVec 6) :
    SafeOutcome (execStb d a cls sp disp s) := by simp [execStb, safe]

@[simp] theorem safe_execSth {s : State} (safe : Safe s) (d a : Reg) (cls : BitVec 4) (sp : BitVec 2) (disp : BitVec 6) :
    SafeOutcome (execSth d a cls sp disp s) := by simp [execSth, safe]

@[simp] theorem safe_execStw {s : State} (safe : Safe s) (d a : Reg) (cls : BitVec 4) (sp : BitVec 2) (disp : BitVec 6) :
    SafeOutcome (execStw d a cls sp disp s) := by simp [execStw, safe]

@[simp] theorem safe_execStd {s : State} (safe : Safe s) (d a : Reg) (cls : BitVec 4) (sp : BitVec 2) (disp : BitVec 6) :
    SafeOutcome (execStd d a cls sp disp s) := by simp [execStd, safe]

@[simp] theorem safe_execAadd {s : State} (safe : Safe s) (d a b : Reg) (ord : BitVec 2) (cls : BitVec 4) :
    SafeOutcome (execAadd d a b ord cls s) := by simp [execAadd, safe]

@[simp] theorem safe_execAswp {s : State} (safe : Safe s) (d a b : Reg) (ord : BitVec 2) (cls : BitVec 4) :
    SafeOutcome (execAswp d a b ord cls s) := by simp [execAswp, safe]

@[simp] theorem safe_execAcas {s : State} (safe : Safe s) (d a b : Reg) (ord : BitVec 2) (cls : BitVec 4) :
    SafeOutcome (execAcas d a b ord cls s) := by simp [execAcas, safe]

@[simp] theorem safe_execAmax {s : State} (safe : Safe s) (d a b : Reg) (ord : BitVec 2) (cls : BitVec 4) :
    SafeOutcome (execAmax d a b ord cls s) := by simp [execAmax, safe]

@[simp] theorem safe_execAmin {s : State} (safe : Safe s) (d a b : Reg) (ord : BitVec 2) (cls : BitVec 4) :
    SafeOutcome (execAmin d a b ord cls s) := by simp [execAmin, safe]

@[simp] theorem safe_execAaddBel {s : State} (safe : Safe s) (d a b : Reg) (ord : BitVec 2) (cls : BitVec 4) :
    SafeOutcome (execAaddBel d a b ord cls s) := by simp [execAaddBel, safe]

@[simp] theorem safe_execAswpBel {s : State} (safe : Safe s) (d a b : Reg) (ord : BitVec 2) (cls : BitVec 4) :
    SafeOutcome (execAswpBel d a b ord cls s) := by simp [execAswpBel, safe]

@[simp] theorem safe_execAcasBel {s : State} (safe : Safe s) (d a b : Reg) (ord : BitVec 2) (cls : BitVec 4) :
    SafeOutcome (execAcasBel d a b ord cls s) := by simp [execAcasBel, safe]

@[simp] theorem safe_execAmaxBel {s : State} (safe : Safe s) (d a b : Reg) (ord : BitVec 2) (cls : BitVec 4) :
    SafeOutcome (execAmaxBel d a b ord cls s) := by simp [execAmaxBel, safe]

@[simp] theorem safe_execAminBel {s : State} (safe : Safe s) (d a b : Reg) (ord : BitVec 2) (cls : BitVec 4) :
    SafeOutcome (execAminBel d a b ord cls s) := by simp [execAminBel, safe]

@[simp] theorem safe_execGetc {s : State} (safe : Safe s) (d : Reg) (bank : BitVec 4) (idx : BitVec 8) :
    SafeOutcome (execGetc d bank idx s) := safeOutcome_next.2 (safe_run safe fun s h safe => by (repeat' split) <;> simp [*])

@[simp] theorem safe_execSetc {s : State} (safe : Safe s) (a : Reg) (bank : BitVec 4) (idx : BitVec 8) :
    SafeOutcome (execSetc a bank idx s) := safeOutcome_next.2 (safe_run safe fun s h safe => by (repeat' split) <;> simp [*])

@[simp] theorem safe_execTrap {s : State} (safe : Safe s) (n : BitVec 12) :
    SafeOutcome (execTrap n s) := safeOutcome_next.2 (safe_run safe fun s h safe => by (repeat' split) <;> simp [*])

@[simp] theorem safe_execEbrk {s : State} (safe : Safe s) (n : BitVec 12) :
    SafeOutcome (execEbrk n s) := safeOutcome_next.2 (safe_run safe fun s h safe => by (repeat' split) <;> simp [*])

@[simp] theorem safe_execEret {s : State} (safe : Safe s) (after : Bool) :
    SafeOutcome (execEret after s) := safeOutcome_next.2 (safe_run safe fun s h safe => by (repeat' split) <;> simp [*])

@[simp] theorem safe_dropFaults {s : State} (safe : Safe s) (g : Nat) :
    Safe (State.dropFaults s g) := by
  unfold State.dropFaults
  repeat' first | assumption | split | dsimp only | (simp (maxDischargeDepth := 30) [*]; done) | (refine safe_withGroup (by assumption) _ fun g => ?_) | (refine safe_onSelected (by assumption) _ fun k h => ?_) | (refine safe_foldl (fun s x hs => ?_) ?_ _) | (refine safeOutcome_next.2 ?_)

@[simp] theorem safe_endHart {s : State} (safe : Safe s) (k : Nat) :
    Safe (State.endHart s k) := by
  unfold State.endHart
  repeat' first | assumption | split | dsimp only | (simp (maxDischargeDepth := 30) [*]; done) | (refine safe_withGroup (by assumption) _ fun g => ?_) | (refine safe_onSelected (by assumption) _ fun k h => ?_) | (refine safe_foldl (fun s x hs => ?_) ?_ _) | (refine safeOutcome_next.2 ?_)

@[simp] theorem safe_execHalt {s : State} (safe : Safe s) :
    SafeOutcome (execHalt s) := safeOutcome_next.2 (safe_run safe fun s h safe => by (repeat' split) <;> simp [*])

@[simp] theorem safe_execLaunch {s : State} (safe : Safe s) (d a : Reg) (q : BitVec 4) :
    SafeOutcome (execLaunch d a q s) := safeOutcome_next.2 (safe_run safe fun s h safe => by (repeat' split) <;> simp [*])

@[simp] theorem safe_execTokrd {s : State} (safe : Safe s) (d : Reg) (t : BitVec 6) :
    SafeOutcome (execTokrd d t s) := safeOutcome_next.2 (safe_run safe fun s h safe => safe_withGroup safe _ fun g => by (repeat' split) <;> simp [*])

@[simp] theorem safe_execTokwr {s : State} (safe : Safe s) (a : Reg) (t : BitVec 6) :
    SafeOutcome (execTokwr a t s) := safeOutcome_next.2 (safe_run safe fun s h safe => by (repeat' split) <;> simp [*])

@[simp] theorem safe_raise {s : State} (safe : Safe s) (c : Cause) (syl : Syl) :
    Safe (State.raise s c syl) := by
  unfold State.raise
  (repeat' split) <;> simp [*]

@[simp] theorem safe_execIllegalInstruction {s : State} (safe : Safe s) (w : Syl) :
    SafeOutcome (execIllegalInstruction w s) := by simp [execIllegalInstruction, safe]

@[simp] theorem safe_execFetchFault {s : State} (safe : Safe s) (f : XFault) :
    SafeOutcome (execFetchFault f s) := by simp [execFetchFault, safe]

@[simp] theorem safe_execAsyncTrapEntry {s : State} (safe : Safe s) (k : Nat) :
    SafeOutcome (execAsyncTrapEntry k s) := by
  unfold execAsyncTrapEntry
  refine safeOutcome_next.2 ?_
  split
  · exact safe
  · split
    · exact safe
    · split
      · extract_lets r
        have hr : SafePair r := by
          dsimp only [r]
          split
          · exact safe_logValue safe _ _ _ _
          · exact safe
        exact safe_enterTrap hr _ _ _ _ _ _
      · exact safe

@[simp] theorem safe_setBar {s : State} (safe : Safe s) (g b : Nat) (x : Barrier) :
    Safe (State.setBar s g b x) := by simp [State.setBar, safe]

@[simp] theorem safe_barStep {s : State} (safe : Safe s) (g b : Nat) (x : Barrier) :
    Safe (State.barStep s g b x) := by
  unfold State.barStep
  repeat' first | assumption | split | dsimp only | (simp (maxDischargeDepth := 30) [*]; done) | (refine safe_withGroup (by assumption) _ fun g => ?_) | (refine safe_onSelected (by assumption) _ fun k h => ?_) | (refine safe_foldl (fun s x hs => ?_) ?_ _) | (refine safeOutcome_next.2 ?_)

@[simp] theorem safe_barMisuse (b : BitVec 6) : SafeResult (barMisuse b) := trivial

@[simp] theorem safe_execBarInit {s : State} (safe : Safe s) (a : Reg) (b : BitVec 6) :
    SafeOutcome (execBarInit a b s) := safeOutcome_next.2 (safe_run safe fun s h safe => by
  repeat' first | assumption | split | dsimp only | (simp (maxDischargeDepth := 30) [*]; done) | refine safe_withGroup safe _ fun g => ?_)

@[simp] theorem safe_execBarArr {s : State} (safe : Safe s) (d : Reg) (ord : BitVec 2) (b : BitVec 6) :
    SafeOutcome (execBarArr d ord b s) := safeOutcome_next.2 (safe_run safe fun s h safe => by
  repeat' first | assumption | split | dsimp only | (simp (maxDischargeDepth := 30) [*]; done) | refine safe_withGroup safe _ fun g => ?_)

@[simp] theorem safe_execBarWt {s : State} (safe : Safe s) (a : Reg) (ord : BitVec 2) (b : BitVec 6) :
    SafeOutcome (execBarWt a ord b s) := safeOutcome_next.2 (safe_run safe fun s h safe => by
  repeat' first | assumption | split | dsimp only | (simp (maxDischargeDepth := 30) [*]; done) | refine safe_withGroup safe _ fun g => ?_)

@[simp] theorem safe_execBarAw {s : State} (safe : Safe s) (d : Reg) (ord : BitVec 2) (b : BitVec 6) :
    SafeOutcome (execBarAw d ord b s) := safeOutcome_next.2 (safe_run safe fun s h safe => by
  repeat' first | assumption | split | dsimp only | (simp (maxDischargeDepth := 30) [*]; done) | refine safe_withGroup safe _ fun g => ?_)

@[simp] theorem safe_execBarDrop {s : State} (safe : Safe s) (b : BitVec 6) :
    SafeOutcome (execBarDrop b s) := safeOutcome_next.2 (safe_run safe fun s h safe => by
  repeat' first | assumption | split | dsimp only | (simp (maxDischargeDepth := 30) [*]; done) | refine safe_withGroup safe _ fun g => ?_)

@[simp] theorem safe_execBarRd {s : State} (safe : Safe s) (d : Reg) (b : BitVec 6) :
    SafeOutcome (execBarRd d b s) := safeOutcome_next.2 (safe_run safe fun s h safe => safe_withGroup safe _ fun g => by (repeat' split) <;> simp [*])

@[simp] theorem safe_dropPages {s : State} (safe : Safe s) (c : Nat) (p : Pin → Bool) :
    Safe (State.dropPages s c p) := by
  unfold State.dropPages
  repeat' first | assumption | split | dsimp only | (simp (maxDischargeDepth := 30) [*]; done) | (refine safe_withGroup (by assumption) _ fun g => ?_) | (refine safe_onSelected (by assumption) _ fun k h => ?_) | (refine safe_foldl (fun s x hs => ?_) ?_ _) | (refine safeOutcome_next.2 ?_)

@[simp] theorem safe_execPfence {s : State} (safe : Safe s) :
    SafeOutcome (execPfence s) := safeOutcome_next.2 (safe_run safe fun s h safe => by (repeat' split) <;> simp [*])

@[simp] theorem safe_execPinv {s : State} (safe : Safe s) (a : Reg) (all : Bool) :
    SafeOutcome (execPinv a all s) := safeOutcome_next.2 (safe_run safe fun s h safe => by
  repeat' first | assumption | split | dsimp only | (simp (maxDischargeDepth := 30) [*]; done) | refine safe_withGroup safe _ fun g => ?_)

@[simp] theorem safe_execPcnt {s : State} (safe : Safe s) (d a : Reg) (clr : Bool) :
    SafeOutcome (execPcnt d a clr s) := safeOutcome_next.2 (safe_run safe fun s h safe => by
  repeat' first | assumption | split | dsimp only | (simp (maxDischargeDepth := 30) [*]; done) | refine safe_withGroup safe _ fun g => ?_)

@[simp] theorem safe_execPmig {s : State} (safe : Safe s) (d a : Reg) :
    SafeOutcome (execPmig d a s) := safeOutcome_next.2 (safe_run safe fun s h safe => by
  repeat' first | assumption | split | dsimp only | (simp (maxDischargeDepth := 30) [*]; done) | refine safe_withGroup safe _ fun g => ?_)

@[simp] theorem safe_execPmigCopyStart {s : State} (safe : Safe s) (k : Nat) :
    SafeOutcome (execPmigCopyStart k s) := by
  unfold execPmigCopyStart
  (repeat' split) <;> simp [*]

@[simp] theorem safe_movePage {s : State} (safe : Safe s) (old new : Word) (bits : Nat) :
    Safe (State.movePage s old new bits) := by
  unfold State.movePage
  dsimp only
  have hz := safe_zeroRange safe (frameKey new) (frameKey new + 2 ^ bits)
  refine ⟨Store.wf_foldl_set _ _ _ hz.1, ?_⟩
  split
  · exact Store.wf_foldl_set _ _ _ hz.2
  · exact hz.2

@[simp] theorem safe_execPmigLeafInstall {s : State} (safe : Safe s) (k : Nat) :
    SafeOutcome (execPmigLeafInstall k s) := by
  unfold execPmigLeafInstall
  repeat' first | assumption | split | dsimp only | (simp (maxDischargeDepth := 30) [*]; done) | (refine safe_withGroup (by assumption) _ fun g => ?_) | (refine safe_onSelected (by assumption) _ fun k h => ?_) | (refine safe_foldl (fun s x hs => ?_) ?_ _) | (refine safeOutcome_next.2 ?_)

@[simp] theorem safe_execPtbaseWrite {s : State} (safe : Safe s) (c : Nat) (v : Word) :
    SafeOutcome (execPtbaseWrite c v s) := by simp [execPtbaseWrite, safe]

@[simp] theorem safe_vector {s : State} (safe : Safe s) (i : Instr) (f : Arch → Nat → Except Cause Arch) :
    Safe (s.vector i f) := safe_run safe fun s h safe => by
  split
  · exact safe
  · trivial

@[simp] theorem safe_execVadd {s : State} (safe : Safe s) (f : VA) :
    SafeOutcome (execVadd f s) := by simp [execVadd, safe]

@[simp] theorem safe_execVsub {s : State} (safe : Safe s) (f : VA) :
    SafeOutcome (execVsub f s) := by simp [execVsub, safe]

@[simp] theorem safe_execVmin {s : State} (safe : Safe s) (f : VA) :
    SafeOutcome (execVmin f s) := by simp [execVmin, safe]

@[simp] theorem safe_execVmax {s : State} (safe : Safe s) (f : VA) :
    SafeOutcome (execVmax f s) := by simp [execVmax, safe]

@[simp] theorem safe_execVmul {s : State} (safe : Safe s) (f : VA) :
    SafeOutcome (execVmul f s) := by simp [execVmul, safe]

@[simp] theorem safe_execVmulh {s : State} (safe : Safe s) (f : VA) :
    SafeOutcome (execVmulh f s) := by simp [execVmulh, safe]

@[simp] theorem safe_execVdiv {s : State} (safe : Safe s) (f : VA) :
    SafeOutcome (execVdiv f s) := by simp [execVdiv, safe]

@[simp] theorem safe_execVfma {s : State} (safe : Safe s) (f : VA) :
    SafeOutcome (execVfma f s) := by simp [execVfma, safe]

@[simp] theorem safe_execVfms {s : State} (safe : Safe s) (f : VA) :
    SafeOutcome (execVfms f s) := by simp [execVfms, safe]

@[simp] theorem safe_execVabs {s : State} (safe : Safe s) (f : VA) :
    SafeOutcome (execVabs f s) := by simp [execVabs, safe]

@[simp] theorem safe_execVneg {s : State} (safe : Safe s) (f : VA) :
    SafeOutcome (execVneg f s) := by simp [execVneg, safe]

@[simp] theorem safe_execVcvt {s : State} (safe : Safe s) (f : VA) :
    SafeOutcome (execVcvt f s) := by simp [execVcvt, safe]

@[simp] theorem safe_execVnsat {s : State} (safe : Safe s) (f : VA) :
    SafeOutcome (execVnsat f s) := by simp [execVnsat, safe]

@[simp] theorem safe_execVsqrt {s : State} (safe : Safe s) (f : VA) :
    SafeOutcome (execVsqrt f s) := by simp [execVsqrt, safe]

@[simp] theorem safe_execVrcp {s : State} (safe : Safe s) (f : VA) :
    SafeOutcome (execVrcp f s) := by simp [execVrcp, safe]

@[simp] theorem safe_execVrsq {s : State} (safe : Safe s) (f : VA) :
    SafeOutcome (execVrsq f s) := by simp [execVrsq, safe]

@[simp] theorem safe_execVexp {s : State} (safe : Safe s) (f : VA) :
    SafeOutcome (execVexp f s) := by simp [execVexp, safe]

@[simp] theorem safe_execVlog {s : State} (safe : Safe s) (f : VA) :
    SafeOutcome (execVlog f s) := by simp [execVlog, safe]

@[simp] theorem safe_execVtanh {s : State} (safe : Safe s) (f : VA) :
    SafeOutcome (execVtanh f s) := by simp [execVtanh, safe]

@[simp] theorem safe_execVsig {s : State} (safe : Safe s) (f : VA) :
    SafeOutcome (execVsig f s) := by simp [execVsig, safe]

@[simp] theorem safe_execVand {s : State} (safe : Safe s) (f : VA) :
    SafeOutcome (execVand f s) := by simp [execVand, safe]

@[simp] theorem safe_execVor {s : State} (safe : Safe s) (f : VA) :
    SafeOutcome (execVor f s) := by simp [execVor, safe]

@[simp] theorem safe_execVxor {s : State} (safe : Safe s) (f : VA) :
    SafeOutcome (execVxor f s) := by simp [execVxor, safe]

@[simp] theorem safe_execVandn {s : State} (safe : Safe s) (f : VA) :
    SafeOutcome (execVandn f s) := by simp [execVandn, safe]

@[simp] theorem safe_execVsll {s : State} (safe : Safe s) (f : VA) :
    SafeOutcome (execVsll f s) := by simp [execVsll, safe]

@[simp] theorem safe_execVsrl {s : State} (safe : Safe s) (f : VA) :
    SafeOutcome (execVsrl f s) := by simp [execVsrl, safe]

@[simp] theorem safe_execVsra {s : State} (safe : Safe s) (f : VA) :
    SafeOutcome (execVsra f s) := by simp [execVsra, safe]

@[simp] theorem safe_execVrshr {s : State} (safe : Safe s) (f : VA) :
    SafeOutcome (execVrshr f s) := by simp [execVrshr, safe]

@[simp] theorem safe_execVadc {s : State} (safe : Safe s) (f : VA) :
    SafeOutcome (execVadc f s) := by simp [execVadc, safe]

@[simp] theorem safe_execVsbc {s : State} (safe : Safe s) (f : VA) :
    SafeOutcome (execVsbc f s) := by simp [execVsbc, safe]

@[simp] theorem safe_execVdot2 {s : State} (safe : Safe s) (f : VA) :
    SafeOutcome (execVdot2 f s) := by simp [execVdot2, safe]

@[simp] theorem safe_execVceq {s : State} (safe : Safe s) (f : VA) :
    SafeOutcome (execVceq f s) := by simp [execVceq, safe]

@[simp] theorem safe_execVcne {s : State} (safe : Safe s) (f : VA) :
    SafeOutcome (execVcne f s) := by simp [execVcne, safe]

@[simp] theorem safe_execVclt {s : State} (safe : Safe s) (f : VA) :
    SafeOutcome (execVclt f s) := by simp [execVclt, safe]

@[simp] theorem safe_execVcle {s : State} (safe : Safe s) (f : VA) :
    SafeOutcome (execVcle f s) := by simp [execVcle, safe]

@[simp] theorem safe_execVsel {s : State} (safe : Safe s) (f : VA) :
    SafeOutcome (execVsel f s) := by simp [execVsel, safe]

@[simp] theorem safe_execVmov {s : State} (safe : Safe s) (f : VA) :
    SafeOutcome (execVmov f s) := by simp [execVmov, safe]

@[simp] theorem safe_execVid {s : State} (safe : Safe s) (f : VA) :
    SafeOutcome (execVid f s) := by simp [execVid, safe]

@[simp] theorem safe_execVslup {s : State} (safe : Safe s) (f : VA) :
    SafeOutcome (execVslup f s) := by simp [execVslup, safe]

@[simp] theorem safe_execVsldn {s : State} (safe : Safe s) (f : VA) :
    SafeOutcome (execVsldn f s) := by simp [execVsldn, safe]

@[simp] theorem safe_execVcmpr {s : State} (safe : Safe s) (f : VA) :
    SafeOutcome (execVcmpr f s) := by simp [execVcmpr, safe]

@[simp] theorem safe_execVxpnd {s : State} (safe : Safe s) (f : VA) :
    SafeOutcome (execVxpnd f s) := by simp [execVxpnd, safe]

@[simp] theorem safe_execVgath {s : State} (safe : Safe s) (f : VA) :
    SafeOutcome (execVgath f s) := by simp [execVgath, safe]

@[simp] theorem safe_execVxtr {s : State} (safe : Safe s) (f : VA) :
    SafeOutcome (execVxtr f s) := by simp [execVxtr, safe]

@[simp] theorem safe_execVins {s : State} (safe : Safe s) (f : VA) :
    SafeOutcome (execVins f s) := by simp [execVins, safe]

@[simp] theorem safe_execVrsum {s : State} (safe : Safe s) (f : VA) :
    SafeOutcome (execVrsum f s) := by simp [execVrsum, safe]

@[simp] theorem safe_execVrmax {s : State} (safe : Safe s) (f : VA) :
    SafeOutcome (execVrmax f s) := by simp [execVrmax, safe]

@[simp] theorem safe_execVrmin {s : State} (safe : Safe s) (f : VA) :
    SafeOutcome (execVrmin f s) := by simp [execVrmin, safe]

@[simp] theorem safe_execVrand {s : State} (safe : Safe s) (f : VA) :
    SafeOutcome (execVrand f s) := by simp [execVrand, safe]

@[simp] theorem safe_execVrior {s : State} (safe : Safe s) (f : VA) :
    SafeOutcome (execVrior f s) := by simp [execVrior, safe]

@[simp] theorem safe_execVrxor {s : State} (safe : Safe s) (f : VA) :
    SafeOutcome (execVrxor f s) := by simp [execVrxor, safe]

@[simp] theorem safe_execVscan {s : State} (safe : Safe s) (f : VA) :
    SafeOutcome (execVscan f s) := by simp [execVscan, safe]

@[simp] theorem safe_execVscmx {s : State} (safe : Safe s) (f : VA) :
    SafeOutcome (execVscmx f s) := by simp [execVscmx, safe]

@[simp] theorem safe_execVrng {s : State} (safe : Safe s) (f : VA) :
    SafeOutcome (execVrng f s) := by simp [execVrng, safe]

@[simp] theorem safe_execVsmxAcc {s : State} (safe : Safe s) (f : VA) :
    SafeOutcome (execVsmxAcc f s) := by simp [execVsmxAcc, safe]

@[simp] theorem safe_execVsmxFin {s : State} (safe : Safe s) (f : VA) :
    SafeOutcome (execVsmxFin f s) := by simp [execVsmxFin, safe]

@[simp] theorem safe_execVsamp {s : State} (safe : Safe s) (f : VA) :
    SafeOutcome (execVsamp f s) := by simp [execVsamp, safe]

@[simp] theorem safe_execVtopkIns {s : State} (safe : Safe s) (f : VA) :
    SafeOutcome (execVtopkIns f s) := by simp [execVtopkIns, safe]

@[simp] theorem safe_execVtopkMrg {s : State} (safe : Safe s) (f : VA) :
    SafeOutcome (execVtopkMrg f s) := by simp [execVtopkMrg, safe]

@[simp] theorem safe_execMpre {s : State} (safe : Safe s) (f : VK) :
    SafeOutcome (execMpre f s) := by simp [execMpre, safe]

@[simp] theorem safe_execMthru {s : State} (safe : Safe s) (f : VK) :
    SafeOutcome (execMthru f s) := by simp [execMthru, safe]

@[simp] theorem safe_execMlatch {s : State} (safe : Safe s) (f : VK) :
    SafeOutcome (execMlatch f s) := by simp [execMlatch, safe]

@[simp] theorem safe_execMand {s : State} (safe : Safe s) (f : VK) :
    SafeOutcome (execMand f s) := by simp [execMand, safe]

@[simp] theorem safe_execMor {s : State} (safe : Safe s) (f : VK) :
    SafeOutcome (execMor f s) := by simp [execMor, safe]

@[simp] theorem safe_execMxor {s : State} (safe : Safe s) (f : VK) :
    SafeOutcome (execMxor f s) := by simp [execMxor, safe]

@[simp] theorem safe_execMandn {s : State} (safe : Safe s) (f : VK) :
    SafeOutcome (execMandn f s) := by simp [execMandn, safe]

@[simp] theorem safe_execMslide {s : State} (safe : Safe s) (f : VK) :
    SafeOutcome (execMslide f s) := by simp [execMslide, safe]

@[simp] theorem safe_execMcnt {s : State} (safe : Safe s) (f : VK) :
    SafeOutcome (execMcnt f s) := by simp [execMcnt, safe]

@[simp] theorem safe_execMfirst {s : State} (safe : Safe s) (f : VK) :
    SafeOutcome (execMfirst f s) := by simp [execMfirst, safe]

@[simp] theorem safe_execMftm {s : State} (safe : Safe s) (f : VK) :
    SafeOutcome (execMftm f s) := by simp [execMftm, safe]

end Sys2Proof.Machine
end

