-- ==== Sys2Proof/Laws/SafeUnits.lean ====
section
/-! SUPPORT. Vector memory, the engines, standing loads, the matrix unit and the queues keep memory and granule tags in canonical form. -/

namespace Sys2Proof.Machine

@[simp] theorem safe_execVshape {s : State} (safe : Safe s) (n : BitVec 2) (o : Cm) :
    SafeOutcome (execVshape n o s) := safeOutcome_next.2 (safe_run safe fun s h safe => by (repeat' split) <;> simp [*])

@[simp] theorem safe_execVtype {s : State} (safe : Safe s) (vd : Reg) (tag : BitVec 4) (dom : BitVec 3) (o : Cm) :
    SafeOutcome (execVtype vd tag dom o s) := by simp [execVtype, safe]

@[simp] theorem safe_execVstrip {s : State} (safe : Safe s) (d a b : Reg) (lq : Bool) (ew : BitVec 2) (o : Cm) :
    SafeOutcome (execVstrip d a b lq ew o s) := safeOutcome_next.2 (safe_run safe fun s h safe => by (repeat' split) <;> simp [*])

@[simp] theorem safe_execVpopq {s : State} (safe : Safe s) (m : BitVec 4) (o : Cm) :
    SafeOutcome (execVpopq m o s) := safeOutcome_next.2 (safe_run safe fun s h safe => by (repeat' split) <;> simp [*])

@[simp] theorem safe_execMfmt {s : State} (safe : Safe s) (n : BitVec 2) (a : Reg) (o : Cm) :
    SafeOutcome (execMfmt n a o s) := safeOutcome_next.2 (safe_run safe fun s h safe => by
  repeat' first | assumption | split | dsimp only | (simp (maxDischargeDepth := 30) [*]; done) | refine safe_withGroup safe _ fun g => ?_)

@[simp] theorem safe_execVacq {s : State} (safe : Safe s) (d : Reg) (nb : Bool) (o : Cm) :
    SafeOutcome (execVacq d nb o s) := safeOutcome_next.2 (safe_run safe fun s h safe => safe_withGroup safe _ fun g => by (repeat' split) <;> simp [*])

@[simp] theorem safe_execSeatGrant {s : State} (safe : Safe s) (spire : Nat) :
    SafeOutcome (execSeatGrant spire s) := by
  unfold execSeatGrant
  (repeat' split) <;> simp [*]

@[simp] theorem safe_execVrel {s : State} (safe : Safe s) (o : Cm) :
    SafeOutcome (execVrel o s) := safeOutcome_next.2 (safe_run safe fun s h safe => safe_withGroup safe _ fun g => by (repeat' split) <;> simp [*])

@[simp] theorem safe_execConvoy {s : State} (safe : Safe s) (n : BitVec 3) (slots : BitVec 24) :
    SafeOutcome (execConvoy n slots s) := safeOutcome_next.2 (safe_run safe fun s h safe => by
  repeat' first | assumption | split | dsimp only | (simp (maxDischargeDepth := 30) [*]; done) | refine safe_withGroup safe _ fun g => ?_)

@[simp] theorem safe_execVexit {s : State} (safe : Safe s) (m : BitVec 4) (b : Reg) (off : BitVec 20) (o : Cm) :
    SafeOutcome (execVexit m b off o s) := safeOutcome_next.2 (safe_run safe fun s h safe => by (repeat' split) <;> simp [*])

@[simp] theorem safe_execExitResolution {s : State} (safe : Safe s) (k : Nat) :
    SafeOutcome (execExitResolution k s) := by
  unfold execExitResolution
  (repeat' split) <;> simp [*]

@[simp] theorem safe_execHeldEntryDrain {s : State} (safe : Safe s) (k : Nat) :
    SafeOutcome (execHeldEntryDrain k s) := by
  unfold execHeldEntryDrain
  dsimp only
  (repeat' split) <;> simp (maxDischargeDepth := 30) [*]

@[simp] theorem safe_loadChecked {s : State} (safe : Safe s) (k : Nat) (h : Hart) (g : Group) (f : VM) (p : Plan) (l : Loading) (cs : List (Touch × Except Cause (List Phys))) (land : List Nat) :
    SafeResult (State.loadChecked s k h g f p l cs land) := by
  unfold State.loadChecked
  repeat' first | assumption | exact safe_awaitLinks safe (by assumption) | split | dsimp only | (simp [*]; done)

@[simp] theorem safe_loadVector {s : State} (safe : Safe s) (h : Hart) (g : Group) (f : VM) (p : Plan) (tags : List Tag)
    (also : List Nat) : SafeResult (State.loadVector s h g f p tags also) := by
  unfold State.loadVector
  repeat' first | assumption | split | dsimp only | (simp [*]; done)

@[simp] theorem safe_execVld {s : State} (safe : Safe s) (f : VM) :
    SafeOutcome (execVld f s) := safeOutcome_next.2 (safe_run safe fun s h safe => safe_withGroup safe _ fun g => by (repeat' split) <;> simp [*])

@[simp] theorem safe_execVlds {s : State} (safe : Safe s) (f : VM) :
    SafeOutcome (execVlds f s) := safeOutcome_next.2 (safe_run safe fun s h safe => safe_withGroup safe _ fun g => by (repeat' split) <;> simp [*])

@[simp] theorem safe_execVldseg {s : State} (safe : Safe s) (f : VM) :
    SafeOutcome (execVldseg f s) := safeOutcome_next.2 (safe_run safe fun s h safe => safe_withGroup safe _ fun g => by (repeat' split) <;> simp [*])

@[simp] theorem safe_execVldx {s : State} (safe : Safe s) (f : VM) :
    SafeOutcome (execVldx f s) := safeOutcome_next.2 (safe_run safe fun s h safe => by
  repeat' first | assumption | split | dsimp only | (simp (maxDischargeDepth := 30) [*]; done) | refine safe_withGroup safe _ fun g => ?_)

@[simp] theorem safeResult_keepArch {r : Result} (ok : SafeResult r) (a : Arch) : SafeResult (r.keepArch a) := by
  cases r <;> exact ok

@[simp] theorem safe_execVldFf {s : State} (safe : Safe s) (f : VM) :
    SafeOutcome (execVldFf f s) := safeOutcome_next.2 (safe_run safe fun s h safe => by
  repeat' first | assumption | split | dsimp only | (simp (maxDischargeDepth := 30) [*]; done) | refine safe_withGroup safe _ fun g => ?_)

@[simp] theorem safe_storeVector {s : State} (safe : Safe s) (h : Hart) (g : Group) (f : VM) (p : Plan) (tags : List Tag) :
    SafeResult (State.storeVector s h g f p tags) := by
  unfold State.storeVector
  extract_lets a k n act wr cs
  split
  · exact safe_suppress safe _ _ _
  · split
    · trivial
    · exact safe_resultFlags (safe_store safe _ _ _ _ _ _ _) _

@[simp] theorem safe_execVst {s : State} (safe : Safe s) (f : VM) :
    SafeOutcome (execVst f s) := safeOutcome_next.2 (safe_run safe fun s h safe => safe_withGroup safe _ fun g => by (repeat' split) <;> simp [*])

@[simp] theorem safe_execVsts {s : State} (safe : Safe s) (f : VM) :
    SafeOutcome (execVsts f s) := safeOutcome_next.2 (safe_run safe fun s h safe => safe_withGroup safe _ fun g => by (repeat' split) <;> simp [*])

@[simp] theorem safe_execVstseg {s : State} (safe : Safe s) (f : VM) :
    SafeOutcome (execVstseg f s) := safeOutcome_next.2 (safe_run safe fun s h safe => safe_withGroup safe _ fun g => by (repeat' split) <;> simp [*])

@[simp] theorem safe_execVstx {s : State} (safe : Safe s) (f : VM) :
    SafeOutcome (execVstx f s) := safeOutcome_next.2 (safe_run safe fun s h safe => by
  repeat' first | assumption | split | dsimp only | (simp (maxDischargeDepth := 30) [*]; done) | refine safe_withGroup safe _ fun g => ?_)

@[simp] theorem safe_execVldSc {s : State} (safe : Safe s) (f : VM) :
    SafeOutcome (execVldSc f s) := safeOutcome_next.2 (safe_run safe fun s h safe => by
  repeat' first | assumption | split | dsimp only | (simp (maxDischargeDepth := 30) [*]; done) | refine safe_withGroup safe _ fun g => ?_)

@[simp] theorem safe_execVstSc {s : State} (safe : Safe s) (f : VM) :
    SafeOutcome (execVstSc f s) := safeOutcome_next.2 (safe_run safe fun s h safe => by
  repeat' first | assumption | split | dsimp only | (simp (maxDischargeDepth := 30) [*]; done) | refine safe_withGroup safe _ fun g => ?_)

@[simp] theorem safe_execScTicketGrant {s : State} (safe : Safe s) (k : Nat) :
    SafeOutcome (execScTicketGrant k s) := by
  unfold execScTicketGrant
  refine safeOutcome_next.2 ?_
  split
  · exact safe
  · split
    · extract_lets v s1
      have h1 : Safe s1 := by
        dsimp only [s1]
        split
        · exact safe
        · exact safe_perform safe _ _
      exact h1
    · exact safe

@[simp] theorem safe_execVldsr {s : State} (safe : Safe s) (f : VM) :
    SafeOutcome (execVldsr f s) := by
  unfold execVldsr
  refine safeOutcome_next.2 (safe_run safe fun s h safe => safe_withGroup safe _ fun g => ?_)
  extract_lets a regs td len sk k q p l cs same
  clear_value cs l
  dsimp only
  (repeat' split) <;> first
    | trivial
    | exact safe
    | exact safe_awaitLinks safe (by assumption)
    | exact safe_countAll (safe_access safe _ _ _) _ _

@[simp] theorem safe_execLoadDataArrives {s : State} (safe : Safe s) (k : Nat) :
    SafeOutcome (execLoadDataArrives k s) := by
  unfold execLoadDataArrives
  (repeat' split) <;> simp [*]

@[simp] theorem safe_execVcfq {s : State} (safe : Safe s) (f : VA) :
    SafeOutcome (execVcfq f s) := by
  unfold execVcfq
  refine safeOutcome_next.2 (safe_run safe fun s h safe => safe_withGroup safe _ fun g => ?_)
  extract_lets a ta td base
  (repeat' first | split | extract_lets)
  · exact safeResult_trap _
  · exact safe_suppress safe _ _ _
  · exact safeResult_trap _
  · exact (safeResult_stall _ _ _).2 (safe_awaitLinks safe (by assumption))
  · exact (safeResult_done _ _).2 (safe_countAll (safe_access safe _ _ _) _ _)
  · exact (safeResult_soft _ _).2 (safe_countAll (safe_access safe _ _ _) _ _)

@[simp] theorem safe_chargeBeat {s : State} (safe : Safe s) (gid idx n item : Nat) :
    Safe (State.chargeBeat s gid idx n item) := by
  unfold State.chargeBeat
  (repeat' split) <;> simp [*]

@[simp] theorem safe_execStream {s : State} (safe : Safe s) (n : BitVec 3) (a l st : Reg) (o : Cm) :
    SafeOutcome (execStream n a l st o s) := safeOutcome_next.2 (safe_run safe fun s h safe => by (repeat' split) <;> simp [*])

@[simp] theorem safe_execDauFetch {s : State} (safe : Safe s) (spire n : Nat) :
    SafeOutcome (execDauFetch spire n s) := by
  unfold execDauFetch
  repeat' first | assumption | split | dsimp only | (simp (maxDischargeDepth := 30) [*]; done) | (refine safe_withGroup (by assumption) _ fun g => ?_) | (refine safe_onSelected (by assumption) _ fun k h => ?_) | (refine safe_foldl (fun s x hs => ?_) ?_ _) | (refine safeOutcome_next.2 ?_)

@[simp] theorem safe_execVldStream {s : State} (safe : Safe s) (f : VM) :
    SafeOutcome (execVldStream f s) := safeOutcome_next.2 (safe_run safe fun s h safe => by
  repeat' first | assumption | split | dsimp only | (simp (maxDischargeDepth := 30) [*]; done) | refine safe_withGroup safe _ fun g => ?_)

@[simp] theorem safe_execQbind {s : State} (safe : Safe s) (n : BitVec 3) (kind : BitVec 2) (idx : BitVec 8) (o : Cm) :
    SafeOutcome (execQbind n kind idx o s) := by simp [execQbind, safe]

@[simp] theorem safe_readBuffer {s : State} (safe : Safe s) (k n : Nat) :
    SafeItem (State.readBuffer s k n) := by
  unfold State.readBuffer
  repeat' first | assumption | split | dsimp only | (simp [*]; done)

@[simp] theorem safe_readTag {s : State} (safe : Safe s) (k n : Nat) :
    SafeItem (State.readTag s k n) := by
  unfold State.readTag
  repeat' first | assumption | split | dsimp only | (simp [*]; done)

@[simp] theorem safe_readSlot {s : State} (safe : Safe s) (k gid q n : Nat) :
    SafeItem (State.readSlot s k gid q n) := by
  unfold State.readSlot
  repeat' first | assumption | split | dsimp only | (simp [*]; done)

@[simp] theorem safe_execQrd {s : State} (safe : Safe s) (d : Reg) (q : BitVec 3) :
    SafeOutcome (execQrd d q s) := by
  unfold execQrd
  refine safeOutcome_next.2 (safe_run safe fun s h safe => ?_)
  extract_lets found
  have hf : SafeItem found := by
    dsimp only [found]
    repeat' first | trivial | split | (simp [safe]; done)
  clear_value found
  cases found <;> exact hf

@[simp] theorem safe_execCopy {s : State} (safe : Safe s) (n : BitVec 3) (d a b : Reg) (dst src scope : BitVec 3) (o : Cm) :
    SafeOutcome (execCopy n d a b dst src scope o s) := safeOutcome_next.2 (safe_run safe fun s h safe => by
  repeat' first | assumption | split | dsimp only | (simp (maxDischargeDepth := 30) [*]; done) | refine safe_withGroup safe _ fun g => ?_)

@[simp] theorem safe_moveChunk {s : State} (safe : Safe s) (t : CopyTag) (j : Nat) :
    Safe (State.moveChunk s t j) := by
  unfold State.moveChunk
  repeat' first | assumption | split | dsimp only | (simp (maxDischargeDepth := 30) [*]; done) | (refine safe_withGroup (by assumption) _ fun g => ?_) | (refine safe_onSelected (by assumption) _ fun k h => ?_) | (refine safe_foldl (fun s x hs => ?_) ?_ _) | (refine safeOutcome_next.2 ?_)

@[simp] theorem safe_countChunk {s : State} (safe : Safe s) (t : CopyTag) (j : Nat) :
    Safe (State.countChunk s t j) := by
  unfold State.countChunk
  repeat' first | assumption | split | dsimp only | (simp (maxDischargeDepth := 30) [*]; done) | (refine safe_withGroup (by assumption) _ fun g => ?_) | (refine safe_onSelected (by assumption) _ fun k h => ?_) | (refine safe_foldl (fun s x hs => ?_) ?_ _) | (refine safeOutcome_next.2 ?_)

@[simp] theorem safe_chargeChunk {s : State} (safe : Safe s) (t : CopyTag) (spire j : Nat) : Safe (s.chargeChunk t spire j) := by
  simp [State.chargeChunk, safe]

@[simp] theorem safe_execCopyChunkLands {s : State} (safe : Safe s) (spire tag chunk : Nat) :
    SafeOutcome (execCopyChunkLands spire tag chunk s) := by
  unfold execCopyChunkLands
  dsimp only
  (repeat' split) <;> simp (maxDischargeDepth := 30) [*]

@[simp] theorem safe_execCptest {s : State} (safe : Safe s) (d : Reg) (n : BitVec 3) (w : BitVec 6) (o : Cm) :
    SafeOutcome (execCptest d n w o s) := safeOutcome_next.2 (safe_compute safe _ _)

@[simp] theorem safe_execCpwait {s : State} (safe : Safe s) (n : BitVec 3) (w : BitVec 6) (m : Reg) (o : Cm) :
    SafeOutcome (execCpwait n w m o s) := safeOutcome_next.2 (safe_run safe fun s h safe => by
  repeat' first | assumption | split | dsimp only | (simp (maxDischargeDepth := 30) [*]; done) | refine safe_withGroup safe _ fun g => ?_)

@[simp] theorem safe_nibStep {s : State} (safe : Safe s) (p : Placed) (j : Nat) :
    SafeSnd (State.nibStep s p j) := by simp [State.nibStep, safe]

@[simp] theorem safe_bankAccess {s : State} (safe : Safe s) (h : Hart) (ps : List Phys) :
    Safe (State.bankAccess s h ps) := safe_charge safe _ _

@[simp] theorem safe_bopNib {s : State} (safe : Safe s) (h : Hart) (g : Group) (d : Reg) (base : Word) (x : Nat) (ord : BitVec 2)
    (cls : BitVec 4) : SafeResult (State.bopNib s h g d base x ord cls) := by
  unfold State.bopNib
  (repeat' first | split | extract_lets)
  · exact safeResult_trap _
  · exact (safeResult_stall _ _ _).2 safe
  · rename_i r s1
    refine (safeResult_done _ _).2 ?_
    have h1 : SafeSnd r := safe_nibStep (safe_bankAccess safe _ _) _ _
    dsimp only [s1]
    split
    · exact h1
    · exact safe_nibStep h1 _ _
  · exact safeResult_trap _
  · exact (safeResult_stall _ _ _).2 safe

@[simp] theorem safe_bopVector {s : State} (safe : Safe s) (h : Hart) (g : Group) (base : Word) (vb : Nat) (op w : Nat) (ord : BitVec 2)
    (m cls : BitVec 4) : SafeResult (State.bopVector s h g base vb op w ord m cls) := by
  unfold State.bopVector
  repeat' first | assumption | split | dsimp only | (simp [*]; done)

@[simp] theorem safe_execBop {s : State} (safe : Safe s) (d a b : Reg) (op : BitVec 4) (w ord : BitVec 2) (v : Bool) (o : MaskCm) :
    SafeOutcome (execBop d a b op w ord v o s) := safeOutcome_next.2 (safe_run safe fun s h safe => by
  repeat' first | assumption | split | dsimp only | (simp (maxDischargeDepth := 30) [*]; done) | refine safe_withGroup safe _ fun g => ?_)

@[simp] theorem safe_execFence {s : State} (safe : Safe s) (cmask : BitVec 16) (scope : BitVec 3) (o : Cm) :
    SafeOutcome (execFence cmask scope o s) := safeOutcome_next.2 (safe_run safe fun s h safe => by (repeat' split) <;> simp [*])

@[simp] theorem safe_execWait {s : State} (safe : Safe s) (l st c t : BitVec 5) (o : Cm) :
    SafeOutcome (execWait l st c t o s) := safeOutcome_next.2 (safe_run safe fun s h safe => by (repeat' split) <;> simp [*])

@[simp] theorem safe_hostStore {s : State} (safe : Safe s) (k : Nat) (bs : List Byte) : Safe (State.hostStore s k bs) :=
  safe_ite (safe_perform safe _ _) safe

@[simp] theorem safe_execHomeAccessStep {s : State} (safe : Safe s) :
    SafeOutcome (execHomeAccessStep s) := by
  unfold execHomeAccessStep
  refine safeOutcome_next.2 ?_
  split
  · exact safe
  · extract_lets s1
    exact safe_perform (safe_foldl (fun s x hs => safe_countPage hs _ _ _) (s := s1) safe _) _ _

@[simp] theorem safe_armSlot {s : State} (safe : Safe s) (key : Nat) (x : Slot) :
    Safe (State.armSlot s key x) := by simp [State.armSlot, safe]

@[simp] theorem safe_execStand {s : State} (safe : Safe s) (d a b : Reg) (dep : BitVec 6) (sp : Bool) (slot : BitVec 8) (o : Cm) :
    SafeOutcome (execStand d a b dep sp slot o s) := safeOutcome_next.2 (safe_run safe fun s h safe => by
  repeat' first | assumption | split | dsimp only | (simp (maxDischargeDepth := 30) [*]; done) | refine safe_withGroup safe _ fun g => ?_)

@[simp] theorem safe_takeRequest {s : State} (safe : Safe s) (key : Nat) (enter : Bool) :
    Safe (State.takeRequest s key enter) := by simp [State.takeRequest, safe]

@[simp] theorem safe_execHomeSubscribe {s : State} (safe : Safe s) (spire slot : Nat) :
    SafeOutcome (execHomeSubscribe spire slot s) := by
  unfold execHomeSubscribe
  repeat' first | assumption | split | dsimp only | (simp [*]; done)

@[simp] theorem safe_takeMessage {s : State} (safe : Safe s) (key : Nat) :
    Safe (State.takeMessage s key) := by simp [State.takeMessage, safe]

@[simp] theorem safe_standDone {s : State} (safe : Safe s) (spire slot status : Nat) :
    Safe (State.standDone s spire slot status) := by
  unfold State.standDone
  (repeat' split) <;> simp [*]

@[simp] theorem safe_execStandReplyArrives {s : State} (safe : Safe s) (spire slot : Nat) :
    SafeOutcome (execStandReplyArrives spire slot s) := by
  unfold execStandReplyArrives
  repeat' first | assumption | split | dsimp only | (simp (maxDischargeDepth := 30) [*]; done) | (refine safe_withGroup (by assumption) _ fun g => ?_) | (refine safe_onSelected (by assumption) _ fun k h => ?_) | (refine safe_foldl (fun s x hs => ?_) ?_ _) | (refine safeOutcome_next.2 ?_)

@[simp] theorem safe_placePush {s : State} (safe : Safe s) (spire slot : Nat) (x : Slot) (line : List Byte) (mask cnt : Nat) (park : Bool) (q : BitVec 16) :
    Safe (State.placePush s spire slot x line mask cnt park q) := by simp [State.placePush, safe]

@[simp] theorem safe_execPushArrives {s : State} (safe : Safe s) (spire slot : Nat) :
    SafeOutcome (execPushArrives spire slot s) := by
  unfold execPushArrives
  dsimp only
  (repeat' split) <;> simp (maxDischargeDepth := 30) [*]

@[simp] theorem safe_execUnstand {s : State} (safe : Safe s) (slot : BitVec 8) (o : Cm) :
    SafeOutcome (execUnstand slot o s) := safeOutcome_next.2 (safe_run safe fun s h safe => by
  repeat' first | assumption | split | dsimp only | (simp (maxDischargeDepth := 30) [*]; done) | refine safe_withGroup safe _ fun g => ?_)

@[simp] theorem safe_execHomeUnsubscribe {s : State} (safe : Safe s) (spire slot : Nat) :
    SafeOutcome (execHomeUnsubscribe spire slot s) := by simp [execHomeUnsubscribe, safe]

@[simp] theorem safe_execSubscriptionAckArrives {s : State} (safe : Safe s) (spire slot : Nat) :
    SafeOutcome (execSubscriptionAckArrives spire slot s) := by
  unfold execSubscriptionAckArrives
  repeat' first | assumption | split | dsimp only | (simp [*]; done)

@[simp] theorem safe_execHomeParkSlot {s : State} (safe : Safe s) (spire slot : Nat) :
    SafeOutcome (execHomeParkSlot spire slot s) := by
  unfold execHomeParkSlot
  repeat' first | assumption | split | dsimp only | (simp [*]; done)

@[simp] theorem safe_unparkSlot {s : State} (safe : Safe s) (spire slot oldSpire : Nat) (x : Slot) :
    Safe (State.unparkSlot s spire slot oldSpire x) := by
  unfold State.unparkSlot
  repeat' first | assumption | split | dsimp only | (simp [*]; done)

@[simp] theorem safe_modTask {s : State} (safe : Safe s) (gid : Nat) (n : BitVec 32) (f : Task → Task) :
    Safe (State.modTask s gid n f) := by simp [State.modTask, safe]

@[simp] theorem safe_queueTask {s : State} (safe : Safe s) (h : Hart) (g : Group) (d : Reg) (a : Word) (cm : BitVec 16) (cls : BitVec 4) :
    SafeResult (State.queueTask s h g d a cm cls) := by
  unfold State.queueTask
  refine safeResult_ite safe (safeResult_ite safe ?_)
  generalize s.bytes _ 64 = rec64
  simp only [safeResult_done, safe_mk, safeMem_iff]
  exact safe_modGroup (safe_perform safe _ _) _ _

@[simp] theorem safe_execTask {s : State} (safe : Safe s) (d a : Reg) (cm : BitVec 16) (o : Cm) :
    SafeOutcome (execTask d a cm o s) := safeOutcome_next.2 (safe_run safe fun s h safe => by
  repeat' first | assumption | split | dsimp only | (simp (maxDischargeDepth := 30) [*]; done) | refine safe_withGroup safe _ fun g => ?_)

@[simp] theorem safe_execFuseeTakeRecord {s : State} (safe : Safe s) (gid : Nat) :
    SafeOutcome (execFuseeTakeRecord gid s) := by
  unfold execFuseeTakeRecord
  repeat' first | assumption | split | dsimp only | (simp [*]; done)

@[simp] theorem safe_execTaskStart {s : State} (safe : Safe s) (gid n : Nat) :
    SafeOutcome (execTaskStart gid n s) := by
  unfold execTaskStart
  (repeat' split) <;> simp [*]

@[simp] theorem safe_arrayWork {s : State} (safe : Safe s) (gid : Nat) (g : Group) (t : Task) :
    Safe (State.arrayWork s gid g t) := by
  unfold State.arrayWork
  exact safe_foldl (fun s p hs => safe_giveWork hs _ _ _ _ _ _ _ _ _) safe _

@[simp] theorem safe_loadBank {s : State} (safe : Safe s) (g : Group) (r : List Byte) (p k : Nat) :
    Safe (State.loadBank s g r p k) := by
  unfold State.loadBank
  repeat' first | assumption | split | dsimp only | (simp [*]; done)

@[simp] theorem safe_suspendTask {s : State} (safe : Safe s) (gid : Nat) (g : Group) (t : Task) (f : Nat × Nat × Word × Nat) :
    Safe (State.suspendTask s gid g t f) := by
  unfold State.suspendTask
  repeat' first | assumption | split | (simp [*]; done)

@[simp] theorem safe_execKStepFoldDone {s : State} (safe : Safe s) (gid n : Nat) :
    SafeOutcome (execKStepFoldDone gid n s) := by
  unfold execKStepFoldDone
  refine safeOutcome_next.2 ?_
  split
  · exact safe
  · split
    · exact safe
    · refine safe_ite safe (safe_ite (safe_modTask safe _ _ _) (safe_ite safe ?_))
      split
      · exact safe_suspendTask (safe_arrayWork safe _ _ _) _ _ _ _
      · refine safe_ite safe (safe_modTask (safe_arrayWork (safe_countAll (safe_foldl (fun s x hs => safe_matrixAccess hs _ _ _)
          ?_ _) _ _) _ _ _) _ _ _)
        generalize takesPart _ = l
        suffices ∀ p : State × Nat, Safe p.1 → Safe (l.foldl _ p).1 from this (s, 0) safe
        rename_i g _ _ task _ _ _
        induction l with
        | nil => exact fun p hp => hp
        | cons x t ih => exact fun p hp => ih _ (safe_loadBank hp g task.record x task.kdone)

@[simp] theorem safe_finishTask {s : State} (safe : Safe s) (gid : Nat) (g : Group) (t : Task) :
    Safe (State.finishTask s gid g t) := by simp [State.finishTask, safe]

@[simp] theorem safe_execTaskDone {s : State} (safe : Safe s) (gid n : Nat) :
    SafeOutcome (execTaskDone gid n s) := by
  unfold execTaskDone
  repeat' first | assumption | split | dsimp only | (simp [*]; done) | (refine safe_finishTask (safe_perform (safe_arrayWork (safe_foldl (fun s x hs => safe_matrixAccess hs _ _ _) ?_ _) _ _ _) _ _) _ _ _) | (refine safeOutcome_next.2 ?_)

@[simp] theorem safe_execTwait {s : State} (safe : Safe s) (t : BitVec 6) (a : Reg) (o : Cm) :
    SafeOutcome (execTwait t a o s) := safeOutcome_next.2 (safe_run safe fun s h safe => safe_withGroup safe _ fun g => by (repeat' split) <;> simp [*])

@[simp] theorem safe_execTsig {s : State} (safe : Safe s) (t : BitVec 6) (o : Cm) :
    SafeOutcome (execTsig t o s) := safeOutcome_next.2 (safe_run safe fun s h safe => safe_withGroup safe _ fun g => by (repeat' split) <;> simp [*])

@[simp] theorem safe_dropRecord {s : State} (safe : Safe s) (gid : Nat) (n : BitVec 32) :
    Safe (State.dropRecord s gid n) := by simp [State.dropRecord, safe]

@[simp] theorem safe_execTresume {s : State} (safe : Safe s) (d a : Reg) (o : Cm) :
    SafeOutcome (execTresume d a o s) := safeOutcome_next.2 (safe_run safe fun s h safe => by
  repeat' first | assumption | split | dsimp only | (simp (maxDischargeDepth := 30) [*]; done) | refine safe_withGroup safe _ fun g => ?_)

@[simp] theorem safe_execTprog {s : State} (safe : Safe s) (d a : Reg) (o : Cm) :
    SafeOutcome (execTprog d a o s) := safeOutcome_next.2 (safe_run safe fun s h safe => safe_withGroup safe _ fun g => by (repeat' split) <;> simp [*])

@[simp] theorem safe_execTflt {s : State} (safe : Safe s) (d a : Reg) (w : Bool) (o : Cm) :
    SafeOutcome (execTflt d a w o s) := safeOutcome_next.2 (safe_run safe fun s h safe => safe_withGroup safe _ fun g => by (repeat' split) <;> simp [*])

@[simp] theorem safe_dropTask {s : State} (safe : Safe s) (gid : Nat) (n : BitVec 32) :
    Safe (State.dropTask s gid n) := by
  unfold State.dropTask
  (repeat' split) <;> simp [*]

@[simp] theorem safe_moveTraps {s : State} (safe : Safe s) (gid old new : Nat) :
    Safe (State.moveTraps s gid old new) := by
  unfold State.moveTraps
  repeat' first | assumption | split | dsimp only | (simp [*]; done) | (refine safe_foldl (fun s x hs => safe_dropTask hs _ _) ?_ _)

@[simp] theorem safe_execTfltSet {s : State} (safe : Safe s) (d a : Reg) (o : Cm) :
    SafeOutcome (execTfltSet d a o s) := safeOutcome_next.2 (safe_run safe fun s h safe => by
  repeat' first | assumption | split | dsimp only | (simp (maxDischargeDepth := 30) [*]; done) | refine safe_withGroup safe _ fun g => ?_)

@[simp] theorem safe_execTabort {s : State} (safe : Safe s) (d a : Reg) (o : Cm) :
    SafeOutcome (execTabort d a o s) := safeOutcome_next.2 (safe_run safe fun s h safe => by
  repeat' first | assumption | split | dsimp only | (simp (maxDischargeDepth := 30) [*]; done) | refine safe_withGroup safe _ fun g => ?_)

@[simp] theorem safe_execAxt {s : State} (safe : Safe s) (f : VA) :
    SafeOutcome (execAxt f s) := safeOutcome_next.2 (safe_run safe fun s h safe => by
  repeat' first | assumption | split | dsimp only | (simp (maxDischargeDepth := 30) [*]; done) | refine safe_withGroup safe _ fun g => ?_)

@[simp] theorem safe_execQwpWrite {s : State} (safe : Safe s) (c q : Nat) (v : BitVec 32) :
    SafeOutcome (execQwpWrite c q v s) := by simp [execQwpWrite, safe]

@[simp] theorem safe_execQctlArm {s : State} (safe : Safe s) (c q : Nat) :
    SafeOutcome (execQctlArm c q s) := by simp [execQctlArm, safe]

@[simp] theorem safe_execQctlStop {s : State} (safe : Safe s) (c q : Nat) :
    SafeOutcome (execQctlStop c q s) := by simp [execQctlStop, safe]

@[simp] theorem safe_execQctlClear {s : State} (safe : Safe s) (c q : Nat) :
    SafeOutcome (execQctlClear c q s) := by simp [execQctlClear, safe]

@[simp] theorem safe_checkKernel {s : State} (safe : Safe s) (kid : Nat) (k : Kernel) (status : Nat) :
    Safe (State.checkKernel s kid k status) := by simp [State.checkKernel, safe]

@[simp] theorem safe_execQueueTake {s : State} (safe : Safe s) (c q : Nat) :
    SafeOutcome (execQueueTake c q s) := by
  unfold execQueueTake
  repeat' first | assumption | split | dsimp only | (simp (maxDischargeDepth := 30) [*]; done) | (refine safe_withGroup (by assumption) _ fun g => ?_) | (refine safe_onSelected (by assumption) _ fun k h => ?_) | (refine safe_foldl (fun s x hs => ?_) ?_ _) | (refine safeOutcome_next.2 ?_)

@[simp] theorem safe_execKtokWrite {s : State} (safe : Safe s) (c t : Nat) (v : BitVec 32) :
    SafeOutcome (execKtokWrite c t v s) := by simp [execKtokWrite, safe]

@[simp] theorem safe_formGroup {s : State} (safe : Safe s) (kid : Nat) (k : Kernel) (quad : Nat) :
    Safe (State.formGroup s kid k quad) := by simp [State.formGroup, safe]

@[simp] theorem safe_execGroupPlacement {s : State} (safe : Safe s) (c : Nat) :
    SafeOutcome (execGroupPlacement c s) := by
  unfold execGroupPlacement
  repeat' first | assumption | split | dsimp only | (simp (maxDischargeDepth := 30) [*]; done) | (refine safe_withGroup (by assumption) _ fun g => ?_) | (refine safe_onSelected (by assumption) _ fun k h => ?_) | (refine safe_foldl (fun s x hs => ?_) ?_ _) | (refine safeOutcome_next.2 ?_)

@[simp] theorem safe_setStopped {s : State} (safe : Safe s) (gid : Nat) (b : Bool) :
    Safe (State.setStopped s gid b) := by simp [State.setStopped, safe]

@[simp] theorem safe_execGroupLsImageCopied {s : State} (safe : Safe s) (gid : Nat) :
    SafeOutcome (execGroupLsImageCopied gid s) := by
  unfold execGroupLsImageCopied
  refine safeOutcome_next.2 ?_
  split
  · exact safe
  · split
    · exact safe
    · extract_lets code img s1 x park s2
      have h2 : Safe s2 := safe_modGroup (safe_foldl (fun s p hs => safe_setBytes hs _ _) safe _) _ _
      split
      · exact safe_abortGroup h2 _
      · exact safe_setStopped h2 _ _

@[simp] theorem safe_execGroupDrainDone {s : State} (safe : Safe s) (gid : Nat) :
    SafeOutcome (execGroupDrainDone gid s) := by
  unfold execGroupDrainDone
  repeat' first | assumption | split | dsimp only | (simp (maxDischargeDepth := 30) [*]; done) | (refine safe_withGroup (by assumption) _ fun g => ?_) | (refine safe_onSelected (by assumption) _ fun k h => ?_) | (refine safe_foldl (fun s x hs => ?_) ?_ _) | (refine safeOutcome_next.2 ?_)

@[simp] theorem safe_execKernelDone {s : State} (safe : Safe s) (kid : Nat) :
    SafeOutcome (execKernelDone kid s) := by
  unfold execKernelDone
  (repeat' split) <;> simp [*]

@[simp] theorem safe_setDeficit {s : State} (safe : Safe s) (key : Nat) (d : Int) :
    Safe (State.setDeficit s key d) := by simp [State.setDeficit, safe]

@[simp] theorem safe_refill {s : State} (safe : Safe s) (spire pipe : Nat) (reqs : List PipeWork) :
    Safe (State.refill s spire pipe reqs) := by
  unfold State.refill
  refine safe_foldl (fun s f hs => ?_) safe _
  dsimp only
  split <;> simp [hs]

@[simp] theorem safe_traceAdd {s : State} (safe : Safe s) (c : Nat) (rec16 : List Byte) :
    Safe (State.traceAdd s c rec16) := by
  unfold State.traceAdd
  dsimp only
  (repeat' split) <;> first
    | exact safe
    | exact safe_setCtx safe _ _
    | exact safe_modCtx (safe_deviceWrite safe _ _ _ _ (by assumption)) _ _

@[simp] theorem safe_traceWork {s : State} (safe : Safe s) (w : PipeWork) (done : Bool) :
    Safe (State.traceWork s w done) := by simp [State.traceWork, safe]

@[simp] theorem safe_acceptWork {s : State} (safe : Safe s) (w : PipeWork) : Safe (State.acceptWork s w) := by
  unfold State.acceptWork
  refine safe_traceWork ?_ _ _
  exact (safe_of_eq rfl rfl).2 safe

@[simp] theorem safe_endWork {s : State} (safe : Safe s) : Safe (State.endWork s) := by
  unfold State.endWork
  refine safe_foldl (fun s w hs => safe_traceWork hs _ _) ?_ _
  exact (safe_of_eq rfl rfl).2 safe

@[simp] theorem safe_flushTraces {s : State} (safe : Safe s) : Safe (State.flushTraces s) := by
  unfold State.flushTraces
  refine safe_foldl (fun s t hs => safe_traceAdd hs _ _) ?_ _
  exact (safe_of_eq rfl rfl).2 safe

@[simp] theorem safe_flushNotices {s : State} (safe : Safe s) : Safe (State.flushNotices s) := by
  unfold State.flushNotices
  refine safe_foldl (fun s n hs => safe_notify hs _ _ _ _) ?_ _
  exact (safe_of_eq rfl rfl).2 safe

@[simp] theorem safe_execPipeGrant {s : State} (safe : Safe s) (spire pipe : Nat) :
    SafeOutcome (execPipeGrant spire pipe s) := by
  unfold execPipeGrant
  extract_lets reqs s1
  have h1 : Safe s1 := safe_ite safe (safe_refill safe _ _ _)
  clear_value s1
  refine safeOutcome_next.2 (safe_ite safe (safe_ite ?_ ?_))
  · split
    · exact safe
    · exact safe_acceptWork safe _
  · split
    · exact h1
    · refine safe_acceptWork ?_ _
      exact (safe_of_eq rfl rfl).2 h1

@[simp] theorem safe_execMqwpWrite {s : State} (safe : Safe s) (v : BitVec 32) :
    SafeOutcome (execMqwpWrite v s) := by simp [execMqwpWrite, safe]

@[simp] theorem safe_execMqcfgWrite {s : State} (safe : Safe s) (v : BitVec 32) :
    SafeOutcome (execMqcfgWrite v s) := by simp [execMqcfgWrite, safe]

@[simp] theorem safe_endRefused {s : State} (safe : Safe s) (n : Nat) : Safe (State.endRefused s n) := by
  unfold State.endRefused
  (repeat' split) <;> simp [*]

@[simp] theorem safe_execMqRecordTake {s : State} (safe : Safe s) : SafeOutcome (execMqRecordTake s) := by
  unfold execMqRecordTake
  dsimp only
  refine safeOutcome_next.2 (safe_ite safe (safe_ite ?_ (safe_ite ?_ (safe_ite safe (safe_endRefused ?_ _)))))
  all_goals exact (safe_of_eq rfl rfl).2 safe

@[simp] theorem safe_beginCmd {s : State} (safe : Safe s) (n c : Nat) :
    Safe (State.beginCmd s n c) := by simp [State.beginCmd, safe]

@[simp] theorem safe_capChange {s : State} (safe : Safe s) :
    Safe (State.capChange s) := by simp [State.capChange, safe]

@[simp] theorem safe_inActive {s b : State} (hs : Safe s) (n : Nat) (c : Cmd) (hb : Safe b) : Safe (s.inActive n c b) := by
  unfold State.inActive
  dsimp only
  split
  · exact hs
  · split
    · exact hb
    · exact safe_endCmd hs _ _

@[simp] theorem safe_zeroQuad {s : State} (safe : Safe s) (q : Nat) :
    Safe (State.zeroQuad s q) := by simp [State.zeroQuad, safe]

@[simp] theorem safe_zeroGranule {s : State} (safe : Safe s) (g : Nat) :
    Safe (State.zeroGranule s g) := by simp [State.zeroGranule, safe]

@[simp] theorem safe_zeroAll {s : State} (safe : Safe s) (qs gs : List Nat) :
    Safe (State.zeroAll s qs gs) := by
  unfold State.zeroAll
  repeat' first | assumption | split | dsimp only | (simp (maxDischargeDepth := 30) [*]; done) | (refine safe_withGroup (by assumption) _ fun g => ?_) | (refine safe_onSelected (by assumption) _ fun k h => ?_) | (refine safe_foldl (fun s x hs => ?_) ?_ _) | (refine safeOutcome_next.2 ?_)

end Sys2Proof.Machine
end

