-- ==== Sys2Proof/Laws/SafeDevice.lean ====
section
/-! SUPPORT. Context switches, commands, links, debug, registers and the Crown keep memory and granule tags in canonical form. -/

namespace Sys2Proof.Machine

@[simp] theorem safe_preempt {s : State} (safe : Safe s) (gid : Nat) :
    Safe (State.preempt s gid) := by
  unfold State.preempt
  (repeat' split) <;> simp [*]

@[simp] theorem safe_preemptAll {s : State} (safe : Safe s) (c : Nat) (qs : List Nat) :
    Safe (State.preemptAll s c qs) := by
  unfold State.preemptAll
  repeat' first | assumption | split | dsimp only | (simp (maxDischargeDepth := 30) [*]; done) | (refine safe_withGroup (by assumption) _ fun g => ?_) | (refine safe_onSelected (by assumption) _ fun k h => ?_) | (refine safe_foldl (fun s x hs => ?_) ?_ _) | (refine safeOutcome_next.2 ?_)

@[simp] theorem safe_reserve {s : State} (safe : Safe s) (plan : List (Nat × Nat)) : Safe (State.reserve s plan) := by
  unfold State.reserve
  exact safe_foldl (fun s p hs => safe_modGroup hs _ _) safe _

@[simp] theorem safe_execPark {s : State} (safe : Safe s) (k : Nat) :
    SafeOutcome (execPark k s) := by
  unfold execPark
  repeat' first | assumption | split | dsimp only | (simp (maxDischargeDepth := 30) [*]; done) | (refine safe_withGroup (by assumption) _ fun g => ?_) | (refine safe_onSelected (by assumption) _ fun k h => ?_) | (refine safe_foldl (fun s x hs => ?_) ?_ _) | (refine safeOutcome_next.2 ?_)

@[simp] theorem safe_execUnpark {s : State} (safe : Safe s) (k : Nat) :
    SafeOutcome (execUnpark k s) := by
  unfold execUnpark
  repeat' first | assumption | split | dsimp only | (simp (maxDischargeDepth := 30) [*]; done) | (refine safe_withGroup (by assumption) _ fun g => ?_) | (refine safe_onSelected (by assumption) _ fun k h => ?_) | (refine safe_foldl (fun s x hs => ?_) ?_ _) | (refine safeOutcome_next.2 ?_)

@[simp] theorem safe_fillRange {s : State} (safe : Safe s) (k : Nat) (bs : List Byte) :
    Safe (State.fillRange s k bs) := by
  unfold State.fillRange
  extract_lets n cells s1
  have hz : (List.range n).zip bs = (List.range n).map fun i => (i, bs.getD i 0) := by
    refine List.ext_getElem (by simp [n]) fun i h1 h2 => ?_
    have hi : i < bs.length := by simpa [n] using h2
    simp [hi]
  have hs : cells = ((List.range n).map fun i => (k + i, bs.getD i 0)).filter fun c => c.2 != Memory.fill := by
    simp only [cells, hz, List.map_map]
    rfl
  have hc : Store.wf Memory.fill cells = true := hs ▸ Store.wf_span _ (fun i => bs.getD i 0) k n
  have hb : ∀ q ∈ cells, k ≤ q.1 ∧ q.1 < k + n := by
    intro q hq
    simp only [hs, List.mem_filter, List.mem_map, List.mem_range] at hq
    obtain ⟨⟨i, hi, rfl⟩, -⟩ := hq
    exact ⟨Nat.le_add_right _ _, Nat.add_lt_add_left hi k⟩
  refine safe_foldl (fun s i hs => safe_markGranule hs _ _) (s := s1) ⟨?_, safe.2⟩ _
  refine Store.wf_append (Store.wf_append (Store.wf_filter _ safe.1) hc fun p hp q hq => ?_) (Store.wf_filter _ safe.1) fun p hp q hq => ?_
  · have := hb q hq
    simp only [List.mem_filter, decide_eq_true_eq] at hp
    omega
  · simp only [List.mem_append, List.mem_filter, decide_eq_true_eq] at hp hq
    rcases hp with hp | hp
    · omega
    · have := hb p hp
      omega

@[simp] theorem safe_writeImage {s : State} (safe : Safe s) (g : Group) (i : Image) :
    Safe (State.writeImage s g i) := by
  unfold State.writeImage
  dsimp only
  refine safe_foldl (fun s x hs => ?_) safe _
  split
  · exact safe_fillRange hs _ _
  · exact hs

@[simp] theorem safe_chargePool {s : State} (safe : Safe s) (g : Group) (address : Nat) :
    Safe (State.chargePool s g address) := by
  unfold State.chargePool
  exact safe_modCtx safe _ _

@[simp] theorem safe_execGroupParked {s : State} (safe : Safe s) (gid : Nat) :
    SafeOutcome (execGroupParked gid s) := by
  unfold execGroupParked
  refine safeOutcome_next.2 ?_
  split
  · exact safe
  · refine safe_ite safe ?_
    extract_lets image s1 s2 s3 s4
    have h1 : Safe s1 := safe_chargePool (safe_writeImage safe _ image) _ image.address
    have e : Safe s2 ↔ Safe s1 := safe_mk
    have h2 : Safe s2 := e.2 h1
    exact safe_parkSettle (safe_passClaim (safe_modCtx (safe_modGroup h2 _ _) _ _) _) _

theorem wf_foldl {α β : Type} [DecidableEq α] {d : α} {f : Store α → β → Store α}
    (hf : ∀ m b, Store.wf d m = true → Store.wf d (f m b) = true) {m : Store α} (h : Store.wf d m = true) (l : List β) :
    Store.wf d (l.foldl f m) = true := by
  induction l generalizing m with
  | nil => exact h
  | cons b t ih => exact ih (hf m b h)

@[simp] theorem safe_restoreUnits {s : State} (safe : Safe s) (image : Image) (quad lspan : Nat) (bases : List Nat) :
    Safe (State.restoreUnits s image quad lspan bases) := by
  unfold State.restoreUnits
  exact ⟨wf_foldl (fun m x hm => Store.wf_foldl_set x.1 (lsKey (4 * quad + x.2) (bases.getD x.2 0) + ·.1) (·.2)
      (Store.wf_drop _ _ hm)) safe.1 _,
    wf_foldl (fun m x hm => Store.wf_foldl_set x.1 (lsKey (4 * quad + x.2) (bases.getD x.2 0) / 1024 + ·.1) (·.2)
      (Store.wf_drop _ _ hm)) safe.2 _⟩

@[simp] theorem safe_redeliver {s : State} (safe : Safe s) (gid : Nat) (g : Group) :
    Safe (State.redeliver s gid g) := by
  unfold State.redeliver
  repeat' first | assumption | split | dsimp only | (simp (maxDischargeDepth := 30) [*]; done) | (refine safe_withGroup (by assumption) _ fun g => ?_) | (refine safe_onSelected (by assumption) _ fun k h => ?_) | (refine safe_foldl (fun s x hs => ?_) ?_ _) | (refine safeOutcome_next.2 ?_)

@[simp] theorem safe_resumeOn {s : State} (safe : Safe s) (gid : Nat) (g : Group) (image : Image) (quad : Nat) :
    Safe (State.resumeOn s gid g image quad) := by
  unfold State.resumeOn
  extract_lets frames bases seats s1 s2 s3 s4 s5 s6
  have h2 : Safe s2 := safe_modGroup (s := s1) safe _ _
  have h3 : Safe s3 := by
    dsimp only [s3]
    split
    · exact safe_takeClaim h2 _
    · exact h2
  have h5 : Safe s5 := safe_foldl (fun s x hs => by
    split
    · exact safe_unparkSlot hs _ _ _ _
    · exact hs) (safe_restoreUnits h3 _ _ _ _) _
  exact safe_redeliver (safe_modCtx h5 _ _) _ _

@[simp] theorem safe_execGroupResume {s : State} (safe : Safe s) (gid quad : Nat) :
    SafeOutcome (execGroupResume gid quad s) := by
  unfold execGroupResume
  repeat' first | assumption | split | dsimp only | (simp [*]; done)
  · exact safeOutcome_next.2 (safe_abortKernel (safe_discardParked (safe_chargePool safe _ _) _) _ _)

@[simp] theorem safe_execCreate {s : State} (safe : Safe s) (k : Nat) :
    SafeOutcome (execCreate k s) := by
  unfold execCreate
  repeat' first | assumption | split | dsimp only | (simp (maxDischargeDepth := 30) [*]; done) | (refine safe_withGroup (by assumption) _ fun g => ?_) | (refine safe_onSelected (by assumption) _ fun k h => ?_) | (refine safe_foldl (fun s x hs => ?_) ?_ _) | (refine safeOutcome_next.2 ?_)

@[simp] theorem safe_execContextConstructionDone {s : State} (safe : Safe s) (c : Nat) :
    SafeOutcome (execContextConstructionDone c s) := by simp [execContextConstructionDone, safe]

@[simp] theorem safe_execGrow {s : State} (safe : Safe s) (k : Nat) :
    SafeOutcome (execGrow k s) := by
  unfold execGrow
  repeat' first | assumption | split | dsimp only | (simp (maxDischargeDepth := 30) [*]; done) | (refine safe_withGroup (by assumption) _ fun g => ?_) | (refine safe_onSelected (by assumption) _ fun k h => ?_) | (refine safe_foldl (fun s x hs => ?_) ?_ _) | (refine safeOutcome_next.2 ?_)

@[simp] theorem safe_execGrowQuadsJoined {s : State} (safe : Safe s) (c : Nat) :
    SafeOutcome (execGrowQuadsJoined c s) := by simp [execGrowQuadsJoined, safe]

@[simp] theorem safe_migrateAll {s : State} (safe : Safe s) (c : Nat) (qs : List Nat) (ms : List Move) :
    Safe (State.migrateAll s c qs ms) := by
  unfold State.migrateAll
  repeat' first | assumption | split | dsimp only | (simp (maxDischargeDepth := 30) [*]; done) | (refine safe_withGroup (by assumption) _ fun g => ?_) | (refine safe_onSelected (by assumption) _ fun k h => ?_) | (refine safe_foldl (fun s x hs => ?_) ?_ _) | (refine safeOutcome_next.2 ?_)

@[simp] theorem safe_blockLeaves {s : State} (safe : Safe s) (c : Nat) (ls : List Mapped) : Safe (State.blockLeaves s c ls) := by
  unfold State.blockLeaves
  dsimp only
  exact (safe_of_eq rfl rfl).2 (safe_foldl (fun s l hs => safe_writeEntry hs l.pte wbBit wbBit) safe ls)

@[simp] theorem safe_releaseGranules {s : State} (safe : Safe s) (c n : Nat) :
    Safe (State.releaseGranules s c n) := by
  unfold State.releaseGranules
  repeat' first | assumption | split | dsimp only | (simp (maxDischargeDepth := 30) [*]; done) | (refine safe_withGroup (by assumption) _ fun g => ?_) | (refine safe_onSelected (by assumption) _ fun k h => ?_) | (refine safe_foldl (fun s x hs => ?_) ?_ _) | (refine safeOutcome_next.2 ?_)

@[simp] theorem safe_execShrink {s : State} (safe : Safe s) (k : Nat) :
    SafeOutcome (execShrink k s) := by
  unfold execShrink
  repeat' first | assumption | split | dsimp only | (simp (maxDischargeDepth := 30) [*]; done) | (refine safe_withGroup (by assumption) _ fun g => ?_) | (refine safe_onSelected (by assumption) _ fun k h => ?_) | (refine safe_foldl (fun s x hs => ?_) ?_ _) | (refine safeOutcome_next.2 ?_)

@[simp] theorem safe_execShrinkSequenceDone {s : State} (safe : Safe s) (c : Nat) :
    SafeOutcome (execShrinkSequenceDone c s) := by
  unfold execShrinkSequenceDone
  repeat' first | assumption | split | dsimp only | (simp (maxDischargeDepth := 30) [*]; done) | (refine safe_withGroup (by assumption) _ fun g => ?_) | (refine safe_onSelected (by assumption) _ fun k h => ?_) | (refine safe_foldl (fun s x hs => ?_) ?_ _) | (refine safeOutcome_next.2 ?_)

@[simp] theorem safe_drain {s : State} (safe : Safe s) (c : Nat) (after : CtxState) :
    Safe (State.drain s c after) := by
  unfold State.drain
  repeat' first | assumption | split | dsimp only | (simp (maxDischargeDepth := 30) [*]; done) | (refine safe_withGroup (by assumption) _ fun g => ?_) | (refine safe_onSelected (by assumption) _ fun k h => ?_) | (refine safe_foldl (fun s x hs => ?_) ?_ _) | (refine safeOutcome_next.2 ?_)

@[simp] theorem safe_execDestroy {s : State} (safe : Safe s) (k : Nat) :
    SafeOutcome (execDestroy k s) := by
  unfold execDestroy
  (repeat' split) <;> simp [*]

@[simp] theorem safe_execReset {s : State} (safe : Safe s) (k : Nat) :
    SafeOutcome (execReset k s) := by
  unfold execReset
  (repeat' split) <;> simp [*]

@[simp] theorem safe_execFunctionLevelReset {s : State} (safe : Safe s) (c : Nat) :
    SafeOutcome (execFunctionLevelReset c s) := by simp [execFunctionLevelReset, safe]

@[simp] theorem safe_execDrainingZeroingDone {s : State} (safe : Safe s) (c : Nat) :
    SafeOutcome (execDrainingZeroingDone c s) := by
  unfold execDrainingZeroingDone
  repeat' first | assumption | split | dsimp only | (simp (maxDischargeDepth := 30) [*]; done) | (refine safe_withGroup (by assumption) _ fun g => ?_) | (refine safe_onSelected (by assumption) _ fun k h => ?_) | (refine safe_foldl (fun s x hs => ?_) ?_ _) | (refine safeOutcome_next.2 ?_)

@[simp] theorem safe_execLimit {s : State} (safe : Safe s) (k : Nat) :
    SafeOutcome (execLimit k s) := by
  unfold execLimit
  repeat' first | assumption | split | dsimp only | (simp (maxDischargeDepth := 30) [*]; done) | (refine safe_withGroup (by assumption) _ fun g => ?_) | (refine safe_onSelected (by assumption) _ fun k h => ?_) | (refine safe_foldl (fun s x hs => ?_) ?_ _) | (refine safeOutcome_next.2 ?_)

@[simp] theorem safe_execBucketRefill {s : State} (safe : Safe s) :
    SafeOutcome (execBucketRefill s) := by
  unfold execBucketRefill
  dsimp only
  split <;> simp [safe]

@[simp] theorem safe_execShare {s : State} (safe : Safe s) (k : Nat) :
    SafeOutcome (execShare k s) := by
  unfold execShare
  repeat' first | assumption | split | dsimp only | (simp (maxDischargeDepth := 30) [*]; done) | (refine safe_withGroup (by assumption) _ fun g => ?_) | (refine safe_onSelected (by assumption) _ fun k h => ?_) | (refine safe_foldl (fun s x hs => ?_) ?_ _) | (refine safeOutcome_next.2 ?_)

@[simp] theorem safe_execUnshare {s : State} (safe : Safe s) (k : Nat) :
    SafeOutcome (execUnshare k s) := by
  unfold execUnshare
  repeat' first | assumption | split | dsimp only | (simp (maxDischargeDepth := 30) [*]; done) | (refine safe_withGroup (by assumption) _ fun g => ?_) | (refine safe_onSelected (by assumption) _ fun k h => ?_) | (refine safe_foldl (fun s x hs => ?_) ?_ _) | (refine safeOutcome_next.2 ?_)

@[simp] theorem safe_execCstatRead {s : State} (safe : Safe s) (c : Nat) :
    SafeOutcome (execCstatRead c s) := by simp [execCstatRead, safe]

@[simp] theorem safe_execNqstatRead {s : State} (safe : Safe s) (c : Nat) :
    SafeOutcome (execNqstatRead c s) := by simp [execNqstatRead, safe]

@[simp] theorem safe_execTrstatRead {s : State} (safe : Safe s) (c : Nat) :
    SafeOutcome (execTrstatRead c s) := by simp [execTrstatRead, safe]

@[simp] theorem safe_faultCtx {s : State} (safe : Safe s) (c : Nat) :
    Safe (State.faultCtx s c) := by
  unfold State.faultCtx
  repeat' first | assumption | split | dsimp only | (simp (maxDischargeDepth := 30) [*]; done) | (refine safe_withGroup (by assumption) _ fun g => ?_) | (refine safe_onSelected (by assumption) _ fun k h => ?_) | (refine safe_foldl (fun s x hs => ?_) ?_ _) | (refine safeOutcome_next.2 ?_)

@[simp] theorem safe_execUncorrectableFault {s : State} (safe : Safe s) (c unit fcode : Nat) (a : Word) :
    SafeOutcome (execUncorrectableFault c unit fcode a s) := by
  unfold execUncorrectableFault
  (repeat' split) <;> simp [*]

@[simp] theorem safe_deviceFault {s : State} (safe : Safe s) (unit fcode : Nat) (a : Word) :
    Safe (State.deviceFault s unit fcode a) := by
  unfold State.deviceFault
  repeat' first | assumption | split | dsimp only | (simp (maxDischargeDepth := 30) [*]; done) | (refine safe_withGroup (by assumption) _ fun g => ?_) | (refine safe_onSelected (by assumption) _ fun k h => ?_) | (refine safe_foldl (fun s x hs => ?_) ?_ _) | (refine safeOutcome_next.2 ?_)

@[simp] theorem safe_execDeviceWideFault {s : State} (safe : Safe s) (unit fcode : Nat) (a : Word) :
    SafeOutcome (execDeviceWideFault unit fcode a s) := by simp [execDeviceWideFault, safe]

@[simp] theorem safe_execThermalTrip {s : State} (safe : Safe s) (die : Nat) :
    SafeOutcome (execThermalTrip die s) := by simp [execThermalTrip, safe]

@[simp] theorem safe_setLink {s : State} (safe : Safe s) (l : Nat) (x : Link) :
    Safe (State.setLink s l x) := by simp [State.setLink, safe]

@[simp] theorem safe_failLink {s : State} (safe : Safe s) (l : Nat) :
    Safe (State.failLink s l) := by simp [State.failLink, safe]

@[simp] theorem safe_linkGo {s : State} (safe : Safe s) (l : Nat) (st : LinkState) (lanes : Nat) :
    Safe (State.linkGo s l st lanes) := by
  unfold State.linkGo
  repeat' first | assumption | split | dsimp only | (simp (maxDischargeDepth := 30) [*]; done) | (refine safe_withGroup (by assumption) _ fun g => ?_) | (refine safe_onSelected (by assumption) _ fun k h => ?_) | (refine safe_foldl (fun s x hs => ?_) ?_ _) | (refine safeOutcome_next.2 ?_)

@[simp] theorem safe_linkCommand {s : State} (safe : Safe s) (n action : Nat) (accepts : LinkState → Bool) (st : LinkState) :
    Safe (State.linkCommand s n action accepts st) := by
  unfold State.linkCommand
  (repeat' split) <;> simp [*]

@[simp] theorem safe_execLinkTrain {s : State} (safe : Safe s) (k : Nat) :
    SafeOutcome (execLinkTrain k s) := by simp [execLinkTrain, safe]

@[simp] theorem safe_execLinkDown {s : State} (safe : Safe s) (k : Nat) :
    SafeOutcome (execLinkDown k s) := by simp [execLinkDown, safe]

@[simp] theorem safe_execLinkRetrain {s : State} (safe : Safe s) (k : Nat) :
    SafeOutcome (execLinkRetrain k s) := by simp [execLinkRetrain, safe]

@[simp] theorem safe_execLinkTrainingDone {s : State} (safe : Safe s) (l lanes : Nat) :
    SafeOutcome (execLinkTrainingDone l lanes s) := by simp [execLinkTrainingDone, safe]

@[simp] theorem safe_execLinkTrainingTimeout {s : State} (safe : Safe s) (l : Nat) :
    SafeOutcome (execLinkTrainingTimeout l s) := by simp [execLinkTrainingTimeout, safe]

@[simp] theorem safe_execFlitReplay {s : State} (safe : Safe s) (l : Nat) (r : ReplayReport) :
    SafeOutcome (execFlitReplay l r s) := by
  unfold execFlitReplay
  dsimp only
  repeat' first | split | (simp [safe]; done)

@[simp] theorem safe_ack {s : State} (safe : Safe s) (k : Nat) (p : Nat → Bool) :
    Safe (State.ack s k p) := by
  unfold State.ack
  (repeat' split) <;> simp [*]

@[simp] theorem safe_execRemoteResponse {s : State} (safe : Safe s) (k : Nat) :
    SafeOutcome (execRemoteResponse k s) := by simp [execRemoteResponse, safe]

@[simp] theorem safe_execHostWriteAck {s : State} (safe : Safe s) (k : Nat) :
    SafeOutcome (execHostWriteAck k s) := by simp [execHostWriteAck, safe]

@[simp] theorem safe_execHostLinkStateChange {s : State} (safe : Safe s) (st : Nat) (width : LinkWidth) :
    SafeOutcome (execHostLinkStateChange st width s) := by
  unfold execHostLinkStateChange
  (repeat' split) <;> simp [*]

@[simp] theorem safe_mapParked {s : State} (safe : Safe s) (gid n : Nat) (f : Debug → Debug) :
    Safe (State.mapParked s gid n f) := by
  unfold State.mapParked
  exact safe_modGroup safe _ _

@[simp] theorem safe_restart {s : State} (safe : Safe s) (k : Nat) (h : Hart) :
    Safe (State.restart s k h) := by
  unfold State.restart
  exact safe_pairSwitch (safe_setHart safe _ _) _

theorem safe_onSelectedAny {s : State} (safe : Safe s) (c : Nat) {f : Nat → Hart → State} {p : Nat → Nat → Hart → State}
    (ok : ∀ k h, Safe (f k h)) (parked : ∀ g n h, Safe (p g n h)) : Safe (State.onSelectedAny s c f p) := by
  unfold State.onSelectedAny
  repeat' first | exact safe | exact ok _ _ | exact parked _ _ _ | split

theorem safe_onSelected {s : State} (safe : Safe s) (c : Nat) {f : Nat → Hart → State} (ok : ∀ k h, Safe (f k h)) :
    Safe (State.onSelected s c f) := by
  unfold State.onSelected
  repeat' first | exact safe | exact ok _ _ | split

@[simp] theorem safe_execDctlHalt {s : State} (safe : Safe s) (c : Nat) :
    SafeOutcome (execDctlHalt c s) := by
  unfold execDctlHalt
  repeat' first | assumption | split | dsimp only | (simp (maxDischargeDepth := 30) [*]; done) | (refine safe_withGroup (by assumption) _ fun g => ?_) | (refine safe_onSelected (by assumption) _ fun k h => ?_) | (refine safe_foldl (fun s x hs => ?_) ?_ _) | (refine safeOutcome_next.2 ?_)

@[simp] theorem safe_execDctlResume {s : State} (safe : Safe s) (c : Nat) :
    SafeOutcome (execDctlResume c s) := by
  unfold execDctlResume
  repeat' first | assumption | split | dsimp only | (simp (maxDischargeDepth := 30) [*]; done) | (refine safe_withGroup (by assumption) _ fun g => ?_) | (refine safe_onSelected (by assumption) _ fun k h => ?_) | (refine safe_foldl (fun s x hs => ?_) ?_ _) | (refine safeOutcome_next.2 ?_)

@[simp] theorem safe_execDctlStep {s : State} (safe : Safe s) (c : Nat) :
    SafeOutcome (execDctlStep c s) := by
  unfold execDctlStep
  repeat' first | assumption | split | dsimp only | (simp (maxDischargeDepth := 30) [*]; done) | (refine safe_withGroup (by assumption) _ fun g => ?_) | (refine safe_onSelected (by assumption) _ fun k h => ?_) | (refine safe_foldl (fun s x hs => ?_) ?_ _) | (refine safeOutcome_next.2 ?_)

@[simp] theorem safe_execDctlCkpt {s : State} (safe : Safe s) (c : Nat) :
    SafeOutcome (execDctlCkpt c s) := by
  unfold execDctlCkpt
  refine safeOutcome_next.2 (safe_onSelected safe _ fun k h => safe_ite safe ?_)
  extract_lets x n stop
  split
  · exact safe_setHart safe _ _
  · rename_i t e
    have ht : Safe t := by
      split at e
      · exact nomatch e
      · exact safe_logWrite safe _ _ _ _ _ e
    exact safe_setHart ht k _

@[simp] theorem safe_execDebugStopReached {s : State} (safe : Safe s) (k : Nat) :
    SafeOutcome (execDebugStopReached k s) := by
  unfold execDebugStopReached
  (repeat' split) <;> simp [*]

@[simp] theorem safe_setItem {s : State} (safe : Safe s) (k : Nat) (h : Hart) (g : Group) (kind idx : Nat) (v : Word) :
    SafeOption (State.setItem s k h g kind idx v) := by
  unfold State.setItem
  repeat' first | assumption | split | dsimp only | (simp [*]; done)

@[simp] theorem safe_execDdataRead {s : State} (safe : Safe s) (c : Nat) :
    SafeOutcome (execDdataRead c s) := by
  unfold execDdataRead
  extract_lets t p
  have ht : Safe t := (safe_of_eq rfl rfl).2 safe
  refine safeOutcome_next.2 (safe_onSelectedAny ht _ (fun k h => ?_) fun gid n h => ?_)
  · split
    · exact ht
    · simp [ht]
  · split
    · exact ht
    · simp [ht]

@[simp] theorem safe_execDdataWrite {s : State} (safe : Safe s) (c : Nat) (v : Word) :
    SafeOutcome (execDdataWrite c v s) := by
  unfold execDdataWrite
  refine safeOutcome_next.2 (safe_onSelectedAny safe _ (fun k h => ?_) fun gid n h => ?_)
  · split
    · exact safe
    · split
      · rename_i e
        exact safe_modHart (safe_setItem safe _ _ _ _ _ _ _ e) _ _
      · exact safe_setHart safe _ _
  · exact safe_ite (safe_mapParked (safe_setToken safe _ _ _) _ _ _) (safe_mapParked safe _ _ _)

@[simp] theorem safe_execDrtgtWrite {s : State} (safe : Safe s) (c : Nat) (v : Word) :
    SafeOutcome (execDrtgtWrite c v s) := by
  unfold execDrtgtWrite
  repeat' first | assumption | split | dsimp only | (simp (maxDischargeDepth := 30) [*]; done) | (refine safe_withGroup (by assumption) _ fun g => ?_) | (refine safe_onSelected (by assumption) _ fun k h => ?_) | (refine safe_foldl (fun s x hs => ?_) ?_ _) | (refine safeOutcome_next.2 ?_)

@[simp] theorem safe_execReplayTargetReached {s : State} (safe : Safe s) (k : Nat) :
    SafeOutcome (execReplayTargetReached k s) := by
  unfold execReplayTargetReached
  (repeat' split) <;> simp [*]

@[simp] theorem safe_startFails {s : State} (safe : Safe s) (step unit : Nat) (done : List StartEntry) :
    Safe (State.startFails s step unit done) := by simp [State.startFails, safe]

@[simp] theorem safe_startFrom2 {s : State} (safe : Safe s) (r : StartReport) (done : List StartEntry) :
    Safe (State.startFrom2 s r done) := by
  unfold State.startFrom2
  extract_lets e2 e3 s1 d1 d2
  have h1 : Safe s1 := (safe_of_eq rfl rfl).2 safe
  split
  · exact safe_startFails h1 _ _ _
  · exact safe_startFails h1 _ _ _
  · refine safe_ite (safe_startFails ?_ _ _ _) ?_
    all_goals exact (safe_of_eq rfl rfl).2 h1

@[simp] theorem safe_flashDone {s : State} (safe : Safe s) : Safe s.flashDone := by
  unfold State.flashDone
  extract_lets t
  have ht : Safe t := (safe_of_eq rfl rfl).2 safe
  split
  · exact safe_startFrom2 ht _ _
  · exact ht

@[simp] theorem safe_execCrownStart {s : State} (safe : Safe s) (r : StartReport) :
    SafeOutcome (execCrownStart r s) := by simp [execCrownStart, safe]

@[simp] theorem safe_execRecoveryStatusWrite {s : State} (safe : Safe s) (v : BitVec 32) :
    SafeOutcome (execRecoveryStatusWrite v s) := by simp [execRecoveryStatusWrite, safe]

@[simp] theorem safe_execRecoveryImageVerified {s : State} (safe : Safe s) (ok : Bool) (r : StartReport) :
    SafeOutcome (execRecoveryImageVerified ok r s) := by simp [execRecoveryImageVerified, safe]

@[simp] theorem safe_execPowerLoss {s : State} (safe : Safe s) :
    SafeOutcome (execPowerLoss s) := by
  unfold execPowerLoss
  exact safeOutcome_next.2 ⟨Store.wf_filter _ safe.1, rfl⟩

@[simp] theorem safe_attestWrites {s : State} (safe : Safe s) (a : Nat) :
    Safe (State.attestWrites s a) := by simp [State.attestWrites, safe]

@[simp] theorem safe_execAttest {s : State} (safe : Safe s) (k : Nat) :
    SafeOutcome (execAttest k s) := by
  unfold execAttest
  (repeat' split) <;> simp [*]

@[simp] theorem safe_execPowerMeasurement {s : State} (safe : Safe s) (mw : Nat) :
    SafeOutcome (execPowerMeasurement mw s) := by simp [execPowerMeasurement, safe]

@[simp] theorem safe_execPowerLimitRelease {s : State} (safe : Safe s) :
    SafeOutcome (execPowerLimitRelease s) := by simp [execPowerLimitRelease, safe]

@[simp] theorem safe_execThermalStop {s : State} (safe : Safe s) (die : Nat) :
    SafeOutcome (execThermalStop die s) := by simp [execThermalStop, safe]

@[simp] theorem safe_execThermalRestart {s : State} (safe : Safe s) (die : Nat) :
    SafeOutcome (execThermalRestart die s) := by simp [execThermalRestart, safe]

@[simp] theorem safe_recordErrors {s : State} (safe : Safe s) : Safe s.recordErrors := by
  unfold State.recordErrors
  dsimp only
  exact safe_ite ((safe_of_eq rfl rfl).2 safe) safe

@[simp] theorem safe_execCorrectedSoftError {s : State} (safe : Safe s) (count : Nat) :
    SafeOutcome (execCorrectedSoftError count s) := by
  unfold execCorrectedSoftError
  exact safeOutcome_next.2 (safe_ite (safe_recordErrors ((safe_of_eq rfl rfl).2 safe)) safe)

@[simp] theorem safe_execExceptionTableSpill {s : State} (safe : Safe s) (shaft : Nat) :
    SafeOutcome (execExceptionTableSpill shaft s) := by simp [execExceptionTableSpill, safe]

@[simp] theorem safe_execClock {s : State} (safe : Safe s) :
    SafeOutcome (execClock s) := by
  unfold execClock
  exact safeOutcome_next.2 (safe_ite (safe_flashDone safe) (safe_ite safe
    (safe_recordErrors (safe_endWork ((safe_of_eq rfl rfl).2 safe)))))

@[simp] theorem safe_after {s : State} (safe : Safe s) {o : Host.Outcome State Fault Refusal} (ok : SafeOutcome o) : Safe (after s o) := by
  cases o with
  | next t => exact ok t rfl
  | _ => exact safe

@[simp] theorem safe_writeDctl {s : State} (safe : Safe s) (c : Nat) (v : BitVec 32) :
    Safe (State.writeDctl s c v) := by simp [State.writeDctl, safe]

@[simp] theorem safe_writeQctl {s : State} (safe : Safe s) (c q : Nat) (v : BitVec 32) :
    Safe (State.writeQctl s c q v) := by simp [State.writeQctl, safe]

@[simp] theorem safe_writeQueue {s : State} (safe : Safe s) (c q off : Nat) (v : Word) :
    Safe (State.writeQueue s c q off v) := by
  unfold State.writeQueue
  (repeat' split) <;> simp [*]

@[simp] theorem safe_writeDcfg {s : State} (safe : Safe s) (c : Nat) (v : Word) :
    Safe (State.writeDcfg s c v) := by
  unfold State.writeDcfg
  exact safe_onSelectedAny safe _ (fun k h => safe_setHart safe _ _) fun g n h => safe_mapParked safe _ _ _

@[simp] theorem safe_writeDebug {s : State} (safe : Safe s) (c off : Nat) (v : Word) :
    Safe (State.writeDebug s c off v) := by
  unfold State.writeDebug
  (repeat' split) <;> simp [*]

@[simp] theorem safe_writeBase {s : State} (safe : Safe s) (c off : Nat) (v : Word) :
    Safe (State.writeBase s c off v) := by
  unfold State.writeBase
  (repeat' split) <;> simp [*]

@[simp] theorem safe_writeVf {s : State} (safe : Safe s) (c off : Nat) (v : Word) :
    Safe (State.writeVf s c off v) := by
  unfold State.writeVf
  refine safe_ite safe (safe_ite (safe_writeBase safe _ _ _) (safe_ite (safe_writeQueue safe _ _ _ _) (safe_ite (safe_ite
    (safe_after safe (safe_execKtokWrite safe _ _ _)) safe) (safe_ite safe (safe_ite (safe_modCtx safe _ _) (safe_ite
    (safe_modCtx safe _ _) (safe_ite (safe_writeDebug safe _ _ _) (safe_ite (safe_modCtx safe _ _) safe))))))))

@[simp] theorem safe_writePf {s : State} (safe : Safe s) (off : Nat) (v : Word) :
    Safe (State.writePf s off v) := by
  unfold State.writePf
  refine safe_ite (safe_ite ?_ (safe_ite safe safe)) (safe_ite safe ?_)
  · exact safe_after safe (safe_execRecoveryStatusWrite safe _)
  · split
    · exact safe_ite safe safe
    · exact safe_after safe (safe_execMqcfgWrite safe _)
    · exact safe_after safe (safe_execMqwpWrite safe _)
    · exact safe

@[simp] theorem safe_execRegisterWrite {s : State} (safe : Safe s) (vf : Option Nat) (off : Nat) (v : Word) :
    SafeOutcome (execRegisterWrite vf off v s) := by
  unfold execRegisterWrite
  (repeat' split) <;> simp [*]

end Sys2Proof.Machine
end

