-- ==== Sys2Proof/Laws/SafeAuto.lean ====
section
/-! SUPPORT. What the device does by itself keeps memory and granule tags in canonical form. -/

namespace Sys2Proof.Machine

@[simp] theorem safe_nextOf {o : Host.Outcome State Fault Refusal} (ok : SafeOutcome o) : SafeOption (nextOf o) := by
  intro t e
  cases o with
  | next u => cases e; exact ok t rfl
  | _ => exact nomatch e

theorem safe_orElse {a : Option State} {b : Option State} (ha : SafeOption a) (hb : SafeOption b) : SafeOption (a <|> b) := by
  cases a with
  | none => simpa using hb
  | some t => simpa using ha

theorem safe_findSome {β : Type} {f : β → Option State} (ok : ∀ b, SafeOption (f b)) (l : List β) : SafeOption (l.findSome? f) := by
  induction l with
  | nil => exact safeOption_none
  | cons b t ih =>
    rw [List.findSome?_cons]
    split
    · rename_i e
      exact e ▸ ok b
    · exact ih

theorem safeOption_ite {c : Prop} [Decidable c] {a b : Option State} (ha : SafeOption a) (hb : SafeOption b) :
    SafeOption (if c then a else b) := by
  split <;> assumption

theorem safe_bind {α : Type} (o : Option α) {f : α → Option State} (ok : ∀ a, SafeOption (f a)) : SafeOption (o.bind f) := by
  cases o with
  | none => exact safeOption_none
  | some a => exact ok a

theorem safe_act (b : Bool) {f : Unit → Host.Outcome State Fault Refusal} (ok : SafeOutcome (f ())) : SafeOption (act b f) := by
  unfold act
  exact safeOption_ite (safe_nextOf ok) safeOption_none

theorem safe_moved {α : Type} [DecidableEq α] (s : State) (g : State → α) {o : Host.Outcome State Fault Refusal} (ok : SafeOutcome o) :
    SafeOption (moved s g o) := by
  unfold moved
  split
  · rename_i e
    exact safeOption_ite safeOption_none (safeOption_some.2 (safe_nextOf ok _ e))
  · exact safeOption_none

@[simp] theorem safe_autoHart {s : State} (safe : Safe s) (k : Nat) (h : Hart) :
    SafeOption (State.autoHart s k h) := by
  unfold State.autoHart
  extract_lets
  repeat' first | exact safeOption_none | (refine safe_act _ ?_) | (refine safe_moved _ _ ?_) | (refine safe_orElse ?_ ?_) | (refine safe_findSome (fun _ => ?_) _) | (refine safeOption_ite ?_ ?_) | split | (simp [safe]; done)

@[simp] theorem safe_autoMessage {s : State} (safe : Safe s) (key : Nat) :
    SafeOption (State.autoMessage s key) := by
  unfold State.autoMessage
  repeat' first | exact safeOption_none | (refine safe_act _ ?_) | (refine safe_moved _ _ ?_) | (refine safe_orElse ?_ ?_) | (refine safe_findSome (fun _ => ?_) _) | (refine safeOption_ite ?_ ?_) | split | (simp [safe]; done)

@[simp] theorem safe_autoRequest {s : State} (safe : Safe s) (r : Nat × Bool) :
    SafeOption (State.autoRequest s r) := by
  unfold State.autoRequest
  repeat' first | exact safeOption_none | (refine safe_act _ ?_) | (refine safe_moved _ _ ?_) | (refine safe_orElse ?_ ?_) | (refine safe_findSome (fun _ => ?_) _) | (refine safeOption_ite ?_ ?_) | split | (simp [safe]; done)

@[simp] theorem safe_autoPark {s : State} (safe : Safe s) (x : Nat × Slot) :
    SafeOption (State.autoPark s x) := by
  unfold State.autoPark
  repeat' first | exact safeOption_none | (refine safe_act _ ?_) | (refine safe_moved _ _ ?_) | (refine safe_orElse ?_ ?_) | (refine safe_findSome (fun _ => ?_) _) | (refine safeOption_ite ?_ ?_) | split | (simp [safe]; done)

@[simp] theorem safe_autoEngine {s : State} (safe : Safe s) :
    SafeOption (State.autoEngine s) := by
  unfold State.autoEngine
  refine safe_orElse (safe_act _ (safe_execHomeAccessStep safe)) (safe_orElse (safe_findSome (fun _ => safe_autoRequest safe _) _)
    (safe_orElse (safe_findSome (fun _ => safe_autoMessage safe _) _) (safe_orElse (safe_findSome (fun _ => safe_autoPark safe _) _)
    (safe_orElse (safe_findSome (fun _ => safeOption_ite safeOption_none (safe_moved _ _ (safe_execDauFetch safe _ _))) _)
    (safe_findSome (fun _ => safeOption_ite (safe_bind _ fun _ => safe_nextOf (safe_execCopyChunkLands safe _ _ _)) safeOption_none) _)))))

@[simp] theorem safe_autoTasks {s : State} (safe : Safe s) (gid : Nat) (g : Group) :
    SafeOption (State.autoTasks s gid g) := by
  unfold State.autoTasks
  repeat' first | exact safeOption_none | (refine safe_act _ ?_) | (refine safe_moved _ _ ?_) | (refine safe_orElse ?_ ?_) | (refine safe_findSome (fun _ => ?_) _) | (refine safeOption_ite ?_ ?_) | split | (simp [safe]; done)

@[simp] theorem safe_autoGroup {s : State} (safe : Safe s) (gid : Nat) (g : Group) :
    SafeOption (State.autoGroup s gid g) := by
  unfold State.autoGroup
  repeat' first | exact safeOption_none | (refine safe_bind _ fun q => ?_) | (refine safe_act _ ?_) | (refine safe_moved _ _ ?_) | (refine safe_orElse ?_ ?_) | (refine safe_findSome (fun _ => ?_) _) | (refine safeOption_ite ?_ ?_) | split | (simp [safe]; done)

@[simp] theorem safe_autoCtx {s : State} (safe : Safe s) (c : Nat) (x : Ctx) :
    SafeOption (State.autoCtx s c x) := by
  unfold State.autoCtx
  repeat' first | exact safeOption_none | (refine safe_act _ ?_) | (refine safe_moved _ _ ?_) | (refine safe_orElse ?_ ?_) | (refine safe_findSome (fun _ => ?_) _) | (refine safeOption_ite ?_ ?_) | split | (simp [safe]; done)

@[simp] theorem safe_autoCmd {s : State} (safe : Safe s) (n : Nat) (c : Cmd) :
    SafeOption (State.autoCmd s n c) := by
  unfold State.autoCmd
  repeat' first | exact safeOption_none | (refine safe_act _ ?_) | (refine safe_moved _ _ ?_) | (refine safe_orElse ?_ ?_) | (refine safe_findSome (fun _ => ?_) _) | (refine safeOption_ite ?_ ?_) | split | (simp [safe]; done)

@[simp] theorem safe_auto {s : State} (safe : Safe s) :
    SafeOption (State.auto s) := by
  unfold State.auto
  repeat' first | exact safeOption_none | (simp [safe]; done) | (refine safe_moved _ _ ?_) | (refine safe_orElse ?_ ?_) | (refine safe_findSome (fun _ => ?_) _) | (refine safeOption_ite ?_ ?_) | (refine safe_act _ ?_) | split

@[simp] theorem safe_clocked {s : State} (safe : Safe s) :
    Safe (State.clocked s) := by
  unfold State.clocked
  dsimp only
  exact safe_ite (safe_after (safe_after safe (safe_execClock safe)) (safe_execBucketRefill (safe_after safe (safe_execClock safe))))
    (safe_after safe (safe_execClock safe))

end Sys2Proof.Machine
end

