-- ==== Sys2Proof/Tests/Slice0.lean ====
section
/-! SUPPORT. Tests: words written out from the encodings of spec/05, an ill-formed term for each check, one step on small states with
results calculated by hand from the spec, and for each statement a state that meets its hypotheses. -/

set_option maxRecDepth 20000
set_option Elab.async false

namespace Sys2Proof.Tests

open Sys2Proof Machine

/-- Fields of a syllable or of an instruction: (position, value). -/
def word (fields : List (Nat × Nat)) : Nat := (fields.map fun f => f.2 * 2 ^ f.1).sum

/-- The word decodes to the instruction. -/
abbrev reads (w : Nat) (i : Instr) : Prop := (decodeNat w).toOption = some i

/- One word for each format, from Tables 5.2 to 5.24 and the examples of spec/05. -/
theorem test_decode_sr : reads (word [(24, 0), (18, 9), (12, 10), (6, 11), (0, 5)]) (.mulhu 9 10 11) := by decide +kernel
theorem test_decode_si : reads 0x01186FFF (.addi 6 6 (-1)) := by decide +kernel
theorem test_decode_bfx : reads (word [(24, 0x0A), (18, 1), (12, 2), (6, 8), (0, 15)]) (.bfx 1 2 8 15) := by decide +kernel
theorem test_decode_su : reads (word [(24, 0x0B), (18, 5), (0, 0x3FFFF)]) (.lui 5 (-1)) := by decide +kernel
theorem test_decode_sf : reads (word [(24, 0x13), (18, 1), (12, 2), (6, 3), (4, 2), (3, 1)]) (.fdiv 1 2 3 2 true) := by decide +kernel
theorem test_decode_sb : reads (word [(24, 0x24), (18, 6), (12, 7), (0, 0xFFE)]) (.bltu 6 7 (-2)) := by decide +kernel
theorem test_decode_sj : reads 0x26FFFFFF (.jal (-1)) := by decide +kernel
theorem test_decode_sl : reads (word [(24, 0x28), (23, 1), (16, 4), (0, 10)]) (.loop true 4 10) := by decide +kernel
theorem test_decode_sk : reads (word [(24, 0x2B), (20, 15), (0, 3)]) (.bnone 15 3) := by decide +kernel
theorem test_decode_sm : reads 0x461C3001 (.ldd 7 3 0 0 1) := by decide +kernel
theorem test_decode_sa : reads (word [(30, 1), (24, 0x1B), (18, 1), (12, 2), (6, 3), (4, 3), (0, 15)]) (.amaxBel 1 2 3 3 15) := by decide +kernel
theorem test_decode_sy : reads (word [(30, 1), (24, 0x33), (18, 4), (6, 3), (0, 63)]) (.barAw 4 3 63) := by decide +kernel
theorem test_decode_va : reads 0x0178000084030425 (.vadd ⟨3, 1, 2, 5, 0, 0, 1, false, 15, 0, 0, 0, 0⟩) := by decide +kernel
theorem test_decode_vm : reads (word [(31, 1), (22, 0x54), (16, 8), (0, 1), (60, 9), (58, 2), (52, 5), (46, 6), (44, 3), (43, 1), (40, 7), (36, 15)]) (.vldseg { f1 := 8, f2 := 0, f3 := 0, mask := 1, cls := 9, mf := 2, sbase := 5, sstr := 6, rnd := 3, sat := true, nf := 7, tag := 15, sbv := false, sbn := 0 }) := by decide +kernel
theorem test_decode_vk : reads (word [(31, 1), (22, 0x0B), (16, 1), (10, 2), (4, 3), (0, 4)]) (.mand { md := 1, ma := 2, mb := 3, mask := 4, cls := 0, mf := 0, ss := 0, var := 0 }) := by decide +kernel
theorem test_decode_vc : reads (word [(31, 1), (22, 0x63), (32, 3)]) (.unstand 3 ⟨0, 0⟩) ∧
    reads (0x81800C00) (.vpopq 3 ⟨0, 0⟩) := by decide +kernel
theorem test_decode_wait : reads (word [(31, 1), (22, 0x65), (32, 1), (37, 2), (42, 3), (47, 31)]) (.wait 1 2 3 31 ⟨0, 0⟩) := by decide +kernel
theorem test_decode_task : reads (word [(31, 1), (22, 0x71), (10, 6), (32, 63)]) (.twait 63 6 ⟨0, 0⟩) := by decide +kernel
theorem test_decode_ch : reads (word [(30, 3), (27, 1), (0, 5), (4, 3), (8, 6)]) (.convoy 1 0x635) := by decide +kernel
/- Encodings that are no instruction: function 0 of SR, class-00 op 0x30, major 0x37, a reserved sb. -/
theorem test_decode_refuses : ∀ w ∈ [0, word [(24, 0x30)], word [(31, 1), (22, 0x37)], word [(0, 0x17), (6, 1)]],
    (decodeNat w).toOption.isNone = true := by decide +kernel
theorem test_round_trip_copy : reads (encodeNat (.copy 7 1 2 3 3 2 5 ⟨15, 3⟩)) (.copy 7 1 2 3 3 2 5 ⟨15, 3⟩) := by decide +kernel

/-- Forms with all fields zero. -/
def a0 : VA := ⟨0, 0, 0, 0, 0, 0, 0, false, 0, 0, 0, 0, 0⟩
def v0 : VM := ⟨0, 0, 0, 0, 0, 0, 0, 0, 0, false, 0, 0, false, 0⟩
def k0 : VK := ⟨0, 0, 0, 0, 0, 0, 0, 0⟩
def m0 : VM := { v0 with tag := 15 }
def c0 : Cm := ⟨0, 0⟩

/- R78, R79, R82, R83, R86, R89 and the entries: each check refuses a term that only it refuses. -/
theorem test_ill_formed_scalar : ∀ i ∈ [Instr.bfx 1 2 60 10, .loop false 1 1, .loopi false 1 1, .getc 1 0 0x0C, .getc 1 2 0, .setc 1 0 2,
    .setc 1 1 16, .barArr 1 1 0, .barWt 1 2 0, .convoy 5 0x654321, .convoy 0 0x0B5, .convoy 0 0x55, .convoy 0 0x365, .vtype 0 14 0 c0,
    .vtype 0 1 1 c0, .vstrip 1 2 3 true 0 c0, .qbind 0 1 8 c0, .qbind 0 0 1 c0, .copy 0 1 2 3 4 0 2 c0, .copy 0 1 2 3 0 4 2 c0,
    .copy 0 1 2 3 0 0 1 c0, .copy 0 1 2 3 0 0 6 c0, .cptest 1 0 33 c0, .cpwait 0 33 1 c0, .bop 1 2 3 8 3 0 false ⟨c0, 0⟩, .bop 1 2 3 6 1 0 false ⟨c0, 0⟩,
    .bop 1 2 3 7 1 0 false ⟨c0, 0⟩, .bop 1 2 3 0 3 0 true ⟨c0, 0⟩, .bop 1 2 3 0 3 0 false ⟨c0, 1⟩, .fence 0 6 c0], i.wellFormed = false := by decide +kernel
theorem test_ill_formed_masks : ∀ i ∈ [Instr.mpre k0, .mthru { k0 with md := 1, mb := 1 }, .mpre { k0 with md := 1, var := 1 },
    .mand { k0 with md := 1, ss := 1 }, .mslide { k0 with md := 1, var := 2 }, .mcnt { k0 with md := 1 },
    .mftm { k0 with md := 1, mask := 1 }], i.wellFormed = false := by decide +kernel
theorem test_ill_formed_vectors : ∀ i ∈ [Instr.vadd { a0 with tag := 14 }, .vadd { a0 with var := 1, vb := 1 }, .vadd { a0 with ss := 1 },
    .vadd { a0 with var := 2 }, .vadd { a0 with vc := 1 }, .vadd { a0 with md := 1 }, .vand { a0 with rnd := 1 }, .vabs { a0 with vb := 1 },
    .vnsat { a0 with sat := true }, .vadc a0, .vadc { a0 with md := 1, vc := 16 }, .vadc { a0 with md := 1, var := 4 },
    .vadc { a0 with md := 1, var := 2, vc := 1 }, .vceq a0, .vceq { a0 with md := 1, tag := 1 }, .vfma { a0 with md := 1 },
    .vdot2 { a0 with rnd := 1 }, .vsel { a0 with vc := 16 }, .vmov { a0 with vb := 1, tag := 15 }, .vmov a0, .vid { a0 with va := 1 },
    .vslup { a0 with var := 1 }, .vslup { a0 with var := 6 }, .vslup { a0 with var := 2, vb := 1 }, .vcmpr { a0 with vb := 1 },
    .vgath { a0 with ss := 1 }, .vxtr { a0 with vd := 1 }, .vins { a0 with va := 1 }, .vscan { a0 with var := 6 }, .vscmx { a0 with rnd := 1 },
    .vsmxAcc { a0 with vd := 1 }, .vsmxFin { a0 with vb := 1 }, .vsamp a0, .vtopkIns { a0 with tag := 15, vd := 1 }, .vtopkMrg { a0 with va := 1 },
    .vrng { a0 with var := 6 }, .vcfq { a0 with mf := 1 }, .axt { a0 with vc := 2 }], i.wellFormed = false := by decide +kernel
theorem test_ill_formed_memory : ∀ i ∈ [Instr.vld { v0 with f2 := 1 }, .vld { v0 with f3 := 1 }, .vld { v0 with sstr := 1 }, .vld { v0 with nf := 1 },
    .vld { v0 with sbn := 1 }, .vld { v0 with tag := 14 }, .vldStream { v0 with sbv := true, sbase := 1 }, .vst v0, .vlds { v0 with f3 := 1 },
    .vldseg v0, .vldseg { v0 with nf := 1, f1 := 63 }, .vldx { v0 with sstr := 1 }, .vldsr { v0 with mask := 1 }],
    i.wellFormed = false := by decide +kernel
theorem test_well_formed : ∀ i ∈ [Instr.bfx 1 2 48 15, .loopi false 0 2, .getc 1 0 0x18, .setc 1 1 15, .barArr 1 2 0, .convoy 1 0x635, .vtype 0 13 0 c0,
    .vadd { a0 with var := 1, ss := 1 }, .vadc { a0 with md := 1, vc := 15 }, .vldseg { v0 with nf := 1, f1 := 62 }, .vst m0,
    .bop 0 2 3 0 3 0 true ⟨c0, 0⟩, .copy 0 1 2 3 3 3 5 c0], i.wellFormed = true := by decide +kernel

/- The state of the tests: one hart with a seat of 8 lanes, at user level with a handler, in a group with a span of 64 KiB; addresses below
2^30 are shaft 0, those from 2^30 on host memory behind a link that is up. -/
def arch (l : Store Word) : Arch := { Arch.entry with pc := 0x10000, shape := 64, vl := 4, s := l }
def hart (a : Arch) : Hart := { Hart.entry 0 0 a with seat := some (0, 0) }
def grp : Group := { fetchGroup with nhart := 2, lanes := 8, shape := 64, lspan := 0x10000, frames := [0, 16] }
def ctx0 : Ctx := { fetchCtx with tvec := 0x2000 }
def base : State := { (State.reset.withFetchWord 32 0x00187201).setBytes 0x1008 (bytesOf (3 * 2 ^ 61 + 2 ^ 59 + 2 ^ 57 + 2 ^ 18) 8) with
  ctxs := [(0, ctx0)], groups := [(0, grp)], links := [(64, { Link.zero with state := .up, lanes := 16 })] }
def run (h : Hart) : State := { base with harts := [(0, h)] }
def numbers : Store Word := [(5, 0x1000), (6, 7), (7, BitVec.ofInt 64 (-2)), (9, 2 ^ 63), (10, BitVec.allOnes 64), (11, 0x40000000)]
def here : Hart := hart (arch numbers)
def st : State := run here
def inCtx : Hart := hart { arch numbers with level := .context }

/- An access within the module whose ports have tokens is ready. -/
def Near (s : State) (ps : List Phys) : Prop := (∀ p ∈ ps, p.link = none) ∧ HasTokens s 0 (accessPorts 0 ps)
theorem near_ready (s : State) (h : Hart) (ps : List Phys) (hc : s.ctxOf h = 0) (hk : spireOf s.cur = 0) (hn : Near s ps) : AccessReady s h ps :=
  .inl ⟨hn.1, hc.symm ▸ hk.symm ▸ hn.2⟩

theorem test_plain : PlainHart here ∧ Handled st here := ⟨⟨rfl, rfl, rfl⟩, rfl, by decide +kernel⟩

/- Every instruction that a hart runs, at user level and at context level, passes the checks of R90 on a plain hart. -/
theorem test_issues_scalar : st.hart st.cur = some here ∧ ∀ i ∈ [Instr.add 1 2 3, .mulhu 1 2 3, .div 1 6 7, .rem 1 9 10, .bfx 1 2 8 15, .aupc 1 1,
    .fadd 1 2 3 0 true, .ftoi 1 2 1 false, .fmac 1 2 3 0 false, .beq 6 6 4, .bgeu 6 7 4, .bany 1 4, .bnone 0 4, .jal 4, .jalr 1 5 3, .loop true 6 4,
    .loopi false 0 4, .ldd 1 5 0 0 0, .stb 6 5 0 1 0, .aadd 1 5 6 0 0, .amaxBel 1 5 6 3 0, .getc 1 0 0x18, .setc 9 0 1, .trap 5, .halt, .ebrk 5, .qrd 1 0,
    .launch 1 6 0, .barInit 0 3, .barArr 1 2 3, .barWt 1 1 3, .barAw 1 3 3, .barDrop 3, .barRd 1 3, .tokrd 1 0, .tokwr 1 0, .convoy 1 0x635],
    here.gate i = .go := ⟨rfl, by decide +kernel⟩
theorem test_issues_vector : st.hart st.cur = some here ∧ ∀ i ∈ [Instr.vshape 0 c0, .vtype 1 2 0 c0, .vstrip 1 6 0 false 0 c0, .vacq 1 false c0, .vrel c0, .mfmt 0 6 c0,
    .vpopq 0 c0, .vexit 1 5 4 c0, .mand { k0 with md := 1 }, .mftm { k0 with md := 1 }, .vadd a0, .vadc { a0 with md := 1 }, .vrsum a0, .vsmxAcc a0,
    .vld v0, .vldStream { v0 with sbv := true }, .vst m0, .vldseg { v0 with nf := 1 }, .vldx v0, .vldFf v0, .vldSc v0, .vstSc m0, .vldsr v0,
    .stream 0 5 6 0 c0, .qbind 0 1 0 c0, .copy 0 5 5 6 0 0 2 c0, .cptest 1 0 0 c0, .cpwait 0 0 1 c0, .bop 1 5 6 0 3 0 false ⟨c0, 0⟩, .stand 1 5 5 0 false 0 c0,
    .unstand 0 c0, .fence 0 0 c0, .wait 0 0 0 0 c0, .task 1 5 0 c0, .twait 0 1 c0, .tsig 0 c0, .axt a0, .tresume 1 6 c0, .tprog 1 6 c0,
    .tflt 1 6 false c0, .tfltSet 1 6 c0, .tabort 1 6 c0, .vcfq a0], here.gate i = .go := ⟨rfl, by decide +kernel⟩
theorem test_issues_privileged : (run inCtx).hart 0 = some inCtx ∧ ∀ i ∈ [Instr.eret true, .pmig 1 5, .pinv 5 true, .pcnt 1 5 false, .pfence,
    .setc 6 0 0x20], inCtx.gate i = .go := ⟨rfl, by decide +kernel⟩

/- Steps and their fetch (StepRunsDecoded, NoInstructionTraps, StepKeepsSafe). -/
theorem test_step_fetches : ∃ s' g b, st.choose = .hart 0 s' ∧ s'.hart 0 = some here ∧ s'.group 0 = some g ∧
    s'.codeReady g (spireOf 0) here.arch.pc = true ∧ (Instr.add 6 7 8).size ≠ 8 ∧ s'.codeBytes g (spireOf 0) here.arch.pc (Instr.add 6 7 8).size = .ok b ∧ decode b = .ok (.add 6 7 8, []) :=
  ⟨_, _, _, rfl, rfl, rfl, rfl, by decide +kernel, rfl, rfl⟩
def zeros : State := { st with mem := fetchTables }
theorem test_step_finds_nothing : ∃ s' g b e, zeros.choose = .hart 0 s' ∧ s'.hart 0 = some here ∧
    s'.codeReady g (spireOf 0) here.arch.pc = true ∧ s'.group 0 = some g ∧
    s'.codeBytes g (spireOf 0) here.arch.pc 4 = .ok (List.take 4 b) ∧ b.length = sizeOfClass (leNat (b.take 4)) ∧
    s'.codeBytes g (spireOf 0) here.arch.pc b.length = .ok b ∧ decode b = .error e ∧ here.live = true ∧ Handled s' here :=
  ⟨_, _, [0, 0, 0, 0], _, rfl, rfl, rfl, rfl, rfl, rfl, rfl, rfl, rfl, rfl, by decide +kernel⟩
def far : Hart := hart { arch numbers with pc := 2 ^ 40 }
theorem test_step_fetch_faults : ∃ s' g f, (run far).choose = .hart 0 s' ∧ s'.hart 0 = some far ∧
    s'.codeReady g (spireOf 0) far.arch.pc = true ∧ s'.group 0 = some g ∧
    s'.syllable g (spireOf 0) far.arch.pc = .error f ∧ far.live = true ∧ PlainHart far ∧ Handled s' far :=
  ⟨_, _, _, rfl, rfl, rfl, rfl, rfl, rfl, ⟨rfl, rfl, rfl⟩, rfl, by decide +kernel⟩
/- The first syllable of a class-10 instruction in the last word of the page below 2^30; the host page above it has no EX. -/
def edge : Hart := hart { arch numbers with pc := 0x3FFFFFFC }
def atEdge : State := (run edge).setBytes (dramKey 0x3FFFFFFC) (bytesOf (word [(31, 1)]) 4)
theorem test_second_syllable : ∃ s' g b f, atEdge.choose = .hart 0 s' ∧ s'.hart 0 = some edge ∧ s'.group 0 = some g ∧
    s'.codeReady g (spireOf 0) edge.arch.pc = true ∧ s'.codeReady g (spireOf 0) (edge.arch.pc + 4) = true ∧
    s'.syllable g (spireOf 0) edge.arch.pc = .ok b ∧ leNat b / 2 ^ 30 % 4 = 2 ∧ s'.syllable g (spireOf 0) (edge.arch.pc + 4) = .error f ∧
    PlainHart edge := ⟨_, _, [0, 0, 0, 128], _, rfl, rfl, rfl, rfl, rfl, rfl, by decide +kernel, rfl, rfl, rfl, rfl⟩
/- A scheduled hart, with and without a trap that is due. -/
def queuedTrap : Hart := { here with async := [⟨plainCause 48 0, 0, none⟩] }
def scheduled (h : Hart) : State := { run h with agenda := [.hart 0] }
theorem test_schedule : (scheduled here).dieRuns (spireOf 0) = true ∧ (scheduled here).mayIssue 0 = true ∧ here.async = [] ∧
    (scheduled queuedTrap).mayIssue 0 = true ∧ queuedTrap.async ≠ [] ∧ queuedTrap.atBoundary = true ∧
    ({ scheduled queuedTrap with agenda := [], clockDue := true } : State).earlyCause 0 queuedTrap = false := by decide +kernel
theorem test_step_from_reset : Safe State.reset ∧ ∃ t, step State.reset = .next t := ⟨⟨rfl, rfl⟩, _, rfl⟩
/- add s6, s7, s8 with s7 = -2 and s8 = 0 gives -2. -/
theorem test_step_adds : (match step st with | .next t => (t.hart 0).map (·.reg 6) | _ => none) = some (BitVec.ofInt 64 (-2)) := by decide +kernel

/- The checks of R90 (IssueChecks): an ill-formed form, a privileged one, one without lanes, one outside the shape. -/
def bare : Hart := { here with seat := none }
def small : Hart := hart { arch numbers with shape := 8 }
theorem test_issue_checks : (Instr.vadd { a0 with tag := 14 }).wellFormed = false ∧ Instr.pfence.privileged = true ∧
    (Instr.vadd a0).needsLanes = true ∧ bare.seat = none ∧ (∃ r ∈ (Instr.vadd { a0 with vd := 8 }).vregs, small.arch.shape ≤ r) ∧
    (Instr.vadd { a0 with vd := 8 }).wellFormed = true ∧ (Instr.vadd a0).wellFormed = true ∧ (Instr.vadd { a0 with vd := 8 }).privileged = false ∧
    small.live = true ∧ bare.live = true ∧ (∀ r ∈ (Instr.vadd { a0 with vd := 7 }).vregs, r < small.arch.shape ∧ r ∉ small.landed ∧ ∀ l ∈ small.landing, r ∉ l) ∧ (here.reg 6).getLsbD 2 = true :=
  ⟨by decide +kernel, rfl, by decide +kernel, rfl, ⟨8, by decide +kernel, by decide +kernel⟩, by decide +kernel, by decide +kernel, rfl, by decide +kernel, by decide +kernel, by decide +kernel, by decide +kernel⟩

/- Traps and their return (TrapInstructions, EretReturns, AsyncTrapEntered). -/
def attached : Hart := { here with dbg := { here.dbg with att := true } }
theorem test_traps : attached.gate (.ebrk 5) = .go ∧ attached.dbg.att = true ∧ inCtx.gate (.trap 5) = .go ∧ PlainHart inCtx ∧
    inCtx.arch.level = .context ∧ here.live = true := ⟨by decide +kernel, rfl, by decide +kernel, ⟨rfl, rfl, rfl⟩, rfl, rfl⟩
theorem test_trap_aborts : (run inCtx).group inCtx.gid = some grp ∧ grp.state = .running ∧ (run inCtx).kernels.find grp.kernel = some fetchKernel ∧
    fetchKernel.state = .running ∧ (run inCtx).slot 0 = none ∧ inCtx.finishing = false ∧ ({ here with pending := some .fencing } : Hart).finishing = true := by decide +kernel
def deferredTrap : Hart := hart { arch numbers with level := .context, tcause := 0x400 }
theorem test_eret : inCtx.arch.tcause.getLsbD 10 = false ∧ deferredTrap.gate (.eret true) = .go ∧ deferredTrap.arch.tcause.getLsbD 10 = true := by decide +kernel
def struck : Hart := queuedTrap
theorem test_async : (run struck).hart 0 = some struck ∧ struck.async = ⟨plainCause 48 0, 0, none⟩ :: [] ∧ struck.atBoundary = true ∧
    (run struck).earlyCause 0 struck = false ∧ struck.dbg.recording = false ∧ Handled (run struck) struck :=
  ⟨rfl, rfl, by decide +kernel, by decide +kernel, rfl, rfl, by decide +kernel⟩

/- HardwareLoops: one loop ends with counts 1 and 2, two end at once, `loop` with 7 and `loopi` with 0. -/
def ends (n : BitVec 32) (start : Word) : Loop := ⟨n, start, 0x10004, true, 0⟩
def oneLoop (n : Nat) : Arch := { arch numbers with lc0 := ends (BitVec.ofNat 32 n) 0x10000 }
def twoLoops (n : Nat) : Arch := { oneLoop n with lc1 := ends 3 0xFFF0 }
theorem test_loops : ∀ n ∈ [1, 2], ((oneLoop n).loop false).active = true ∧ ((oneLoop n).loop false).stop = 0x10004 ∧
    ((oneLoop n).loop true).active = false ∧ ((twoLoops n).loop true).start.toNat < ((twoLoops n).loop false).start.toNat ∧
    ((twoLoops n).loop true).stop = 0x10004 := by decide +kernel
theorem test_loop_forms : loopResult (arch numbers) (.loop true 6 4) = some (true, 7, 4) ∧ loopResult (arch numbers) (.loopi false 0 4) = some (false, 0, 4) := by decide +kernel

/- IntegerInstructions, FloatResults, ExactThenRounded, BranchesAndJumps. -/
theorem test_integers : integerResult (arch numbers) (.mulh 1 7 6) = some (1, BitVec.allOnes 64) ∧ integerResult (arch numbers) (.sra 1 9 6) = some (1, 0xFF00000000000000) ∧
    integerResult (arch numbers) (.bfx 1 5 12 3) = some (1, 1) := by decide +kernel
theorem test_division_corners : (arch numbers).reg 8 = 0 ∧ (arch numbers).reg 9 = BitVec.ofNat 64 (2 ^ 63) ∧ (arch numbers).reg 10 = BitVec.allOnes 64 := by decide +kernel
/- 1.5 + 2.5 = 4 in binary32. -/
def floats : Hart := hart (arch [(1, 0x3FC00000), (2, 0x40200000)])
theorem test_float : floats.gate (.fadd 3 1 2 0 false) = .go ∧ (floatResult floats.arch (.fadd 3 1 2 0 false)).map (fun x => (x.1, x.2.val)) = some (3, 0x40800000) := by decide +kernel
theorem test_exact : exactValue (Num.ofInt 3) = some 3 ∧ exactValue (Num.ofInt (-2)) = some (-2) ∧ (-2 : Rat) ≠ 0 := by decide +kernel
theorem test_branches : branchResult (st.regBytes here) here.arch (.beq 6 6 4) = some (true, 0x10010) ∧
    (branchResult (st.regBytes here) here.arch (.blt 6 7 4)).map (·.1) = some false ∧ (branchResult (st.regBytes here) here.arch (.bnone 0 4)).map (·.1) = some false := by decide +kernel

/- ScalarLoads, ScalarStores, Atomics, ScalarAccessPlaces: addresses on shaft 0, in the span, on host memory. -/
def exitAt (mask seq : Nat) : Exit := ⟨4, mask, 0, 0x20000, seq, 0, here.arch, []⟩
def spec : Hart := { here with exits := [exitAt 0 1] }
def entry : Held := ⟨0, 0, 0, 0, 0x1000, none, [⟨0x1000, 0xFF, 1⟩], .raw, [], none, false, []⟩
theorem test_loads : loadForm (.ldd 1 5 0 0 0) = some (1, 5, 0, 0, 8, true) ∧ accessForm here.arch (.ldd 1 5 0 0 0) = some (0x1000, 0, 8, false) ∧
    ∃ p, st.placeElem grp 0 0 8 false ⟨0, 0x1000, 8⟩ = .ok p ∧ AccessReady st here p.phys ∧ ∀ q ∈ p.phys, q.counted = false ∧ q.link = none ∧ q.tgt = 1 :=
  ⟨rfl, by decide +kernel, _, rfl, near_ready _ _ _ rfl rfl (by unfold Near HasTokens; decide +kernel), by decide +kernel⟩
theorem test_held_load : ({ here with held := [entry] } : Hart).held = [] ++ entry :: [] ∧ entry.writes = [] ++ ⟨0x1000, 0xFF, 1⟩ :: [] := ⟨rfl, rfl⟩
theorem test_stores : storeForm (.std 6 5 0 1 0) = some (6, 5, 0, 1, 0, 8) ∧ spec.gate (.std 6 5 0 1 0) = .go ∧ spec.exits ≠ [] ∧ here.exits = [] ∧
    ∃ p, st.placeElem grp 0 1 8 true ⟨0, 0x1000, 8⟩ = .ok p ∧ (∀ q ∈ p.phys, q.link = none ∧ st.writeBlocked 0 q = false) ∧ SendReady st 0 0 p.phys ∧
      spec.held.length + 8 ≤ 4 * grp.lanes / grp.seats :=
  ⟨rfl, by decide +kernel, by decide +kernel, rfl, _, rfl, by decide +kernel, by unfold SendReady HasTokens; decide +kernel, by decide +kernel⟩
/- An address on host memory: a store, and an atomic whose data have arrived, then with its answer on the way, its link up and down. -/
def arrived : Hart := { here with pending := some (.remote [64] true true []) }
def answered : Hart := { here with pending := some (.answered [64] 7) }
theorem test_over_links : ∃ q, st.placeElem grp 0 0 8 true ⟨0, 0x40000000, 8⟩ = .ok q ∧ (∀ x ∈ q.phys, x.link = some 64 ∧ x.tgt = 3 ∧ st.writeBlocked 0 x = false) ∧
    SendReady st 0 0 q.phys ∧ AccessReady (run arrived) arrived q.phys ∧ (run arrived).classBehind 0 0 q.phys = false ∧ arrived.gate (.acas 1 11 6 0 0) = .go :=
  ⟨_, rfl, by decide +kernel, by unfold SendReady HasTokens; decide +kernel, .inr ⟨by decide +kernel, ⟨_, _, _, rfl⟩, by decide +kernel⟩, by decide +kernel, by decide +kernel⟩
theorem test_answers : answered.gate (.acas 1 11 6 0 0) = .go ∧ answered.pending = some (.answered [64] 7) ∧ (∀ l ∈ [64], (run answered).linkUp l = true) ∧
    ∃ l ∈ [64], ({ run answered with links := [] } : State).linkUp l = false := by decide +kernel
theorem test_atomics : (atomicForm (.acas 1 5 6 0 0)).isSome = true ∧ (atomicForm (.amin 1 11 6 0 0)).isSome = true ∧ here.pending = none ∧
    ∃ p, st.placeElem grp 0 0 8 true ⟨0, 0x1000, 8⟩ = .ok p ∧ (∀ x ∈ p.phys, x.tgt ≠ 3 ∧ st.writeBlocked 0 x = false) ∧
      AccessReady st here p.phys ∧ st.classBehind 0 0 p.phys = false :=
  ⟨rfl, rfl, rfl, _, rfl, by decide +kernel, near_ready _ _ _ rfl rfl (by unfold Near HasTokens; decide +kernel), by decide +kernel⟩
theorem test_access_faults : accessForm here.arch (.ldd 1 6 0 1 0) = some (7, 1, 8, false) ∧ accessForm here.arch (.std 1 11 0 1 0) = some (0x40000000, 1, 8, true) ∧
    grp.lspan ≤ 0x40000000 ∧ 0xFFF8 % 8 = 0 ∧ 0xFFF8 + 8 ≤ grp.lspan := by decide +kernel
/- Group space: a byte past the span of Spire 1 of the quad, one past the quad, and the last eight bytes of that span. -/
def outer : Arch := arch ((12, 0x110000) :: (13, 0x400000) :: numbers)
theorem test_group_space : accessForm outer (.ldd 1 12 0 2 0) = some (0x110000, 2, 8, false) ∧ accessForm outer (.ldd 1 13 0 2 0) = some (0x400000, 2, 8, false) ∧
    0x110000 % 8 = 0 ∧ 0x110000 < 2 ^ 22 ∧ grp.lspan < 0x110000 % 2 ^ 20 + 8 ∧ 2 ^ 22 ≤ 0x400000 ∧ 0x10FFF8 % 2 ^ 20 + 8 ≤ grp.lspan ∧ 0x10FFF8 / 2 ^ 20 = 1 := by
  decide +kernel

/- ControlRegisters: SP = 7 from s6, SP = 0 from s9; a register of each bank. -/
theorem test_controls : here.gate (.setc 9 0 1) = .go ∧ (here.reg 9).getLsbD 2 = false ∧ (here.reg 6).getLsbD 2 = true ∧
    st.group here.gid = some grp ∧ inCtx.gate (.getc 1 0 0x27) = .go ∧ here.gate (.getc 1 1 15) = .go := by decide +kernel

/- BarrierEvents, BarrierInstructions: barrier 3 counting with an arrival, released, idle. -/
def barred (x : Barrier) : Group := { grp with barriers := [(3, x)] }
def counting : Barrier := ⟨0, 2, 2, .counting⟩
def first : Barrier := ⟨5, 3, 2, .counting⟩
def waiter : Hart := { here with pending := some (.barrierWait 3 0 true) }
theorem test_barrier_events : (run waiter).group 0 = some grp ∧ waiter.barOver 0 3 ⟨1, 2, 0, .released⟩ = true ∧
    (run waiter).harts.filter (fun p => p.1 = 0) = [(0, waiter)] := ⟨rfl, by decide +kernel, rfl⟩
theorem test_barrier_forms : ((here.reg 8).toNat ≤ 64 ∧ (here.reg 8).toNat ≤ grp.nhart) ∧ grp.nhart < (here.reg 6).toNat ∧ (barred counting).bar 3 = counting ∧
    0 < arrivals counting.amask ∧ (grp.bar 3).state = .idle ∧ here.unacked = [] ∧ here.pending = none ∧ counting.gen = 0 ∧ 2 ≤ arrivals 3 := by decide +kernel
/- `bar.aw` whose arrival ends the phase, and one that waits for a third hart. -/
theorem test_barrier_done : barrierDone ⟨1, 2, 0, .released⟩ 0 ∧ ¬barrierDone counting 0 ∧ barrierDone (barrierArrive counting 0) counting.gen ∧
    ¬barrierDone (barrierArrive first 0) first.gen ∧ waiter.gate (.barAw 1 3 3) = .go ∧ waiter.pending = some (.barrierWait 3 0 true) := by
  unfold barrierDone; decide +kernel

/- QueueAdvances, HaltEndsHart: with and without an access that is not acknowledged. -/
def owing : Hart := { here with unacked := [⟨64, 0x10000, 0, 0, 0⟩] }
theorem test_launch : (st.ctx 0).state ∈ [.active, .growing, .shrinking] ∧ owing.gate (.launch 1 6 0) = .go ∧ owing.unacked ≠ [] ∧
    OnlyHart st 0 here ∧ owing.gate .halt = .go ∧ OnlyHart (run owing) 0 owing := ⟨by decide +kernel, by decide +kernel, by decide +kernel, rfl, by decide +kernel, rfl⟩

/- PageInstructions, PageMigration: a page of 2 MiB, a leaf of host memory that counts, states of a migration. -/
def fine (leaf : Nat) : State := (run inCtx).setBytes 0x1000 (bytesOf (7 * 2 ^ 61 + 3) 8 ++ bytesOf (3 * 2 ^ 61 + 2 ^ 59 + 2 ^ 57 + 2 ^ 40 + 2 ^ 18) 8) |>.setBytes 0x3000 (bytesOf leaf 8)
def leaf2M : Nat := 2 ^ 61 + 2 ^ 59 + 2 ^ 57
theorem test_pages : (∃ e p b, (run inCtx).walk 0 0x1000 = .leaf e p b ∧ pteTgt e = 1 ∧ b = 30 ∧ e.getLsbD 60 = false) ∧
    (∃ e p b, (fine leaf2M).walk 0 0x40000000 = .leaf e p b ∧ pteTgt e = 3 ∧ e.getLsbD 40 = true) ∧ st.blocked = [] ∧ st.allPins = [] ∧
    ({ inCtx with unacked := [⟨64, 0, 0, 0, 0⟩] } : Hart).gate .pfence = .go :=
  ⟨⟨_, _, _, rfl, by decide +kernel, rfl, by decide +kernel⟩, ⟨_, _, _, rfl, by decide +kernel, by decide +kernel⟩, rfl, by decide +kernel, by decide +kernel⟩
/- The page of 1 GiB at 0: pinned by a held store, blocked, and a hart that invalidates it, with and without its pins. -/
def pin0 (wr : Bool) : Pin := ⟨0, 0, 30, 5, wr⟩
def invalidating (l : List Pin) : Hart := { inCtx with pending := some (.invalidating l) }
def pinning (h : Hart) (wr : Bool) : State := { run h with harts := [(0, h), (16, { hart here.arch with idx := 1, held := [{ entry with pins := [pin0 wr] }] })], slots := [(0, ⟨.standing, 0, 0, 2, 0, 64, [pin0 false], none, [], none, 0, 0, 0, false⟩)] }
theorem test_pins : pin0 true ∈ (pinning inCtx true).allPins ∧ (pin0 true).ctx = 0 ∧ (here.reg 5).toNat / 2 ^ 30 = (pin0 true).base / 2 ^ 30 ∧
    (invalidating [pin0 true]).gate (.pinv 5 false) = .go ∧ (∀ p ∈ (run (invalidating [pin0 true])).allPins, p ∉ [pin0 true]) ∧
    pin0 true ∈ (pinning (invalidating [pin0 true]) true).allPins ∧ (∀ p ∈ st.allPins, p.ctx = 0 → p.base = 0 → p.write = false) ∧
    (∃ x, (pinning inCtx true).slot 0 = some x ∧ x.state = .standing ∧ pin0 false ∈ x.pins) ∧
    (∃ b ∈ ({ run inCtx with blocked := [(0, 0, 30)] } : State).blocked, b.1 = 0 ∧ (here.reg 5).toNat / 2 ^ b.2.2 = b.2.1 / 2 ^ b.2.2) := by
  refine ⟨by decide +kernel, rfl, by decide +kernel, by decide +kernel, by decide +kernel, by decide +kernel, by decide +kernel, ⟨_, rfl, rfl, by decide +kernel⟩, by decide +kernel⟩
theorem test_migration : (∃ c s', (run inCtx).walk 0 (2 ^ 40) = .fault c s') ∧
    (∃ e p, (fine leaf2M).walk 0 0x1000 = .leaf e p 21 ∧ pteTgt e ∈ [1, 3] ∧ (fine leaf2M).pmigStatus 0 e (BitVec.ofNat 64 (leaf2M + 512)) 21 = none) ∧
    (∃ e p, (fine (leaf2M + 2 ^ 60)).walk 0 0x1000 = .leaf e p 21 ∧ e.getLsbD 60 = true) ∧ (fine leaf2M).frameReady (BitVec.ofNat 64 leaf2M) = true ∧
    (fine leaf2M).allPins = [] ∧ 0x3000 + 8 ≤ frameKey (BitVec.ofNat 64 (leaf2M + 512)) ∧
    movePorts (BitVec.ofNat 64 leaf2M) (BitVec.ofNat 64 (3 * 2 ^ 61)) = [linkPort hostLink] ∧ HasTokens st 0 [linkPort hostLink] ∧
    ¬HasTokens { st with ctxs := [(0, { ctx0 with buckets := [(linkPort hostLink, ⟨5, none, 0⟩)] })] } 0 [linkPort hostLink] := by
  unfold HasTokens
  exact ⟨⟨_, _, rfl⟩, ⟨_, _, rfl, by decide +kernel, by decide +kernel⟩, ⟨_, _, rfl, by decide +kernel⟩, by decide +kernel, by decide +kernel, by decide +kernel,
    by decide +kernel, by decide +kernel, by decide +kernel⟩
def moving (copied installed : Bool) : Hart := { inCtx with pending := some (.migrate 0x3000 (BitVec.ofNat 64 leaf2M) (BitVec.ofNat 64 (leaf2M + 512)) 0 21 copied installed) }
theorem test_migration_steps : (run (moving true true)).hart 0 = some (moving true true) ∧ (moving true true).gate (.pmig 1 5) = .go ∧
    Safe ((fine leaf2M).setHart 0 (moving true false)) ∧ (∃ x ∈ st.kernels, x.2.ctx = 0 ∧ (x.2.state = .placing ∨ x.2.state = .running)) ∧
    (∀ x ∈ ({ st with kernels := [] } : State).kernels, x.2.ctx = 0 → x.2.state ≠ .placing ∧ x.2.state ≠ .running) ∧ (st.ctx 0).state ∉ [.absent, .forming] :=
  ⟨rfl, by decide +kernel, ⟨by decide +kernel, by decide +kernel⟩, ⟨_, List.mem_singleton.mpr rfl, rfl, .inr rfl⟩, by decide +kernel, by decide +kernel⟩

/- StripInstructions, LaneInstructions. -/
def queued (l : List (BitVec 32)) : Hart := hart { arch numbers with lq := l }
theorem test_strips : Tag.ofCode 2 = some .i16 ∧ (queued [9]).gate (.vstrip 1 0 0 true 0 c0) = .go ∧ (queued [9]).arch.lq = 9 :: [] ∧ here.arch.lq = [] ∧
    here.gate (.vstrip 1 0 0 true 0 c0) = .go ∧ (queued (List.replicate 8 1)).arch.lq.length = 8 ∧ (queued (List.replicate 8 1)).gate (.vpopq 0 c0) = .go := by decide +kernel
theorem test_formats : ¬formatRefused (here.reg 6) ∧ formatRefused (here.reg 7) ∧ here.gate (.mfmt 0 7 c0) = .go := by unfold formatRefused; decide +kernel
def seeker : Hart := { bare with pending := some (.seeking 0 1) }
def crowd : State := { run bare with harts := (0, bare) :: (List.range 4).map fun i => (i + 1, { here with seat := some (i, 0) }) }
theorem test_lanes : fetchGroup.lanes = 0 ∧ bare.gate (.vacq 1 true c0) = .go ∧ freeSeats grp.lanes grp.seats (crowd.seated 0) = [] ∧ here.seat = some (0, 0) ∧
    firstSeeker ((run seeker).seekers 0) = some (0, 0, 0, 1) ∧ (run seeker).hart 0 = some seeker ∧ freeSeats grp.lanes grp.seats ((run seeker).seated 0) ≠ [] ∧
    (0, 0) ∈ freeSeats 8 1 [] ∧ (0, 0, 0, (1 : Reg)) ∈ (run seeker).seekers 0 := by decide +kernel

/- ConvoyHeader: vadd and vmul behind a header with slots ALU and MUL, and with the slots exchanged. -/
def chain : State := st.setBytes 0x10000 (bytesOf 0xC0000031 4 ++ bytesOf 0x0078000084030425 8 ++ bytesOf 0x0078000088040425 8)
theorem test_convoy : ∃ l, chain.members 0 here 2 (here.arch.pc + 4) = .ok l ∧
    (∀ p ∈ l.zip (convoySlots 0x31), p.1.size = 8 ∧ p.1.wellFormed = true ∧ unitMatches p.1.unit p.2 = true) ∧
    loopInside here.arch 16 = false ∧ (∃ p ∈ l.zip (convoySlots 0x13), unitMatches p.1.unit p.2 = false) ∧ here.gate (.convoy 0 0x31) = .go ∧ here.gate (.convoy 0 0x13) = .go :=
  ⟨_, rfl, by decide +kernel, by decide +kernel, ⟨_, List.mem_cons_self, by decide +kernel⟩, by decide +kernel, by decide +kernel⟩

/- Exits, HeldStoreDrains. -/
def full4 : Hart := { here with exits := [exitAt 0 1, exitAt 0 2, exitAt 0 3, exitAt 0 4] }
def faulty : Hart := { here with exits := [exitAt 0 1], faults := [⟨2, 0, here.arch, true⟩] }
theorem test_exits : full4.exits.length = 4 ∧ full4.gate (.vexit 1 5 4 c0) = .go ∧ here.exits.length < 4 ∧
    (∀ i, i < 4 → (exitAt 4 1).mask.testBit i = decide (i = 2)) ∧ (∀ i, i < 4 → (exitAt 0 1).mask.testBit i = false) ∧ faulty.faults = [] ++ ⟨2, 0, here.arch, true⟩ :: [] ∧
    (exitAt 0 1).seq ≤ 2 ∧ (∀ f ∈ full4.faults, (exitAt 0 1).seq ≤ f.seq → ∃ x, [exitAt 0 2].head? = some x ∧ x.seq ≤ f.seq) :=
  ⟨rfl, by decide +kernel, by decide +kernel, by decide +kernel, by decide +kernel, rfl, by decide +kernel, by intro f h; cases h⟩
def holding (e : Held) : Hart := { here with held := [e] }
def down : State := { run (holding { entry with link := some 64 }) with links := [] }
theorem test_held : (run (holding entry)).hart 0 = some (holding entry) ∧ entry.revoked = false ∧ entry.link = none ∧ down.linkDead 64 = true ∧ st.linkDead 64 = false ∧
    (holding { entry with revoked := true, grant := some 3 }).held = { entry with revoked := true, grant := some 3 } :: [] ∧ (holding entry).exits.head? = none ∧
    HasTokens (run (holding entry)) 0 (writePorts (spireOf 0) entry.link entry.grant entry.writes) := by unfold HasTokens; decide +kernel
/- A store of the class that is queued on a link, and a bucket without tokens at the port of Spire 0's fabric. -/
def behind : State := { run (holding entry) with homeq := [⟨0, 0, false, 0, some 64, 0x10000, 0, [], .raw, [], []⟩] }
def broke (b : Nat) : State := { run (holding entry) with ctxs := [(0, { ctx0 with buckets := [(b, ⟨5, none, 0⟩)] })] }
theorem test_held_waits : ¬(∀ q ∈ behind.homeq, q.read = false → q.hart = 0 → q.cls = entry.cls → q.link = entry.link) ∧
    ¬HasTokens (broke 0) 0 [0] ∧ (∀ q ∈ (broke 0).homeq, q.read = true) := by unfold HasTokens; decide +kernel

/- MaskResults, and the Works statements: every form of each family on a hart of zero registers, whose tags are i8. -/
theorem test_masks : ∀ i ∈ [Instr.mand { k0 with md := 1 }, .mandn { k0 with md := 1 }, .mxor { k0 with md := 1, ma := 1 }, .mcnt { k0 with ss := 1 },
    .mfirst { k0 with ss := 1 }, .mor { k0 with md := 1 }, .mlatch { k0 with md := 1, mb := 2 }, .mslide { k0 with md := 1, ss := 6 }, .mpre { k0 with md := 2 }, .mthru { k0 with md := 1, mask := 2 }],
    (maskResult here.arch i).isSome = true ∧ here.gate i = .go := by decide +kernel
theorem test_vector_arithmetic : ∀ i ∈ [Instr.vadd a0, .vsub a0, .vmin a0, .vmax a0, .vmul a0, .vmulh a0, .vdiv a0, .vfma a0, .vfms a0, .vabs a0,
    .vneg a0, .vcvt a0, .vnsat a0, .vsqrt a0, .vrcp a0, .vrsq a0, .vexp a0, .vlog a0, .vtanh a0, .vsig a0],
    (arithmeticWork here.arch (st.regBytes here) i).isSome = true ∧ here.gate i = .go := by decide +kernel
def md1 : VA := { a0 with md := 1 }
theorem test_vector_codes : ∀ i ∈ [Instr.vand a0, .vor a0, .vxor a0, .vandn a0, .vadc md1, .vsbc md1, .vsll a0, .vsrl a0, .vsra a0, .vrshr a0,
    .vdot2 a0, .vceq md1, .vcne md1, .vclt md1, .vcle md1, .vsel a0, .vmov { a0 with tag := 15 }, .vid a0],
    (codesWork here.arch (st.regBytes here) i).isSome = true ∧ here.gate i = .go := by decide +kernel
theorem test_vector_permutations : ∀ i ∈ [Instr.vslup a0, .vsldn a0, .vcmpr a0, .vxpnd a0, .vgath a0, .vxtr a0, .vins a0],
    (permutationWork here.arch (st.regBytes here) i).isSome = true ∧ here.gate i = .go := by decide +kernel
theorem test_vector_folds : ∀ i ∈ [Instr.vrsum a0, .vrmax a0, .vrmin a0, .vrand a0, .vrior a0, .vrxor a0, .vscan a0, .vscmx a0],
    (foldWork here.arch (st.regBytes here) i).isSome = true ∧ here.gate i = .go := by decide +kernel
theorem test_vector_models : ∀ i ∈ [Instr.vrng a0, .vsmxAcc a0, .vsmxFin a0, .vsamp { a0 with tag := 15 }, .vtopkIns { a0 with tag := 15 }, .vtopkMrg a0],
    (modelWork here.arch (st.regBytes here) i).isSome = true ∧ here.gate i = .go := by decide +kernel
/- The branches of Works: no reserved code and good tags; t8 with the code 0x80 in v1 under HCTL.EEN; shifts of a t8 register. -/
def odd : Hart := hart { arch numbers with hctl := 1, v := [(1, 0x80)], vtag := [(1, ⟨.t8, 0⟩)] }
def workParts (h : Hart) (i : Instr) : Option (Option Nat × Bool) :=
  match arithmeticWork h.arch 64 i, codesWork h.arch 64 i with
  | some w, _ => some (w.reserved, w.ok)
  | none, some w => some (w.reserved, w.ok)
  | none, none => none
theorem test_works : workParts here (.vadd a0) = some (none, true) ∧ workParts odd (.vadd { a0 with va := 1 }) = some (some 0, true) ∧
    workParts here (.vsll { a0 with va := 1 }) = some (none, true) ∧ workParts (hart { odd.arch with hctl := 0, v := [] }) (.vsll { a0 with va := 1 }) = some (none, false) ∧
    odd.arch.hctl.getLsbD 0 = true ∧ odd.gate (.vadd { a0 with va := 1 }) = .go := by decide +kernel

/- VectorReads: 12 of element 0 of v1 as i8, and a block of level 2 of which element 0 is active. -/
theorem test_vector_reads : (List.map Num.ofInt [3, -5, 7, 2]).length = 2 ^ 2 ∧
    (let a := { arch numbers with v := [(1, 12)], vtag := [(1, ⟨.i8, 2⟩)] }; a.tagOf 1 = .i8 ∧ a.domOf 1 = 2 ∧
      (a.values 1 1 4 true .rne false).xs.length = 4 ∧ (a.values 1 1 4 true .rne false).at 0 = Num.ofInt 12) := by decide +kernel

/- VectorLoads: four i8 elements of DRAM; an i16 load of an odd address; no active element for `vld.ff`; an index register of t8. -/
def vform : VM := { v0 with sbase := 5 }
def loading : VectorAccess := ⟨here.arch, vform, .unit, 4⟩
def oddLoad : VectorAccess := ⟨{ here.arch with mf := [(1, 2)] }, { vform with sbase := 6, mf := 1 }, .unit, 4⟩
theorem test_vector_loads : loadOf (.vld vform) = some (vform, .unit) ∧ loadCount here.arch (st.regBytes here) vform .unit = 4 ∧
    here.gate (.vld vform) = .go ∧ (∀ e, e < 4 → loading.loads st here grp e = true ∧ loading.loadFault st here grp e 0 = none) ∧
    Near st (loading.places st grp false 1 fun _ _ => true) ∧
    (oddLoad.loads st here grp 0 = true ∧ (oddLoad.loadFault st here grp 0 0).isSome = true) ∧ here.gate (.vldFf { vform with mask := 1 }) = .go ∧
    (∀ e, e < 4 → (⟨here.arch, { vform with mask := 1 }, .unit, 4⟩ : VectorAccess).act e = false) ∧
    (odd.arch.tagOf 1).isInt = false ∧ odd.gate (.vldx { vform with f3 := 1 }) = .go := by unfold Near HasTokens; decide +kernel
/- `vld.ff`: its second element past the span of 64 KiB, which trims it; its first one there, speculative or not. -/
def ffForm : VM := { v0 with sbase := 13 }
def ffHart (b : Word) (sp : BitVec 32) : Hart := hart { arch ((13, b) :: numbers) with vspace := sp }
def ffAccess (b : Word) : VectorAccess := ⟨(ffHart b 1).arch, ffForm, .unit, 4⟩
theorem test_first_fault : firstBad (ffAccess 0xFFFF) (run (ffHart 0xFFFF 1)) (ffHart 0xFFFF 1) grp = some 1 ∧
    (trimmed (ffAccess 0xFFFF) (run (ffHart 0xFFFF 1)) (ffHart 0xFFFF 1) grp).vl = 1 ∧
    firstBad (ffAccess 0x10000) (run (ffHart 0x10000 1)) (ffHart 0x10000 1) grp = some 0 ∧
    ((ffAccess 0x10000).loadFault (run (ffHart 0x10000 1)) (ffHart 0x10000 1) grp 0 0).isSome = true ∧ (ffHart 0x10000 1).gate (.vldFf ffForm) = .go := by
  decide +kernel
def t8Load : Hart := hart { arch ((12, 0x3000) :: numbers) with hctl := 1, mf := [(1, 12)] }
def t8Form : VM := { v0 with sbase := 12, mf := 1 }
theorem test_load_reserved : storedTag t8Load.arch t8Form = .t8 ∧ t8Load.gate (.vld t8Form) = .go ∧ t8Load.arch.hctl.getLsbD 0 = true ∧
    ((⟨t8Load.arch, t8Form, .unit, 4⟩ : VectorAccess).loadWork ((run t8Load).setByte 0x3001 0x80) t8Load grp).reserved = some 1 := by decide +kernel
/- VectorStores: four i8 elements to the span; a reserved code; two segments of unequal tags; a misaligned element. -/
def vst : VM := { m0 with sbase := 8 }
def storing : VectorAccess := ⟨here.arch, vst, .unit, 4⟩
theorem test_vector_stores : storeOf (.vst vst) = some (vst, .unit) ∧ storeCount here.arch (st.regBytes here) vst .unit = 4 ∧ here.gate (.vst vst) = .go ∧
    (∀ e, e < 4 → storing.storeFault st grp e 0 = none) ∧ (storing.taken 0).rsv = none ∧ SendReady st 0 0 ((storing.writes st grp 1).map (·.1)) ∧
    (storing.writes st grp 1).length = 4 ∧ (∀ x ∈ storing.writes st grp 1, st.writeBlocked grp.ctx x.1 = false) ∧
    spec.held.length + 4 ≤ 4 * grp.lanes / grp.seats ∧ spec.gate (.vst vst) = .go := by unfold SendReady HasTokens; decide +kernel
theorem test_store_stops : ((⟨odd.arch, { vst with f1 := 1 }, .unit, 4⟩ : VectorAccess).taken 0).rsv = some 0 ∧
    odd.arch.tagOf (0 + 1) ≠ odd.arch.tagOf 0 ∧ here.gate (.vstseg { vst with nf := 1 }) = .go ∧
    ((⟨{ here.arch with mf := [(1, 2)] }, { vst with sbase := 6, mf := 1 }, .unit, 4⟩ : VectorAccess).storeFault st grp 0 0).isSome = true := by decide +kernel
/- StrictAccesses: before a ticket, with one, and after the last. -/
def ticket (l : List (List Nat × List ByteWrite)) (c : List Nat) : Hart := { here with pending := some (.ticket l c .raw 0 []) }
theorem test_strict : here.gate (.vldSc vform) = .go ∧ here.pending = none ∧ here.unacked = [] ∧ (run here).blocked = [] ∧
    (∀ e, e < 4 → (⟨here.arch, vform, .strided, 4⟩ : VectorAccess).strictFault st here grp false e = none ∧
      (⟨here.arch, vst, .strided, 4⟩ : VectorAccess).strictFault st here grp true e = none) ∧ (st.ctx 0).buckets = [] ∧
    (⟨here.arch, { vform with sbase := 11 }, .strided, 4⟩ : VectorAccess).strictFault st here grp false 0 ≠ none ∧
    (ticket [] [1, 2, 3, 4] ).gate (.vldSc vform) = .go ∧ (run (ticket [] [1, 2, 3, 4])).hart 0 = some (ticket [] [1, 2, 3, 4]) ∧
    [1, 2, 3, 4].length = (List.range 4).countP ((⟨here.arch, vform, .strided, 4⟩ : VectorAccess).needs 0) ∧
    (ticket [([0x1000], [])] []).pending = some (.ticket (([0x1000], []) :: []) [] .raw 0 []) ∧ (ticket [] []).gate (.vstSc vst) = .go := by decide +kernel
/- SlidingWindow: one element of DRAM, no element, an address without a leaf, a register of another tag. -/
def window : VM := { v0 with sbase := 5, sstr := 12 }
def slider (k : Word) : Hart := { hart (arch ((12, k) :: numbers)) with landing := [[0]] }
theorem test_window : windowShift (slider 1).arch 64 window = 1 ∧ windowShift (slider 0).arch 64 window = 0 ∧ (hart (slider 1).arch).gate (.vldsr window) = .go ∧
    (⟨(slider 1).arch, { window with sstr := 0 }, .unit, 1⟩ : VectorAccess).loadFault (run (slider 1)) (slider 1) grp 0 0 = none ∧
    (⟨(slider 1).arch, { window with sbase := 9, sstr := 0 }, .unit, 1⟩ : VectorAccess).loadFault (run (slider 1)) (slider 1) grp 0 0 ≠ none ∧
    Near (run (slider 1)) ((⟨(slider 1).arch, { window with sstr := 0 }, .unit, 1⟩ : VectorAccess).places (run (slider 1)) grp false 1 fun _ _ => true) ∧
    (run (slider 1)).hart 0 = some (slider 1) ∧ (slider 1).landing = [0] :: [] ∧ odd.arch.tagOf (0 + 1) ≠ odd.arch.tagOf 0 := by unfold Near HasTokens; decide +kernel

/- LinkAccesses: data on their way, a queued request, an access that its home has performed, `fence` and `wait`. -/
def remote : Hart := { here with pending := some (.remote [64] false false []) }
def request (c : List (Nat × Nat)) : HomeOp := ⟨0, 0, false, 0, some 64, 0x10000, 0, [⟨2 ^ 60 + 8, 0xFF, 1⟩], .raw, c, []⟩
def queuedOp (c : List (Nat × Nat)) : State := { st with homeq := [request c] }
theorem test_links_access : (run remote).hart 0 = some remote ∧ remote.landing = [] ∧ remote.pending = some (.remote [64] false false []) ∧ (run remote).linkUp 64 = true ∧
    (queuedOp []).homeq = [] ++ request [] :: [] ∧ (queuedOp []).linkUp 64 = true ∧ (queuedOp [(0x1008, 0)]).nextRequest = some (request [(0x1008, 0)]) ∧
    owing.unacked = [] ++ ⟨64, 0x10000, 0, 0, 0⟩ :: [] ∧ ((run owing).homeq.filter fun q => q.read = false && q.hart = 0 && q.link = some 64).length < (owing.unacked.filter fun v => v.link = 64).length ∧
    hostLink = 64 ∧ owing.halted = false ∧ owing.gate (.fence 1 0 c0) = .go ∧ owing.unacked ≠ [] ∧ here.gate (.fence 0 0 c0) = .go ∧
    owing.gate (.wait 0 0 0 0 c0) = .go ∧ here.gate (.wait 0 0 0 0 c0) = .go := by decide +kernel
/- A load whose link failed while its data were on their way. -/
def cutOff : Hart := { here with pending := some (.cut [64]) }
theorem test_cut_load : cutOff.gate (.ldd 1 11 0 0 0) = .go ∧ accessForm cutOff.arch (.ldd 1 11 0 0 0) = some (0x40000000, 0, 8, false) ∧ cutOff.pending = some (.cut [64]) ∧
    (match st.placeElem grp 0 0 8 false ⟨0, 0x40000000, 8⟩ with | .ok p => p.phys.any fun q => q.link == some 64 | .error _ => false) = true := by decide +kernel
/- Instructions that lack data: a register on its way, FFLAGS, and vl after a `vld.ff`. -/
def lacking : Hart := { here with landing := [[0, 64]] }
theorem test_issue_waits : here.landed = [] ∧ here.landing = [] ∧ [0, 64] ∈ lacking.landing ∧ 0 ∈ (Instr.vadd a0).vregs ∧ Instr.readsLength (.getc 1 0 0) = true ∧
    lacking.live = true ∧ (Instr.getc 1 0 7).isEvent = false := by decide +kernel

/- Streams, StreamRegisters: a stream of eight bytes of DRAM of which nothing, or the first four, has been fetched. -/
def flow (fetched : List (Option (Nat × Nat))) : Stream := ⟨0, 0, 0x1000, 8, 1, true, 0, 0, 0, 0, 0, fetched, 0⟩
def streaming (f : List (Option (Nat × Nat))) : State := { st with streams := [(0, flow f)] }
def codes4 : List (Option (Nat × Nat)) := [some (1, 0), some (2, 0), some (3, 0), some (4, 0)]
theorem test_streams : (streaming []).streams.find (8 * 0 + 0) = some (flow []) ∧ (streaming []).group (flow []).gid = some grp ∧ (flow []).taken ≤ (flow []).next ∧
    (streaming []).fetchList 0 (flow []) ≠ [] ∧ (streaming []).homeq = [] ∧ here.gate (.vldStream { v0 with sbv := true }) = .go ∧
    st.streams.find 0 = none ∧ (flow codes4).taken + 4 ≤ (flow codes4).next ∧ here.gate (.stream 0 5 6 0 c0) = .go ∧
    (∀ e, e < 4 → (flow codes4).fetched.getD (0 + e - 0) none = some (e + 1, 0)) := by decide +kernel
theorem test_stream_delivery : (match (streaming codes4).deliverStream (flow codes4) grp 0 .i8 4 15 with | .vals v => v.rsv == none | _ => false) = true ∧
    (match (streaming []).deliverStream (flow []) grp 0 .i8 4 15 with | .want m => m == 4 | _ => false) = true ∧
    (match (streaming [none]).deliverStream { flow [none] with base := 2 ^ 40, len := 1 } grp 0 .i8 4 15 with | .fault _ => true | _ => false) = true ∧
    (match (streaming [some (128, 0)]).deliverStream { flow [some (128, 0)] with fmt := 12, len := 1 } grp 0 .i8 4 1 with | .vals v => v.rsv == some 0 | _ => false) = true := by
  decide +kernel
/- The stream's fetch has its tokens, its links and its turn; a faulted element is read again over links that carry it. -/
theorem test_stream_goes : (streaming []).dieRuns 0 = true ∧ HasTokens (streaming []) 0 [] ∧ ((streaming []).fetchList 0 (flow [])).length = 8 ∧
    (∀ e, e < 4 → (streaming codes4).streamHeld (flow codes4) grp 0 (0 + e) = false) ∧
    (∀ p ∈ ((streaming [none]).streamElem { flow [none] with base := 2 ^ 40 } grp 0 0).2, ∀ m, p.link = some m → st.linkUp m = true) ∧
    ((streaming [none]).streamElem { flow [none] with base := 2 ^ 40 } grp 0 0).1.toBool = false := by unfold HasTokens; decide +kernel
/- Nothing that its owner has issued lies before a fetch of the stream, or before a chunk of a copy. -/
theorem nothing_before {s : State} (hq : s.homeq = []) (hh : ∀ x ∈ s.harts, x.2.pending = none) (gid idx : Nat) (cls : BitVec 4) (on : Nat → Prop) :
    NothingBefore s gid idx cls on := by
  refine ⟨fun q hm => absurd hm (by simp [hq]), fun j z x _ hx => ?_⟩
  have hp : x.pending = none := by
    have h : Store.find s.harts j = some x := hx
    revert h hh
    generalize s.harts = l
    induction l with
    | nil => exact fun _ h => nomatch h
    | cons p l ih =>
      intro hh h
      rw [Store.find] at h
      split at h
      · exact Option.some.inj h ▸ hh p List.mem_cons_self
      · exact ih (fun y m => hh y (List.mem_cons_of_mem _ m)) h
  simp [hp]
theorem test_nothing_before (on : Nat → Prop) : NothingBefore (streaming []) (flow []).gid (flow []).owner (flow []).cls on :=
  nothing_before rfl (by decide +kernel) ..
theorem test_something_before : ¬NothingBefore { streaming [] with harts := [(0, remote)] } 0 0 0 fun _ => True := fun h =>
  (h.2 0 remote remote (by decide +kernel) rfl).2 _ _ _ _ rfl
def bound (k n : Nat) : Hart := hart { arch numbers with qb := [(0, ⟨k, n⟩)] }
def tag0 : CopyTag := ⟨0, 0, 0, 0, 0, 1024, 2, 1, 0, 0, [0], [], 0, true, false, none, [⟨0, 1024, 0x1000, none, none, false, false, 0, 0x1000⟩], [⟨0, 1024, 0x3000, none, none, false, false, 0, 0x3000⟩], []⟩
def item0 : Item := ⟨false, false, false, 0, 0, 7⟩
def slot0 (x : SlotState) (l : List Item) : Slot := ⟨x, 0, 0, 2, 0, 64, [⟨0, 0, 30, 0, false⟩], none, l, none, 0, 0, 0, false⟩
def slotted (x : SlotState) (l : List Item) : State := { st with slots := [(0, slot0 x l)] }
theorem test_stream_registers : (here.arch.qb.find (0 : BitVec 3).toNat = none) ∧ here.gate (.qrd 1 0) = .go ∧
    (∀ k, k < 3 → ((bound (k + 1) 0).arch.qb.find (0 : BitVec 3).toNat).isSome = true ∧ (bound (k + 1) 0).gate (.qrd 1 0) = .go) ∧
    ((flow codes4).taken < (flow codes4).len ∧ (flow codes4).taken < (flow codes4).next ∧ (flow codes4).fetched.getD 0 none = some (1, 0)) ∧
    (flow []).next ≤ (flow []).taken ∧ tag0.order[tag0.yielded]? = some 0 ∧ { tag0 with order := [] }.order.length ≤ tag0.yielded ∧
    (slot0 .standing [item0]).items = item0 :: [] ∧ item0.closed = false ∧ (slot0 .standing []).state ≠ .free ∧ (slot0 .standing []).gid = here.gid := by decide +kernel

/- Copies: seven bytes from DRAM to the span, too many, a busy tag, faults of both ranges; chunk 1 lands, is skipped, or is lost; waits. -/
def copying (x : CopyTag) : State := { st with copies := [(0, x)] }
def copy0 : Instr := .copy 0 8 5 6 1 0 2 c0
def onto (l : Option Nat) (revk : Bool) : CopyTag := { tag0 with dst := [⟨0, 1024, 2 ^ 60 + 0x1000, l, none, revk, false, 0, 0x40000000⟩] }
theorem test_copies : here.gate copy0 = .go ∧ (here.reg 6).toNat = 7 ∧ 2 ^ 20 < (here.reg 11).toNat ∧ (copying tag0).copies.find (8 * spireOf 0 + 0) = some tag0 ∧
    st.copies.find (8 * spireOf 0 + 0) = none ∧
    (st.placeRange grp 0 0 (here.reg 5) false (pieces (here.reg 5) 7 32 0)).toBool = true ∧
    (match st.placeRange grp 0 1 (here.reg 8) true (pieces (here.reg 8) 7 32 0) with | .ok q => q.all fun z => !st.writeBlocked 0 z.2 | .error _ => false) = true ∧
    (st.placeRange grp 0 0 (here.reg 9) false (pieces (here.reg 9) 7 32 0)).toBool = false ∧
    (st.placeRange grp 0 1 (here.reg 11) true (pieces (here.reg 11) 7 32 0)).toBool = false := by decide +kernel
theorem test_chunks : ∀ x ∈ [tag0, onto none true, { onto (some 64) false with sent := 2 }], chunkNext x 1 := by
  have h : ∀ x ∈ [tag0, onto none true, { onto (some 64) false with sent := 2 }],
      x.desc = none ∧ x.busy = true ∧ x.chunks = 2 ∧ x.landed = 1 ∧ x.lost = 0 := by decide +kernel
  intro x m
  simp [chunkNext, chunkOver, h x m, Nat.testBit]
theorem test_chunk_goes : (∀ r ∈ tag0.src ++ tag0.dst, r.counted = false) ∧ HasTokens (copying tag0) 0 (tag0.ports 0 1) ∧ (copying tag0).dieRuns 0 = true ∧
    ({ copying tag0 with stopped := [0] } : State).dieRuns 0 = false ∧ (∃ r ∈ (onto none true).runs 1, r.revoked = true) ∧
    (∃ r ∈ (onto (some 64) false).runs 1, r.link = some 64) ∧ ({ copying tag0 with links := [] } : State).linkDead 64 = true ∧
    ({ onto (some 64) false with sent := 2 }).sent.testBit 1 = true ∧ here.gate (.cptest 1 0 32 c0) = .go ∧ here.gate (.cptest 1 0 0 c0) = .go ∧ here.gate (.cpwait 0 32 6 c0) = .go ∧ here.reg 6 ≠ 0 := by unfold HasTokens; decide +kernel

/- BankOperations: an i64 at the Belfry, a misaligned base, a filter, a register of i8 codes, a base outside the window. -/
def bel : State := { st with ctxs := [(0, { ctx0 with granules := [0] })] }
theorem test_bank : here.gate (.bop 1 5 6 0 3 0 false ⟨c0, 0⟩) = .go ∧ here.unacked = [] ∧ here.gate (.bop 1 6 6 0 3 0 false ⟨c0, 0⟩) = .go ∧ (here.reg 6).toNat % 8 ≠ 0 ∧
    (bel.placeElem grp 0 3 8 true ⟨0, here.reg 5, 8⟩).toBool = true ∧ here.gate (.bop 1 8 6 6 0 0 false ⟨c0, 0⟩) = .go ∧ (here.reg 8).toNat % 1024 = 0 ∧
    (∀ k ∈ [0, 3, 2047], (bel.placeElem grp 0 3 0 true ⟨0, BitVec.ofNat 64 (k / 2), 1⟩).toBool = true) ∧
    here.gate (.bop 0 5 1 0 0 0 true ⟨c0, 3⟩) = .go ∧ (bel.ctx 0).buckets = [] ∧ (∀ i, i < 4 → (bel.placeElem grp 0 3 1 true ⟨i, here.reg 5 + BitVec.ofNat 64 i, 1⟩).toBool = true) ∧
    (st.placeElem grp 0 3 1 true ⟨0, here.reg 5, 1⟩).toBool = false ∧ here.gate (.bop 0 5 1 0 3 0 true ⟨c0, 0⟩) = .go ∧ Tag.i8.bits ≠ 64 := by decide +kernel

/- StandingLoads: lines of DRAM and of host memory, each fault, a slot in use, and the two answers of a home. -/
def stand0 : Instr := .stand 1 5 8 2 false 0 c0
def asking : Hart := { here with pending := some (.standSent 0 1 []) }
def asked (m : List (Nat × Message)) : State := { run asking with slots := [(0, slot0 .arming [])], slotRequests := [(0, true)], messages := m }
theorem test_stand : here.gate stand0 = .go ∧ here.pending = none ∧ (here.reg 5).toNat % 64 = 0 ∧ (here.reg 8).toNat + 64 * 3 ≤ grp.lspan ∧
    (here.reg 6).toNat % 64 ≠ 0 ∧ grp.lspan < (here.reg 11).toNat ∧
    (match st.placeElem grp 0 0 0 false ⟨0, here.reg 5, 64⟩ with | .ok p => p.phys.head?.map (·.tgt) | .error _ => none) = some 1 ∧
    (match st.placeElem grp 0 0 0 false ⟨0, here.reg 11, 64⟩ with | .ok p => p.phys.head?.map (·.tgt) | .error _ => none) = some 3 ∧
    st.slots.find (256 * spireOf 0 + 0) = none ∧ (slot0 .standing []).state ≠ .free ∧ (slot0 .standing []).state ≠ .closed := by decide +kernel
theorem test_stand_answers : (asked []).slots.find (256 * 0 + 0) = some (slot0 .arming []) ∧ homeOf ((slot0 .arming []).line * 64) = some 0 ∧
    (256 * 0 + 0, true) ∈ (asked []).slotRequests ∧ ¬(1024 ≤ ((asked []).subs.filter fun u => homeOf (u.line * 64) = some 0).length) ∧
    (asked [(0, .reply true [] 0)]).firstMessage 0 = some (.reply true [] 0) ∧
    (asked [(0, .reply false (List.replicate 64 5) 9)]).firstMessage 0 = some (.reply false (List.replicate 64 5) 9) ∧
    (asked []).standing 0 0 = some (0, asking, 1) ∧ (asked []).hart 0 = some asking ∧ HasTokens st 0 (accessPorts 0 []) := by unfold HasTokens; decide +kernel
/- SubscriptionEvents: a push to a slot with no item, with one unread, at its newest entry; LATEST; `unstand`; the acknowledgement; parking. -/
def pushed (x : Slot) : State := { st with slots := [(0, x)], messages := [(0, .push (List.replicate 64 3) 1 4)] }
theorem test_push : (pushed (slot0 .standing [])).firstMessage 0 = some (.push (List.replicate 64 3) 1 4) ∧ (List.replicate 64 (3 : Byte)).length = 64 ∧
    (pushed (slot0 .standing [])).group 0 = some grp ∧ ((slot0 .standing []).heldEnt ≠ some 1 ∧ ¬∃ i ∈ (slot0 .standing []).items, i.closed = false ∧ i.ent = 1) ∧
    HasTokens (pushed (slot0 .standing [])) 0 ((slot0 .standing []).ports 0) ∧ (∃ i ∈ [{ item0 with ent := 1 }], i.closed = false ∧ i.ent = 1) ∧ (slot0 .standing []).depth ≠ 0 ∧ { slot0 .standing [] with depth := 0 }.depth = 0 := by unfold HasTokens; decide +kernel
def wanting : State := { slotted .standing [] with groups := [(0, { grp with wantPark := true })] }
theorem test_unstand : here.gate (.unstand 0 c0) = .go ∧ (slotted .standing []).slots.find (256 * spireOf 0 + 0) = some (slot0 .standing []) ∧
    st.slots.find 0 = none ∧ (0, false) ∈ ({ st with slotRequests := [(0, false)] } : State).slotRequests ∧
    ({ slotted .closing [] with messages := [(0, .ack)] } : State).firstMessage 0 = some .ack ∧ wanting.group 0 = some { grp with wantPark := true } ∧
    wanting.firstMessage 0 = none := by decide +kernel

/- TileTasks, TaskSteps: a task of one element of A, W and C in DRAM, from its record on. -/
def record (spc : Nat) : List Byte := bytesOf 0x3000 8 ++ bytesOf 0x4000 8 ++ bytesOf 0x5000 8 ++ bytesOf 256 4 ++ bytesOf 16 4 ++ bytesOf 16 4 ++
  bytesOf 1 2 ++ bytesOf 1 2 ++ bytesOf 1 2 ++ [0, 0, 0, 0, 5, 0, 0, 0, BitVec.ofNat 8 spc, 0, 0, 0, 0, 0] ++ bytesOf 0 8
/-- The record with a wait for token 0 to reach v. -/
def waitRecord (v : Nat) : List Byte := ((record 0).set 46 13).take 56 ++ bytesOf v 8
def task0 (x : TaskState) (k : Nat) (r : List Byte) : Task := ⟨0, r, 0, 0, x, 0, k, 0, 0⟩
def working (t : Task) : Group := { grp with claim := true, tasks := [t], taskCount := 1 }
def tiling (t : Task) : State := { st with groups := [(0, working t)] }
theorem test_tasks : here.gate (.task 1 5 0 c0) = .go ∧ ((here.reg 5).toNat % 64 = 0 ∧ (here.reg 5).toNat + 64 ≤ grp.lspan ∧ 4096 ≤ grp.lspan) ∧
    (here.reg 6).toNat % 64 ≠ 0 ∧ grp.lspan < (here.reg 11).toNat + 64 ∧ grp.claim = false ∧ st.claimant 0 = none ∧ here.pending = none ∧
    (tiling (task0 .queued 0 [])).claimant 0 = some 0 ∧ (∀ y ∈ grp.tasks, y.state.live = false) ∧ owing.gate (.task 1 5 1 c0) = .go ∧
    (∃ u ∈ owing.unacked, (1 : BitVec 16).getLsbD u.cls.toNat = true) ∧ (∀ u ∈ owing.unacked, (2 : BitVec 16).getLsbD u.cls.toNat = false) ∧
    (∃ y ∈ (working (task0 .queued 64 [])).tasks, y.state.live = true) ∧
    counterReached (Store.get 0 grp.tokens 0) ((here.reg 8).setWidth 32) ∧ ¬counterReached (Store.get 0 grp.tokens 0) ((here.reg 6).setWidth 32) ∧
    owing.gate (.tsig 0 c0) = .go := by unfold counterReached; decide +kernel
theorem test_task_takes : (record 0).length = 64 ∧ taskCheck (record 0) = 0 ∧ taskCheck (record 1) ≠ 0 ∧ (working (task0 .queued 0 [])).state = .running ∧
    (working (task0 .queued 0 [])).tasks.find? (fun y => y.num == (working (task0 .queued 0 [])).nextTake) = some (task0 .queued 0 []) ∧
    (∀ p ∈ positions (record 0), ∀ t ∈ (working (task0 .queued 0 (record 0))).tasks, t.state ≠ .running) ∧ ((record 0).getD 46 0).getLsbD 2 = true ∧
    (tiling (task0 .queued 0 (record 0))).dieRuns (4 * grp.quad) = true ∧
    (∃ t ∈ (working (task0 .running 0 (record 0))).tasks, t.state = .running ∧ 0 ∈ positions t.record) ∧
    counterReached (Store.get 0 grp.tokens (field (waitRecord 0) 52 1 % 64)) (BitVec.ofNat 32 (field (waitRecord 0) 56 4)) ∧
    ¬counterReached (Store.get 0 grp.tokens (field (waitRecord 1) 52 1 % 64)) (BitVec.ofNat 32 (field (waitRecord 1) 56 4)) ∧
    ((waitRecord 1).getD 46 0).getLsbD 3 = true ∧ taskCheck (waitRecord 1) = 0 ∧
    ({ working (task0 .done 0 []) with taskCount := 2, nextTake := 1 } : Group).tasks.find? (fun y => y.num == 1) = none := by
  unfold counterReached; decide +kernel
theorem test_k_steps : field (record 0) 40 2 = 1 ∧ positions (record 0) = [0] ∧ (tiling (task0 .running 0 (record 0))).stepFault (working (task0 .running 0 (record 0))) (record 0) 0 = none ∧
    (∀ p ∈ (tiling (task0 .running 0 (record 0))).stepPlaces (working (task0 .running 0 (record 0))) (record 0) 0,
      (∀ q ∈ p.2, q.link = none) ∧ HasTokens (tiling (task0 .running 0 (record 0))) 0 (accessPorts p.1 p.2)) ∧
    ((tiling (task0 .running 0 (record 3))).stepFault (working (task0 .running 0 (record 3))) (record 3) 0).isSome = true := by unfold HasTokens; decide +kernel
theorem test_task_ends : lowestFault ((tiling (task0 .running 1 (record 0))).placesC (working (task0 .running 1 (record 0))) (record 0) 0) = none ∧
    (lowestFault ((tiling (task0 .running 1 (record 48))).placesC (working (task0 .running 1 (record 48))) (record 48) 0)).isSome = true ∧
    (tiling (task0 .running 0 (record 3))).member 0 0 = some (0, here) ∧ ((record 0).getD 46 0).getLsbD 0 = true := by decide +kernel
theorem test_task_control : here.gate (.tresume 1 8 c0) = .go ∧ (∀ x ∈ [TaskState.queued, .running, .suspended, .done],
    ((working (task0 x 0 [])).tasks.find? fun y => y.num == (here.reg 8).setWidth 32) = some (task0 x 0 [])) ∧ grp.faults = [] ∧ grp.tasks.find? (fun y => y.num == 0) = none ∧
    (here.reg 8).toNat < grp.nhart ∧ grp.nhart ≤ (here.reg 6).toNat ∧ ({ grp with tfh := 1 } : Group).tfh ≠ (here.reg 8).toNat ∧
    ({ st with harts := [(0, here), (16, { here with idx := 1 })] } : State).member 0 1 = some (16, { here with idx := 1 }) ∧
    ({ st with harts := [(0, { here with halted := true })] } : State).member 0 0 = some (0, { here with halted := true }) ∧
    ({ tiling (task0 .running 0 (record 3)) with harts := [(0, { here with halted := true })] } : State).member 0 0 = some (0, { here with halted := true }) ∧
    (tiling (task0 .running 0 (record 0))).homeq = [] ∧ (working (task0 .running 0 (record 0))).wantPark = false ∧
    (working (task0 .running 0 (record 0))).aborted = false := by decide +kernel
/- ExtractAndFilter: an unclaimed unit, a claimed one, one in use, a level; a filter at 0x3000 and one at an address that is no multiple of 1024. -/
def levelled : State := { tiling (task0 .done 0 []) with accLevel := [(0, 2)] }
def filtering : Hart := hart (arch ((12, 0x3000) :: numbers))
theorem test_extract : here.gate (.axt a0) = .go ∧ (working (task0 .done 0 [])).claim = true ∧ (∀ t ∈ (working (task0 .done 0 [])).tasks, t.state.live = false) ∧
    (∃ t ∈ (working (task0 .running 0 (record 0))).tasks, t.state.live = true ∧ 0 ∈ positions t.record) ∧ Store.get 0 levelled.accLevel (2 * (4 * 0 + 0) + 0) = 2 ∧
    here.gate (.axt { a0 with var := 2 }) = .go ∧ (here.arch.result (0 : BitVec 4) 0).isInt = true ∧ filtering.gate (.vcfq { a0 with ss := 12 }) = .go ∧
    (filtering.arch.reg 12).toNat % 1024 = 0 ∧ (filtering.arch.reg 6).toNat % 1024 ≠ 0 ∧ odd.gate (.vcfq { a0 with va := 1 }) = .go ∧
    (∀ k ∈ [0, 1023], (match st.placeElem grp 0 0 0 false ⟨0, 0x3000 + BitVec.ofNat 64 k, 1⟩ with | .ok p => p.phys.all fun q => q.link.isNone | .error _ => false) = true) ∧
    Near st [] := by unfold Near HasTokens; decide +kernel

/- ManagementQueue: an open and a closed ring, a good and a bad record, an overrun, a dead link. -/
def ring (wp : BitVec 32) (opc : Nat) : State :=
  { base.setBytes (hostKey 0) (bytesOf opc 8) with status := .ready, mqCfg := 0x40001, mqWp := wp, mqRp := 0 }
theorem test_ring : (ring 1 1).status = .ready ∧ (ring 1 1).mqCfg.getLsbD 0 = true ∧ (ring 1 1).mqHalt = false ∧ (ring 1 1).mqWp ≠ (ring 1 1).mqRp ∧
    (ring 1 1).linkUp hostLink = true ∧ (ring 1 1).byte (hostKey 0) = 1 ∧ (ring 1 13).byte (hostKey 0) = 13 ∧ 2 ^ 4 < ((ring 17 1).mqWp - 0).toNat ∧
    ({ ring 1 1 with links := [] } : State).linkDead hostLink = true ∧ (∀ x ∈ (ring 1 1).cmds, x.2.slot % 16 ≠ 0) := by decide +kernel

/- ContextLife, ContextResources, Links: commands in their turn on contexts in each state. -/
def ordered (opc c : Nat) (x : Ctx) (m a0 a1 : Word) : State := { st with ctxs := [(c, x)], cmds := [(0, ⟨opc, c, 7, m, a0, a1, 0, false, false⟩)] }
theorem test_turns : ∀ p ∈ [(1, 5), (2, 0), (3, 0), (4, 0), (5, 0), (6, 0), (7, 0), (8, 0), (9, 0), (10, 0), (11, 0), (12, 0)],
    CmdTurn (ordered p.1 p.2 ctx0 1 0 0) 0 p.1 ⟨p.1, p.2, 7, 1, 0, 0, 0, false, false⟩ := by unfold CmdTurn; decide +kernel
/- A refused command in its turn, and one behind another of its context. -/
def refusedCmd : Cmd := ⟨13, 0, 7, 0, 0, 0, 0, false, true⟩
theorem test_refused_turn : ({ st with cmds := [(0, refusedCmd), (1, refusedCmd)] } : State).cmds.find 0 = some refusedCmd ∧ refusedCmd.refused = true ∧
    (∀ x ∈ ({ st with cmds := [(0, refusedCmd), (1, refusedCmd)] } : State).cmds, x.2.ctx = refusedCmd.ctx → 0 ≤ x.1) := by decide +kernel
def two : Ctx := { ctx0 with quads := [0, 1] }
theorem test_pool : (ordered 1 5 .zero 2 1 0).ctx 5 = .zero ∧ PoolGives (ordered 1 5 .zero 2 1 0) 2 1 ∧ ¬PoolGives (ordered 2 0 ctx0 1 0 0) 1 0 ∧
    PoolGives (ordered 2 0 ctx0 2 0 0) 2 0 ∧ (ordered 2 0 ctx0 2 0 0).ctx 0 = ctx0 ∧ ctx0.state = .active := by unfold PoolGives; decide +kernel
theorem test_shrink : (∀ q ∈ maskQuads 2, q ∈ two.quads) ∧ (∃ q ∈ two.quads, q ∉ maskQuads 2) ∧ ((ordered 3 0 two 2 0 0).moves 0 (maskQuads 2)).isSome = true ∧
    (ordered 3 0 two 2 0 0).poolRoom 0 (maskQuads 2) = some [] ∧ ¬(∃ q ∈ ctx0.quads, q ∉ maskQuads 1) ∧
    (ordered 3 0 { two with parked := [9] } 2 0 0).ctx 0 = { two with parked := [9] } := by decide +kernel
def leaves : Ctx := { two with state := .shrinking, leaving := [1], cmd := some 0 }
theorem test_shrink_ends : (ordered 3 0 leaves 2 0 0).quiet 0 [1] = true ∧ (ordered 3 0 leaves 2 0 0).leavingUnpinned 0 [1] = true ∧
    ((ordered 3 0 leaves 2 0 0).moves 0 [1]).isSome = true ∧ (ordered 3 0 leaves 2 0 0).cmds.find 0 = some ⟨3, 0, 7, 2, 0, 0, 0, false, false⟩ ∧
    (ordered 3 0 leaves 2 0 0).pmigOn 0 [1] ((ordered 3 0 leaves 2 0 0).leavesOn 0 [1]) = false ∧ (ordered 3 0 leaves 2 0 0).unblocked 0 [1] = [] := by decide +kernel
/- A context whose page of 2 MiB lies on the quad that leaves: its write block is to be set, and once it is the page is moved. -/
def leaving0 (b : List (Nat × Nat × Nat)) : State :=
  { fine leaf2M with groups := [], harts := [], blocked := b, ctxs := [(0, { two with state := .shrinking, leaving := [0], cmd := some 0 })] }
theorem test_shrink_moves : (leaving0 []).quiet 0 [0] = true ∧ (leaving0 []).unblocked 0 [0] ≠ [] ∧
    (leaving0 [(0, 0, 21)]).unblocked 0 [0] = [] := by decide +kernel
theorem test_states : ∀ x ∈ [CtxState.absent, .forming, .active, .growing, .shrinking, .draining, .faulted],
    ((ordered 4 0 { ctx0 with state := x, cmd := some 0 } 1 0 0).ctx 0).state = x ∧ ((ordered 4 0 { ctx0 with state := x } 1 0 0).ctx 0).cmd = none := by decide +kernel
/- Draining: a context that a held store of another context still reaches, and one that nothing reaches, with a limit and a queue that has run. -/
def drained0 (h : Hart) : State := { run h with ctxs := [(0, { ctx0 with state := .draining, afterDrain := .forming, buckets := [(0, ⟨5, none, 0⟩)], queues := [(2, ⟨0, 0, 3, 3, 3, .idle, 0, none, false⟩)] })] }
theorem test_draining : (drained0 here).reaches (fun k => inGranules ((drained0 here).ctx 0).granules k || inQuads ((drained0 here).ctx 0).quads k) = false ∧
    (drained0 { here with held := [entry] }).reaches (fun k => inGranules ctx0.granules k || inQuads ctx0.quads k) = true ∧
    (∃ b ∈ ((drained0 here).ctx 0).buckets, b.2.limit ≠ 0) ∧ ((drained0 here).queue 0 2).wp ≠ 0 ∧ ((drained0 here).ctx 0).queues.length < 2 ^ 20 := by decide +kernel
/- SHRINK while a `pmig` moves a page of the leaving quad. -/
def shrinkMoves : State := { leaving0 [] with harts := [(0, moving false false)], groups := [(0, grp)] }
theorem test_shrink_waits : shrinkMoves.pmigOn 0 [0] (shrinkMoves.leavesOn 0 [0]) = true ∧ (leaving0 []).pmigOn 0 [0] ((leaving0 []).leavesOn 0 [0]) = false := by
  decide +kernel
def lent : Ctx := { ctx0 with grants := [(3, ⟨1, 0, 1, true, false⟩)] }
theorem test_resources : 0 < limited 5 ∧ ¬(4 < limited 5) ∧ ctx0.buckets.filter (fun x => x.1 = 7) = [] ∧
    ({ ctx0 with buckets := [(7, ⟨5, some 6, 2⟩)] } : Ctx).buckets.filter (fun x => x.1 = 7) = [(7, ⟨5, some 6, 2⟩)] ∧
    lent.grants.find 3 = some ⟨1, 0, 1, true, false⟩ ∧ ctx0.grants.find 3 = none ∧ ((ordered 10 0 { ctx0 with saveLen := 0x1000000 } 0 0 0).poolRoom 0 ctx0.quads).isSome = true ∧ (ordered 10 0 ctx0 0 0 0).poolRoom 0 ctx0.quads = none ∧
    (∃ y ∈ st.groups, y.2.ctx = 0 ∧ y.2.quad ∈ ctx0.quads ∧ y.2.state = .running) ∧ 1 ∉ ctx0.quads ∧
    (BitVec.ofNat 64 (1 + 3 * 2 ^ 32 + 2 ^ 40)).toNat / 2 ^ 40 % 64 = 1 ∧ st.linkUp hostLink = true ∧
    (let q : Ring := ⟨0x8000, 0x40001, 0, 2, 0, 0, false⟩
     q.cfg.getLsbD 0 = true ∧ 16 ≤ 2 ^ (q.cfg.toNat / 2 ^ 16 % 16) ∧ 2 ^ (q.cfg.toNat / 2 ^ 16 % 16) ≤ 4096 ∧ (q.wp - q.rp).toNat ≠ 2 ^ (q.cfg.toNat / 2 ^ 16 % 16)) := by
  decide +kernel
def linked (x : LinkState) : State := { st with links := [(3, { Link.zero with state := x, lanes := 4, tries := 7 }), (64, { Link.zero with state := x, lanes := 16 })] }
theorem test_link_states : ∀ x ∈ [LinkState.down, .training, .up, .degraded, .failed], ((linked x).link 3).state = x ∧ ((linked x).link hostLink).state = x ∧ (linked x).notices = [] ∧
    (3 : Nat) ∉ (linked x).fencedLinks ∧ ((linked .up).linkUp 3 = true) ∧ ((linked .up).link 3).tries = 7 ∧ ((ring 1 1).link hostLink).tries ≠ 7 ∧ (ring 1 1).status ≠ .reset := by
  decide +kernel

/- LaunchQueues: a queue in each state, a good record and one whose code address is odd, a kernel that waits and one that drains. -/
def queueAt (x : QState) (wp : BitVec 32) : Queue := ⟨0x4000, 0x40000, wp, 0, 0, x, 0, none, false⟩
def launching (x : QState) (wp : BitVec 32) (code : Nat) (ks : Store Kernel) : State :=
  { st.setBytes 0x4000 (bytesOf code 8 ++ bytesOf 0 8 ++ bytesOf 1 4 ++ [1, 8, 32, 0]) with
    ctxs := [(0, { ctx0 with queues := [(0, queueAt x wp)] })], kernels := ks }
theorem test_queues : (∀ x ∈ [QState.idle, .armed, .running, .blocked, .stopped], (launching x 1 0 []).queue 0 0 = queueAt x 1) ∧
    ((launching .running 1 0 []).ctx 0).state = .active ∧ 4 ≤ (queueAt .idle 0).cfg.toNat / 2 ^ 16 % 16 ∧ (queueAt .idle 0).base.toNat % 4096 = 0 ∧
    ¬(4 ≤ ({ queueAt .idle 0 with cfg := 0 }).cfg.toNat / 2 ^ 16 % 16) ∧
    (∀ w ∈ (launching .stopped 1 0 []).kernels, w.2.state = .done) ∧ (queueAt .stopped 1).wp ≠ 0 ∧ (queueAt .stopped 0).wp = 0 := by decide +kernel
def placesOf (s : State) : Option (List Byte) := (s.devicePlaces 0 0x4000 false 128).map fun ps => ps.map fun p => if p.link.isNone then s.byte p.key else 255
theorem test_records : (placesOf (launching .running 1 0 [])).map (fun r => (field r 0 8, field r 16 4, field r 20 1, field r 21 1, field r 22 1)) = some (0, 1, 1, 8, 32) ∧
    (st.devicePlaces 0 (2 ^ 40) false 128).isNone = true := by decide +kernel
/- A record on host memory, whose link is up, or trains. -/
def trains (s : State) : State := { s with links := [(64, { Link.zero with state := .training })] }
theorem test_record_ready : ∃ ps, st.devicePlaces 0 0x40000000 false 128 = some ps ∧ (∀ p ∈ ps, ∀ l, p.link = some l → st.linkUp l = true) ∧ HasTokens st 0 (linkPorts ps) :=
  ⟨_, rfl, by decide +kernel, by unfold HasTokens; decide +kernel⟩
theorem test_record_waits : ∃ ps, (trains st).devicePlaces 0 0x40000000 false 128 = some ps ∧ ¬∀ p ∈ ps, ∀ l, p.link = some l → (trains st).linkUp l = true :=
  ⟨_, rfl, by decide +kernel⟩
def drains : Kernel := { fetchKernel with state := .draining, ngrp := 1, sigv := true, ctok := 4 }
theorem test_kernel_done : (launching .running 1 0 [(0, drains)]).kernels.find 0 = some drains ∧
    (∀ y ∈ (launching .running 1 0 [(0, drains)]).groups, ∀ z ∈ (launching .running 1 0 [(0, drains)]).copies, z.2.gid = y.1 → z.2.busy = false) ∧
    [((0 : Nat), drains)].length = 1 := by decide +kernel

/- Groups: a kernel that places, and a group in each state of its life. -/
def placing : Kernel := { fetchKernel with state := .placing, lanes := 8, ngrp := 2, placed := 0 }
def room : State := { launching .running 1 0 [(0, placing)] with groups := [], harts := [] }
theorem test_placement : (room.ctx 0).parked = [] ∧ openQuads (room.ctx 0) = [0] ∧ room.quadFits 0 placing.nhart placing.lanes placing.lspan placing.pair = true ∧
    room.kernels = [(0, placing)] := by decide +kernel
def living (x : GroupState) (w : Bool) (hs : Store Hart) : State := { st with harts := hs, groups := [(0, { grp with state := x, wantPark := w, nhart := 1, frames := [0] })] }
theorem test_group_ends : (living .forming false []).group 0 = some { grp with state := .forming, nhart := 1, frames := [0] } ∧
    (∀ p, p < 4 → grp.bases.getD p 0 + grp.lspan ≤ 2 ^ 20) ∧ Drained (living .draining false []) 0 { grp with state := .draining, nhart := 1, frames := [0] } := by
  unfold Drained; decide +kernel
theorem test_group_parks : ReadyToPark (living .running true [(0, here)]) 0 { grp with wantPark := true, nhart := 1, frames := [0] } := by
  have links {s : State} {ps : List (Option Phys)} (h : ∀ o ∈ ps, ∀ p ∈ o, ∀ l ∈ p.link, s.linkUp l = true) :
      ∀ p, some p ∈ ps → ∀ l, p.link = some l → s.linkUp l = true := fun p hp l hl => h _ hp p rfl l hl
  unfold ReadyToPark
  exact ⟨rfl, rfl, rfl, by decide +kernel, by decide +kernel, by decide +kernel, links (by decide +kernel)⟩
theorem test_park_frees : Store.get [] st.tlb 256 = [] ∧ (∀ q ∈ (st.ctx 0).quads, q < 64) ∧ imageAt st grp = 0 ∧ (here.dbg.inWait = false) ∧
    seeker.pending = some (.seeking 0 1) := by decide +kernel
def claimer : Hart := { here with gid := 1, pending := some (.claimWait 5) }
def contended : State := { living .draining false [(16, claimer)] with groups := [(0, { grp with state := .draining, claim := true }), (1, grp)] }
theorem test_claim_passes : contended.harts = [(16, claimer)] ∧ grp.wantPark = false ∧ contended.hart 16 = some claimer ∧ claimer.pending = some (.claimWait 5) ∧ claimer.gid ≠ 0 ∧ contended.group 1 = some grp ∧ grp.claim = false ∧
    Drained contended 0 { grp with state := .draining, claim := true } ∧ (∀ x ∈ contended.groups, x.2.quad = 0 → x.1 ≠ 0 → x.2.claim = false) := by
  unfold Drained; decide +kernel
def image0 : Image := ⟨[(0, here)], [], [[], [], [], []], [[], [], [], []], [[], [], [], []], [], false, [], [], [], 0, 0x10000000⟩
def parkedGroup : Group := { grp with state := .parked, nhart := 1, frames := [0], image := some image0 }
def waking : State := { st with harts := [], groups := [(0, parkedGroup)], ctxs := [(0, { ctx0 with parked := [0] })] }
theorem test_resume : waking.group 0 = some parkedGroup ∧ (waking.ctx 0).parked.head? = some 0 ∧ (waking.ctx 0).state = .active ∧
    0 ∈ openQuads (waking.ctx 0) ∧ waking.resumeFits parkedGroup image0 0 = true ∧ image0.start = waking.starts ∧ (∀ z ∈ image0.harts, z.1 < parkedGroup.nhart) := by
  decide +kernel/- A pool in host memory whose link trains, and an image of another start. -/
theorem test_resume_waits : ((trains waking).poolPages parkedGroup 0x40000000).any (fun x => x.any fun p => p.link == some 64) = true ∧ (trains waking).linkUp 64 = false ∧
    ({ image0 with start := 1 } : Image).start ≠ waking.starts ∧ 1 ∉ openQuads (waking.ctx 0) := by
  decide +kernel

/- The pool holds the image as it was written: the bytes of the page tables that the walk reads, then the image's. -/
def imageLength : Nat := 65536 * 38
def saved : State := { waking with
  mem := ((List.range 8 ++ (List.range 8).map (0x1000 + ·)).map fun k => (k, st.byte k)) ++
    (List.range imageLength).map fun j => (0x10000000 + j, (waking.parkedBytes parkedGroup image0).getD j 0) }
theorem get_append (l r : Store Byte) (k : Nat) (h : ∀ p ∈ l, p.1 ≠ k) : Store.get 0 (l ++ r) k = Store.get 0 r k := by
  induction l with
  | nil => rfl
  | cons p l ih =>
    rw [List.cons_append, Store.get, if_neg (h p List.mem_cons_self), ih fun q hq => h q (List.mem_cons_of_mem _ hq)]
theorem get_map (f : Nat → Byte) (a j : Nat) (l : List Nat) (h : j ∈ l) : Store.get 0 (l.map fun i => (a + i, f i)) (a + j) = f j := by
  induction l with
  | nil => cases h
  | cons i l ih =>
    rw [List.map_cons, Store.get]
    split
    · congr 1; omega
    · next hne => exact ih ((List.mem_cons.mp h).resolve_left fun e => hne (by rw [e]))
theorem saved_byte (j : Nat) (h : j < imageLength) : saved.byte (0x10000000 + j) = (waking.parkedBytes parkedGroup image0).getD j 0 := by
  show Store.get 0 (_ ++ _) _ = _
  rw [get_append, get_map (fun j => (waking.parkedBytes parkedGroup image0).getD j 0) _ _ _ (List.mem_range.mpr h)]
  intro p hp
  have hp : p.1 < 0x2000 := by
    revert p
    decide +kernel
  omega
theorem test_image_intact : ∀ i x, (saved.poolPages parkedGroup 0x10000000)[i]? = some x →
    ∃ p, x = some p ∧ p.link = none ∧ ∀ j, j < 65536 → saved.byte (p.key + j) = (waking.parkedBytes parkedGroup image0).getD (65536 * i + j) 0 := by
  have hp : (saved.poolPages parkedGroup 0x10000000).map (Option.map fun p => (p.key, p.link)) =
      (List.range 38).map fun i => some (0x10000000 + 65536 * i, none) := by decide +kernel
  intro i x hx
  have h := congrArg (·[i]?) hp
  simp only [List.getElem?_map, hx, Option.map_some] at h
  by_cases hi : i < 38
  · rw [List.getElem?_range hi] at h
    cases x with
    | none => cases h
    | some p =>
      simp only [Option.map_some, Option.some.injEq, Prod.mk.injEq] at h
      refine ⟨p, rfl, h.2, fun j hj => ?_⟩
      rw [h.1, Nat.add_assoc]
      exact saved_byte _ (by unfold imageLength; omega)
  · rw [List.getElem?_eq_none (by simpa using hi)] at h
    cases h
/-- Pieces of m entries, joined, are the list they were taken from. -/
theorem pieces_join (l : List Byte) (m n : Nat) (h : m * n ≤ l.length) :
    ((List.range n).flatMap fun i => (List.range m).map fun j => l.getD (m * i + j) 0) = l.take (m * n) := by
  induction n with
  | zero => simp
  | succ n ih =>
    have hn : m * (n + 1) = m * n + m := Nat.mul_succ m n
    rw [List.range_succ, List.flatMap_append, ih (by omega), hn, List.take_add]
    congr 1
    refine List.ext_getElem (by simp; omega) fun j h1 h2 => ?_
    have hj : j < m := by simpa using h1
    have hl : m * n + j < l.length := by omega
    simp [hl]
/-- Pages that hold a list piece by piece hold all of it. -/
theorem pages_hold {s : State} {pages : List (Option Phys)} {l : List Byte} {m n : Nat} (hn : pages.length = n) (hl : l.length = m * n)
    (h : ∀ i x, pages[i]? = some x → ∃ p, x = some p ∧ p.link = none ∧ ∀ j, j < m → s.byte (p.key + j) = l.getD (m * i + j) 0) :
    none ∉ pages ∧ (pages.flatMap fun x => x.elim [] fun p => (List.range m).map fun j => s.byte (p.key + j)) = l := by
  have hp (i : Nat) (hi : i < pages.length) : ∃ p, pages[i] = some p ∧ ∀ j, j < m → s.byte (p.key + j) = l.getD (m * i + j) 0 := by
    obtain ⟨p, hp, -, hv⟩ := h i pages[i] (List.getElem?_eq_getElem hi)
    exact ⟨p, hp, hv⟩
  refine ⟨fun hm => ?_, ?_⟩
  · obtain ⟨i, hi, e⟩ := List.getElem_of_mem hm
    obtain ⟨p, hp, -⟩ := hp i hi
    exact nomatch e.symm.trans hp
  · have e : pages = (List.range n).map fun i => pages.getD i none :=
      List.ext_getElem (by simp [hn]) fun i h1 h2 => by simp [h1]
    rw [e, List.flatMap_map]
    refine (List.flatMap_congr fun i hi => ?_).trans ((pieces_join l m n (by rw [hl])).trans (by rw [← hl, List.take_length]))
    have hi : i < pages.length := hn ▸ List.mem_range.mp hi
    obtain ⟨p, hp, hv⟩ := hp i hi
    rw [List.getD_eq_getElem _ _ hi, hp]
    exact List.map_congr_left fun j hj => hv j (List.mem_range.mp hj)
/- Its check word holds, so that a resume finds it good. -/
theorem test_image_good : none ∉ saved.poolPages parkedGroup 0x10000000 ∧
    CheckHolds saved.starts ((saved.poolPages parkedGroup 0x10000000).flatMap fun x => x.elim [] fun p =>
      (List.range 65536).map fun j => saved.byte (p.key + j)) := by
  have hs : parkedGroup.imageSize = 65536 * 38 := by decide +kernel
  have hb := parkedBytes_check waking parkedGroup image0 (by rw [hs]; decide)
  have hn : (saved.poolPages parkedGroup 0x10000000).length = 38 := by rw [State.poolPages, List.length_map, List.length_range, hs]
  have hl : (waking.parkedBytes parkedGroup image0).length = 65536 * 38 := Eq.trans hb.1 hs
  obtain ⟨h1, h2⟩ := pages_hold (m := 65536) (n := 38) hn hl test_image_intact
  have e : saved.starts = waking.starts := by simp only [saved]
  refine ⟨h1, ?_⟩
  rw [h2, e]
  exact hb.2
theorem test_saved_resumes : saved.group 0 = some parkedGroup ∧ (saved.ctx 0).parked.head? = some 0 ∧ saved.resumeFits parkedGroup image0 0 = true ∧
    image0.start = saved.starts ∧ (image0.harts.map (·.1)).Nodup ∧ parkedGroup.image = some image0 := by decide +kernel
def busyPipes : State := { st with pipeWork := [⟨0, 0, 0, 0, 1, 0, 5, 0, 0⟩, ⟨0, 0, 0, 0, 6, 2, 5, 0, 0⟩] }
theorem test_pipes : asks busyPipes 0 6 2 = some ⟨0, 0, 0, 0, 6, 2, 5, 0, 0⟩ ∧ (∀ i, i < 2 → asks busyPipes 0 6 i = none) ∧
    asks busyPipes 0 1 0 = some ⟨0, 0, 0, 0, 1, 0, 5, 0, 0⟩ ∧ credit busyPipes 1 0 = 0 ∧ 0 < credit { busyPipes with deficits := [(1, 7)] } 1 0 ∧
    0 / 64 ∉ busyPipes.stopped ∧ 0 / 64 ∈ ({ busyPipes with stopped := [0] } : State).stopped := by unfold asks credit; decide +kernel
/- The counters of the frames of Spire 0 are distinct: one frame has a hart. -/
theorem test_pipe_counters : ∀ f, f < 16 → ((match asks busyPipes 0 1 f with
    | some w => some (64 * w.gid + w.idx)
    | none => (busyPipes.hart (16 * 0 + f)).map fun h => 64 * h.gid + h.idx) = if f = 0 then some 0 else none) := by unfold asks; decide +kernel

/- HostRegisters: an open context with a selected hart, running, halted, and in a replay. -/
def watched (d : Hart → Hart) : State := { run (d here) with status := .ready }
def pointAt (n : Nat) (h : Hart) : Point := ⟨n, n, h.arch, 0, h.seat, h.hstall, h.hannul, h.hbeat⟩
def halt0 (h : Hart) : Hart := { h with dbg := { h.dbg with halted := true, hist := [pointAt 1 h, pointAt 0 h], icnt := 1 } }
def replays (n : Nat) (h : Hart) : Hart := { h with dbg := { h.dbg with halted := true, replay := true, target := n, hist := [pointAt 1 h, pointAt 0 h], live := some (pointAt 0 h) } }
theorem test_host : HostOpen (watched id) 0 ∧ Selected (watched id) 0 0 here ∧ Selected (watched halt0) 0 0 (halt0 here) ∧ HaltedHart (halt0 here) ∧
    (halt0 here).dbg.live = none ∧ ¬HostOpen { st with status := .reset } 0 ∧ (watched id).group here.gid = some grp := by
  unfold Selected HaltedHart HostOpen; decide +kernel
theorem test_debug_stop : ({ here with dbg := { here.dbg with want := true } } : Hart).exits = [] ∧ here.held = [] ∧ here.finishing = false ∧ here.halted = false ∧
    (∀ n, n < 2 → (replays n here).dbg.replay = true ∧ (replays n here).dbg.target = n ∧ ((replays n here).dbg.hist.head?.map (·.count)).getD 0 = 1 ∧
      pointAt n here ∈ (replays n here).dbg.hist ∧ ∀ y ∈ (replays n here).dbg.hist, y.count = n → y = pointAt n here) ∧
    (replays 0 here).dbg.hist = [] ++ pointAt 1 here :: [pointAt 0 here] ∧ (replays 0 here).dbg.pos < (pointAt 1 here).pos ∧ (pointAt 1 here).convoy = 0 ∧
    ¬((replays 0 here).dbg.pos < (pointAt 0 here).pos) ∧ (replays 1 here).dbg.hist = [pointAt 1 here] ++ pointAt 0 here :: [] ∧
    (∀ y ∈ [pointAt 0 here], y.count ≠ (pointAt 1 here).count) ∧
    (replays 0 here).dbg.live = some (pointAt 0 here) := by decide +kernel
/- The hart of a parked group, selected by the frame that it left. -/
def asleep : State := { waking with status := .ready }
theorem test_parked_selected : HostOpen asleep 0 ∧ asleep.selectedParked 0 = some (0, 0, here) ∧ asleep.harts = [] ∧ asleep.group 0 = some parkedGroup ∧ parkedGroup.claim = false ∧
    (∀ k ∈ [6, 7, 8, 3], (({ asleep with ctxs := [(0, { ctx0 with daddr := BitVec.ofNat 64 (k * 2 ^ 56) })] } : State).ctx 0).daddr.toNat / 2 ^ 56 = k) ∧
    ({ asleep with groups := [] } : State).selectedParked 0 = none := by unfold HostOpen; decide +kernel
theorem test_debug_items : itemOpen (watched halt0) (halt0 here) grp 3 0 ∧ itemOpen (watched halt0) (halt0 here) grp 1 0x18 ∧
    itemOpen (watched halt0) (halt0 here) { grp with claim := true } 5 0 ∧ ¬itemOpen (watched halt0) (halt0 here) grp 5 0 ∧
    (watched halt0).targeted grp 0 0 = false := by
  refine ⟨?_, ?_, ?_, ?_, ?_⟩ <;> (try unfold itemOpen HaltedHart) <;> decide +kernel
theorem test_debug_masks : itemOpen (watched halt0) (halt0 here) grp 2 4096 ∧ itemOpen (watched halt0) (halt0 here) grp 8 3 := by
  refine ⟨?_, ?_⟩ <;> unfold itemOpen HaltedHart <;> decide +kernel

/- Crown: the module in reset, in recovery, READY, limited, with a fault in a context that executes a command. -/
def passes : StartReport := ⟨true, [], [], [], [], [], 16, 32, true⟩
def crowned : State := { st with status := .ready, limiting := true, belowFor := 10 }
theorem test_crown : crowned.status = .ready ∧ crowned.limiting = true ∧ 10 ≤ crowned.belowFor ∧ State.reset.status = .reset ∧ State.reset.flashOk = true ∧
    passes.firmwareOk = true ∧ ({ crowned with status := .recovery, verifying := true } : State).status = .recovery ∧ (crowned.ctx 0).state = .active ∧
    crowned.writingFlash = false ∧ ({ crowned with writingFlash := true, report := some passes } : State).report = some passes ∧
    (crowned.group 0).any (fun g => g.state = .running) = true ∧ crowned.softErrors = 0 ∧
    ((ordered 2 0 { ctx0 with state := .growing, cmd := some 0 } 1 0 0).ctx 0).cmd = some 0 ∧ crowned.verifying = false ∧
    ((List.range 256).filter fun p => p / 2 ^ 31 = 0).length = 256 := by decide +kernel
theorem test_attest : CmdTurn (ordered 12 0 ctx0 0 0x1000 0) 0 12 ⟨12, 0, 7, 0, 0x1000, 0, 0, false, false⟩ ∧ (0x1000 : Word).toNat % 4096 = 0 ∧
    (0x1001 : Word).toNat % 4096 ≠ 0 ∧ (ordered 12 0 ctx0 0 0x1000 0).linkUp hostLink = true ∧ ((linked .training).link hostLink).state = .training ∧
    (linked .down).linkUp hostLink = false := by unfold CmdTurn; decide +kernel

end Sys2Proof.Tests
end

section
/-! Lemmas about stores, bytes and writes that the proofs of several statements use. -/

namespace Sys2Proof

variable {α : Type}

/-- A value that a store finds is listed at its key. -/
theorem Store.mem_of_find {s : Store α} {k : Nat} {v : α} (h : s.find k = some v) : (k, v) ∈ s := by
  induction s with
  | nil => simp at h
  | cons p t ih =>
    unfold Store.find at h
    split at h
    · next hk =>
      obtain rfl := Option.some.inj h
      exact hk ▸ List.mem_cons_self
    · exact List.mem_cons_of_mem _ (ih h)

/-- What a key reads as is what is found there. -/
theorem Store.get_eq_find (d : α) (s : Store α) (k : Nat) : Store.get d s k = (s.find k).getD d := by
  induction s with
  | nil => rfl
  | cons p t ih =>
    unfold Store.get Store.find
    split
    · rfl
    · exact ih

/-- A filter by key keeps what is found at the keys that it accepts. -/
theorem Store.find_filter_key (s : Store α) (p : Nat → Bool) (k : Nat) :
    Store.find (s.filter fun x => p x.1) k = if p k then s.find k else none := by
  induction s with
  | nil => simp
  | cons q t ih =>
    obtain ⟨j, v⟩ := q
    rw [List.filter_cons]
    by_cases hj : j = k
    · subst hj
      by_cases hp : p j <;> simp [hp, Store.find, ih]
    · by_cases hp : p j <;> simp [hp, Store.find, hj, ih]

theorem Store.get_filter_key (d : α) (s : Store α) (p : Nat → Bool) (k : Nat) :
    Store.get d (s.filter fun x => p x.1) k = if p k then Store.get d s k else d := by
  rw [Store.get_eq_find, Store.find_filter_key, Store.get_eq_find]
  split <;> rfl

/-- A key in a range that a store drops reads as the default. -/
theorem Store.get_drop (d : α) (s : Store α) (lo hi k : Nat) :
    Store.get d (Store.drop s lo hi) k = if lo ≤ k ∧ k < hi then d else Store.get d s k := by
  unfold Store.drop
  rw [Store.get_filter_key d s (fun j => !(decide (lo ≤ j) && decide (j < hi))) k]
  by_cases h : lo ≤ k ∧ k < hi
  · rw [if_pos h, if_neg (by simp; omega)]
  · rw [if_neg h, if_pos (by simp; omega)]

/-- A map over the values applies to what is found. -/
theorem Store.find_mapVal (f : Nat → α → α) (s : Store α) (k : Nat) :
    Store.find (Store.mapVal f s) k = (s.find k).map (f k) := by
  unfold Store.mapVal
  induction s with
  | nil => rfl
  | cons p t ih =>
    rw [List.map_cons]
    unfold Store.find
    split
    · simp_all
    · exact ih

theorem Store.get_mapVal (d : α) (f : Nat → α → α) (s : Store α) (k : Nat) (hd : f k d = d) :
    Store.get d (Store.mapVal f s) k = f k (Store.get d s k) := by
  rw [Store.get_eq_find, Store.get_eq_find, Store.find_mapVal]
  cases s.find k <;> simp [hd]

/-- The canonical write of a store, by what is found. -/
theorem Store.find_set_other [DecidableEq α] (d : α) (s : Store α) {j k : Nat} (v : α) (h : j ≠ k) :
    (Store.set d s k v).find j = s.find j := by
  unfold Store.set
  split
  · unfold Store.erase
    rw [Store.find_filter_key s (fun x => x != k) j, if_pos (by simpa using h)]
  · exact Store.find_insert_other s v h

/-- What an insertion lists. -/
theorem Store.mem_insert {s : Store α} {k : Nat} {v : α} {p : Nat × α} (h : p ∈ Store.insert s k v) : p = (k, v) ∨ p ∈ s := by
  induction s with
  | nil => simpa [Store.insert] using h
  | cons q t ih =>
    obtain ⟨j, w⟩ := q
    unfold Store.insert at h
    split at h
    · rcases List.mem_cons.1 h with h | h
      · exact .inl h
      · exact .inr (List.mem_cons_of_mem _ h)
    · split at h
      · exact List.mem_cons.1 h
      · rcases List.mem_cons.1 h with h | h
        · exact .inr (h ▸ List.mem_cons_self)
        · exact (ih h).imp id (List.mem_cons_of_mem _)

theorem Store.mem_set [DecidableEq α] {d : α} {s : Store α} {k : Nat} {v : α} {p : Nat × α} (h : p ∈ Store.set d s k v) :
    p = (k, v) ∨ p ∈ s := by
  unfold Store.set at h
  split at h
  · exact .inr (List.mem_of_mem_filter h)
  · exact Store.mem_insert h

end Sys2Proof

namespace Sys2Proof.Machine

/-- The model's two readings of a number from its bytes agree (R15). -/
@[simp] theorem leValue_eq_leNat (l : List Byte) : leValue l = leNat l := by
  induction l with
  | nil => rfl
  | cons b t ih => rw [leValue, leNat, ih]

/-- The writes of a byte in their order are those that name it (R227). -/
theorem written_eq_afterWrites (ws : List ByteWrite) (k : Nat) (b : Byte) : written ws k b = afterWrites ws k b := by
  unfold written afterWrites
  induction ws generalizing b with
  | nil => rfl
  | cons w t ih =>
    rw [List.foldl_cons, List.filter_cons, ih]
    by_cases h : w.key = k
    · simp [h, ByteWrite.onto]
    · simp [h]

/-- A write of whole bytes leaves the byte written. -/
theorem ByteWrite.onto_whole (k : Nat) (b old : Byte) : ByteWrite.onto ⟨k, 0xFF, b⟩ old = b := by
  have ones : (0xFF : Byte) = BitVec.allOnes 8 := by decide
  unfold ByteWrite.onto
  rw [ones, BitVec.not_allOnes, BitVec.and_zero, BitVec.and_allOnes, BitVec.zero_or]

/-- Whole-byte writes at consecutive keys are a write of bytes. -/
theorem State.writeAll_byteWrites (s : State) (k : Nat) (l : List Byte) : s.writeAll (byteWrites k l) = s.setBytes k l := by
  induction l generalizing s k with
  | nil => rfl
  | cons b t ih =>
    rw [byteWrites, State.writeAll, State.setBytes, ih, ByteWrite.onto_whole]

/-- A byte of a list of bytes read from consecutive keys. -/
theorem State.getElem_bytes (s : State) (k n i : Nat) (h : i < (s.bytes k n).length) : (s.bytes k n)[i] = s.byte (k + i) := by
  simp [State.bytes]

@[simp] theorem State.length_bytes (s : State) (k n : Nat) : (s.bytes k n).length = n := by
  simp [State.bytes]

/-- The base of the handler is TVEC without its two low bits (R341). -/
theorem toNat_and_not_three (v : Word) : (v &&& ~~~3#64).toNat = v.toNat / 4 * 4 := by
  have shifted : v &&& ~~~3#64 = v >>> 2 <<< 2 := by
    apply BitVec.eq_of_getLsbD_eq
    intro i hi
    rcases Nat.lt_or_ge i 2 with low | high
    · have : i = 0 ∨ i = 1 := by omega
      rcases this with rfl | rfl <;> simp
    · have : (3#64).getLsbD i = false := by
        rw [BitVec.getLsbD_ofNat]
        have : (3 : Nat).testBit i = false := Nat.testBit_lt_two_pow (lt_of_lt_of_le (by norm_num : 3 < 2 ^ 2) (Nat.pow_le_pow_right (by omega) high))
        simp [this]
      rw [BitVec.getLsbD_and, BitVec.getLsbD_not, this]
      simp [hi, show ¬i ≤ 1 by omega, Nat.add_sub_cancel' high]
  rw [shifted, BitVec.toNat_shiftLeft, BitVec.toNat_ushiftRight, Nat.shiftRight_eq_div_pow, Nat.shiftLeft_eq]
  have := v.isLt
  omega

/-- A precise trap that a handler takes (R338, R341). -/
theorem State.trap_taken {s : State} {h : Hart} (k : Nat) (i : Instr) (c : Cause) (plain : PlainHart h) (handled : Handled s h) :
    TrapTaken s k h c i.firstSyllable false h.arch.pc (s.trap k h i c) := by
  obtain ⟨hx, hh, hf⟩ := plain
  obtain ⟨hl, hv⟩ := handled
  have taken : noHandler h.arch (s.ctx (s.ctxOf h)) = false := by
    unfold noHandler
    rw [hl]
    have : (s.ctx (s.ctxOf h)).tvec &&& ~~~3#64 ≠ 0 := by
      intro e
      have := toNat_and_not_three (s.ctx (s.ctxOf h)).tvec
      rw [e] at this
      simp at this
      omega
    simpa using this
  unfold State.trap State.enterTrap
  simp only [hx, List.isEmpty_nil, if_true, taken, Bool.false_eq_true, if_false]
  have debug (x : Hart) : x.keep.stepDone = { x with dbg := x.keep.stepDone.dbg } := by
    unfold Hart.keep Hart.stepDone
    (repeat' split) <;> rfl
  rw [debug]
  refine ⟨_, rfl, ⟨?_, ?_, ?_⟩, rfl⟩
  · simp [Arch.enter, Cause.word]
  · exact toNat_and_not_three _
  · simp [Arch.enter, BitVec.ofNat_mul]
/-- An instruction whose meaning asks for a trap takes it precisely. -/
theorem State.run_traps {s : State} {h : Hart} {i : Instr} {c : Cause} {body : State → Hart → Result} (hi : Issues s h i)
    (he : exec i s = .next (s.run i body)) (hb : body s h = .trap c) (plain : PlainHart h) (handled : Handled s h) : Traps i s h c :=
  ⟨_, he, by rw [State.run_trap hi hb]; exact State.trap_taken _ _ _ plain handled⟩

/-- An instruction whose meaning stalls waits. -/
theorem State.run_stalls {s s' : State} {h h' : Hart} {i : Instr} {m : Bool} {body : State → Hart → Result} (hi : Issues s h i)
    (he : exec i s = .next (s.run i body)) (hb : body s h = .stall s' h' m) : WaitsAs i s' h h' m s :=
  ⟨_, he, State.run_waits hi hb⟩

/-- The meaning of a hart that has a group. -/
theorem State.withGroup_of {s : State} {h : Hart} {g : Group} (hg : s.group h.gid = some g) (f : Group → Result) :
    s.withGroup h f = f g := by
  unfold State.withGroup
  rw [hg]

theorem State.regBytes_of {s : State} {h : Hart} {g : Group} (hg : s.group h.gid = some g) :
    s.regBytes h = g.regBytes h.arch.shape := by
  unfold State.regBytes
  rw [hg]

theorem State.ctxOf_of {s : State} {h : Hart} {g : Group} (hg : s.group h.gid = some g) : s.ctxOf h = g.ctx := by
  unfold State.ctxOf
  rw [hg]

/-- A change of one group leaves the others. -/
theorem State.groupOnly_modGroup {s : State} {gid : Nat} {g : Group} (hg : s.group gid = some g) (f : Group → Group) :
    GroupOnly s gid (f g) (s.modGroup gid f) := by
  unfold GroupOnly State.group State.modGroup at *
  exact ⟨by rw [Store.find_modify_same, hg]; rfl, fun j hj => Store.find_modify_other _ _ hj⟩

/-- Changes of one group after another. -/
theorem GroupOnly.trans {s t u : State} {gid : Nat} {x y : Group} (ht : GroupOnly s gid x t) (hu : GroupOnly t gid y u) :
    GroupOnly s gid y u := ⟨hu.1, fun j hj => (hu.2 j hj).trans (ht.2 j hj)⟩

/-- A change of one task's group is a change of that group (Table 21.3). -/
theorem State.groupOnly_modTask {s : State} {gid : Nat} {g : Group} (hg : s.group gid = some g) (n : BitVec 32) (f : Task → Task) :
    GroupOnly s gid { g with tasks := taskMapped g.tasks n f } (s.modTask gid n f) :=
  State.groupOnly_modGroup hg fun x => { x with tasks := x.tasks.map fun t => if t.num = n then f t else t }

/-- A write of a group's token (R307). -/
theorem State.tokenWritten_setToken {s : State} {gid : Nat} {g : Group} (hg : s.group gid = some g) (j : Nat) (v : BitVec 32) :
    ∃ y, GroupOnly s gid y (s.setToken gid j v) ∧ TokenWritten g j v y :=
  ⟨_, State.groupOnly_modGroup hg fun x => { x with tokens := Store.set 0 x.tokens j v },
    rfl, Store.get_set_same _ _ _ _, fun _ hi => Store.get_set_other _ _ _ hi⟩

/-- The wait condition on a counter, as a half circle (R116, R304). -/
theorem reached_iff (c v : BitVec 32) : reached c v = true ↔ counterReached c v := by
  unfold reached counterReached
  simp [BitVec.msb_eq_decide]

theorem taskField_eq_field (r : List Byte) (o n : Nat) : taskField r o n = field r o n := leValue_eq_leNat _

end Sys2Proof.Machine
end

section
/-! Tile tasks up to their start, and group tokens (R302 to R309). -/

namespace Sys2Proof.Machine

/-- The positions that take part in a record's task, in the statements' words (R296). -/
theorem takesPart_eq_positions (r : List Byte) : takesPart r = positions r := by
  simp only [takesPart, positions, quarter, rowsAt, colsAt, taskM, taskN, taskField_eq_field]

/-- The wait condition of a record (R304). -/
theorem Group.taskReady_iff (g : Group) (r : List Byte) : g.taskReady r = true ↔ (r.getD 46 0).getLsbD 3 = false ∨
    counterReached (Store.get 0 g.tokens (field r 52 1 % 64)) (BitVec.ofNat 32 (field r 56 4)) := by
  unfold Group.taskReady taskBit Group.token
  rw [Bool.or_eq_true, Bool.not_eq_true', reached_iff, taskField_eq_field, taskField_eq_field]

/-- No task in progress holds an array (R305, R310). -/
theorem Group.arrayBusy_eq_false_iff (g : Group) (p : Nat) : g.arrayBusy p = false ↔ arrayFree g p := by
  unfold Group.arrayBusy arrayFree
  simp [takesPart_eq_positions, or_imp]

/-- A task starts from zero (R306). -/
theorem taskZeroes_iff (r : List Byte) :
    taskZeroes r = true ↔ (r.getD 46 0).getLsbD 2 = true ∨ (r.getD 46 0).getLsbD 0 = true := by
  unfold taskZeroes taskNarrows taskBit
  rw [Bool.or_eq_true]

/-- The Fusee may take a record once the task before it has started or ended (R304). -/
theorem Group.mayTake_of {g : Group} {n : BitVec 32}
    (before : ∀ y ∈ g.tasks, y.num = n - 1 → y.state ≠ .queued ∧ y.state ≠ .waiting) : g.mayTake n = true := by
  unfold Group.mayTake Group.taskAt
  split
  · next t found =>
    have num := List.find?_some found
    have := before t (List.mem_of_find?_eq_some found) (by simpa using num)
    simp [this]
  · rfl

/-- Accumulators are cleared with the claim (R302): the elements of a quad lie in one range of keys. -/
theorem State.takeClaim_spec {s : State} {gid : Nat} {g : Group} (hg : s.group gid = some g) :
    s.takeClaim gid = { s with
      groups := (s.takeClaim gid).groups, acc := (s.takeClaim gid).acc, accLevel := (s.takeClaim gid).accLevel } ∧
    GroupOnly s gid { g with claim := true } (s.takeClaim gid) ∧
    ∀ k, Store.get 0 (s.takeClaim gid).acc k = (if k / 2 ^ 19 = g.quad then 0 else Store.get 0 s.acc k) ∧
      Store.get 0 (s.takeClaim gid).accLevel k = if k / 8 = g.quad then 0 else Store.get 0 s.accLevel k := by
  unfold State.takeClaim
  rw [hg]
  refine ⟨rfl, State.groupOnly_modGroup hg _, fun k => ⟨?_, ?_⟩⟩
  · refine (Store.get_drop 0 s.acc _ _ k).trans (if_congr ?_ rfl rfl)
    omega
  · refine (Store.get_drop 0 s.accLevel _ _ k).trans (if_congr ?_ rfl rfl)
    omega

@[simp] theorem State.takeClaim_mem (s : State) (gid : Nat) : (s.takeClaim gid).mem = s.mem := by
  unfold State.takeClaim; split <;> rfl
@[simp] theorem State.takeClaim_harts (s : State) (gid : Nat) : (s.takeClaim gid).harts = s.harts := by
  unfold State.takeClaim; split <;> rfl
@[simp] theorem State.takeClaim_ctxs (s : State) (gid : Nat) : (s.takeClaim gid).ctxs = s.ctxs := by
  unfold State.takeClaim; split <;> rfl
@[simp] theorem State.takeClaim_stamp (s : State) (gid : Nat) : (s.takeClaim gid).stamp = s.stamp := by
  unfold State.takeClaim; split <;> rfl
@[simp] theorem State.takeClaim_cur (s : State) (gid : Nat) : (s.takeClaim gid).cur = s.cur := by
  unfold State.takeClaim; split <;> rfl
@[simp] theorem State.byte_takeClaim (s : State) (gid k : Nat) : (s.takeClaim gid).byte k = s.byte k := by
  unfold State.byte; rw [State.takeClaim_mem]

/-- A live task holds the slot of number n, or a store of a class of cm has not performed: what `task` waits for (R303). -/
def SlotBusy (h : Hart) (g : Group) (cm : BitVec 16) : Prop :=
  (∃ u ∈ h.unacked, cm.getLsbD u.cls.toNat = true) ∨
    ∃ y ∈ g.tasks, y.num.toNat % 64 = g.taskCount.toNat % 64 ∧ y.state.live = true

/-- A task takes number n and its slot in a group. -/
def State.addTask (s : State) (gid : Nat) (n : BitVec 32) (t : Task) : State :=
  let s := s.modGroup gid fun g =>
    { g with tasks := g.tasks.filter (fun x => x.num.toNat % 64 != n.toNat % 64) ++ [t], taskCount := n + 1 }
  { s with stamp := s.stamp + 1 }

/-- The state in which `task` has queued its record (R301, R303). -/
def State.withTask (s : State) (h : Hart) (g : Group) (a : Word) (cls : BitVec 4) : State :=
  (s.perform .raw (byteWrites (g.taskSlot g.taskCount.toNat)
    (s.bytes (lsKey (spireOf s.cur) (g.bases.getD (spireOf s.cur % 4) 0 + a.toNat)) 64))).addTask h.gid g.taskCount
      ⟨g.taskCount, [], h.idx, cls, .queued, 0, 0, 0, s.stamp⟩

theorem State.queueTask_eq (s : State) (h : Hart) (g : Group) (d : Reg) (a : Word) (cm : BitVec 16) (cls : BitVec 4) :
    s.queueTask h g d a cm cls =
      if (h.unacked.any fun u => cm.getLsbD u.cls.toNat) || (g.slotTask g.taskCount).any (·.state.live) then
        .stall s { h with pending := some .slotWait } false
      else .done (s.withTask h g a cls) (h.setReg d (g.taskCount.setWidth 64)) := by
  have live : (g.slotTask g.taskCount).any (·.state.live) =
      match g.slotTask g.taskCount with
      | some t => t.state.live
      | none => false := by
    cases g.slotTask g.taskCount <;> rfl
  rw [live]
  unfold State.queueTask State.withTask State.addTask
  cases h.unacked.any fun u => cm.getLsbD u.cls.toNat <;> rfl

theorem State.queueTask_waits (s : State) {h : Hart} {g : Group} {cm : BitVec 16} (d : Reg) (a : Word) (cls : BitVec 4)
    (busy : SlotBusy h g cm)
    (apart : ∀ y ∈ g.tasks, ∀ z ∈ g.tasks, y.num.toNat % 64 = z.num.toNat % 64 → y = z) :
    s.queueTask h g d a cm cls = .stall s { h with pending := some .slotWait } false := by
  rw [State.queueTask_eq, if_pos]
  rw [Bool.or_eq_true]
  refine busy.imp (fun ⟨u, hu, hc⟩ => List.any_eq_true.2 ⟨u, hu, hc⟩) fun ⟨y, hy, hn, live⟩ => ?_
  unfold Group.slotTask
  cases hf : g.tasks.find? fun t => t.num.toNat % 64 == g.taskCount.toNat % 64 with
  | none => exact absurd (List.find?_eq_none.1 hf y hy) (by simpa using hn)
  | some z =>
    have same : z.num.toNat % 64 = g.taskCount.toNat % 64 := by simpa using List.find?_some hf
    rw [apart z (List.mem_of_find?_eq_some hf) y hy (same.trans hn.symm)]
    exact live

/-- What `task` does once it waits for nothing (R303). -/
theorem State.queueTask_done (s : State) {h : Hart} {g : Group} {cm : BitVec 16} (d : Reg) (a : Word) (cls : BitVec 4)
    (free : ¬SlotBusy h g cm) :
    s.queueTask h g d a cm cls = .done (s.withTask h g a cls) (h.setReg d (g.taskCount.setWidth 64)) := by
  rw [State.queueTask_eq, if_neg]
  rw [Bool.or_eq_true]
  refine mt (Or.imp (fun older => ?_) fun live => ?_) free
  · obtain ⟨u, hu, hc⟩ := List.any_eq_true.1 older
    exact ⟨u, hu, hc⟩
  · obtain ⟨t, found, live⟩ := (Option.any_eq_true _ _).1 live
    exact ⟨t, List.mem_of_find?_eq_some found, by simpa using List.find?_some found, live⟩

@[simp] theorem State.addTask_mem (s : State) (gid : Nat) (n : BitVec 32) (t : Task) : (s.addTask gid n t).mem = s.mem := rfl
@[simp] theorem State.addTask_harts (s : State) (gid : Nat) (n : BitVec 32) (t : Task) : (s.addTask gid n t).harts = s.harts := rfl
@[simp] theorem State.addTask_ctxs (s : State) (gid : Nat) (n : BitVec 32) (t : Task) : (s.addTask gid n t).ctxs = s.ctxs := rfl
@[simp] theorem State.addTask_acc (s : State) (gid : Nat) (n : BitVec 32) (t : Task) : (s.addTask gid n t).acc = s.acc := rfl
@[simp] theorem State.addTask_accLevel (s : State) (gid : Nat) (n : BitVec 32) (t : Task) :
    (s.addTask gid n t).accLevel = s.accLevel := rfl
@[simp] theorem State.addTask_cur (s : State) (gid : Nat) (n : BitVec 32) (t : Task) : (s.addTask gid n t).cur = s.cur := rfl

theorem State.groupOnly_addTask {s : State} {gid : Nat} {g : Group} (hg : s.group gid = some g) (n : BitVec 32) (t : Task) :
    GroupOnly s gid { g with
      tasks := g.tasks.filter (fun y => y.num.toNat % 64 != n.toNat % 64) ++ [t], taskCount := n + 1 } (s.addTask gid n t) :=
  State.groupOnly_modGroup hg fun g =>
    { g with tasks := g.tasks.filter (fun x => x.num.toNat % 64 != n.toNat % 64) ++ [t], taskCount := n + 1 }

/-- A step of homes leaves the groups. -/
theorem State.group_perform (s : State) (m : GranuleMark) (ws : List ByteWrite) (j : Nat) : (s.perform m ws).group j = s.group j := by
  unfold State.group
  rw [State.perform_groups]

/-- The task is QUEUED at the end of its group's tasks (R303). -/
theorem State.groupOnly_withTask {s : State} {h : Hart} {g : Group} (hg : s.group h.gid = some g) (a : Word) (cls : BitVec 4) :
    GroupOnly s h.gid { g with
      tasks := g.tasks.filter (fun y => y.num.toNat % 64 != g.taskCount.toNat % 64) ++
        [⟨g.taskCount, [], h.idx, cls, .queued, 0, 0, 0, s.stamp⟩]
      taskCount := g.taskCount + 1 } (s.withTask h g a cls) := by
  unfold State.withTask
  have only := State.groupOnly_addTask ((s.group_perform .raw (byteWrites (g.taskSlot g.taskCount.toNat)
    (s.bytes (lsKey (spireOf s.cur) (g.bases.getD (spireOf s.cur % 4) 0 + a.toNat)) 64)) h.gid).trans hg) g.taskCount
    ⟨g.taskCount, [], h.idx, cls, .queued, 0, 0, 0, s.stamp⟩
  exact ⟨only.1, fun j hj => (only.2 j hj).trans (s.group_perform _ _ j)⟩

/-- The record is copied to its slot (R301, R303). -/
theorem State.byte_withTask (s : State) (h : Hart) (g : Group) (a : Word) (cls : BitVec 4) (k : Nat) :
    (s.withTask h g a cls).byte k = (s.setBytes (g.taskSlot g.taskCount.toNat)
      (s.bytes (lsKey (spireOf s.cur) (g.bases.getD (spireOf s.cur % 4) 0 + a.toNat)) 64)).byte k := by
  rw [← State.writeAll_byteWrites]
  unfold State.byte
  rw [← State.perform_mem s .raw]
  unfold State.withTask
  rw [State.addTask_mem]

/-- `task` leaves every hart, context and accumulator, once it has its claim (R303). -/
theorem State.withTask_frame (s : State) (h : Hart) (g : Group) (a : Word) (cls : BitVec 4) :
    (s.withTask h g a cls).harts = s.harts ∧ (s.withTask h g a cls).ctxs = s.ctxs ∧ (s.withTask h g a cls).acc = s.acc ∧
      (s.withTask h g a cls).accLevel = s.accLevel ∧ (s.withTask h g a cls).cur = s.cur := by
  unfold State.withTask
  rw [State.perform_frame]
  exact ⟨rfl, rfl, rfl, rfl, rfl⟩

/-- The bytes of the record's slot after `task`, and those beside it (R301). -/
theorem State.byte_withTask_slot (s : State) (h : Hart) (g : Group) (a : Word) (cls : BitVec 4) {e : Nat} (he : e < 64) :
    (s.withTask h g a cls).byte (g.taskSlot g.taskCount.toNat + e) =
      s.byte (lsKey (spireOf s.cur) (g.bases.getD (spireOf s.cur % 4) 0 + a.toNat) + e) := by
  rw [State.byte_withTask, State.byte_setBytes_inside _ _ _ _ (by rwa [State.length_bytes]), State.getElem_bytes]

theorem State.byte_withTask_other (s : State) (h : Hart) (g : Group) (a : Word) (cls : BitVec 4) {k : Nat}
    (hk : k < g.taskSlot g.taskCount.toNat ∨ g.taskSlot g.taskCount.toNat + 64 ≤ k) : (s.withTask h g a cls).byte k = s.byte k := by
  rw [State.byte_withTask, State.byte_setBytes_outside _ _ _ _ (by rwa [State.length_bytes])]

theorem tokrd_reads {s : State} {h : Hart} {g : Group} {r : Reg} {n : BitVec 6} (hg : s.group h.gid = some g)
    (hi : Issues s h (.tokrd r n)) : ∃ t, exec (.tokrd r n) s = .next t ∧
      Completes (.tokrd r n) s { h with arch := h.arch.setReg r ((Store.get 0 g.tokens n.toNat).setWidth 64) } t :=
  ⟨_, rfl, State.run_done hi (State.withGroup_of hg _)⟩

theorem tokwr_writes {s : State} {h : Hart} {g : Group} {r : Reg} {n : BitVec 6} (hg : s.group h.gid = some g)
    (hi : Issues s h (.tokwr r n)) : ∃ t u x, exec (.tokwr r n) s = .next t ∧ Completes (.tokwr r n) u h t ∧
      u = { s with groups := u.groups } ∧ GroupOnly s h.gid x u ∧ TokenWritten g n.toNat ((h.reg r).setWidth 32) x := by
  obtain ⟨y, only, token⟩ := State.tokenWritten_setToken hg n.toNat ((h.reg r).setWidth 32)
  exact ⟨_, _, y, rfl, State.run_done hi rfl, rfl, only, token⟩

theorem twait_waits {s : State} {h : Hart} {g : Group} {n : BitVec 6} {a : Reg} {o : Cm} (hg : s.group h.gid = some g)
    (hi : Issues s h (.twait n a o)) :
    (counterReached (Store.get 0 g.tokens n.toNat) ((h.reg a).setWidth 32) → ∃ t, exec (.twait n a o) s = .next t ∧
      Completes (.twait n a o) s h t) ∧
    (¬counterReached (Store.get 0 g.tokens n.toNat) ((h.reg a).setWidth 32) → Waits (.twait n a o) s h (some .waiting) false s) := by
  refine ⟨fun past => ⟨_, rfl, State.run_done hi ?_⟩, fun early => State.run_stalls hi rfl ?_⟩
  · exact (State.withGroup_of hg _).trans (if_pos ((reached_iff _ _).2 past))
  · exact (State.withGroup_of hg _).trans (if_neg (mt (reached_iff _ _).1 early))

theorem tsig_signals {s : State} {h : Hart} {g : Group} {n : BitVec 6} {o : Cm} (hg : s.group h.gid = some g)
    (hi : Issues s h (.tsig n o)) :
    (h.unacked ≠ [] → Waits (.tsig n o) s h (some .waiting) false s) ∧
    (h.unacked = [] → ∃ t u y, exec (.tsig n o) s = .next t ∧ Completes (.tsig n o) u h t ∧ u = { s with groups := u.groups } ∧
      GroupOnly s h.gid y u ∧ TokenWritten g n.toNat (Store.get 0 g.tokens n.toNat + 1) y) := by
  refine ⟨fun out => State.run_stalls hi rfl ((State.withGroup_of hg _).trans (if_pos (by simpa using out))), fun none => ?_⟩
  obtain ⟨y, only, token⟩ := State.tokenWritten_setToken hg n.toNat (Store.get 0 g.tokens n.toNat + 1)
  exact ⟨_, _, y, rfl, State.run_done hi ((State.withGroup_of hg _).trans (if_neg (by simp [none]))), rfl, only, token⟩

section

variable {s : State} {h : Hart} {g : Group} {d a : Reg} {cm : BitVec 16} {o : Cm}

theorem task_unaligned (hg : s.group h.gid = some g) (hi : Issues s h (.task d a cm o)) (off : (h.reg a).toNat % 64 ≠ 0)
    (plain : PlainHart h) (handled : Handled s h) : Traps (.task d a cm o) s h ⟨20, 0, false, false, 0, h.reg a⟩ :=
  State.run_traps hi rfl ((State.withGroup_of hg _).trans (if_pos off)) plain handled

theorem task_outside (hg : s.group h.gid = some g) (hi : Issues s h (.task d a cm o)) (on : (h.reg a).toNat % 64 = 0)
    (out : g.lspan < (h.reg a).toNat + 64 ∨ g.lspan < 4096) (plain : PlainHart h) (handled : Handled s h) :
    Traps (.task d a cm o) s h ⟨19, 0, false, false, 0, h.reg a⟩ := by
  refine State.run_traps hi rfl ((State.withGroup_of hg _).trans ?_) plain handled
  rw [if_neg (not_not.2 on), if_pos (by simpa using out)]

/-- The address that `task` names holds a record inside the span (R303). -/
def RecordFits (g : Group) (va : Word) : Prop := va.toNat % 64 = 0 ∧ va.toNat + 64 ≤ g.lspan ∧ 4096 ≤ g.lspan

variable (fits : RecordFits g (h.reg a))
include fits

theorem record_checks_pass : ¬(h.reg a).toNat % 64 ≠ 0 ∧
    ¬(decide (g.lspan < (h.reg a).toNat + 64) || decide (g.lspan < 4096)) = true := by
  obtain ⟨on, inside, room⟩ := fits
  refine ⟨not_not.2 on, ?_⟩
  simp
  omega

theorem task_waits_claim (hg : s.group h.gid = some g) (hi : Issues s h (.task d a cm o)) (unclaimed : g.claim = false)
    (other : (s.claimant g.quad).isSome = true) :
    (h.pending = none → Waits (.task d a cm o) s h (some (.claimWait s.dclk.toNat)) false s) ∧
    (h.pending ≠ none → Waits (.task d a cm o) s h h.pending false s) := by
  obtain ⟨c₁, c₂⟩ := record_checks_pass fits
  refine ⟨fun first => State.run_stalls hi rfl ((State.withGroup_of hg _).trans ?_),
    fun again => State.run_stalls hi rfl ((State.withGroup_of hg _).trans ?_)⟩
  · rw [if_neg c₁, if_neg c₂, if_neg (by simp [unclaimed]), if_pos other, first]
  · rw [if_neg c₁, if_neg c₂, if_neg (by simp [unclaimed]), if_pos other]
    split
    · rfl
    · next none => exact absurd none again

theorem task_waits_slot (hg : s.group h.gid = some g) (hi : Issues s h (.task d a cm o)) (claimed : g.claim = true)
    (busy : SlotBusy h g cm) (apart : ∀ y ∈ g.tasks, ∀ z ∈ g.tasks, y.num.toNat % 64 = z.num.toNat % 64 → y = z) :
    Waits (.task d a cm o) s h (some .slotWait) false s := by
  obtain ⟨c₁, c₂⟩ := record_checks_pass fits
  refine State.run_stalls hi rfl ((State.withGroup_of hg _).trans ?_)
  rw [if_neg c₁, if_neg c₂, if_pos claimed]
  exact State.queueTask_waits s d (h.reg a) o.cls busy apart

theorem task_claims_and_waits (hg : s.group h.gid = some g) (hi : Issues s h (.task d a cm o)) (unclaimed : g.claim = false)
    (nobody : (s.claimant g.quad).isSome = false) (busy : SlotBusy h g cm)
    (apart : ∀ y ∈ g.tasks, ∀ z ∈ g.tasks, y.num.toNat % 64 = z.num.toNat % 64 → y = z) :
    ∃ u, Waits (.task d a cm o) u h (some .slotWait) false s ∧
        u = { s with groups := u.groups, acc := u.acc, accLevel := u.accLevel } ∧ GroupOnly s h.gid { g with claim := true } u := by
  obtain ⟨c₁, c₂⟩ := record_checks_pass fits
  obtain ⟨frame, only, -⟩ := State.takeClaim_spec hg
  refine ⟨s.takeClaim h.gid, State.run_stalls hi rfl ((State.withGroup_of hg _).trans ?_), frame, only⟩
  rw [if_neg c₁, if_neg c₂, if_neg (by simp [unclaimed]), if_neg (by simp [nobody])]
  dsimp only
  rw [only.1]
  exact State.queueTask_waits (s.takeClaim h.gid) d (h.reg a) o.cls (g := { g with claim := true }) busy apart

theorem task_queues (hg : s.group h.gid = some g) (hi : Issues s h (.task d a cm o))
    (mine : g.claim = true ∨ (s.claimant g.quad).isSome = false) (free : ¬SlotBusy h g cm) :
    ∃ t u, exec (.task d a cm o) s = .next t ∧
      Completes (.task d a cm o) u { h with arch := h.arch.setReg d (g.taskCount.setWidth 64) } t ∧ u.harts = s.harts ∧ u.ctxs = s.ctxs ∧
      GroupOnly s h.gid { g with
        claim := true
        tasks := g.tasks.filter (fun y => y.num.toNat % 64 != g.taskCount.toNat % 64) ++
          [⟨g.taskCount, [], h.idx, o.cls, .queued, 0, 0, 0, s.stamp⟩]
        taskCount := g.taskCount + 1 } u ∧
      (∀ e, e < 64 → u.byte (g.taskSlot g.taskCount.toNat + e) =
        s.byte (lsKey (spireOf s.cur) (g.bases.getD (spireOf s.cur % 4) 0 + (h.reg a).toNat) + e)) ∧
      (∀ j, j < g.taskSlot g.taskCount.toNat ∨ g.taskSlot g.taskCount.toNat + 64 ≤ j → u.byte j = s.byte j) ∧
      (g.claim = true → u.acc = s.acc ∧ u.accLevel = s.accLevel) ∧
      (g.claim = false → ∀ k, Store.get 0 u.acc k = (if k / 2 ^ 19 = g.quad then 0 else Store.get 0 s.acc k) ∧
        Store.get 0 u.accLevel k = if k / 8 = g.quad then 0 else Store.get 0 s.accLevel k) := by
  obtain ⟨c₁, c₂⟩ := record_checks_pass fits
  cases claimed : g.claim with
  | true =>
    obtain ⟨harts, ctxs, acc, level, cur⟩ := s.withTask_frame h g (h.reg a) o.cls
    refine ⟨_, s.withTask h g (h.reg a) o.cls, rfl, State.run_done hi ((State.withGroup_of hg _).trans ?_) cur, harts, ctxs, ?_,
      fun e he => State.byte_withTask_slot _ _ _ _ _ he, fun j hj => State.byte_withTask_other _ _ _ _ _ hj,
      fun _ => ⟨acc, level⟩, Bool.noConfusion⟩
    · rw [if_neg c₁, if_neg c₂, if_pos claimed]
      exact State.queueTask_done s d (h.reg a) o.cls free
    · rw [← claimed]
      exact State.groupOnly_withTask hg (h.reg a) o.cls
  | false =>
    have nobody : ¬(s.claimant g.quad).isSome = true := by
      rcases mine with mine | nobody
      · simp [claimed] at mine
      · simp [nobody]
    obtain ⟨-, only, cleared⟩ := State.takeClaim_spec hg
    let g' : Group := { g with claim := true }
    obtain ⟨harts, ctxs, acc, level, cur⟩ := (s.takeClaim h.gid).withTask_frame h g' (h.reg a) o.cls
    refine ⟨_, (s.takeClaim h.gid).withTask h g' (h.reg a) o.cls, rfl,
      State.run_done hi ((State.withGroup_of hg _).trans ?_) (cur.trans (s.takeClaim_cur h.gid)),
      harts.trans (s.takeClaim_harts h.gid), ctxs.trans (s.takeClaim_ctxs h.gid), ?_, fun e he => ?_, fun j hj => ?_,
      Bool.noConfusion, fun _ => by rw [acc, level]; exact cleared⟩
    · rw [if_neg c₁, if_neg c₂, if_neg (by simp [claimed]), if_neg nobody]
      dsimp only
      rw [only.1]
      exact State.queueTask_done (s.takeClaim h.gid) d (h.reg a) o.cls (g := g') free
    · have queued := State.groupOnly_withTask only.1 (h.reg a) o.cls
      rw [s.takeClaim_stamp] at queued
      exact GroupOnly.trans only queued
    · rw [← s.byte_takeClaim h.gid, ← s.takeClaim_cur h.gid]
      exact State.byte_withTask_slot _ _ g' _ _ he
    · rw [← s.byte_takeClaim h.gid]
      exact State.byte_withTask_other _ _ g' _ _ hj

end

section

variable {s : State} {gid : Nat} {g : Group} {x : Task}

/-- The record in the slot that the Fusee takes next (R301, R304). -/
def nextRecord (s : State) (g : Group) : List Byte :=
  (List.range 64).map fun e => s.byte (lsKey (4 * g.quad) (g.bases.getD 0 0 + (g.lspan - 4096) + 64 * (g.nextTake.toNat % 64)) + e)

/-- The state of a task whose record the Fusee has taken (R304, Table 21.3). -/
def takenState (g : Group) (r : List Byte) : TaskState :=
  if taskCheck r = 0 then (if g.taskReady r then .queued else .waiting) else .failed

/-- What the Fusee makes of a QUEUED task as it takes its record (R304, Table 21.2). -/
def Group.takes (g : Group) (r : List Byte) (y : Task) : Task :=
  { y with record := r, state := takenState g r, code := if taskCheck r = 0 then y.code else taskCheck r }

/-- The next record counts as taken (R304). -/
def Group.stepTake (g : Group) (n : BitVec 32) : Group := { g with nextTake := n + 1 }

theorem works_of (works : g.state = .running ∨ g.state = .draining) : g.state.works = true := by
  rcases works with e | e <;> rw [e] <;> rfl

theorem exec_fuseeTakeRecord_queued (hg : s.group gid = some g) (next : g.tasks.find? (fun y => y.num == g.nextTake) = some x)
    (queued : x.state = .queued) (works : g.state.works = true) (may : g.mayTake g.nextTake = true) :
    exec (.fuseeTakeRecord gid) s = .next ((s.modGroup gid fun y => y.stepTake g.nextTake).modTask gid g.nextTake
      (g.takes (nextRecord s g))) := by
  show execFuseeTakeRecord gid s = _
  unfold execFuseeTakeRecord Group.taskAt
  rw [hg]
  dsimp only
  rw [next]
  dsimp only
  rw [works, may, queued]
  refine congrArg (fun f => Host.Outcome.next (State.modTask _ gid g.nextTake f)) (funext fun y => ?_)
  show (if (taskCheck (nextRecord s g) != 0) = true then
      ({ y with record := nextRecord s g, state := .failed, code := taskCheck (nextRecord s g) } : Task)
    else { y with record := nextRecord s g, state := if g.taskReady (nextRecord s g) then .queued else .waiting }) = _
  unfold Group.takes takenState
  by_cases good : taskCheck (nextRecord s g) = 0 <;> simp [good]

theorem exec_fuseeTakeRecord_skip (hg : s.group gid = some g) (next : g.tasks.find? (fun y => y.num == g.nextTake) = some x)
    (other : x.state ≠ .queued) (works : g.state.works = true) (may : g.mayTake g.nextTake = true) :
    exec (.fuseeTakeRecord gid) s = .next (s.modGroup gid fun y => y.stepTake g.nextTake) := by
  show execFuseeTakeRecord gid s = _
  unfold execFuseeTakeRecord Group.taskAt
  rw [hg]
  dsimp only
  rw [next]
  dsimp only
  rw [works, may, if_neg (by decide), if_pos (by simpa using other)]
  rfl

theorem exec_fuseeTakeRecord_gone (hg : s.group gid = some g) (next : g.tasks.find? (fun y => y.num == g.nextTake) = none)
    (more : g.nextTake ≠ g.taskCount) :
    exec (.fuseeTakeRecord gid) s = .next (s.modGroup gid fun y => y.stepTake g.nextTake) := by
  show execFuseeTakeRecord gid s = _
  unfold execFuseeTakeRecord Group.taskAt
  rw [hg]
  dsimp only
  rw [next]
  dsimp only
  rw [if_neg more]
  rfl

theorem fusee_takes (hg : s.group gid = some g) (next : g.tasks.find? (fun y => y.num == g.nextTake) = some x)
    (queued : x.state = .queued) (works : g.state = .running ∨ g.state = .draining)
    (before : ∀ y ∈ g.tasks, y.num = g.nextTake - 1 → y.state ≠ .queued ∧ y.state ≠ .waiting) :
    ∃ t, exec (.fuseeTakeRecord gid) s = .next t ∧ t = { s with groups := t.groups } ∧
      GroupOnly s gid { g with
        nextTake := g.nextTake + 1, tasks := taskMapped g.tasks g.nextTake (g.takes (nextRecord s g)) } t := by
  have stepped := State.groupOnly_modGroup hg fun y => y.stepTake g.nextTake
  exact ⟨_, exec_fuseeTakeRecord_queued hg next queued (works_of works) (Group.mayTake_of before), rfl,
    GroupOnly.trans stepped (State.groupOnly_modTask stepped.1 _ _)⟩

theorem fusee_skips (hg : s.group gid = some g)
    (skip : (g.tasks.find? (fun y => y.num == g.nextTake) = none ∧ g.nextTake ≠ g.taskCount) ∨
        (g.tasks.find? (fun y => y.num == g.nextTake) = some x ∧ x.state ≠ .queued ∧ (g.state = .running ∨ g.state = .draining) ∧
          ∀ y ∈ g.tasks, y.num = g.nextTake - 1 → y.state ≠ .queued ∧ y.state ≠ .waiting)) :
      ∃ t, exec (.fuseeTakeRecord gid) s = .next t ∧ t = { s with groups := t.groups } ∧
        GroupOnly s gid { g with nextTake := g.nextTake + 1 } t := by
  refine ⟨_, ?_, rfl, State.groupOnly_modGroup hg fun y => y.stepTake g.nextTake⟩
  rcases skip with ⟨gone, more⟩ | ⟨next, other, works, before⟩
  · exact exec_fuseeTakeRecord_gone hg gone more
  · exact exec_fuseeTakeRecord_skip hg next other (works_of works) (Group.mayTake_of before)

/-- The level check of a start fails (R305). -/
def State.levelsDiffer (s : State) (g : Group) (r : List Byte) : Bool :=
  !taskZeroes r && (takesPart r).any fun p => s.levelAt g.quad p (taskAcc r) != taskLevel r

theorem State.levelsDiffer_eq_false_iff (s : State) (g : Group) (r : List Byte) : s.levelsDiffer g r = false ↔
    ((r.getD 46 0).getLsbD 2 = true ∨ (r.getD 46 0).getLsbD 0 = true) ∨
      ∀ p ∈ positions r, Store.get 0 s.accLevel (2 * (4 * g.quad + p) + ((r.getD 46 0).getLsbD 1).toNat) = field r 51 1 % 8 := by
  unfold State.levelsDiffer
  rw [Bool.and_eq_false_iff, Bool.not_eq_false', taskZeroes_iff, takesPart_eq_positions, List.any_eq_false]
  simp [State.levelAt, taskAcc, taskBit, taskLevel, taskField_eq_field]

/-- A task with a record starts once its condition holds and its arrays are free (R305). -/
theorem exec_taskStart (hg : s.group gid = some g) (here : g.tasks.find? (fun y => y.num == x.num) = some x)
    (waits : x.state = .queued ∨ x.state = .waiting) (taken : x.record ≠ []) (claimed : g.claim = true) (on : g.aborted = false)
    (stays : g.wantPark = false) (works : g.state = .running ∨ g.state = .draining) (runs : s.dieRuns (4 * g.quad) = true) :
    exec (.taskStart gid x.num.toNat) s = .next (
      if g.taskReady x.record && !(takesPart x.record).any g.arrayBusy then
        s.modTask gid x.num fun y =>
          if s.levelsDiffer g x.record then { y with state := .failed, code := 6 } else { y with state := .running }
      else s) := by
  have state : (x.state == .queued || x.state == .waiting) = true := by simpa using waits
  have record : x.record.isEmpty = false := by simpa using taken
  show execTaskStart gid x.num.toNat s = _
  unfold execTaskStart Group.taskAt
  rw [hg]
  dsimp only
  rw [BitVec.ofNat_toNat, BitVec.setWidth_eq, here]
  dsimp only
  rw [state, record, claimed, on, stays, works_of works, runs]
  cases g.taskReady x.record <;> cases (takesPart x.record).any g.arrayBusy <;> rfl

/-- The condition and the arrays that a start asks for (R304, R305). -/
theorem start_allowed_iff (g : Group) (r : List Byte) : (g.taskReady r && !(takesPart r).any g.arrayBusy) = true ↔
    ((r.getD 46 0).getLsbD 3 = false ∨
      counterReached (Store.get 0 g.tokens (field r 52 1 % 64)) (BitVec.ofNat 32 (field r 56 4))) ∧ ∀ p ∈ positions r, arrayFree g p := by
  rw [Bool.and_eq_true, Group.taskReady_iff, Bool.not_eq_true', List.any_eq_false, takesPart_eq_positions]
  simp only [Bool.not_eq_true, Group.arrayBusy_eq_false_iff]

theorem task_starts_or_waits (hg : s.group gid = some g) (here : g.tasks.find? (fun y => y.num == x.num) = some x)
    (waits : x.state = .queued ∨ x.state = .waiting) (taken : x.record ≠ []) (claimed : g.claim = true) (on : g.aborted = false)
    (stays : g.wantPark = false) (works : g.state = .running ∨ g.state = .draining) (runs : s.dieRuns (4 * g.quad) = true) :
    let met := (x.record.getD 46 0).getLsbD 3 = false ∨
      counterReached (Store.get 0 g.tokens (field x.record 52 1 % 64)) (BitVec.ofNat 32 (field x.record 56 4))
    let free := ∀ p ∈ positions x.record, arrayFree g p
    let zeroes := (x.record.getD 46 0).getLsbD 2 = true ∨ (x.record.getD 46 0).getLsbD 0 = true
    let ac := ((x.record.getD 46 0).getLsbD 1).toNat
    let agree := ∀ p ∈ positions x.record, Store.get 0 s.accLevel (2 * (4 * g.quad + p) + ac) = field x.record 51 1 % 8
    (¬met ∨ ¬free → exec (.taskStart gid x.num.toNat) s = .next s) ∧
    (met → free → ∃ t, exec (.taskStart gid x.num.toNat) s = .next t ∧ t = { s with groups := t.groups } ∧
      (zeroes ∨ agree → GroupOnly s gid { g with tasks := taskMapped g.tasks x.num fun y => { y with state := .running } } t) ∧
      (¬(zeroes ∨ agree) →
        GroupOnly s gid { g with tasks := taskMapped g.tasks x.num fun y => { y with state := .failed, code := 6 } } t)) := by
  intro met free zeroes ac agree
  have starts := exec_taskStart hg here waits taken claimed on stays works runs
  refine ⟨fun no => ?_, fun yes clear => ?_⟩
  · rw [if_neg (mt (start_allowed_iff g x.record).1 (not_and_or.2 no))] at starts
    exact starts
  · rw [if_pos ((start_allowed_iff g x.record).2 ⟨yes, clear⟩)] at starts
    refine ⟨_, starts, rfl, fun good => ?_, fun bad => ?_⟩
    · have same := (s.levelsDiffer_eq_false_iff g x.record).2 good
      simpa only [same, Bool.false_eq_true, if_false] using State.groupOnly_modTask hg x.num fun y : Task => { y with state := .running }
    · have differ := Bool.eq_true_of_not_eq_false (mt (s.levelsDiffer_eq_false_iff g x.record).1 bad)
      simpa only [differ, if_true] using State.groupOnly_modTask hg x.num fun y : Task => { y with state := .failed, code := 6 }

/-- The slot is free and no older store is in the way, in the statement's words. -/
theorem slotBusy_iff (h : Hart) (g : Group) (cm : BitVec 16) : SlotBusy h g cm ↔
    (∃ u ∈ h.unacked, cm.getLsbD u.cls.toNat = true) ∨
      ¬∀ y ∈ g.tasks, y.num.toNat % 64 = g.taskCount.toNat % 64 → y.state.live = false := by
  unfold SlotBusy
  simp

end
/-- Settles O50: each instruction and step of a task up to its start does what its own rule above says. -/
theorem tileTasks : Obligations.TileTasks := by
  unfold Obligations.TileTasks
  refine ⟨fun s h g r n hg => ⟨tokrd_reads hg, tokwr_writes hg⟩, fun s h g d a cm o n gid x hg => ?_⟩
  refine ⟨fun hi => ⟨task_unaligned hg hi, task_outside hg hi, fun fits => task_waits_claim fits hg hi, fun fits claimed busy apart => ?_,
    fun fits unclaimed nobody busy apart => ?_, fun fits mine older vacant => ?_⟩, ?_, fusee_skips, ?_, twait_waits hg, tsig_signals hg⟩
  · exact task_waits_slot fits hg hi claimed ((slotBusy_iff h g cm).2 busy) apart
  · exact task_claims_and_waits fits hg hi unclaimed nobody ((slotBusy_iff h g cm).2 busy) apart
  · exact task_queues fits hg hi mine (mt (slotBusy_iff h g cm).1 (not_or.2 ⟨older, not_not.2 vacant⟩))
  · intro hg next queued works before
    obtain ⟨t, runs, frame, only⟩ := fusee_takes hg next queued works before
    refine ⟨t, takenState g (nextRecord s g), runs, frame, only, fun bad => if_neg bad, fun good ready => ?_, fun good early => ?_⟩
    · exact (if_pos good).trans (if_pos ((g.taskReady_iff _).2 ready))
    · exact (if_pos good).trans (if_neg (mt (g.taskReady_iff _).1 early))
  · exact task_starts_or_waits

end Sys2Proof.Machine
end

section
/-! Accesses over links, fence and wait (R9, R240, R241, R258, R276, R277, R329, R334, R337). -/

namespace Sys2Proof

variable {α : Type}

/-- A filter keeps a value that it accepts where it was found. -/
theorem Store.find_filter_of_mem {s : Store α} {k : Nat} {v : α} {p : Nat × α → Bool} (found : s.find k = some v) (keep : p (k, v) = true) :
    Store.find (s.filter p) k = some v := by
  induction s with
  | nil => simp at found
  | cons q t ih =>
    obtain ⟨j, w⟩ := q
    unfold Store.find at found
    rw [List.filter_cons]
    split at found
    · next same =>
      obtain rfl : j = k := same
      obtain rfl := Option.some.inj found
      simp [keep, Store.find]
    · next other =>
      have other : j ≠ k := other
      split
      · simp [Store.find, other, ih found]
      · exact ih found

/-- A filter that refuses the only value at a key leaves none there. -/
theorem Store.find_filter_eq_none {s : Store α} {k : Nat} {v : α} {p : Nat × α → Bool} (sorted : s.Pairwise fun x y => x.1 < y.1)
    (found : s.find k = some v) (drop : p (k, v) = false) : Store.find (s.filter p) k = none := by
  induction s with
  | nil => simp at found
  | cons q t ih =>
    obtain ⟨j, w⟩ := q
    obtain ⟨above, sorted⟩ := List.pairwise_cons.1 sorted
    unfold Store.find at found
    rw [List.filter_cons]
    split at found
    · next same =>
      obtain rfl : j = k := same
      obtain rfl := Option.some.inj found
      rw [drop]
      cases rest : Store.find (t.filter p) j with
      | none => exact rest
      | some z => exact absurd (above _ (List.mem_of_mem_filter (Store.mem_of_find rest))) (lt_irrefl j)
    · next other =>
      have other : j ≠ k := other
      split
      · simp [Store.find, other, ih sorted found]
      · exact ih sorted found

/-- An insertion keeps the keys in order. -/
theorem Store.pairwise_insert {s : Store α} (k : Nat) (v : α) (sorted : s.Pairwise fun x y => x.1 < y.1) :
    (Store.insert s k v).Pairwise fun x y => x.1 < y.1 := by
  induction s with
  | nil => simp [Store.insert]
  | cons q t ih =>
    obtain ⟨j, w⟩ := q
    obtain ⟨above, rest⟩ := List.pairwise_cons.1 sorted
    unfold Store.insert
    split
    · next same => exact List.pairwise_cons.2 ⟨fun x hx => same ▸ above x hx, rest⟩
    · split
      · next less =>
        exact List.pairwise_cons.2 ⟨fun x hx => (List.mem_cons.1 hx).elim (fun e => e ▸ less) fun h => less.trans (above x h), sorted⟩
      · exact List.pairwise_cons.2 ⟨fun x hx => (Store.mem_insert hx).elim (fun e => by subst e; dsimp only; omega) (above x), ih rest⟩

end Sys2Proof

namespace Sys2Proof.Machine

theorem mem_insertNat {x k : Nat} {l : List Nat} : x ∈ insertNat k l ↔ x = k ∨ x ∈ l := by
  induction l with
  | nil => simp [insertNat]
  | cons j t ih =>
    unfold insertNat
    split
    · next e => simp [e]
    · split
      · simp
      · simp [ih]; tauto

theorem mem_distinct {α : Type} {f : α → Nat} {x : Nat} {l : List α} : x ∈ distinct f l ↔ ∃ a ∈ l, f a = x := by
  have fold (acc : List Nat) : x ∈ l.foldl (fun acc a => insertNat (f a) acc) acc ↔ x ∈ acc ∨ ∃ a ∈ l, f a = x := by
    induction l generalizing acc with
    | nil => simp
    | cons b t ih =>
      rw [List.foldl_cons, ih, mem_insertNat]
      simp only [List.mem_cons, exists_eq_or_imp, eq_comm (a := x)]
      tauto
  unfold distinct
  rw [fold]
  simp

/-- The links that places cross (R276). -/
theorem mem_linksOf {l : Nat} {ps : List Phys} : l ∈ linksOf ps ↔ ∃ q ∈ ps, q.link = some l := by
  unfold linksOf
  rw [mem_distinct]
  simp

/-- A transfer whose ports have tokens waits at none (R99). -/
theorem State.portWait_eq_false_iff (s : State) (c : Nat) (ports : List Nat) : s.portWait c ports = false ↔ HasTokens s c ports := by
  unfold State.portWait Ctx.portWait HasTokens
  rw [List.any_eq_false]
  refine forall₂_congr fun b _ => ?_
  simp only [Bool.and_eq_true, bne_iff_ne, ne_eq, decide_eq_true_eq, List.contains_iff_mem, not_and]
  by_cases limited : b.2.limit = 0 <;> by_cases inside : b.1 ∈ ports <;> simp [limited, inside]

/-- A displacement counts in units of the access's size (R153). -/
theorem Hart.scalarAddr_eq (h : Hart) (a : Reg) (e : BitVec 6) (n : Nat) :
    h.scalarAddr a e n = BitVec.ofInt 64 ((h.arch.reg a).toNat + e.toInt * n) := by
  unfold Hart.scalarAddr Hart.reg BitVec.signExtend
  rw [BitVec.ofInt_add, BitVec.ofInt_mul, BitVec.ofInt_natCast, BitVec.ofNat_toNat, BitVec.setWidth_eq, BitVec.ofInt_natCast]

/-- The meaning of the scalar loads (R153). -/
theorem exec_of_loadForm {i : Instr} {d a : Reg} {sp : BitVec 2} {e : BitVec 6} {n : Nat} {sg : Bool}
    (form : loadForm i = some (d, a, sp, e, n, sg)) :
    switchPoint i = false ∧ ∃ cls ext, ∀ s, exec i s = .next (s.loadScalar i d a cls sp e n ext) := by
  unfold loadForm at form
  split at form
  case h_8 => cases form
  all_goals
    cases form
    exact ⟨rfl, _, _, fun _ => rfl⟩

theorem accessForm_load {i : Instr} {d a : Reg} {sp : BitVec 2} {e : BitVec 6} {n : Nat} {sg : Bool} {h : Hart} {va : Word}
    (form : loadForm i = some (d, a, sp, e, n, sg)) (access : accessForm h.arch i = some (va, sp.toNat, n, false)) :
    va = h.scalarAddr a e n := by
  unfold accessForm at access
  rw [form] at access
  rw [Hart.scalarAddr_eq]
  simpa using access.symm

/-- A placed element is the one that was asked for. -/
theorem State.placeElem_elem {s : State} {g : Group} {spire sp align : Nat} {write : Bool} {e : Elem} {p : Placed}
    (placed : s.placeElem g spire sp align write e = .ok p) : p.elem = e := by
  unfold State.placeElem at placed
  split at placed
  · cases placed
  · split at placed
    · cases placed; rfl
    · cases placed

section

variable {s : State} {h : Hart} {g : Group} {i : Instr} {d a : Reg} {sp : BitVec 2} {e : BitVec 6} {n : Nat} {sg : Bool} {va : Word}
  {p : Placed}

theorem load_joins_links (hi : Issues s h i) (fresh : h.pending = none) (form : loadForm i = some (d, a, sp, e, n, sg))
    (access : accessForm h.arch i = some (va, sp.toNat, n, false)) (hg : s.group h.gid = some g)
    (placed : s.placeElem g (spireOf s.cur) sp.toNat n false ⟨0, va, n⟩ = .ok p) (crosses : ∃ q ∈ p.phys, q.link ≠ none)
    (tokens : HasTokens s g.ctx (accessPorts (spireOf s.cur) p.phys)) :
    let ls := linksOf p.phys
    ∃ t, exec i s = .next t ∧
      t.hart s.cur = some { h with
        pending := some (.remote ls false false (pinsOf g.ctx false p.phys)), stalled := true, memStall := false, awaited := [] } ∧
      (∀ j, j ≠ s.cur → t.hart j = s.hart j) ∧ t = { s with harts := t.harts, homeq := t.homeq } ∧
      ∃ rs, t.homeq = (s.homeq.filter fun q => !(q.read && q.hart == s.cur)) ++ rs ∧ rs.map (·.link) = ls.map some ∧
        ∀ r ∈ rs, r.hart = s.cur ∧ r.seq = h.seq ∧ r.read = true ∧ r.writes = [] := by
  intro ls
  obtain ⟨still, cls, ext, runs⟩ := exec_of_loadForm form
  have nonempty : ls.isEmpty = false := by
    obtain ⟨q, hq, far⟩ := crosses
    obtain ⟨l, hl⟩ := Option.ne_none_iff_exists'.1 far
    exact List.isEmpty_eq_false_iff_exists_mem.2 ⟨l, mem_linksOf.2 ⟨q, hq, hl⟩⟩
  have near : h.reached (s.placeElem g (spireOf s.cur) sp.toNat n false ⟨0, h.scalarAddr a e n, n⟩) = .ok p := by
    rw [← accessForm_load form access, placed]
    simp [Hart.reached, Hart.cutOff, fresh]
  have waits : s.awaitLinks s.cur h cls false p.phys = some (s.joinLinks s.cur h cls ls,
      { h with pending := some (.remote ls false false (pinsOf g.ctx false p.phys)) }) := by
    unfold State.awaitLinks
    rw [State.ctxOf_of hg, (s.portWait_eq_false_iff _ _).2 tokens]
    simp only [show (linksOf p.phys).isEmpty = false from nonempty, fresh]
    rfl
  obtain ⟨t, run, stalls⟩ := State.run_stalls hi (runs s) ((State.withGroup_of hg _).trans (by rw [near]; dsimp only; rw [waits]))
  refine ⟨t, run, ?_⟩
  rw [stalls.2 still]
  refine ⟨State.hart_setHart_same _ _ _, fun j other => State.hart_setHart_other _ _ other, rfl, _, rfl, ?_, ?_⟩
  · simp only [List.map_map]
    rfl
  · intro r hr
    obtain ⟨l, -, rfl⟩ := List.mem_map.1 hr
    exact ⟨rfl, rfl, rfl, rfl⟩

/-- A load over a link that failed while it waited (R335, R337). -/
theorem load_cut_off {l : Nat} (hi : Issues s h i) (cut : h.pending = some (.cut [l])) (form : loadForm i = some (d, a, sp, e, n, sg))
    (access : accessForm h.arch i = some (va, sp.toNat, n, false)) (hg : s.group h.gid = some g)
    (placed : s.placeElem g (spireOf s.cur) sp.toNat n false ⟨0, va, n⟩ = .ok p) (crosses : ∃ q ∈ p.phys, q.link = some l)
    (plain : PlainHart h) (handled : Handled s h) : Traps i s h ⟨17, 5, false, false, 0, va⟩ := by
  obtain ⟨-, cls, ext, runs⟩ := exec_of_loadForm form
  have off : h.cutOff p.phys = true := by
    unfold Hart.cutOff
    rw [cut]
    exact List.any_eq_true.2 ⟨l, mem_linksOf.2 crosses, by simp⟩
  have near : h.reached (s.placeElem g (spireOf s.cur) sp.toNat n false ⟨0, h.scalarAddr a e n, n⟩) =
      .error ⟨17, 5, false, false, 0, va⟩ := by
    rw [← accessForm_load form access, placed]
    simp only [Hart.reached, off, if_true, State.placeElem_elem placed, accessCause]
  have exits : h.exits.isEmpty = true := by rw [plain.1]; rfl
  refine State.run_traps hi (runs s) ((State.withGroup_of hg _).trans ?_) plain handled
  rw [near]
  dsimp only [suppress]
  rw [if_pos exits]

end

section

variable {s : State}

/-- The request that a home performs next is one that stands first in the queue of a link which carries it (R276, R329). -/
def StandsFirst (s : State) (q : HomeOp) : Prop :=
  q.read = false ∧ (∀ l, q.link = some l → s.linkUp l = true) ∧
    ∃ older younger, s.homeq = older ++ q :: younger ∧ ∀ x ∈ older, s.queued x = true → x.link ≠ q.link

/-- The test by which the model picks the next request. -/
def State.canPerform (s : State) (q : HomeOp) : Bool :=
  !q.read && (match q.link with | some l => s.linkUp l | none => true) &&
    (s.homeq.find? fun r => s.queued r && r.link == q.link) == some q

theorem State.nextRequest_eq (s : State) : s.nextRequest = s.homeq.find? s.canPerform := rfl

theorem State.canPerform_iff (q : HomeOp) : s.canPerform q = true ↔ StandsFirst s q := by
  have carried : (match q.link with | some l => s.linkUp l | none => true) = true ↔ ∀ l, q.link = some l → s.linkUp l = true := by
    cases q.link <;> simp
  unfold State.canPerform StandsFirst
  rw [Bool.and_eq_true, Bool.and_eq_true, carried, beq_iff_eq, List.find?_eq_some_iff_append, and_assoc]
  simp only [Bool.not_eq_true', Bool.and_eq_true, beq_iff_eq, and_true, Bool.and_eq_false_imp, beq_eq_false_iff_ne, ne_eq]
  refine and_congr_right fun write => and_congr_right fun _ => ?_
  simp [State.queued, write]

theorem State.nextRequest_isSome (h : ∃ q, StandsFirst s q) : ∃ q, s.nextRequest = some q := by
  obtain ⟨q, first⟩ := h
  obtain ⟨-, -, older, younger, split, -⟩ := id first
  rw [s.nextRequest_eq, ← Option.isSome_iff_exists, List.find?_isSome]
  exact ⟨q, by simp [split], (State.canPerform_iff q).2 first⟩

theorem State.standsFirst_of_nextRequest {q : HomeOp} (h : s.nextRequest = some q) : StandsFirst s q :=
  (State.canPerform_iff q).1 (List.find?_some (s.nextRequest_eq ▸ h))

/-- Notices, counts and writes to host memory leave everything else as it was. -/
def CountsOnly (s u : State) : Prop := u = { s with mem := u.mem, held := u.held, notices := u.notices, ctxs := u.ctxs }

theorem CountsOnly.trans {s t u : State} (a : CountsOnly s t) (b : CountsOnly t u) : CountsOnly s u := by
  unfold CountsOnly at *
  rw [b, a]

theorem State.setCtx_countsOnly (s : State) (c : Nat) (x : Ctx) : CountsOnly s (s.setCtx c x) := rfl

theorem State.setBytes_countsOnly (s : State) (k : Nat) (l : List Byte) : CountsOnly s (s.setBytes k l) := by
  unfold CountsOnly
  rw [State.setBytes_frame]

theorem State.hostWrite_countsOnly (s : State) (a : Nat) (l : List Byte) : CountsOnly s (s.hostWrite a l) := by
  unfold State.hostWrite
  split
  · exact s.setBytes_countsOnly _ _
  · split <;> rfl

theorem State.notify_countsOnly (s : State) (c : Nat) (first : Word) (cnt kind : Nat) : CountsOnly s (s.notify c first cnt kind) := by
  unfold State.notify
  extract_lets
  split
  · exact s.setCtx_countsOnly _ _
  · split
    · rfl
    · split
      · exact s.setCtx_countsOnly _ _
      · exact (s.hostWrite_countsOnly _ _).trans (State.setCtx_countsOnly _ _ _)

theorem State.ctx_setCtx_same (s : State) (c : Nat) (x : Ctx) : (s.setCtx c x).ctx c = x := Store.get_set_same _ _ _ _

theorem State.notify_counts (s : State) (c : Nat) (first : Word) (cnt kind : Nat) :
    ((s.notify c first cnt kind).ctx c).counts = (s.ctx c).counts := by
  unfold State.notify
  extract_lets
  split
  · rw [State.ctx_setCtx_same]
  · split
    · rfl
    · split
      · rw [State.ctx_setCtx_same]
      · rw [State.ctx_setCtx_same]
        rfl

theorem State.countPage_countsOnly (s : State) (c pte base : Nat) : CountsOnly s (s.countPage c pte base) := by
  unfold State.countPage
  extract_lets
  split
  · exact (State.setCtx_countsOnly _ _ _).trans ((State.setCtx_countsOnly _ _ _).trans (State.notify_countsOnly _ _ _ _ _))
  · exact s.setCtx_countsOnly _ _

/-- An access that performs on a counted page raises its count (R258). -/
theorem State.countPage_counts (s : State) (c pte base : Nat) :
    ((s.countPage c pte base).ctx c).counts.find pte = some (min (s.pageCount c pte + 1) 0xFFFF) := by
  unfold State.countPage
  extract_lets
  split
  · rw [State.notify_counts, State.modCtx, State.ctx_setCtx_same, State.ctx_setCtx_same, Store.find_insert_same]
  · rw [State.ctx_setCtx_same, Store.find_insert_same]

theorem State.pageCount_of_counts {s : State} {c pte n : Nat} (h : (s.ctx c).counts.find pte = some n) : s.pageCount c pte = n := by
  unfold State.pageCount
  rw [h]

/-- The queues after request q has left them, with the reads whose harts wait no longer. -/
def State.dequeue (s : State) (q : HomeOp) : State := { s with homeq := (s.homeq.erase q).filter s.queued }

theorem execHomeAccessStep_of {q : HomeOp} (h : s.nextRequest = some q) :
    execHomeAccessStep s = .next ((q.counts.foldl (fun s c => s.countPage q.ctx c.1 c.2) (s.dequeue q)).perform q.mark q.writes) := by
  unfold execHomeAccessStep
  rw [h]
  rfl

theorem State.countPages_countsOnly (c : Nat) (l : List (Nat × Nat)) (s : State) :
    CountsOnly s (l.foldl (fun s x => s.countPage c x.1 x.2) s) := by
  induction l generalizing s with
  | nil => rfl
  | cons x l ih => exact (s.countPage_countsOnly _ _ _).trans (ih _)

theorem CountsOnly.homeq {s u : State} (h : CountsOnly s u) : u.homeq = s.homeq := by rw [h]
theorem CountsOnly.harts {s u : State} (h : CountsOnly s u) : u.harts = s.harts := by rw [h]
theorem CountsOnly.groups {s u : State} (h : CountsOnly s u) : u.groups = s.groups := by rw [h]

theorem State.perform_homeq (s : State) (m : GranuleMark) (ws : List ByteWrite) : (s.perform m ws).homeq = s.homeq := by
  rw [State.perform_frame]

theorem State.perform_ctx (s : State) (m : GranuleMark) (ws : List ByteWrite) (c : Nat) : (s.perform m ws).ctx c = s.ctx c := by
  unfold State.ctx
  rw [State.perform_ctxs]

/-- A home performs a request (R9, R258, R265). -/
theorem homeAccess_performs {q : HomeOp} (h : s.nextRequest = some q) : ∃ t, exec .homeAccessStep s = .next t ∧
    t.homeq = (s.homeq.erase q).filter s.queued ∧ t.harts = s.harts ∧ t.groups = s.groups ∧
    (q.counts = [] → t.ctxs = s.ctxs ∧ ∀ k, t.byte k = afterWrites q.writes k (s.byte k)) ∧
    (∀ pte base, q.counts = [(pte, base)] → t.pageCount q.ctx pte = min (s.pageCount q.ctx pte + 1) 0xFFFF) := by
  have counted := State.countPages_countsOnly q.ctx q.counts (s.dequeue q)
  refine ⟨_, execHomeAccessStep_of h, ?_, ?_, ?_, ?_, ?_⟩
  · rw [State.perform_homeq, counted.homeq]
    rfl
  · rw [State.perform_harts, counted.harts]
    rfl
  · rw [State.perform_groups, counted.groups]
    rfl
  · intro none
    rw [none]
    refine ⟨by rw [State.perform_ctxs]; rfl, fun k => ?_⟩
    rw [State.byte_perform, written_eq_afterWrites]
    rfl
  · intro pte base one
    rw [one]
    apply State.pageCount_of_counts
    rw [State.perform_ctx]
    exact State.countPage_counts _ _ _ _

end

section

variable {s : State} {k : Nat} {h : Hart} {older younger : List Unacked} {u : Unacked}

/-- The oldest request on a link of p that is performed is acknowledged (R334, R337). -/
theorem State.ackable_of {p : Nat → Bool} (unacked : h.unacked = older ++ u :: younger) (up : s.linkUp u.link = true)
    (performed : (s.homeq.filter fun q => q.read = false && q.hart = k && q.link = some u.link).length <
      (h.unacked.filter fun v => v.link = u.link).length) (accepts : p u.link = true) (oldest : ∀ v ∈ older, p v.link = false) :
    s.ackable k h p = some u := by
  unfold State.ackable
  rw [List.find?_eq_some_iff_append]
  refine ⟨?_, older, younger, unacked, fun v hv => by simp [oldest v hv]⟩
  rw [accepts, up]
  simpa [beq_eq_decide] using performed

/-- What an acknowledgement leaves (R162, R334): the request has gone, and so has a halted hart's frame with its last request. -/
theorem State.ack_spec {p : Nat → Bool} (hh : s.hart k = some h) (found : s.ackable k h p = some u)
    (unacked : h.unacked = older ++ u :: younger) (first : u ∉ older) :
    let t := s.ack k p
    t = { s with harts := t.harts } ∧
      ((h.halted = false ∨ older ++ younger ≠ [] ∨ s.abortedGroup h.gid = true) → t.hart k = some { h with unacked := older ++ younger }) ∧
      (s.harts.Pairwise (fun x y => x.1 < y.1) → h.halted = true → older ++ younger = [] → s.abortedGroup h.gid = false → t.hart k = none) ∧
      ∀ j x, j ≠ k → s.hart j = some x → x.halted = false → t.hart j = some x := by
  have left : h.unacked.erase u = older ++ younger := by
    rw [unacked, List.erase_append_right _ first, List.erase_cons_head]
  have same : s.ack k p = (s.setHart k { h with unacked := older ++ younger }).reap := by
    unfold State.ack
    rw [hh]
    dsimp only
    rw [found]
    dsimp only
    rw [left]
  have stays : (s.setHart k { h with unacked := older ++ younger }).hart k = some { h with unacked := older ++ younger } :=
    State.hart_setHart_same _ _ _
  rw [same]
  refine ⟨rfl, fun keep => ?_, fun sorted halted empty alive => ?_, fun j x other hx live => ?_⟩
  · refine Store.find_filter_of_mem stays ?_
    change (!(h.halted && (older ++ younger).isEmpty && !s.abortedGroup h.gid)) = true
    rcases keep with keep | keep | keep
    · simp [keep]
    · simp [List.isEmpty_eq_false_iff.2 keep]
    · simp [keep]
  · refine Store.find_filter_eq_none (Store.pairwise_insert _ _ sorted) stays ?_
    change (!(h.halted && (older ++ younger).isEmpty && !s.abortedGroup h.gid)) = false
    simp [halted, empty, alive]
  · refine Store.find_filter_of_mem ((State.hart_setHart_other s _ other).trans hx) ?_
    simp [live]

end

section

variable {s : State} {h : Hart}

theorem within_iff (k : Nat) (imm : BitVec 5) : within k imm = true ↔ imm = 31 ∨ k ≤ imm.toNat := by
  unfold within
  simp

theorem State.copiesOf_ne_zero (s : State) (h : Hart) (p : BitVec 4 → Bool) :
    s.copiesOf h p ≠ 0 ↔ ∃ x ∈ s.copies, x.2.busy = true ∧ x.2.gid = h.gid ∧ x.2.hart = h.idx ∧ p x.2.cls = true := by
  unfold State.copiesOf
  rw [← Nat.pos_iff_ne_zero, List.length_pos_iff_exists_mem]
  simp [and_assoc]

/-- The condition on which a `fence` goes on (R240). -/
theorem fenced_iff (s : State) (h : Hart) (cm : BitVec 16) :
    ((h.unacked.any fun u => cm.getLsbD u.cls.toNat) || s.copiesOf h (fun c => cm.getLsbD c.toNat) != 0) = false ↔
      (∀ u ∈ h.unacked, cm.getLsbD u.cls.toNat = false) ∧
        ¬∃ x ∈ s.copies, x.2.busy = true ∧ x.2.gid = h.gid ∧ x.2.hart = h.idx ∧ cm.getLsbD x.2.cls.toNat = true := by
  rw [Bool.or_eq_false_iff, ← s.copiesOf_ne_zero h fun c => cm.getLsbD c.toNat, List.any_eq_false]
  simp

theorem fence_spec {cm : BitVec 16} {scope : BitVec 3} {o : Cm} (hi : Issues s h (.fence cm scope o)) :
    let fenced := (∀ u ∈ h.unacked, cm.getLsbD u.cls.toNat = false) ∧
      ¬∃ x ∈ s.copies, x.2.busy = true ∧ x.2.gid = h.gid ∧ x.2.hart = h.idx ∧ cm.getLsbD x.2.cls.toNat = true
    (fenced → ∃ t, exec (.fence cm scope o) s = .next t ∧ Completes (.fence cm scope o) s h t) ∧
      (¬fenced → Waits (.fence cm scope o) s h (some .waiting) false s) := by
  intro fenced
  refine ⟨fun go => ⟨_, rfl, State.run_done hi ?_⟩, fun stop => State.run_stalls hi rfl ?_⟩
  · exact if_neg (by rw [(fenced_iff s h cm).2 go]; exact Bool.false_ne_true)
  · exact if_pos (by rw [← Bool.not_eq_false]; exact fun e => stop ((fenced_iff s h cm).1 e))

/-- The condition on which a `wait` goes on (R241). -/
theorem State.waited_iff (s : State) (h : Hart) (l st c n : BitVec 5) :
    (within h.landing.length l && within (h.storesOut + s.closingOf h) st && within (s.copiesOf h fun _ => true) c &&
        within (s.tasksOf h) n) = true ↔
      (l = 31 ∨ h.landing.length ≤ l.toNat) ∧ (st = 31 ∨ h.storesOut + s.closingOf h ≤ st.toNat) ∧
        (c = 31 ∨ (s.copiesOf h fun _ => true) ≤ c.toNat) ∧ (n = 31 ∨ s.tasksOf h ≤ n.toNat) := by
  simp only [Bool.and_eq_true, within_iff, and_assoc]

theorem State.closingOf_eq (s : State) (h : Hart) : s.closingOf h =
    (s.slots.filter fun x => x.2.gid = h.gid && x.2.hart = h.idx && x.2.state = .closing && !x.2.gone).length := by
  unfold State.closingOf
  simp only [beq_eq_decide]

theorem State.copiesOf_eq (s : State) (h : Hart) :
    s.copiesOf h (fun _ => true) = (s.copies.filter fun x => x.2.busy && x.2.gid = h.gid && x.2.hart = h.idx).length := by
  unfold State.copiesOf
  simp only [beq_eq_decide, Bool.and_true]

theorem State.tasksOf_eq (s : State) (h : Hart) : s.tasksOf h = match s.group h.gid with
    | some g => (g.tasks.filter fun x => x.hart = h.idx && x.state.live).length
    | none => 0 := by
  unfold State.tasksOf
  simp only [beq_eq_decide] <;> rfl

theorem wait_spec {l st c n : BitVec 5} {o : Cm} (hi : Issues s h (.wait l st c n o)) :
    let go := (l = 31 ∨ h.landing.length ≤ l.toNat) ∧ (st = 31 ∨ h.storesOut + s.closingOf h ≤ st.toNat) ∧
      (c = 31 ∨ (s.copiesOf h fun _ => true) ≤ c.toNat) ∧ (n = 31 ∨ s.tasksOf h ≤ n.toNat)
    (go → ∃ t, exec (.wait l st c n o) s = .next t ∧ Completes (.wait l st c n o) s h t) ∧
      (¬go → Waits (.wait l st c n o) s h (some .waiting) false s) := by
  intro go
  refine ⟨fun goes => ⟨_, rfl, State.run_done hi ?_⟩, fun stop => State.run_stalls hi rfl ?_⟩
  · exact if_pos ((s.waited_iff h l st c n).2 goes)
  · exact if_neg fun e => stop ((s.waited_iff h l st c n).1 e)

end

/-- Settles O43: the rules for a load, a home, an acknowledgement, `fence` and `wait` in turn. -/
theorem linkAccesses : Obligations.LinkAccesses := by
  unfold Obligations.LinkAccesses
  refine ⟨⟨?load, ?arrival, ?cut, ?home, ?ack⟩, ?order⟩
  case load =>
    intro s h g i d a sp e n sg va p hi fresh form access hg placed crosses tokens
    exact load_joins_links hi fresh form access hg placed crosses tokens
  case arrival =>
    intro s k h ls rmw pins hh landing pending up
    show execLoadDataArrives k s = _
    unfold execLoadDataArrives
    rw [hh]
    dsimp only
    rw [landing]
    dsimp only
    rw [pending]
    dsimp only
    rw [if_pos (List.all_eq_true.2 up)]
  case cut =>
    intro s h g i d a sp e n sg va p l hi cut form access hg placed crosses plain handled
    exact load_cut_off hi cut form access hg placed crosses plain handled
  case home =>
    exact fun s => ⟨State.nextRequest_isSome, fun q hq => ⟨State.standsFirst_of_nextRequest hq, homeAccess_performs hq⟩⟩
  case ack =>
    intro s k h older younger u hh unacked first up performed acked
    refine ⟨fun host others => ?_, fun home others => ?_⟩
    · exact ⟨_, rfl, State.ack_spec hh (State.ackable_of unacked up performed (by simp [host]) (by simpa using others)) unacked first⟩
    · exact ⟨_, rfl, State.ack_spec hh (State.ackable_of unacked up performed (by simp [home]) (by simpa using others)) unacked first⟩
  case order =>
    intro s h cm scope l st c n o copies past closing busy tasks stores go fenced
    refine ⟨fence_spec, fun hi => ?_⟩
    have waits := wait_spec hi
    rw [s.closingOf_eq, s.copiesOf_eq, s.tasksOf_eq] at waits
    exact waits
end Sys2Proof.Machine
end

section
/-! What an access of a Spire or of its matrix arrays changes before its data move: cached translations, the counts of pages whose
translations leave, and the tokens of its ports (R99, R250, R258). -/

namespace Sys2Proof.Machine

theorem State.ctx_setCtx_other (s : State) {c d : Nat} (x : Ctx) (h : d ≠ c) : (s.setCtx c x).ctx d = s.ctx d :=
  Store.get_set_other _ _ _ h

theorem State.ctx_modCtx_same (s : State) (c : Nat) (f : Ctx → Ctx) : (s.modCtx c f).ctx c = f (s.ctx c) := s.ctx_setCtx_same _ _

theorem State.ctx_modCtx_other (s : State) {c d : Nat} (f : Ctx → Ctx) (h : d ≠ c) : (s.modCtx c f).ctx d = s.ctx d :=
  s.ctx_setCtx_other _ h

theorem State.byte_modCtx (s : State) (c : Nat) (f : Ctx → Ctx) (k : Nat) : (s.modCtx c f).byte k = s.byte k := rfl

/-- Units leave the limited ports (R99). -/
theorem State.spent_modCtx (s : State) (c : Nat) (units : Nat → Nat) : Spent s c units (s.modCtx c fun x => x.spend units) := by
  refine ⟨rfl, fun d other => s.ctx_modCtx_other _ other, by rw [State.ctx_modCtx_same]; rfl, fun key b found => ?_⟩
  rw [State.ctx_modCtx_same]
  unfold Ctx.spend
  rw [Store.find_mapVal, found]
  rfl

/-- A transfer is charged at its ports (R99). -/
theorem State.charge_charged (s : State) (c : Nat) (ports : List Nat) : Charged s c ports (s.charge c ports) := by
  unfold State.charge
  by_cases free : (s.ctx c).buckets = []
  · rw [if_pos (by simp [free])]
    exact ⟨⟨rfl, fun _ _ => rfl, rfl, fun key b found => by simp [free] at found⟩, fun _ => rfl⟩
  · rw [if_neg (by simpa using free)]
    exact ⟨s.spent_modCtx c _, fun e => absurd e free⟩

/-- u is s after the counts of some pages have gone back to their table entries (R258). -/
def CountsReturned (counted : Nat → Prop) (s u : State) : Prop :=
  (∀ k, u.byte k ≠ s.byte k → ∃ pte, counted pte ∧ dramKey pte ≤ k ∧ k < dramKey pte + 8) ∧
    ∀ d, u.ctx d = { s.ctx d with counts := (u.ctx d).counts }

section

variable {counted : Nat → Prop} {s t u : State}

theorem CountsReturned.refl (s : State) : CountsReturned counted s s := ⟨fun _ h => absurd rfl h, fun _ => rfl⟩

theorem CountsReturned.trans (a : CountsReturned counted s t) (b : CountsReturned counted t u) : CountsReturned counted s u := by
  refine ⟨fun k changed => ?_, fun d => by rw [b.2 d, a.2 d]⟩
  by_cases first : t.byte k = s.byte k
  · exact b.1 k (first ▸ changed)
  · exact a.1 k first

theorem State.writeEntry_countsReturned (s : State) (pte : Nat) (mask val : Word) (h : counted pte) :
    CountsReturned counted s (s.writeEntry pte mask val) := by
  refine ⟨fun k changed => ⟨pte, h, ?_⟩, fun d => by unfold State.writeEntry State.ctx; rw [State.setBytes_frame]⟩
  by_contra outside
  refine changed (s.byte_setBytes_outside _ _ _ ?_)
  rw [bytesOf_length]
  omega

theorem State.modCtx_counts_countsReturned (s : State) (c : Nat) (f : Store Nat → Store Nat) :
    CountsReturned counted s (s.modCtx c fun x => { x with counts := f x.counts }) := by
  refine ⟨fun k changed => absurd rfl changed, fun d => ?_⟩
  by_cases same : d = c
  · rw [same, State.ctx_modCtx_same]
  · rw [s.ctx_modCtx_other _ same]

theorem State.writeBack_countsReturned (s : State) (c pte : Nat) (h : counted pte) : CountsReturned counted s (s.writeBack c pte) := by
  unfold State.writeBack
  refine CountsReturned.trans (t := if countedLeaf (BitVec.ofNat 64 (s.load (dramKey pte) 8)) = true then
    s.writeEntry pte countField (BitVec.ofNat 64 (s.pageCount c pte * 2 ^ 41)) else s) ?_ (State.modCtx_counts_countsReturned _ _ _)
  split
  · exact s.writeEntry_countsReturned _ _ _ h
  · exact CountsReturned.refl s

theorem State.writeBack_frame (s : State) (c pte : Nat) :
    s.writeBack c pte = { s with mem := (s.writeBack c pte).mem, ctxs := (s.writeBack c pte).ctxs } := by
  unfold State.writeBack State.modCtx State.setCtx
  split
  · unfold State.writeEntry
    rw [State.setBytes_frame]
  · rfl

/-- The pages whose translations leave have their counts in some set. -/
def CountedIn (counted : Nat → Prop) (l : List Tlb) : Prop := ∀ x ∈ l, countedLeaf x.leaf = true → counted x.pte

theorem State.evict_countsReturned (s : State) (x : Tlb) (h : countedLeaf x.leaf = true → counted x.pte) :
    CountsReturned counted s (s.evict x) := by
  unfold State.evict
  split
  · next leaf => exact s.writeBack_countsReturned _ _ (h leaf)
  · exact CountsReturned.refl s

theorem State.evict_frame (s : State) (x : Tlb) : s.evict x = { s with mem := (s.evict x).mem, ctxs := (s.evict x).ctxs } := by
  unfold State.evict
  split
  · exact s.writeBack_frame _ _
  · rfl

theorem State.evictAll_countsReturned {l : List Tlb} (h : CountedIn counted l) (s : State) :
    CountsReturned counted s (l.foldl State.evict s) := by
  induction l generalizing s with
  | nil => exact CountsReturned.refl s
  | cons x l ih =>
    exact (s.evict_countsReturned x (h x List.mem_cons_self)).trans (ih (fun y hy => h y (List.mem_cons_of_mem _ hy)) _)

theorem State.evictAll_frame (l : List Tlb) (s : State) :
    l.foldl State.evict s = { s with mem := (l.foldl State.evict s).mem, ctxs := (l.foldl State.evict s).ctxs } := by
  induction l generalizing s with
  | nil => rfl
  | cons x l ih =>
    rw [List.foldl_cons, ih, s.evict_frame x]

/-- The caches of some Spires hold only translations of pages whose counts are in some set. -/
def CachesCounted (counted : Nat → Prop) (caches : Store (List Tlb)) : Prop := ∀ l ∈ caches, CountedIn counted l.2

theorem CachesCounted.get {caches : Store (List Tlb)} (h : CachesCounted counted caches) (k : Nat) :
    CountedIn counted (Store.get [] caches k) := by
  rw [Store.get_eq_find]
  cases found : caches.find k with
  | none => exact fun x hx => absurd hx List.not_mem_nil
  | some l => exact h _ (Store.mem_of_find found)

theorem CountedIn.cons {l : List Tlb} {p : Phys} {c : Nat} (h : CountedIn counted l) (hp : countedLeaf p.leaf = true → counted p.pte) :
    CountedIn counted (p.tlb c :: l) := by
  intro x hx
  rcases List.mem_cons.1 hx with rfl | hx
  · exact hp
  · exact h x hx

theorem CachesCounted.set {caches : Store (List Tlb)} (h : CachesCounted counted caches) (k : Nat) {l : List Tlb} (hl : CountedIn counted l) :
    CachesCounted counted (Store.set [] caches k l) := by
  intro y hy
  rcases Store.mem_set hy with rfl | hy
  · exact hl
  · exact h y hy

/-- One translation enters a cache of a Spire. -/
def CacheStep (counted : Nat → Prop) (s u : State) : Prop :=
  u = { s with tlb := u.tlb, mem := u.mem, ctxs := u.ctxs } ∧ CountsReturned counted s u ∧ CachesCounted counted u.tlb

/-- One translation enters a matrix cache. -/
def MatrixStep (counted : Nat → Prop) (s u : State) : Prop :=
  u = { s with mtlb := u.mtlb, mem := u.mem, ctxs := u.ctxs } ∧ CountsReturned counted s u ∧ CachesCounted counted u.mtlb

theorem State.cacheIn_spec {p : Phys} (h : CachesCounted counted s.tlb) (hp : countedLeaf p.leaf = true → counted p.pte) (spire c : Nat) :
    CacheStep counted s (s.cacheIn spire c p) := by
  unfold State.cacheIn
  extract_lets l l'
  have listed : CountedIn counted l' := (h.get spire).cons hp
  split
  · have tlbs : ((l'.drop 2048).foldl State.evict { s with tlb := Store.set [] s.tlb spire (l'.take 2048) }).tlb =
        Store.set [] s.tlb spire (l'.take 2048) := by rw [State.evictAll_frame]
    refine ⟨by rw [State.evictAll_frame], ?_, ?_⟩
    · exact State.evictAll_countsReturned (fun x hx => listed x (List.mem_of_mem_drop hx))
        { s with tlb := Store.set [] s.tlb spire (l'.take 2048) }
    · rw [tlbs]
      exact h.set spire fun x hx => listed x (List.mem_of_mem_take hx)
  · exact ⟨rfl, CountsReturned.refl s, h⟩

theorem State.matrixIn_spec {p : Phys} (h : CachesCounted counted s.mtlb) (hp : countedLeaf p.leaf = true → counted p.pte) (spire c : Nat) :
    MatrixStep counted s (s.matrixIn spire c p) := by
  unfold State.matrixIn
  extract_lets l l'
  have listed : CountedIn counted l' := (h.get spire).cons hp
  split
  · have tlbs : ((l'.drop 512).foldl State.evict { s with mtlb := Store.set [] s.mtlb spire (l'.take 512) }).mtlb =
        Store.set [] s.mtlb spire (l'.take 512) := by rw [State.evictAll_frame]
    refine ⟨by rw [State.evictAll_frame], ?_, ?_⟩
    · exact State.evictAll_countsReturned (fun x hx => listed x (List.mem_of_mem_drop hx))
        { s with mtlb := Store.set [] s.mtlb spire (l'.take 512) }
    · rw [tlbs]
      exact h.set spire fun x hx => listed x (List.mem_of_mem_take hx)
  · exact ⟨rfl, CountsReturned.refl s, h⟩

theorem State.cacheAll_spec {ps : List Phys} (hp : ∀ p ∈ ps, countedLeaf p.leaf = true → counted p.pte) (spire c : Nat) (s : State)
    (h : CachesCounted counted s.tlb) :
    let u := ps.foldl (fun s p => s.cacheIn spire c p) s
    u = { s with tlb := u.tlb, mem := u.mem, ctxs := u.ctxs } ∧ CountsReturned counted s u := by
  induction ps generalizing s with
  | nil => exact ⟨rfl, CountsReturned.refl s⟩
  | cons p ps ih =>
    obtain ⟨frame, counts, caches⟩ := State.cacheIn_spec h (hp p List.mem_cons_self) spire c
    obtain ⟨frame', counts'⟩ := ih (fun q hq => hp q (List.mem_cons_of_mem _ hq)) (s.cacheIn spire c p) caches
    refine ⟨?_, counts.trans counts'⟩
    rw [List.foldl_cons, frame', frame]

theorem State.matrixAll_spec {ps : List Phys} (hp : ∀ p ∈ ps, countedLeaf p.leaf = true → counted p.pte) (spire c : Nat) (s : State)
    (h : CachesCounted counted s.mtlb) :
    let u := ps.foldl (fun s p => s.matrixIn spire c p) s
    u = { s with mtlb := u.mtlb, mem := u.mem, ctxs := u.ctxs } ∧ CountsReturned counted s u := by
  induction ps generalizing s with
  | nil => exact ⟨rfl, CountsReturned.refl s⟩
  | cons p ps ih =>
    obtain ⟨frame, counts, caches⟩ := State.matrixIn_spec h (hp p List.mem_cons_self) spire c
    obtain ⟨frame', counts'⟩ := ih (fun q hq => hp q (List.mem_cons_of_mem _ hq)) (s.matrixIn spire c p) caches
    refine ⟨?_, counts.trans counts'⟩
    rw [List.foldl_cons, frame', frame]

end

/-- The translations of an access enter a Spire's cache (R250). -/
theorem State.cacheAll_cached (s : State) (spire c : Nat) (ps : List Phys) : Cached s ps (s.cacheAll spire c ps) :=
  State.cacheAll_spec (fun p hp leaf => .inr ⟨p, hp, rfl, leaf⟩) spire c s fun l hl x hx leaf => .inl ⟨l, hl, x, hx, rfl, leaf⟩

/-- The translations of an array's access enter its matrix cache (R250). -/
theorem State.matrixAll_cached (s : State) (spire c : Nat) (ps : List Phys) :
    MatrixCached s ps (ps.foldl (fun s p => s.matrixIn spire c p) s) :=
  State.matrixAll_spec (fun p hp leaf => .inr ⟨p, hp, rfl, leaf⟩) spire c s fun l hl x hx leaf => .inl ⟨l, hl, x, hx, rfl, leaf⟩

/-- An access of a Spire goes out (R99, R250). -/
theorem State.access_accessed (s : State) (spire c : Nat) (ps : List Phys) : AccessedFrom s spire c ps (s.access spire c ps) :=
  ⟨_, s.cacheAll_cached spire c ps, State.charge_charged _ _ _⟩

/-- An access of the matrix arrays of a Spire goes out (R99, R250). -/
theorem State.matrixAccess_accessed (s : State) (spire c : Nat) (ps : List Phys) :
    ∃ v, MatrixCached s ps v ∧ Charged v c (accessPorts spire ps) (s.matrixAccess spire c ps) :=
  ⟨_, s.matrixAll_cached spire c ps, State.charge_charged _ _ _⟩

/-- What an access of a Spire leaves as it was. -/
theorem State.access_frame (s : State) (spire c : Nat) (ps : List Phys) :
    let u := s.access spire c ps
    u = { s with tlb := u.tlb, mem := u.mem, ctxs := u.ctxs } := by
  obtain ⟨v, ⟨cached, -⟩, ⟨charged, -, -, -⟩, -⟩ := s.access_accessed spire c ps
  intro u
  change u = _ at charged
  rw [charged, cached]

/-- What an access of the matrix arrays leaves as it was. -/
theorem State.matrixAccess_frame (s : State) (spire c : Nat) (ps : List Phys) :
    let u := s.matrixAccess spire c ps
    u = { s with mtlb := u.mtlb, mem := u.mem, ctxs := u.ctxs } := by
  obtain ⟨v, ⟨cached, -⟩, ⟨charged, -, -, -⟩, -⟩ := s.matrixAccess_accessed spire c ps
  intro u
  change u = _ at charged
  rw [charged, cached]

theorem State.countAll_countsOnly (s : State) (c : Nat) (ps : List Phys) : CountsOnly s (s.countAll c ps) := by
  have fold (l : List Nat) (qs : List Phys) (s : State) : CountsOnly s (l.foldl (fun s pte => match qs.find? (·.pte == pte) with
      | some p => s.countPage c pte p.vbase
      | none => s) s) := by
    induction l generalizing s with
    | nil => rfl
    | cons pte l ih =>
      refine CountsOnly.trans ?_ (ih _)
      dsimp only
      split
      · exact s.countPage_countsOnly _ _ _
      · rfl
  exact fold _ _ s

/-- An access to no counted page counts none (R258). -/
theorem State.countAll_of_uncounted (s : State) (c : Nat) {ps : List Phys} (h : ∀ p ∈ ps, p.counted = false) : s.countAll c ps = s := by
  unfold State.countAll
  rw [List.filter_eq_nil_iff.2 (by simpa using h)]
  rfl

end Sys2Proof.Machine
end

section
/-! What a vector instruction leaves when it writes the codes of its active elements (R40, R62, R64, R188). -/

namespace Sys2Proof.Machine

theorem bitOf_eq_testBit (m i : Nat) : bitOf m i = m.testBit i := by
  unfold bitOf
  rw [Nat.testBit_eq_decide_div_mod_eq, beq_eq_decide]

theorem bitOf_zero (m : Nat) : bitOf m 0 = decide (m % 2 = 1) := by simp [bitOf, beq_eq_decide]

theorem bitOf_succ (m i : Nat) : bitOf m (i + 1) = bitOf (m / 2) i := by
  simp only [bitOf_eq_testBit, Nat.testBit_succ]

/-- The active elements below n as bits (R186). -/
theorem Arch.bitOf_active (a : Arch) (m : BitVec 4) (n i : Nat) : bitOf (a.active m n) i = (decide (i < n) && maskOn a m i) := by
  unfold Arch.active Arch.mask maskOn
  rw [bitOf_eq_testBit, Nat.testBit_mod_two_pow]
  by_cases zero : m = 0
  · subst zero
    simp [Nat.testBit_two_pow_sub_one]
  · have : ¬m.toNat = 0 := fun e => zero (BitVec.eq_of_toNat_eq (by simpa using e))
    have zero : (m == 0) = false := beq_eq_false_iff_ne.2 zero
    rw [if_neg this, zero, Bool.false_or]

section

variable {β : Type} (f : β → Fl Nat)

theorem length_onActive (act : Nat) (l : List β) : (onActive act f l).val.length = l.length := by
  induction l generalizing act with
  | nil => rfl
  | cons b t ih => unfold onActive; split <;> simp [ih]

/-- The code of an element under a mask: that of an active one, and none for another. -/
theorem onActive_getElem? (act : Nat) (l : List β) (i : Nat) :
    (onActive act f l).val[i]? = l[i]?.map fun b => if bitOf act i then some (f b).val else none := by
  induction l generalizing act i with
  | nil => rfl
  | cons b t ih =>
    cases i with
    | zero => unfold onActive; split <;> simp [bitOf_zero, *]
    | succ i => unfold onActive; split <;> simp [ih, bitOf_succ]

/-- The flags of a result are those of its active elements. -/
theorem onActive_flags (act : Nat) (l : List β) (d : β) (k : Nat) :
    (onActive act f l).flags.getLsbD k = (List.range l.length).any fun i => bitOf act i && (f (l.getD i d)).flags.getLsbD k := by
  induction l generalizing act with
  | nil => simp [onActive, Fl.pure]
  | cons b t ih =>
    rw [List.length_cons, List.range_succ_eq_map, List.any_cons, List.any_map]
    have rest : ((List.range t.length).any ((fun i => bitOf act i && (f ((b :: t).getD i d)).flags.getLsbD k) ∘ Nat.succ)) =
        (onActive (act / 2) f t).flags.getLsbD k := by
      rw [ih]
      simp only [Function.comp_def, Nat.succ_eq_add_one, bitOf_succ, List.getD_cons_succ]
    rw [rest, onActive]
    split <;> simp [bitOf_zero, *]

end

/-- An element of a register's number after some codes are written (R40). -/
theorem mergeCodes_element (w old : Nat) (l : List (Option Nat)) (i : Nat) :
    mergeCodes w old l / 2 ^ (w * i) % 2 ^ w = (l.getD i none).getD (old / 2 ^ (w * i)) % 2 ^ w := by
  induction l generalizing old i with
  | nil => simp [mergeCodes]
  | cons c t ih =>
    have pos : 0 < 2 ^ w := Nat.two_pow_pos w
    cases i with
    | zero => simp [mergeCodes]
    | succ i =>
      have next : mergeCodes w old (c :: t) / 2 ^ w = mergeCodes w (old / 2 ^ w) t := by
        rw [mergeCodes, Nat.add_mul_div_left _ _ pos, Nat.div_eq_of_lt (Nat.mod_lt _ pos), Nat.zero_add]
      rw [show w * (i + 1) = w + w * i by ring, Nat.pow_add, ← Nat.div_div_eq_div_mul, next, ih, ← Nat.div_div_eq_div_mul]
      simp

/-- A code as an element of tag t keeps it (R58). -/
theorem cleanCode_mod (t : Tag) (c : Nat) : cleanCode t c % 2 ^ t.bits = c % 2 ^ t.memBits := by
  unfold cleanCode Tag.memBits
  by_cases six : t = .t6
  · subst six
    simp only [if_true, Tag.bits]
    omega
  · rw [if_neg six, if_neg six]

/-- The operands that an instruction reads are judged together (R62). -/
theorem Arch.judge_one (a : Arch) (v : Vals) : a.judge [v] = match v.rsv with
    | none => .ok (0 ||| v.flags)
    | some i => if a.hctl.getLsbD 0 then .error (.plain 24 i) else .ok (0 ||| v.flags ||| .rsv) := by
  obtain ⟨xs, flags, rsv⟩ := v
  cases rsv <;> rfl

/-- The flags of one operand that passes its judgement. -/
theorem Arch.judge_flags {a : Arch} {v : Vals} {fl : Flags} (h : a.judge [v] = .ok fl) (k : Nat) :
    fl.getLsbD k = (v.flags.getLsbD k || (k == 6 && v.rsv.isSome)) := by
  have six : Flags.rsv.getLsbD k = (k == 6) := by
    unfold Flags.rsv
    rcases Nat.lt_or_ge k 7 with low | high
    · interval_cases k <;> rfl
    · rw [BitVec.getLsbD_of_ge _ _ high, eq_comm, beq_eq_false_iff_ne]
      omega
  rw [Arch.judge_one] at h
  cases hr : v.rsv with
  | none =>
    rw [hr] at h
    obtain rfl := Except.ok.inj h
    simp
  | some i =>
    rw [hr] at h
    dsimp only at h
    split at h
    · cases h
    · obtain rfl := Except.ok.inj h
      simp [six]

/-- An operand passes its judgement unless it has a reserved code and HCTL.EEN is 1 (R62). -/
theorem Arch.judge_ok {a : Arch} {v : Vals} (h : v.rsv = none ∨ a.hctl.getLsbD 0 = false) : ∃ fl, a.judge [v] = .ok fl := by
  rw [Arch.judge_one]
  rcases h with h | h
  · rw [h]; exact ⟨_, rfl⟩
  · cases v.rsv with
    | none => exact ⟨_, rfl⟩
    | some i => exact ⟨_, if_neg (by rw [h]; exact Bool.false_ne_true)⟩

theorem Arch.judge_traps {a : Arch} {v : Vals} {e : Nat} (h : v.rsv = some e) (enabled : a.hctl.getLsbD 0 = true) :
    a.judge [v] = .error (plainCause 24 e) := by
  rw [Arch.judge_one, h]
  exact if_pos enabled

theorem Vals.at_eq (v : Vals) (i : Nat) : v.at i = v.xs.getD i .zero := rfl

/-- The work of a vector instruction that writes one register from one operand. -/
def oneResult (a : Arch) (m : BitVec 4) (n : Nat) (v : Vals) (r : Nat) (t : Tag) (dom : Nat) (code : Num → Fl Nat) : VectorWork :=
  ⟨n, maskOn a m, [v], true, fun _ => 0, [(r, t, dom, fun e => code (v.at e))], none, none⟩

theorem oneResult_reserved (a : Arch) (m : BitVec 4) (n : Nat) (v : Vals) (r : Nat) (t : Tag) (dom : Nat) (code : Num → Fl Nat) :
    (oneResult a m n v r t dom code).reserved = v.rsv := by
  unfold VectorWork.reserved oneResult
  cases h : v.rsv <;> simp [h]

/-- A register is written with the codes of the active elements of one operand, and its flags are raised (R40, R62, R64, R188). -/
theorem Arch.put_leaves {a : Arch} {v : Vals} {fl : Flags} {n : Nat} (judged : a.judge [v] = .ok fl) (full : v.xs.length = n)
    (m : BitVec 4) (r : Nat) (t : Tag) (dom : Nat) (code : Num → Fl Nat) :
    (oneResult a m n v r t dom code).Leaves a (a.put r t dom fl (onActive (a.active m n) code v.xs)) := by
  have elements (i : Nat) : rawCode (a.put r t dom fl (onActive (a.active m n) code v.xs)) r t.bits i =
      if i < n ∧ maskOn a m i = true then (code (v.at i)).val % 2 ^ t.memBits else rawCode a r t.bits i := by
    have codes : (((onActive (a.active m n) code v.xs).val.map fun c => c.map (cleanCode t)).getD i none) =
        if i < n ∧ maskOn a m i = true then some (cleanCode t (code (v.at i)).val) else none := by
      rw [List.getD_eq_getElem?_getD, List.getElem?_map, onActive_getElem?, Arch.bitOf_active, Vals.at_eq, List.getD_eq_getElem?_getD]
      by_cases inside : i < n
      · obtain ⟨x, hx⟩ : ∃ x, v.xs[i]? = some x := ⟨_, List.getElem?_eq_getElem (full ▸ inside)⟩
        rw [hx]
        by_cases on : maskOn a m i = true <;> simp [inside, on]
      · rw [List.getElem?_eq_none (by omega)]
        simp [inside]
    unfold rawCode
    rw [show (a.put r t dom fl (onActive (a.active m n) code v.xs)).v = Store.set 0 a.v r (mergeCodes t.bits (Store.get 0 a.v r)
      ((onActive (a.active m n) code v.xs).val.map fun c => c.map (cleanCode t))) from rfl, Store.get_set_same, mergeCodes_element, codes]
    split
    · exact cleanCode_mod _ _
    · rfl
  have flags (k : Nat) : (a.put r t dom fl (onActive (a.active m n) code v.xs)).fflags.getLsbD k =
      (a.fflags.getLsbD k || (fl.getLsbD k || (List.range n).any fun i => maskOn a m i && (code (v.at i)).flags.getLsbD k)) := by
    have active : ((List.range n).any fun i => bitOf (a.active m n) i && (code (v.at i)).flags.getLsbD k) =
        (List.range n).any fun i => maskOn a m i && (code (v.at i)).flags.getLsbD k := by
      rw [Bool.eq_iff_iff, List.any_eq_true, List.any_eq_true]
      refine exists_congr fun i => and_congr_right fun hi => ?_
      rw [Arch.bitOf_active, decide_eq_true (List.mem_range.1 hi), Bool.true_and]
    have raised : (onActive (a.active m n) code v.xs).flags.getLsbD k =
        (List.range n).any fun i => maskOn a m i && (code (v.at i)).flags.getLsbD k := by
      rw [onActive_flags _ _ _ .zero, full]
      exact active
    rw [← raised, ← BitVec.getLsbD_or]
    change (a.fflags ||| (fl ||| (onActive (a.active m n) code v.xs).flags).setWidth 32).getLsbD k = _
    rw [BitVec.getLsbD_or, BitVec.getLsbD_setWidth]
    by_cases low : k < 32
    · simp [low]
    · rw [BitVec.getLsbD_of_ge (fl ||| _) k (by omega)]
      simp
  refine ⟨rfl, fun j other => ?_, fun d hd => ?_, fun k => ?_, fun _ => rfl, fun _ _ h => ?_, fun _ => rfl, fun _ _ h => ?_⟩
  · have other : j ≠ r := by simpa [oneResult] using other
    exact ⟨Store.get_set_other _ _ _ other, Store.get_set_other _ _ _ other, Store.get_set_other _ _ _ other⟩
  · obtain rfl := List.mem_singleton.1 hd
    exact ⟨Store.get_set_same _ _ _ _, elements⟩
  · rw [oneResult_reserved, flags, Arch.judge_flags judged]
    simp [oneResult, Bool.or_assoc]
  · cases h
  · cases h

end Sys2Proof.Machine
end

section
/-! Streams: the declaration, a fetch by the DAU, and a load of the next elements (R129, R231 to R233). -/

namespace Sys2Proof.Machine

section

variable {s : State} {x : Stream} {g : Group} {spire : Nat}

/-- The tag of a stream's elements in memory. -/
def Stream.tag (x : Stream) : Tag := (Tag.ofCode (x.fmt.toNat % 16)).getD .i8

/-- Codes lie packed six bits apart in a unit-stride stream of t6 (R223). -/
theorem Stream.packed_iff (x : Stream) : x.plan.packed = true ↔ x.unit = true ∧ x.tag = .t6 := by
  unfold Plan.packed
  rw [Bool.and_eq_true, beq_iff_eq]
  rfl

theorem streamPlace_eq (x : Stream) (i : Nat) : streamPlace x i = if x.unit = true ∧ x.tag = .t6 then
    (⟨i, x.base + BitVec.ofNat 64 (6 * i / 8), (6 * i % 8 + 13) / 8⟩, 6 * i % 8)
    else (⟨i, x.base + BitVec.ofInt 64 (i * x.stride), x.tag.bytes⟩, 0) := rfl

/-- A stream's element is where its place says (R223, R231). -/
theorem Stream.touchAt_eq (x : Stream) (i : Nat) : touchAt x.plan i 0 = ⟨0, (streamPlace x i).2, (streamPlace x i).1⟩ := by
  rw [streamPlace_eq]
  unfold touchAt
  by_cases six : x.unit = true ∧ x.tag = .t6
  · rw [if_pos six, if_pos (x.packed_iff.2 six)]
    rfl
  · rw [if_neg six, if_neg fun e => six (x.packed_iff.1 e)]
    change (⟨0, 0, i, x.base + BitVec.ofInt 64 (i * x.stride + (0 : Nat) * _), _⟩ : Touch) = _
    rw [Nat.cast_zero, Int.zero_mul, Int.add_zero]
    rfl

theorem Stream.alignment_eq (x : Stream) :
    x.plan.alignment = if x.unit = true ∧ x.tag = .t6 then 0 else min x.tag.bytes 8 := by
  unfold Plan.alignment
  simp only [x.packed_iff]
  rfl

/-- What the DAU keeps of an element is its code and level, or nothing where it faults (R226, R233, R322). -/
theorem State.streamElem_code (s : State) (x : Stream) (g : Group) (spire i : Nat) :
    (s.streamElem x g spire i).1.toOption = streamCode s x g spire i := by
  unfold State.streamElem streamCode
  dsimp only
  rw [x.touchAt_eq, x.alignment_eq]
  change _ = match s.placeElem g spire x.space (if x.unit = true ∧ x.tag = .t6 then 0 else min x.tag.bytes 8) false (streamPlace x i).1 with
    | .error _ => none
    | .ok q => _
  change Except.toOption (Prod.fst (match s.placeElem g spire x.space (if x.unit = true ∧ x.tag = .t6 then 0 else min x.tag.bytes 8) false (streamPlace x i).1 with
    | .error c => _
    | .ok q => _)) = _
  cases s.placeElem g spire x.space (if x.unit = true ∧ x.tag = .t6 then 0 else min x.tag.bytes 8) false (streamPlace x i).1 with
  | error c => rfl
  | ok q =>
    dsimp only
    have mixed (l : Nat) : (q.phys.any fun y => tagLevel (s.granule y.key) != l) = !q.phys.all fun y => tagLevel (s.granule y.key) == l := by
      rw [List.not_all_eq_any_not]
      rfl
    rw [mixed]
    cases q.phys.all _ <;> simp [Except.toOption, touchCode] <;> rfl

/-- The stream's elements from the next on that the module may fetch at once. -/
theorem State.fetchList_eq (s : State) (spire : Nat) (x : Stream) : s.fetchList spire x =
    if x.next < x.len ∧ (x.next < x.want ∨ (x.next - x.taken) * x.tag.bytes < s.bufferShare spire) then
      ((List.range (min 1024 (x.len - x.next))).map (x.next + ·)).takeWhile fun j =>
        (streamPlace x j).1.addr.toNat / 1024 == (streamPlace x x.next).1.addr.toNat / 1024
    else [] := by
  unfold State.fetchList
  simp only [x.touchAt_eq]
  change (if x.len ≤ x.next then [] else if (decide (s.bufferShare spire ≤ (x.next - x.taken) * x.tag.bytes) && decide (x.want ≤ x.next)) = true then []
    else _) = _
  simp only [Bool.and_eq_true, decide_eq_true_iff]
  by_cases past : x.len ≤ x.next
  · rw [if_pos past, if_neg (by omega)]
  · rw [if_neg past]
    by_cases full : s.bufferShare spire ≤ (x.next - x.taken) * x.tag.bytes ∧ x.want ≤ x.next
    · rw [if_pos full, if_neg (by omega)]
    · rw [if_neg full, if_pos (by omega)]

theorem State.fetchList_ne_nil (s : State) (spire : Nat) (x : Stream) : s.fetchList spire x ≠ [] ↔
    x.next < x.len ∧ (x.next < x.want ∨ (x.next - x.taken) * x.tag.bytes < s.bufferShare spire) := by
  rw [s.fetchList_eq]
  split
  · next go =>
    refine iff_of_true ?_ go
    obtain ⟨n, hn⟩ : ∃ n, min 1024 (x.len - x.next) = n + 1 := ⟨min 1024 (x.len - x.next) - 1, by omega⟩
    rw [hn, List.range_succ_eq_map, List.map_cons, List.takeWhile_cons]
    simp
  · next stop => exact iff_of_false (fun h => h rfl) stop

theorem State.fetchList_range (s : State) (spire : Nat) (x : Stream) :
    s.fetchList spire x = (List.range (s.fetchList spire x).length).map (x.next + ·) := by
  have head : s.fetchList spire x <+: (List.range (min 1024 (x.len - x.next))).map (x.next + ·) := by
    rw [s.fetchList_eq]
    split
    · exact List.takeWhile_prefix _
    · exact List.nil_prefix
  have short := head.length_le
  rw [List.length_map, List.length_range] at short
  conv_lhs => rw [List.prefix_iff_eq_take.1 head]
  rw [← List.map_take, List.take_range, Nat.min_eq_left short]

theorem State.mem_fetchList {i : Nat} (h : i ∈ s.fetchList spire x) :
    i < x.len ∧ (streamPlace x i).1.addr.toNat / 1024 = (streamPlace x x.next).1.addr.toNat / 1024 := by
  rw [s.fetchList_eq] at h
  split at h
  · obtain ⟨j, hj, rfl⟩ := List.mem_map.1 ((List.takeWhile_prefix _).subset h)
    have := List.mem_range.1 hj
    exact ⟨by omega, by simpa using List.mem_takeWhile_imp h⟩
  · cases h

/-- A hart waits neither for a ticket nor for a link's answer (R276, R287). -/
def NoAccess (h : Hart) : Prop :=
  (∀ a b c d e, h.pending ≠ some (.ticket a b c d e)) ∧ ∀ a b c d, h.pending ≠ some (.remote a b c d)

theorem State.accessing_of_hart {k : Nat} {h : Hart} (hk : s.hart k = some h) : s.accessing (some k) = false ↔ NoAccess h := by
  unfold State.accessing NoAccess
  rw [Option.bind_some, hk]
  dsimp only
  split
  · next e => exact iff_of_false Bool.noConfusion fun n => n.1 _ _ _ _ _ e
  · next e => exact iff_of_false Bool.noConfusion fun n => n.2 _ _ _ _ e
  · next ticket link => exact iff_of_true rfl ⟨ticket, link⟩

theorem State.accessing_eq_false_iff (s : State) (k : Option Nat) :
    s.accessing k = false ↔ ∀ j h, k = some j → s.hart j = some h → NoAccess h := by
  cases k with
  | none => exact iff_of_true rfl fun j h e => absurd e.symm (Option.some_ne_none j)
  | some k =>
    cases hk : s.hart k with
    | none =>
      refine iff_of_true (by unfold State.accessing; rw [Option.bind_some, hk]) fun j h e hj => ?_
      rw [← Option.some.inj e, hk] at hj
      cases hj
    | some h =>
      rw [State.accessing_of_hart hk]
      refine ⟨fun idle j x e hx => ?_, fun idle => idle k h rfl hk⟩
      rw [← Option.some.inj e, hk] at hx
      exact Option.some.inj hx ▸ idle

/-- Nothing stands before an access of a hart's engine (R276, R280, R287, R288). -/
theorem State.clear_iff (s : State) (gid idx : Nat) (cls : BitVec 4) (ps : List Phys) :
    s.clear ((s.member gid idx).map (·.1)) cls (linksOf ps) = true ↔ NothingBefore s gid idx cls fun m => ∃ p ∈ ps, p.link = some m := by
  have owner (j : Nat) : (s.member gid idx).map (·.1) = some j ↔ ∃ z, s.member gid idx = some (j, z) := by
    cases s.member gid idx <;> simp [Prod.ext_iff]
  unfold State.clear NothingBefore
  rw [Bool.and_eq_true, Bool.not_eq_true', Bool.not_eq_true', s.accessing_eq_false_iff, and_comm, List.any_eq_false]
  refine and_congr (forall₂_congr fun q _ => ?_) ?_
  · have on : (match q.link with | some l => (linksOf ps).contains l | none => false) = true ↔ ∃ l, q.link = some l ∧ ∃ p ∈ ps, p.link = some l := by
      cases q.link <;> simp [mem_linksOf]
    rw [Bool.and_eq_true, not_and]
    refine imp_congr_right fun _ => ?_
    rw [Bool.or_eq_true, not_or, Bool.and_eq_true, beq_iff_eq, beq_iff_eq]
    refine and_congr ((not_congr on).trans (by simp only [not_exists, not_and])) ?_
    rw [eq_comm (a := some q.hart), owner]
    simp only [not_and, forall_exists_index, ne_eq]
    exact ⟨fun h j z hz e => h z (e ▸ hz), fun h z hz => h _ z hz rfl⟩
  · simp only [owner, forall_exists_index]
    exact ⟨fun h j z x hz hx => h j x z hz hx, fun h j x z hz hx => h j z x hz hx⟩

/-- The links that places cross carry their requests. -/
theorem State.linksUp_iff (s : State) (ps : List Phys) :
    (linksOf ps).all s.linkUp = true ↔ ∀ p ∈ ps, ∀ m, p.link = some m → s.linkUp m = true := by
  simp only [List.all_eq_true, mem_linksOf, forall_exists_index, and_imp]
  exact ⟨fun h p hp m e => h m p hp e, fun h m p hp e => h p hp m e⟩

/-- The stream after some elements have been fetched: what the consumer has left behind in whole lines is dropped (R231). -/
def Stream.extend (x : Stream) (l : List (Option (Nat × Nat))) : Stream :=
  { x with first := max x.first (x.taken / 128 * 128), fetched := (x.fetched ++ l).drop (x.taken / 128 * 128 - x.first) }

/-- Stream buffer key takes x. -/
def State.setStream (s : State) (key : Nat) (x : Stream) : State := { s with streams := Store.insert s.streams key x }

theorem State.streamOnly_setStream (s : State) (spire n : Nat) (x : Stream) : StreamOnly s spire n x (s.setStream (8 * spire + n) x) :=
  ⟨Store.find_insert_same _ _ _, fun _ other => Store.find_insert_other _ _ other, rfl⟩

theorem Stream.extend_next {l : List (Option (Nat × Nat))} (taken : x.taken ≤ x.next) : (x.extend l).next = x.next + l.length := by
  unfold Stream.next at *
  simp only [Stream.extend, List.length_drop, List.length_append]
  omega

theorem Stream.extend_first (x : Stream) (l : List (Option (Nat × Nat))) : (x.extend l).first ≤ max x.first x.taken := by
  simp only [Stream.extend]
  omega

/-- An element at or above the first kept one stands where it stood. -/
theorem Stream.extend_getD {l : List (Option (Nat × Nat))} {i : Nat} (kept : (x.extend l).first ≤ i) :
    (x.extend l).fetched.getD (i - (x.extend l).first) none = (x.fetched ++ l).getD (i - x.first) none := by
  simp only [Stream.extend] at *
  rw [List.getD_eq_getElem?_getD, List.getD_eq_getElem?_getD, List.getElem?_drop]
  congr 2
  omega

theorem Stream.extend_old {l : List (Option (Nat × Nat))} {i : Nat} (kept : (x.extend l).first ≤ i) (old : i < x.next) :
    (x.extend l).fetched.getD (i - (x.extend l).first) none = x.fetched.getD (i - x.first) none := by
  have first : x.first ≤ (x.extend l).first := by simp only [Stream.extend]; omega
  rw [Stream.extend_getD kept]
  unfold Stream.next at old
  exact List.getD_append _ _ _ _ (by omega)

theorem Stream.extend_new {l : List (Option (Nat × Nat))} {m : Nat} (taken : x.taken ≤ x.next) :
    (x.extend l).fetched.getD (x.next + m - (x.extend l).first) none = l.getD m none := by
  have first := x.extend_first l
  unfold Stream.next at *
  rw [Stream.extend_getD (by omega), List.getD_append_right _ _ _ _ (by omega)]
  congr 1
  omega

/-- What a fetch of a stream leaves. -/
def State.afterFetch (s : State) (spire n : Nat) (x : Stream) (g : Group) (ps : List Phys) (l : List (Option (Nat × Nat))) : State :=
  (((s.access spire g.ctx ps).countAll g.ctx ps).chargeBeat x.gid x.owner n x.next).setStream (8 * spire + n) (x.extend l)

theorem execDauFetch_of {n : Nat} (hx : s.streams.find (8 * spire + n) = some x) (hg : s.group x.gid = some g) :
    let l := (s.fetchList spire x).map fun i => s.streamElem x g spire i
    let ps := l.flatMap (·.2)
    execDauFetch spire n s = .next (
      if l.isEmpty || !s.dieRuns spire || !s.clear ((s.member x.gid x.owner).map (·.1)) x.cls (linksOf ps) || !(linksOf ps).all s.linkUp ||
          s.portWait g.ctx (accessPorts spire ps) then s
      else s.afterFetch spire n x g ps (l.map fun e => e.1.toOption)) := by
  intro l ps
  have kept (e : Except Cause (Nat × Nat) × List Phys) : (match e.1 with | .ok c => some c | .error _ => none) = e.1.toOption := by
    obtain ⟨r, q⟩ := e
    cases r <;> rfl
  unfold execDauFetch engineKey
  rw [hx]
  dsimp -zeta only
  rw [hg]
  dsimp -zeta only
  rw [← funext kept]
  rfl

theorem State.chargeBeat_frame (s : State) (gid idx n item : Nat) :
    s.chargeBeat gid idx n item =
      { s with harts := (s.chargeBeat gid idx n item).harts, pipeWork := (s.chargeBeat gid idx n item).pipeWork } := by
  unfold State.chargeBeat
  split <;> rfl

theorem State.chargeBeat_ctxs (s : State) (gid idx n item : Nat) : (s.chargeBeat gid idx n item).ctxs = s.ctxs := by
  rw [State.chargeBeat_frame]

theorem State.chargeBeat_mem (s : State) (gid idx n item : Nat) : (s.chargeBeat gid idx n item).mem = s.mem := by
  rw [State.chargeBeat_frame]

/-- A fetch costs its owner one element-beat (R129). -/
theorem State.hart_chargeBeat_owner {gid idx j : Nat} {z : Hart} (n item : Nat) (owner : s.member gid idx = some (j, z))
    (hj : s.hart j = some z) : (s.chargeBeat gid idx n item).hart j = some { z with hbeat := z.hbeat + 1 } := by
  unfold State.chargeBeat
  rw [owner]
  refine (Store.find_modify_same _ _ _).trans ?_
  change (s.hart j).map _ = _
  rw [hj]
  rfl

theorem State.hart_chargeBeat_other {gid idx j : Nat} (n item : Nat) (other : ∀ z, s.member gid idx ≠ some (j, z)) :
    (s.chargeBeat gid idx n item).hart j = s.hart j := by
  unfold State.chargeBeat
  split
  · next k z owner =>
    have ne : j ≠ k := by
      rintro rfl
      exact other z owner
    exact Store.find_modify_other _ _ ne
  · rfl

theorem State.access_countAll_harts (s : State) (spire c : Nat) (ps : List Phys) : ((s.access spire c ps).countAll c ps).harts = s.harts := by
  rw [(State.countAll_countsOnly _ _ _).harts, s.access_frame]

theorem State.access_countAll_streams (s : State) (spire c : Nat) (ps : List Phys) :
    ((s.access spire c ps).countAll c ps).streams = s.streams := by
  rw [State.countAll_countsOnly, s.access_frame]

/-- What a fetch by the DAU leaves as it was, beside the stream itself. -/
theorem State.afterFetch_spec (s : State) (n : Nat) (x : Stream) (g : Group) (ps : List Phys) (l : List (Option (Nat × Nat))) :
    let t := s.afterFetch spire n x g ps l
    t.streams.find (8 * spire + n) = some (x.extend l) ∧ (∀ j, j ≠ 8 * spire + n → t.streams.find j = s.streams.find j) ∧
      (∀ j z, s.member x.gid x.owner = some (j, z) → s.hart j = some z → t.hart j = some { z with hbeat := z.hbeat + 1 }) ∧
      (∀ j, (∀ z, s.member x.gid x.owner ≠ some (j, z)) → t.hart j = s.hart j) ∧
      ((∀ p ∈ ps, p.counted = false) → t.ctxs = (s.access spire g.ctx ps).ctxs ∧ ∀ j, t.byte j = (s.access spire g.ctx ps).byte j) := by
  intro t
  have harts := s.access_countAll_harts spire g.ctx ps
  have member : ((s.access spire g.ctx ps).countAll g.ctx ps).member x.gid x.owner = s.member x.gid x.owner := by
    unfold State.member
    rw [harts]
  have hart (j : Nat) : ((s.access spire g.ctx ps).countAll g.ctx ps).hart j = s.hart j := by
    unfold State.hart
    rw [harts]
  refine ⟨Store.find_insert_same _ _ _, fun j other => ?_, fun j z owner hj => ?_, fun j other => ?_, fun uncounted => ?_⟩
  · refine (Store.find_insert_other _ _ other).trans ?_
    rw [State.chargeBeat_frame, State.access_countAll_streams]
  · exact State.hart_chargeBeat_owner n x.next (member.trans owner) ((hart j).trans hj)
  · exact (State.hart_chargeBeat_other n x.next (by rwa [member])).trans (hart j)
  · have free : (s.access spire g.ctx ps).countAll g.ctx ps = s.access spire g.ctx ps := State.countAll_of_uncounted _ _ uncounted
    refine ⟨?_, fun j => ?_⟩
    · refine (State.chargeBeat_ctxs _ _ _ _ _).trans ?_
      rw [free]
    · change Store.get _ (State.chargeBeat _ _ _ _ _).mem j = Store.get _ (s.access spire g.ctx ps).mem j
      rw [State.chargeBeat_mem, free]

/-- The elements of a declared stream below n are there for a consumer. -/
theorem State.streamAt_fetched {i : Nat} {c : Nat × Nat} (kept : x.first ≤ i) (fetched : x.fetched.getD (i - x.first) none = some c) :
    s.streamAt x g spire i = .ok c := by
  unfold State.streamAt
  rw [if_pos kept, fetched]

theorem decodeStored_getElem? (t : Tag) (rep : Nat → Bool) (k : Nat) (l : List (Option Nat)) (i : Nat) :
    (decodeStored t rep k l).1[i]? = l[i]?.map fun c => c.elim .zero fun c => (decodeNum t 0 c).getD .zero := by
  induction l generalizing k i with
  | nil => rfl
  | cons c l ih =>
    unfold decodeStored
    cases i with
    | zero =>
      cases c with
      | none => rfl
      | some c => cases h : decodeNum t 0 c <;> simp [h]
    | succ i =>
      cases c with
      | none => simpa using ih (k + 1) i
      | some c => cases h : decodeNum t 0 c <;> simpa [h] using ih (k + 1) i

/-- A load at the level of its elements scales their decoded codes by the format's bias (R221). -/
theorem convIn_getElem? (p : Plan) (lm rep : Nat) (cs : List (Option Nat)) (i : Nat) :
    (convIn p lm lm rep cs).xs[i]? = cs[i]?.map fun c => c.elim .zero fun c => ((decodeNum p.fmt 0 c).getD .zero).scale p.bias := by
  unfold convIn
  dsimp only
  rw [if_pos rfl, List.getElem?_map, List.zip, List.getElem?_zipWith, decodeStored_getElem?]
  rcases cs[i]? with _ | _ | c <;> rfl

theorem length_decodeStored (t : Tag) (rep : Nat → Bool) (k : Nat) (l : List (Option Nat)) : (decodeStored t rep k l).1.length = l.length := by
  induction l generalizing k with
  | nil => rfl
  | cons c l ih =>
    unfold decodeStored
    cases c with
    | none => simp [ih]
    | some c => cases h : decodeNum t 0 c <;> simp [h, ih]

theorem lowBit_eq_none_iff (act n : Nat) : lowBit act n = none ↔ ∀ i, i < n → bitOf act i = false := by
  unfold lowBit
  simp [List.find?_eq_none]

theorem lowBit_eq_some {act n i : Nat} (h : lowBit act n = some i) : i < n ∧ bitOf act i = true := by
  unfold lowBit at h
  exact ⟨List.mem_range.1 (List.mem_of_find?_eq_some h), List.find?_some h⟩

theorem bitOf_mod_two_pow (act n i : Nat) : bitOf (act % 2 ^ n) i = (decide (i < n) && bitOf act i) := by
  rw [bitOf_eq_testBit, Nat.testBit_mod_two_pow, bitOf_eq_testBit]

theorem length_padded (l : List Num) {avail n : Nat} (h : avail ≤ n) :
    (l.take avail ++ List.replicate (n - (l.take avail).length) Num.zero).length = n := by
  have := (List.length_take_le avail l).trans h
  rw [List.length_append, List.length_replicate]
  omega

theorem getD_replicate_zero (n e : Nat) : (List.replicate n Num.zero).getD e .zero = .zero := by
  rw [List.getD_eq_getElem?_getD, List.getElem?_replicate]
  split <;> rfl

theorem getD_padded (l : List Num) (avail n e : Nat) :
    (l.take avail ++ List.replicate (n - (l.take avail).length) Num.zero).getD e .zero = if e < avail then l.getD e .zero else .zero := by
  by_cases there : e < (l.take avail).length
  · have inside : e < avail := lt_of_lt_of_le there (List.length_take_le _ _)
    rw [List.getD_append _ _ _ _ there, if_pos inside, List.getD_eq_getElem?_getD, List.getElem?_take_of_lt inside, ← List.getD_eq_getElem?_getD]
  · rw [List.getD_append_right _ _ _ _ (by omega), getD_replicate_zero]
    split
    · rw [List.length_take] at there
      rw [List.getD_eq_default _ _ (by omega)]
    · rfl

/-- What a stream delivers names every element of the load, and no flag (R232). -/
theorem State.length_of_delivered {td : Tag} {n act : Nat} {v : Vals} (h : s.deliverStream x g spire td n act = .vals v) :
    v.xs.length = n ∧ v.flags = 0 := by
  unfold State.deliverStream at h
  extract_lets avail live lm at h
  split at h
  · cases h
  · split at h
    · cases h
      exact ⟨List.length_replicate, rfl⟩
    · split at h
      · cases h
      · split at h
        · cases h
        · extract_lets w off need es bad codes loaded xs at h
          clear_value bad
          split at h
          · cases h
          · split at h
            · cases h
            · cases bad with
              | some c => cases h
              | none =>
                cases h
                exact ⟨length_padded _ (Nat.min_le_left _ _), rfl⟩

/-- A stream whose active elements have been fetched at the level of the load delivers their values (R221, R232). -/
theorem State.deliverStream_fetched {td : Tag} {n act : Nat} {c : Nat → Nat} {lvl : Nat}
    (level : lvl = if td.carries then x.plan.level else 0) (first : x.first ≤ x.taken)
    (there : x.taken + min n (x.len - x.taken) ≤ x.next)
    (free : ∀ e, e < min n (x.len - x.taken) → s.streamHeld x g spire (x.taken + e) = false)
    (fetched : ∀ e, e < min n (x.len - x.taken) → bitOf act e = true → x.fetched.getD (x.taken + e - x.first) none = some (c e, lvl)) :
    ∃ v, s.deliverStream x g spire td n act = .vals v ∧
      (∀ e, e < min n (x.len - x.taken) → bitOf act e = true →
        v.at e = ((decodeNum x.plan.fmt 0 (c e)).getD .zero).scale x.plan.bias) ∧
      ∀ e, min n (x.len - x.taken) ≤ e → v.at e = .zero := by
  have here (e : Nat) (he : e < min n (x.len - x.taken)) (on : bitOf act e = true) :
      s.streamAt x g spire (x.taken + e) = .ok (c e, lvl) :=
    State.streamAt_fetched (by omega) (fetched e he on)
  unfold State.deliverStream
  extract_lets avail live lm
  have active (e : Nat) (he : e < avail) : bitOf live e = bitOf act e := by
    rw [bitOf_mod_two_pow, decide_eq_true he, Bool.true_and]
  rw [if_neg (by omega)]
  cases low : lowBit live avail with
  | none =>
    refine ⟨_, rfl, fun e he on => ?_, fun e _ => ?_⟩
    · rw [← active e he, (lowBit_eq_none_iff _ _).1 low e he] at on
      cases on
    · exact getD_replicate_zero n e
  | some i =>
    obtain ⟨inside, on⟩ := lowBit_eq_some low
    rw [active i inside] at on
    have same : lm = lvl := level.symm
    clear_value lm
    subst same
    dsimp only
    rw [if_neg (by rw [free i inside]; exact Bool.false_ne_true), here i inside on]
    dsimp only
    rw [if_pos rfl]
    rw [Nat.sub_self, Nat.pow_zero, Nat.mul_one, List.drop_zero, show loadNeed live avail lm lm = live from if_pos rfl, if_neg (by omega),
      
      if_neg (fun held => by
        obtain ⟨e, he, held⟩ := List.any_eq_true.1 held
        rw [free e (List.mem_range.1 he)] at held
        cases held)]
    have delivered : ((List.range avail).map fun j => if bitOf live j = true then some (s.streamAt x g spire (x.taken + j), x.taken + j) else none) =
        (List.range avail).map fun j => if bitOf live j = true then some (.ok (c j, lm), x.taken + j) else none := by
      refine List.map_congr_left fun j hj => ?_
      have hj := List.mem_range.1 hj
      split
      · next bit => rw [here j hj (active j hj ▸ bit)]
      · rfl
    rw [delivered]
    split
    · next bad =>
      obtain ⟨e, he, faulty⟩ := List.exists_of_findSome?_eq_some bad
      obtain ⟨j, -, rfl⟩ := List.mem_map.1 he
      by_cases bit : bitOf live j = true <;> simp [bit] at faulty
    · refine ⟨_, rfl, fun e he bit => ?_, fun e past => ?_⟩
      · rw [Vals.at_eq, getD_padded, if_pos he, List.getD_eq_getElem?_getD, convIn_getElem?, List.getElem?_map, List.getElem?_map,
          List.getElem?_range he]
        rw [← active e he] at bit
        simp [bit]
      · rw [Vals.at_eq, getD_padded, if_neg (Nat.not_lt.2 past)]

/-- What makes a fetch by the DAU go out, in the model's words. -/
theorem State.fetchReady_iff (s : State) (x : Stream) (g : Group) (spire : Nat) (ps : List Phys) :
    (s.dieRuns spire = true ∧ HasTokens s g.ctx (accessPorts spire ps) ∧ (∀ p ∈ ps, ∀ m, p.link = some m → s.linkUp m = true) ∧
      NothingBefore s x.gid x.owner x.cls fun m => ∃ p ∈ ps, p.link = some m) ↔
    (!s.dieRuns spire || !s.clear ((s.member x.gid x.owner).map (·.1)) x.cls (linksOf ps) || !(linksOf ps).all s.linkUp ||
      s.portWait g.ctx (accessPorts spire ps)) = false := by
  rw [← s.clear_iff, ← s.linksUp_iff, ← s.portWait_eq_false_iff]
  simp only [Bool.or_eq_false_iff, Bool.not_eq_false']
  tauto

theorem dauFetch_spec {k : Nat} (hx : s.streams.find (8 * spire + k) = some x) (hg : s.group x.gid = some g) (taken : x.taken ≤ x.next) :
    let l := s.fetchList spire x
    let ps := l.flatMap fun i => (s.streamElem x g spire i).2
    let ready := s.dieRuns spire = true ∧ HasTokens s g.ctx (accessPorts spire ps) ∧
      (∀ p ∈ ps, ∀ m, p.link = some m → s.linkUp m = true) ∧ NothingBefore s x.gid x.owner x.cls fun m => ∃ p ∈ ps, p.link = some m
    (¬ready → exec (.dauFetch spire k) s = .next s) ∧
      (l ≠ [] → ready → ∃ t y v, exec (.dauFetch spire k) s = .next t ∧ t.streams.find (8 * spire + k) = some y ∧
        (∀ j, j ≠ 8 * spire + k → t.streams.find j = s.streams.find j) ∧ y = { x with first := y.first, fetched := y.fetched } ∧
        y.next = x.next + l.length ∧ y.first ≤ max x.first x.taken ∧
        (∀ i ∈ l, y.fetched.getD (i - y.first) none = streamCode s x g spire i) ∧
        (∀ i, y.first ≤ i → i < x.next → y.fetched.getD (i - y.first) none = x.fetched.getD (i - x.first) none) ∧
        (∀ j z, s.member x.gid x.owner = some (j, z) → s.hart j = some z → t.hart j = some { z with hbeat := z.hbeat + 1 }) ∧
        (∀ j, (∀ z, s.member x.gid x.owner ≠ some (j, z)) → t.hart j = s.hart j) ∧
        ((∀ p ∈ ps, p.counted = false) → AccessedFrom s spire g.ctx ps v ∧ t.ctxs = v.ctxs ∧ ∀ j, t.byte j = v.byte j)) := by
  intro l ps ready
  have ready_iff := s.fetchReady_iff x g spire ps
  change ready ↔ _ at ready_iff
  have run := execDauFetch_of hx hg
  simp only [List.flatMap_map, List.map_map, List.isEmpty_map] at run
  refine ⟨fun stop => ?_, fun found go => ?_⟩
  · refine run.trans (congrArg _ (if_pos ?_))
    rw [ready_iff, Bool.not_eq_false] at stop
    simp only [Bool.or_eq_true] at stop ⊢
    tauto
  · obtain ⟨mine, others, owner, rest, access⟩ := s.afterFetch_spec (spire := spire) k x g ps (l.map fun i => (s.streamElem x g spire i).1.toOption)
    refine ⟨_, _, s.access spire g.ctx ps, run.trans (congrArg _ (if_neg ?_)), mine, others, rfl, ?_, x.extend_first _, ?_, ?_, owner, rest, ?_⟩
    · rw [ready_iff] at go
      rw [← List.isEmpty_eq_false_iff] at found
      rw [Bool.not_eq_true, ← go]
      change (l.isEmpty || _ || _ || _ || _) = _
      rw [found, Bool.false_or]
    · rw [Stream.extend_next taken, List.length_map]
    · intro i hi
      have at_range : i ∈ (List.range l.length).map (x.next + ·) := s.fetchList_range spire x ▸ hi
      obtain ⟨m, hm, rfl⟩ := List.mem_map.1 at_range
      have place : l[m]? = some (x.next + m) := by
        rw [show l = _ from s.fetchList_range spire x, List.getElem?_map, List.getElem?_range (List.mem_range.1 hm)]
        rfl
      rw [Stream.extend_new taken, List.getD_eq_getElem?_getD, List.getElem?_map, place]
      exact s.streamElem_code x g spire _
    · exact fun i kept old => Stream.extend_old kept old
    · exact fun uncounted => ⟨s.access_accessed spire g.ctx ps, access uncounted⟩

end

section

variable {s : State} {h : Hart} {g : Group} {f : VM} {x : Stream}

/-- A stream is declared (R231). -/
theorem stream_declared {n : BitVec 3} {a l st : Reg} {o : Cm} (hi : Issues s h (.stream n a l st o)) :
    ∃ t u y, exec (.stream n a l st o) s = .next t ∧ Completes (.stream n a l st o) u h t ∧
      StreamOnly s (spireOf s.cur) n.toNat y u ∧ y.gid = h.gid ∧ y.owner = h.idx ∧ y.base = h.reg a ∧ y.len = (h.reg l).toNat ∧
      y.unit = (st == 0) ∧ y.fmt = Store.get 0 h.arch.mf o.mf.toNat ∧ y.cls = o.cls ∧ y.space = h.arch.vspace.toNat ∧
      y.stride = (if st = 0 then (((Tag.ofCode (y.fmt.toNat % 16)).getD .i8).bytes : Int) else (h.reg st).toInt) ∧
      y.taken = 0 ∧ y.first = 0 ∧ y.fetched = [] :=
  ⟨_, _, _, rfl, State.run_done hi rfl, s.streamOnly_setStream _ _ _, rfl, rfl, rfl, rfl, rfl, rfl, rfl, rfl, rfl, rfl, rfl, rfl⟩

/-- What a load of the next elements writes, and where it stops before that (R62, R232). -/
def streamWrite (h : Hart) (f : VM) (n dom : Nat) (v : Vals) (u : State) : Result := match h.arch.judge [v] with
  | .error c => .trap c
  | .ok fl =>
    let codes := onActive (h.arch.active f.mask n) (encodeNum (h.arch.result f.tag f.f1) (modeVM f) f.sat 0) v.xs
    .done u { h with arch := h.arch.put f.f1.toNat (h.arch.result f.tag f.f1) dom fl codes }

/-- The meaning of a load from a stream buffer (R232). -/
def vldStreamBody (f : VM) (s : State) (h : Hart) (g : Group) : Result :=
  let n := h.arch.count (g.regBytes h.arch.shape) [h.arch.result f.tag f.f1]
  let td := h.arch.result f.tag f.f1
  let key := 8 * spireOf s.cur + f.sbn.toNat
  match s.streams.find key with
  | none => streamWrite h f n 0 ⟨List.replicate n .zero, 0, none⟩ s
  | some x => match s.group x.gid with
    | none => streamWrite h f n 0 ⟨List.replicate n .zero, 0, none⟩ s
    | some own => match s.deliverStream x own (spireOf s.cur) td n (h.arch.active f.mask n) with
      | .want m => .stall (s.setStream key { x with want := max x.want m }) h true
      | .fault c => .trap c
      | .vals v => streamWrite h f n (if td.carries then x.plan.level else 0) v (s.setStream key { x with taken := min x.len (x.taken + n) })

theorem exec_vldStream (f : VM) (s : State) :
    exec (.vldStream f) s = .next (s.run (.vldStream f) fun s h => s.withGroup h (vldStreamBody f s h)) := rfl

/-- What a vector instruction leaves depends on its operand only by values, flags and the lowest reserved code. -/
theorem oneResult_leaves_congr {a b : Arch} {m : BitVec 4} {n r dom : Nat} {v w : Vals} {t : Tag} {code : Num → Fl Nat}
    (values : ∀ e, v.at e = w.at e) (flags : v.flags = w.flags) (rsv : v.rsv = w.rsv)
    (leaves : (oneResult a m n v r t dom code).Leaves a b) : (oneResult a m n w r t dom code).Leaves a b := by
  obtain ⟨xs, fl, rv⟩ := v
  obtain ⟨ys, gl, rw'⟩ := w
  obtain rfl : fl = gl := flags
  obtain rfl : rv = rw' := rsv
  have codes : (fun e => code (Vals.at ⟨xs, fl, rv⟩ e)) = fun e => code (Vals.at ⟨ys, fl, rv⟩ e) := funext fun e => congrArg code (values e)
  unfold oneResult at leaves ⊢
  rw [codes] at leaves
  exact leaves

/-- A load from a stream buffer that has its values writes them to the active elements (R232). -/
theorem vldStream_writes {n dom : Nat} {v : Vals} {u : State} (hi : Issues s h (.vldStream f)) (hg : s.group h.gid = some g)
    (body : vldStreamBody f s h g = streamWrite h f n dom v u) (same : u.cur = s.cur) (full : v.xs.length = n)
    (free : v.rsv = none ∨ h.arch.hctl.getLsbD 0 = false) : ∃ t b, exec (.vldStream f) s = .next t ∧
      Completes (.vldStream f) u { h with arch := b } t ∧
      (oneResult h.arch f.mask n v f.f1.toNat (h.arch.result f.tag f.f1) dom
        (encodeNum (h.arch.result f.tag f.f1) (.ofField f.rnd) f.sat 0)).Leaves h.arch b := by
  obtain ⟨fl, judged⟩ := Arch.judge_ok free
  refine ⟨_, _, exec_vldStream f s, State.run_done hi (hc := same) ((State.withGroup_of hg _).trans (body.trans ?_)), Arch.put_leaves judged full _ _ _ _ _⟩
  unfold streamWrite
  rw [judged]
  rfl

theorem vldStream_traps {c : Cause} (hi : Issues s h (.vldStream f)) (hg : s.group h.gid = some g)
    (body : vldStreamBody f s h g = .trap c) (plain : PlainHart h) (handled : Handled s h) : Traps (.vldStream f) s h c :=
  State.run_traps hi (exec_vldStream f s) ((State.withGroup_of hg _).trans body) plain handled

theorem vldStream_reserved {n dom e : Nat} {v : Vals} {u : State} (hi : Issues s h (.vldStream f)) (hg : s.group h.gid = some g)
    (body : vldStreamBody f s h g = streamWrite h f n dom v u) (rsv : v.rsv = some e) (enabled : h.arch.hctl.getLsbD 0 = true)
    (plain : PlainHart h) (handled : Handled s h) : Traps (.vldStream f) s h (plainCause 24 e) := by
  refine vldStream_traps hi hg (body.trans ?_) plain handled
  unfold streamWrite
  rw [Arch.judge_traps rsv enabled]

theorem vldStreamBody_of {own : Group} (hx : s.streams.find (8 * spireOf s.cur + f.sbn.toNat) = some x) (hown : s.group x.gid = some own) :
    vldStreamBody f s h g =
      let n := h.arch.count (g.regBytes h.arch.shape) [h.arch.result f.tag f.f1]
      let td := h.arch.result f.tag f.f1
      let key := 8 * spireOf s.cur + f.sbn.toNat
      match s.deliverStream x own (spireOf s.cur) td n (h.arch.active f.mask n) with
      | .want m => .stall (s.setStream key { x with want := max x.want m }) h true
      | .fault c => .trap c
      | .vals v => streamWrite h f n (if td.carries then x.plan.level else 0) v (s.setStream key { x with taken := min x.len (x.taken + n) }) := by
  unfold vldStreamBody
  dsimp only
  rw [hx]
  dsimp only
  rw [hown]

theorem loadCount_unit (hg : s.group h.gid = some g) : loadCount h.arch (s.regBytes h) f .unit =
    h.arch.count (g.regBytes h.arch.shape) [h.arch.result f.tag f.f1] := by
  rw [State.regBytes_of hg]
  rfl

/-- A load where no stream is declared writes zeros (R232). -/
theorem vldStream_undeclared (hi : Issues s h (.vldStream f)) (hg : s.group h.gid = some g)
    (none : s.streams.find (8 * spireOf s.cur + f.sbn.toNat) = none) :
    ∃ t b, exec (.vldStream f) s = .next t ∧ Completes (.vldStream f) s { h with arch := b } t ∧
      (oneResult h.arch f.mask (loadCount h.arch (s.regBytes h) f .unit) ⟨[], 0, Option.none⟩ f.f1.toNat (h.arch.result f.tag f.f1) 0
        (encodeNum (h.arch.result f.tag f.f1) (.ofField f.rnd) f.sat 0)).Leaves h.arch b := by
  have body : vldStreamBody f s h g = streamWrite h f (loadCount h.arch (s.regBytes h) f .unit) 0
      ⟨List.replicate (loadCount h.arch (s.regBytes h) f .unit) .zero, 0, Option.none⟩ s := by
    rw [loadCount_unit hg]
    unfold vldStreamBody
    dsimp only
    rw [none]
  obtain ⟨t, b, run, done, leaves⟩ := vldStream_writes hi hg body rfl List.length_replicate (.inl rfl)
  exact ⟨t, b, run, done, oneResult_leaves_congr (v := ⟨List.replicate _ .zero, 0, Option.none⟩) (fun e => getD_replicate_zero _ e) rfl rfl leaves⟩

/-- A load from a declared stream: it delivers, traps for a reserved code, waits to be fetched, or faults (R62, R232). -/
theorem vldStream_declared {own : Group} (hi : Issues s h (.vldStream f)) (hg : s.group h.gid = some g)
    (hx : s.streams.find (8 * spireOf s.cur + f.sbn.toNat) = some x) (hown : s.group x.gid = some own) :
    let n := loadCount h.arch (s.regBytes h) f .unit
    let td := h.arch.result f.tag f.f1
    let lvl := if td.carries then x.plan.level else 0
    (∀ v, s.deliverStream x own (spireOf s.cur) td n (h.arch.active f.mask n) = .vals v →
      (v.rsv = none ∨ h.arch.hctl.getLsbD 0 = false → ∃ t u b, exec (.vldStream f) s = .next t ∧
        Completes (.vldStream f) u { h with arch := b } t ∧
        (oneResult h.arch f.mask n v f.f1.toNat td lvl (encodeNum td (.ofField f.rnd) f.sat 0)).Leaves h.arch b ∧
        StreamOnly s (spireOf s.cur) f.sbn.toNat { x with taken := min x.len (x.taken + n) } u) ∧
      (∀ e, v.rsv = some e → h.arch.hctl.getLsbD 0 = true → PlainHart h → Handled s h → Traps (.vldStream f) s h (plainCause 24 e))) ∧
    (∀ m, s.deliverStream x own (spireOf s.cur) td n (h.arch.active f.mask n) = .want m →
      Waits (.vldStream f) (s.setStream (8 * spireOf s.cur + f.sbn.toNat) { x with want := max x.want m }) h h.pending true s) ∧
    (∀ c, s.deliverStream x own (spireOf s.cur) td n (h.arch.active f.mask n) = .fault c → PlainHart h → Handled s h →
      Traps (.vldStream f) s h c) := by
  intro n td lvl
  have body := vldStreamBody_of (g := g) (h := h) hx hown
  have count : n = h.arch.count (g.regBytes h.arch.shape) [td] := loadCount_unit hg
  change vldStreamBody f s h g = match s.deliverStream x own (spireOf s.cur) td (h.arch.count (g.regBytes h.arch.shape) [td])
    (h.arch.active f.mask (h.arch.count (g.regBytes h.arch.shape) [td])) with
    | .want m => _
    | .fault c => _
    | .vals v => _ at body
  rw [← count] at body
  refine ⟨fun v delivered => ?_, fun m wanted => ?_, fun c fault plain handled => ?_⟩
  · rw [delivered] at body
    refine ⟨fun free => ?_, fun e rsv enabled plain handled => vldStream_reserved hi hg body rsv enabled plain handled⟩
    obtain ⟨t, b, run, done, leaves⟩ := vldStream_writes hi hg body rfl (State.length_of_delivered delivered).1 free
    exact ⟨t, _, b, run, done, leaves, s.streamOnly_setStream _ _ _⟩
  · rw [wanted] at body
    exact State.run_stalls hi (exec_vldStream f s) ((State.withGroup_of hg _).trans body)
  · rw [fault] at body
    exact vldStream_traps hi hg body plain handled

end

/-- Settles O44: the declaration, the fetch by the DAU, and the load in turn. -/
theorem streams : Obligations.Streams := by
  unfold Obligations.Streams
  intro s h n a l st o f x spire k g
  refine ⟨stream_declared, ?fetch, ?load⟩
  case fetch =>
    intro hx hg taken
    refine ⟨s.fetchList_ne_nil spire x, s.fetchList_range spire x, fun i hi => State.mem_fetchList hi, ?_⟩
    exact dauFetch_spec hx hg taken
  case load =>
    intro own c hi hg count td key work
    refine ⟨vldStream_undeclared hi hg, fun hx hown => ?_⟩
    intro lvl avail on
    obtain ⟨delivers, waits, faults⟩ := vldStream_declared hi hg hx hown
    refine ⟨delivers, fun first there free fetched => ?_, waits, faults⟩
    have active (e : Nat) (he : e < avail) : bitOf (h.arch.active f.mask count) e = maskOn h.arch f.mask e := by
      have inside : e < count := lt_of_lt_of_le he (Nat.min_le_left _ _)
      rw [Arch.bitOf_active, decide_eq_true inside, Bool.true_and]
    have on_iff (e : Nat) : on e = true ↔ e < avail ∧ maskOn h.arch f.mask e = true := by
      rw [Bool.and_eq_true, decide_eq_true_iff]
    obtain ⟨v, delivered, values, rest⟩ := State.deliverStream_fetched (act := h.arch.active f.mask count) (td := td) rfl first there free
      fun e he bit => fetched e ((on_iff e).2 ⟨he, active e he ▸ bit⟩)
    refine ⟨v, delivered, fun e he => ?_, rest⟩
    obtain ⟨inside, bit⟩ := (on_iff e).1 he
    exact values e inside ((active e inside).trans bit)

end Sys2Proof.Machine
end

section
/-! Bytes of numbers, journal entries, and the end of a management command (R94, R370). -/

namespace Sys2Proof.Machine

/-- A byte of a number (R15). -/
theorem getElem?_bytesOf (v n i : Nat) (h : i < n) : (bytesOf v n)[i]? = some (BitVec.ofNat 8 (v / 2 ^ (8 * i))) := by
  induction n generalizing v i with
  | zero => omega
  | succ n ih =>
    cases i with
    | zero => simp [bytesOf]
    | succ i =>
      rw [bytesOf, List.getElem?_cons_succ, ih _ i (by omega), Nat.div_div_eq_div_mul, show 8 * (i + 1) = 8 + 8 * i by ring, Nat.pow_add]

/-- The bytes of a number in one list. -/
theorem bytesOf_eq_range (v n : Nat) : bytesOf v n = (List.range n).map fun i => BitVec.ofNat 8 (v / 2 ^ (8 * i)) := by
  apply List.ext_getElem?
  intro i
  by_cases h : i < n
  · rw [getElem?_bytesOf v n i h, List.getElem?_map, List.getElem?_range h]
    rfl
  · rw [List.getElem?_eq_none (by simpa using h), List.getElem?_eq_none (by simpa using h)]

/-- A byte among those that a write of bytes names. -/
theorem State.byte_setBytes_of_getElem? {s : State} {k i : Nat} {l : List Byte} {b : Byte} (h : l[i]? = some b) :
    (s.setBytes k l).byte (k + i) = b := by
  obtain ⟨inside, rfl⟩ := List.getElem?_eq_some_iff.1 h
  exact s.byte_setBytes_inside _ _ _ inside

theorem State.hostWrite_up {s : State} (up : s.linkUp hostLink = true) (a : Nat) (l : List Byte) :
    s.hostWrite a l = s.setBytes (hostKey a) l := if_pos up

theorem State.hostWrite_dead {s : State} (down : s.linkUp hostLink = false) (dead : s.linkDead hostLink = true) (a : Nat) (l : List Byte) :
    s.hostWrite a l = s := by
  unfold State.hostWrite
  rw [if_neg (by rw [down]; exact Bool.false_ne_true), if_pos dead]

theorem State.hostWrite_frame (s : State) (a : Nat) (l : List Byte) :
    s.hostWrite a l = { s with mem := (s.hostWrite a l).mem, held := (s.hostWrite a l).held } := by
  unfold State.hostWrite
  split
  · rw [State.setBytes_frame]
  · split <;> rfl

theorem State.linkUp_setBytes (s : State) (k : Nat) (l : List Byte) (n : Nat) : (s.setBytes k l).linkUp n = s.linkUp n := by
  rw [State.setBytes_frame]
  rfl

/-- The newest journal entry is the one that was added (R370). -/
theorem State.head?_journalAdd (s : State) (e : Entry) : (s.journalAdd e).journal.head? = some e := by
  change ((e :: s.journal).take (2 ^ 20)).head? = some e
  rw [List.head?_take, if_neg (Nat.two_pow_pos 20).ne']
  rfl

/-- What the end of a command changes beside its journal entry and its STATUS (R94). -/
def State.cmdDone (s : State) (n : Nat) : State :=
  { s with cmds := Store.erase s.cmds n, mqDone := s.mqDone + 1, msix := if s.mqCfg.getLsbD 1 then s.msix + 1 else s.msix }

theorem State.endCmd_of {s : State} {n : Nat} {c : Cmd} (found : s.cmds.find n = some c) (st : CmdStatus) : s.endCmd n st =
    ((s.journalAdd ⟨2, c.ctx, c.opc, BitVec.ofNat 32 st.code, c.seq.setWidth 64, 0⟩).hostWrite
      (s.mqBase.toNat + 64 * (c.slot % s.mqSize) + 56) (bytesOf st.code 4)).cmdDone n := by
  unfold State.endCmd
  rw [found]
  rfl

/-- The end of a command after its journal entry and its STATUS changes nothing else. -/
theorem cmdFrame {s v t : State} (hv : v = { s with mem := v.mem, held := v.held, journal := v.journal, jnext := v.jnext })
    (ht : t = { v with cmds := t.cmds, mqDone := t.mqDone, msix := t.msix }) : t = { s with
      mem := t.mem, held := t.held, cmds := t.cmds, mqDone := t.mqDone, msix := t.msix, journal := t.journal, jnext := t.jnext } := by
  rw [ht, hv]

theorem Store.find_erase_same {α : Type} (s : Store α) (k : Nat) : (Store.erase s k).find k = none := by
  unfold Store.erase
  rw [Store.find_filter_key s (fun x => x != k) k, if_neg (by simp)]

theorem Store.find_erase_other {α : Type} (s : Store α) {j k : Nat} (h : j ≠ k) : (Store.erase s k).find j = s.find j := by
  unfold Store.erase
  rw [Store.find_filter_key s (fun x => x != k) j, if_pos (by simpa using h)]

/-- A command ends with a STATUS code (R94 step 3, R370). -/
theorem State.endCmd_ends {s : State} {n : Nat} {c : Cmd} (found : s.cmds.find n = some c) (st : CmdStatus) :
    CmdEnds s n c st.code (s.endCmd n st) := by
  rw [State.endCmd_of found]
  set entered := s.journalAdd ⟨2, c.ctx, c.opc, BitVec.ofNat 32 st.code, c.seq.setWidth 64, 0⟩ with hentered
  have wrote := entered.hostWrite_frame (s.mqBase.toNat + 64 * (c.slot % s.mqSize) + 56) (bytesOf st.code 4)
  set u := entered.hostWrite (s.mqBase.toNat + 64 * (c.slot % s.mqSize) + 56) (bytesOf st.code 4) with hu
  have cmds : u.cmds = s.cmds := by rw [wrote, hentered]; rfl
  have newest : u.journal.head? = some ⟨2, c.ctx, c.opc, BitVec.ofNat 32 st.code, c.seq.setWidth 64, 0⟩ := by
    rw [wrote]
    exact s.head?_journalAdd _
  refine ⟨?_, fun j other => ?_, ?_, ?_, ?_, newest, fun up => ?_, ?_⟩
  · exact (congrArg (fun m => (Store.erase m n).find n) cmds).trans (Store.find_erase_same _ _)
  · exact (congrArg (fun m => (Store.erase m n).find j) cmds).trans (Store.find_erase_other _ other)
  · change u.mqDone + 1 = _
    rw [wrote]
    rfl
  · change (if u.mqCfg.getLsbD 1 then u.msix + 1 else u.msix) = _
    rw [wrote]
    change (if s.mqCfg.getLsbD 1 then s.msix + 1 else s.msix) = _
    cases s.mqCfg.getLsbD 1 <;> rfl
  · change u.jnext = _
    rw [wrote]
    rfl
  · have sent : u = entered.setBytes (hostKey (s.mqBase.toNat + 64 * (c.slot % s.mqSize) + 56)) (bytesOf st.code 4) :=
      State.hostWrite_up (s := entered) up _ _
    refine ⟨fun i hi => ?_, fun k outside => ?_⟩
    · change u.byte _ = _
      rw [sent]
      exact State.byte_setBytes_of_getElem? (getElem?_bytesOf _ _ _ hi)
    · change u.byte _ = _
      rw [sent]
      exact State.byte_setBytes_outside _ _ _ _ (by rw [bytesOf_length]; exact outside)
  · refine cmdFrame (v := u) ?_ rfl
    rw [wrote]
    rfl

end Sys2Proof.Machine
end

section
/-! The start of the module from step 2 on (Table 28.4, R329, R366, R367). -/

namespace Sys2Proof.Machine

theorem lookupD_eq_reported (l : List (Nat × Nat)) (n d : Nat) : lookupD l n d = reported l n d := by
  unfold lookupD reported
  simp only [beq_eq_decide]
  cases l.find? fun x => decide (x.1 = n) <;> rfl

/-- The lowest index at which a step fails. -/
theorem firstFail_eq_some_iff (l : List Nat) (n b : Nat) : firstFail l n = some b ↔ b < n ∧ b ∈ l ∧ ∀ i, i < b → i ∉ l := by
  unfold firstFail
  rw [List.find?_range_eq_some]
  simp only [List.mem_range, Bool.not_eq_true', List.contains_eq_mem, decide_eq_false_iff_not, decide_eq_true_iff]
  tauto

theorem firstFail_eq_none_iff (l : List Nat) (n : Nat) : firstFail l n = none ↔ ∀ i, i < n → i ∉ l := by
  unfold firstFail
  simp

theorem mem_passAll (step n i : Nat) (h : i < n) : (⟨step, i, 0, 0⟩ : StartEntry) ∈ passAll step n :=
  List.mem_map.2 ⟨i, List.mem_range.2 h, rfl⟩

/-- The entries of the shafts, of the Spires and of the links of a start (Table 28.4). -/
def State.shaftEntries (s : State) (r : StartReport) : List StartEntry :=
  (List.range 256).map fun n => shaftEntry (s.previous 2 n) n (lookupD r.shaftRate n 0)
def spireEntries (r : StartReport) : List StartEntry := (List.range 256).map fun n => fenceEntry 3 n (!r.spireFail.contains n)
def linkEntries (r : StartReport) : List StartEntry := (List.range 64).map fun l => fenceEntry 6 l (lookupD r.linkLanes l 4 != 0)

/-- What the start has left after step 3, and after step 6. -/
def State.afterFencing (s : State) (r : StartReport) : State :=
  { s with fencedShafts := fencedOf (s.shaftEntries r), fencedSpires := fencedOf (spireEntries r) }
def State.afterLinks (s : State) (r : StartReport) : State :=
  { s.afterFencing r with
    fencedLinks := fencedOf (linkEntries r)
    links := Store.set .zero ((List.range 64).foldl (fun m l => Store.set .zero m l (trained (lookupD r.linkLanes l 4) 4 0)) []) hostLink
      (trained (hostLanesOf r.hostLanes) 16 r.hostRate) }

/-- The record of a start that has passed step 3, and step 6. -/
def State.recordFencing (s : State) (r : StartReport) (done : List StartEntry) : List StartEntry := done ++ s.shaftEntries r ++ spireEntries r
def State.recordLinks (s : State) (r : StartReport) (done : List StartEntry) : List StartEntry :=
  s.recordFencing r done ++ passAll 4 256 ++ passAll 5 6 ++ linkEntries r ++ [⟨6, 64, 0, 0⟩]

section

variable {s : State} {r : StartReport} {done : List StartEntry}

theorem State.startFrom2_bank {b : Nat} (h : firstFail r.banksFail 256 = some b) :
    s.startFrom2 r done = (s.afterFencing r).startFails 4 b (s.recordFencing r done) := by
  unfold State.startFrom2
  rw [h]
  rfl

theorem State.startFrom2_pair {p : Nat} (banks : firstFail r.banksFail 256 = none) (h : firstFail r.pairsFail 6 = some p) :
    s.startFrom2 r done = (s.afterFencing r).startFails 5 p (s.recordFencing r done ++ passAll 4 256) := by
  unfold State.startFrom2
  rw [banks, h]
  rfl

theorem State.startFrom2_secrets (banks : firstFail r.banksFail 256 = none) (pairs : firstFail r.pairsFail 6 = none)
    (h : r.secretsOk = false) : s.startFrom2 r done = (s.afterLinks r).startFails 7 0 (s.recordLinks r done) := by
  unfold State.startFrom2
  rw [banks, pairs, h]
  rfl

/-- A start that has passed. -/
def State.startPassed (s : State) (r : StartReport) (done : List StartEntry) : State :=
  { s.afterLinks r with
    status := .ready, step := 0, fcode := 0, startRecord := s.recordLinks r done ++ [⟨7, 0, 0, 0⟩], journal := [], jnext := 0, dclk := 0 }

theorem State.startFrom2_ready (banks : firstFail r.banksFail 256 = none) (pairs : firstFail r.pairsFail 6 = none)
    (h : r.secretsOk = true) : s.startFrom2 r done = s.startPassed r done := by
  unfold State.startFrom2
  rw [banks, pairs, h]
  rfl

/-- However a start from step 2 ends, its record begins with the entries of the shafts and of the Spires, and what these name is fenced. -/
theorem State.startFrom2_fences (s : State) (r : StartReport) (done : List StartEntry) :
    let t := s.startFrom2 r done
    t.fencedShafts = fencedOf (s.shaftEntries r) ∧ t.fencedSpires = fencedOf (spireEntries r) ∧
      s.recordFencing r done <+: t.startRecord := by
  cases banks : firstFail r.banksFail 256 with
  | some b =>
    rw [State.startFrom2_bank banks]
    exact ⟨rfl, rfl, _, (List.append_assoc _ _ _).symm⟩
  | none =>
    cases pairs : firstFail r.pairsFail 6 with
    | some p =>
      rw [State.startFrom2_pair banks pairs]
      exact ⟨rfl, rfl, by simp [State.startFails, List.append_assoc]⟩
    | none =>
      cases secrets : r.secretsOk with
      | false =>
        rw [State.startFrom2_secrets banks pairs secrets]
        exact ⟨rfl, rfl, by simp [State.startFails, State.recordLinks, List.append_assoc]⟩
      | true =>
        rw [State.startFrom2_ready banks pairs secrets]
        exact ⟨rfl, rfl, by simp [State.startPassed, State.recordLinks, List.append_assoc]⟩

end

/-- The instances that some entries, one for each, fence. -/
theorem mem_fencedOf_range {f : Nat → StartEntry} (unit : ∀ i, (f i).unit = i) (k n : Nat) :
    n ∈ fencedOf ((List.range k).map f) ↔ n < k ∧ (f n).outcome = 2 := by
  unfold fencedOf
  simp only [List.mem_map, List.mem_filter, List.mem_range, beq_iff_eq]
  constructor
  · rintro ⟨e, ⟨⟨i, hi, rfl⟩, out⟩, rfl⟩
    rw [unit]
    exact ⟨hi, out⟩
  · rintro ⟨hn, out⟩
    exact ⟨f n, ⟨⟨n, hn, rfl⟩, out⟩, unit n⟩

/-- A shaft's entry of step 2 (Table 28.4, R367). -/
theorem shaftEntry_eq (prev : Option StartEntry) (n best : Nat) : shaftEntry prev n best = ⟨2, n,
    if 3 ≤ best then 2 else if best ≤ firstRate prev then 0 else 1, if 3 ≤ best then 2 else max (firstRate prev) best⟩ := by
  unfold shaftEntry
  by_cases slow : 2 < best
  · rw [if_pos slow, if_pos (show 3 ≤ best from slow), if_pos (show 3 ≤ best from slow)]
  · rw [if_neg slow, if_neg (show ¬3 ≤ best from slow), if_neg (show ¬3 ≤ best from slow)]

/-- The rate at which a shaft's training begins, from the record of the start before (R367). -/
theorem State.firstRate_previous (s : State) (n : Nat) : firstRate (s.previous 2 n) =
    ((s.startRecord.find? fun e => e.step = 2 ∧ e.unit = n).map fun e => if e.outcome = 0 then 0 else min 2 (e.setting + 1)).getD 0 := by
  unfold State.previous
  simp only [Bool.decide_and, beq_eq_decide]
  cases s.startRecord.find? fun e => decide (e.step = 2) && decide (e.unit = n) <;> rfl

/-- Links written one after another. -/
theorem get_linksWritten (f : Nat → Link) (k l : Nat) :
    Store.get .zero ((List.range k).foldl (fun m l => Store.set .zero m l (f l)) []) l = if l < k then f l else .zero := by
  induction k with
  | zero => rfl
  | succ k ih =>
    rw [List.range_succ, List.foldl_append, List.foldl_cons, List.foldl_nil]
    by_cases same : l = k
    · rw [same, Store.get_set_same, if_pos (Nat.lt_succ_self k)]
    · rw [Store.get_set_other _ _ _ same, ih]
      by_cases low : l < k
      · rw [if_pos low, if_pos (by omega)]
      · rw [if_neg low, if_neg (by omega)]

theorem hostLanesOf_eq (n : Nat) : hostLanesOf n = if n ∈ [1, 2, 4, 8] then n else 16 := by
  unfold hostLanesOf
  simp only [List.contains_eq_mem, decide_eq_true_iff]

theorem trained_host (n rate : Nat) : trained (hostLanesOf n) 16 rate =
    ⟨if hostLanesOf n = 16 then .up else .degraded, hostLanesOf n, rate, 0, 0, 0, 0⟩ := by
  have some : hostLanesOf n = 1 ∨ hostLanesOf n = 2 ∨ hostLanesOf n = 4 ∨ hostLanesOf n = 8 ∨ hostLanesOf n = 16 := by
    rw [hostLanesOf_eq]
    split
    · next h => simp only [List.mem_cons, List.not_mem_nil, or_false] at h; omega
    · simp
  rcases some with h | h | h | h | h <;> rw [h] <;> rfl

section

variable {s : State} {r : StartReport} {first : StartEntry}

/-- A step at which the start fails (R366). -/
def FailsAt (t : State) (n unit : Nat) : Prop :=
  t.status = .fault ∧ t.step = n ∧ t.fcode = n ∧ t.startRecord.getLast? = some ⟨n, unit, 3, 0⟩ ∧
    ∀ i, i < unit → (⟨n, i, 0, 0⟩ : StartEntry) ∈ t.startRecord

theorem State.startFails_failsAt (s : State) (n unit : Nat) (done : List StartEntry) : FailsAt (s.startFails n unit done) n unit := by
  refine ⟨rfl, rfl, rfl, ?_, fun i hi => ?_⟩
  · exact List.getLast?_concat
  · exact List.mem_append_left _ (List.mem_append_right _ (mem_passAll n unit i hi))

theorem State.link_afterLinks {l : Nat} (hl : l < 64) : (s.afterLinks r).link l = trained (lookupD r.linkLanes l 4) 4 0 := by
  have other : l ≠ hostLink := by unfold hostLink; omega
  refine (Store.get_set_other _ _ _ other).trans ?_
  rw [get_linksWritten fun l => trained (lookupD r.linkLanes l 4) 4 0, if_pos hl]

theorem State.hostLink_afterLinks : (s.afterLinks r).link hostLink = trained (hostLanesOf r.hostLanes) 16 r.hostRate :=
  Store.get_set_same _ _ _ _

theorem mem_linkEntries_fenced {l : Nat} (hl : l < 64) : l ∈ fencedOf (linkEntries r) ↔ lookupD r.linkLanes l 4 = 0 := by
  unfold linkEntries
  rw [mem_fencedOf_range fun _ => rfl]
  unfold fenceEntry
  cases h : lookupD r.linkLanes l 4 <;> simp [hl]

/-- A start goes on from step 2 (Table 28.4, R329, R366, R367). -/
theorem State.startFrom2_started (s : State) (r : StartReport) (first : StartEntry) : Started s r first (s.startFrom2 r [first]) := by
  obtain ⟨shafts, spires, rest, record⟩ := s.startFrom2_fences r [first]
  unfold Started
  extract_lets rate before lanes host failsAt passes
  have rates (n : Nat) : rate n = lookupD r.shaftRate n 0 := (lookupD_eq_reported _ _ _).symm
  have lane (l : Nat) : lanes l = lookupD r.linkLanes l 4 := (lookupD_eq_reported _ _ _).symm
  refine ⟨?_, fun n hn => ⟨?_, ?_, ?_, ?_⟩, fun b hb fails passed => ?_, fun banks p hp fails passed => ?_, fun banks pairs => ?_⟩
  · rw [← record]
    rfl
  · rw [spires]
    unfold spireEntries
    rw [mem_fencedOf_range fun _ => rfl]
    unfold fenceEntry
    by_cases fails : n ∈ r.spireFail <;> simp [fails, hn]
  · rw [shafts, rates]
    unfold State.shaftEntries
    rw [mem_fencedOf_range fun i => by rw [shaftEntry_eq], shaftEntry_eq]
    by_cases slow : 3 ≤ lookupD r.shaftRate n 0
    · simp [slow, hn]
    · by_cases kept : lookupD r.shaftRate n 0 ≤ firstRate (s.previous 2 n) <;> simp [slow, kept]
  · rw [← record]
    refine List.mem_append_left _ (List.mem_append_right _ (List.mem_map.2 ⟨n, List.mem_range.2 hn, ?_⟩))
    unfold fenceEntry
    by_cases fails : n ∈ r.spireFail <;> simp [fails]
  · rw [← record, rates]
    refine List.mem_append_left _ (List.mem_append_left _ (List.mem_append_right _ (List.mem_map.2 ⟨n, List.mem_range.2 hn, ?_⟩)))
    rw [shaftEntry_eq, State.firstRate_previous]
  · change FailsAt (s.startFrom2 r [first]) 4 b
    rw [State.startFrom2_bank ((firstFail_eq_some_iff _ _ _).2 ⟨hb, fails, passed⟩)]
    exact State.startFails_failsAt _ _ _ _
  · change FailsAt (s.startFrom2 r [first]) 5 p
    rw [State.startFrom2_pair ((firstFail_eq_none_iff _ _).2 banks) ((firstFail_eq_some_iff _ _ _).2 ⟨hp, fails, passed⟩)]
    exact State.startFails_failsAt _ _ _ _
  · have banks := (firstFail_eq_none_iff _ _).2 banks
    have pairs := (firstFail_eq_none_iff _ _).2 pairs
    have linked : (s.startFrom2 r [first]).fencedLinks = fencedOf (linkEntries r) ∧ (s.startFrom2 r [first]).links = (s.afterLinks r).links := by
      cases secrets : r.secretsOk with
      | false =>
        rw [State.startFrom2_secrets banks pairs secrets]
        exact ⟨rfl, rfl⟩
      | true =>
        rw [State.startFrom2_ready banks pairs secrets]
        exact ⟨rfl, rfl⟩
    obtain ⟨fenced, links⟩ := linked
    refine ⟨fun l hl => ⟨?_, ?_⟩, ?_, fun secrets => ?_, fun secrets => ?_⟩
    · rw [fenced, lane]
      exact mem_linkEntries_fenced hl
    · unfold State.link
      rw [links, lane]
      exact State.link_afterLinks hl
    · unfold State.link
      rw [links]
      refine State.hostLink_afterLinks.trans ((trained_host _ _).trans ?_)
      rw [hostLanesOf_eq]
    · change FailsAt (s.startFrom2 r [first]) 7 0
      rw [State.startFrom2_secrets banks pairs secrets]
      exact State.startFails_failsAt _ _ _ _
    · rw [State.startFrom2_ready banks pairs secrets]
      exact ⟨rfl, rfl, rfl, rfl, rfl, rfl, List.getLast?_concat⟩

end

end Sys2Proof.Machine
end

section
/-! Faults that discard the work of contexts (R350, R351, Table 6.4). -/

namespace Sys2Proof

/-- The first entry of a key is the one that is found. -/
theorem Store.split_of_find {α : Type} {s : Store α} {k : Nat} {v : α} (h : s.find k = some v) :
    ∃ pre post, s = pre ++ (k, v) :: post ∧ ∀ p ∈ pre, p.1 ≠ k := by
  induction s with
  | nil => simp at h
  | cons q t ih =>
    obtain ⟨j, w⟩ := q
    unfold Store.find at h
    split at h
    · next same =>
      obtain rfl := Option.some.inj h
      obtain rfl : j = k := same
      exact ⟨[], t, rfl, by simp⟩
    · next other =>
      obtain ⟨pre, post, rfl, free⟩ := ih h
      refine ⟨(j, w) :: pre, post, rfl, fun p hp => ?_⟩
      rcases List.mem_cons.1 hp with rfl | hp
      · exact other
      · exact free p hp

end Sys2Proof

namespace Sys2Proof.Machine

/-- u is s without the work of context c, which alone among the contexts may differ. -/
structure WorkDropped (s : State) (c : Nat) (u : State) : Prop where
  groups : u.groups = s.groups.filter fun g => g.2.ctx != c
  kernels : u.kernels = s.kernels.filter fun k => k.2.ctx != c
  harts : u.harts = s.harts.filter fun h => !(s.group h.2.gid).any fun g => g.ctx == c
  work : u.pipeWork = s.pipeWork.filter fun w => w.ctx != c
  busy : u.pipeBusy = s.pipeBusy.filter fun w => w.ctx != c
  other : ∀ d, d ≠ c → u.ctx d = s.ctx d

theorem State.discardWork_dropped (s : State) (c : Nat) : WorkDropped s c (s.discardWork c) where
  groups := rfl
  kernels := rfl
  harts := by
    have mine (h : Nat × Hart) : (match s.group h.2.gid with | some x => decide (x.ctx = c) | none => false) =
        (s.group h.2.gid).any fun g => g.ctx == c := by
      cases s.group h.2.gid <;> simp [beq_eq_decide]
    exact congrArg (s.harts.filter ·) (funext fun h => congrArg (!·) (mine h))
  work := rfl
  busy := rfl
  other := fun _ other => Store.get_set_other _ _ _ other

theorem State.discardWork_kept (s : State) (c : Nat) : (s.discardWork c).mqBase = s.mqBase ∧ (s.discardWork c).mqCfg = s.mqCfg ∧
    (s.discardWork c).cmds = s.cmds ∧ (s.discardWork c).mqDone = s.mqDone ∧ (s.discardWork c).jnext = s.jnext :=
  ⟨rfl, rfl, rfl, rfl, rfl⟩

/-- A change of context c alone keeps its work dropped. -/
theorem WorkDropped.modCtx {s u : State} {c : Nat} (h : WorkDropped s c u) (f : Ctx → Ctx) : WorkDropped s c (u.modCtx c f) :=
  ⟨h.groups, h.kernels, h.harts, h.work, h.busy, fun d other => (u.ctx_modCtx_other f other).trans (h.other d other)⟩

/-- The end of a command changes no work. -/
theorem State.endCmd_frame (s : State) (n : Nat) (st : CmdStatus) :
    let t := s.endCmd n st
    t = { s with
      mem := t.mem, held := t.held, cmds := t.cmds, mqDone := t.mqDone, msix := t.msix, journal := t.journal, jnext := t.jnext } := by
  cases found : s.cmds.find n with
  | some c =>
    obtain ⟨-, -, -, -, -, -, -, frame⟩ := State.endCmd_ends found st
    exact frame
  | none =>
    unfold State.endCmd
    rw [found]

theorem WorkDropped.endCmd {s u : State} {c : Nat} (h : WorkDropped s c u) (n : Nat) (st : CmdStatus) : WorkDropped s c (u.endCmd n st) := by
  rw [u.endCmd_frame n st]
  exact ⟨h.groups, h.kernels, h.harts, h.work, h.busy, h.other⟩

/-- A context that faults, and the state in which its command ends. -/
def State.faulting (s : State) (c : Nat) : State := (s.discardWork c).modCtx c fun x => { x with state := .faulted }

theorem State.faulting_dropped (s : State) (c : Nat) : WorkDropped s c (s.faulting c) := (s.discardWork_dropped c).modCtx _

theorem State.ctx_faulting (s : State) (c : Nat) : ((s.faulting c).ctx c).state = .faulted ∧ ((s.faulting c).ctx c).cmd = (s.ctx c).cmd := by
  have here : ((s.discardWork c).ctx c).cmd = (s.ctx c).cmd := by
    refine congrArg Ctx.cmd (State.ctx_modCtx_same (s.dropSlots _) c fun x => { x with parked := [], suspended := [], leaving := [] }) |>.trans ?_
    rfl
  unfold State.faulting
  rw [State.ctx_modCtx_same]
  exact ⟨rfl, here⟩

def State.ending (s : State) (c : Nat) : State := (s.faulting c).modCtx c fun x => { x with cmd := none }

theorem State.ending_kept (s : State) (c : Nat) : (s.ending c).mqBase = s.mqBase ∧ (s.ending c).mqCfg = s.mqCfg ∧
    (s.ending c).cmds = s.cmds ∧ (s.ending c).mqDone = s.mqDone ∧ (s.ending c).jnext = s.jnext := by
  unfold State.ending State.faulting
  simp only [State.modCtx_mqBase, State.modCtx_mqCfg, State.modCtx_cmds, State.modCtx_mqDone, State.modCtx_jnext]
  exact s.discardWork_kept c

theorem State.faultCtx_eq (s : State) (c : Nat) : s.faultCtx c = match (s.ctx c).cmd with
    | some n => (s.ending c).endCmd n .fault
    | none => s.faulting c := by
  change (s.faulting c).finishCmd c .fault = _
  unfold State.finishCmd
  rw [(s.ctx_faulting c).2]
  rfl

/-- A context that faults loses its work, and is FAULTED (R350). -/
theorem State.faultCtx_dropped (s : State) (c : Nat) : WorkDropped s c (s.faultCtx c) ∧ ((s.faultCtx c).ctx c).state = .faulted := by
  rw [State.faultCtx_eq]
  cases (s.ctx c).cmd with
  | none => exact ⟨s.faulting_dropped c, (s.ctx_faulting c).1⟩
  | some n =>
    refine ⟨((s.faulting_dropped c).modCtx _).endCmd n .fault, ?_⟩
    dsimp only
    rw [State.endCmd_frame]
    change ((s.ending c).ctx c).state = _
    unfold State.ending
    rw [State.ctx_modCtx_same]
    exact (s.ctx_faulting c).1

section

variable {s u t : State} {c d : Nat}

/-- The groups of context d, by number, are those of s. -/
def GroupsKept (d : Nat) (s u : State) : Prop := ∀ gid g, s.group gid = some g → g.ctx = d → u.group gid = some g

theorem WorkDropped.groupsKept (h : WorkDropped u c t) (other : c ≠ d) (kept : GroupsKept d s u) : GroupsKept d s t := by
  intro gid g hg mine
  unfold State.group
  rw [h.groups]
  refine Store.find_filter_of_mem (kept gid g hg mine) ?_
  simp [mine, Ne.symm other]

/-- A context whose work has gone is FAULTED (R350, R351). -/
theorem WorkDropped.faultedIn (h : WorkDropped u d t) (state : (t.ctx d).state = .faulted) (kept : GroupsKept d s u) : FaultedIn d s t := by
  refine ⟨state, fun x hx => ?_, fun x hx => ?_, fun _ x hx g hg mine => ?_, fun w hw => ?_⟩
  · rw [h.kernels] at hx
    simpa using List.of_mem_filter hx
  · rw [h.groups] at hx
    simpa using List.of_mem_filter hx
  · rw [h.harts] at hx
    have out := List.of_mem_filter hx
    rw [kept _ g hg mine] at out
    simp [mine] at out
  · rw [h.work, h.busy] at hw
    rcases List.mem_append.1 hw with hw | hw <;> simpa using List.of_mem_filter hw

/-- A context that is FAULTED stays so while another loses its work. -/
theorem FaultedIn.drop (h : FaultedIn d s u) (next : WorkDropped u c t) (state : (t.ctx c).state = .faulted) : FaultedIn d s t := by
  obtain ⟨faulted, kernels, groups, harts, work⟩ := h
  refine ⟨?_, fun x hx => ?_, fun x hx => ?_, fun sorted x hx => ?_, fun w hw => ?_⟩
  · by_cases same : d = c
    · rw [same]
      exact state
    · rw [next.other d same]
      exact faulted
  · rw [next.kernels] at hx
    exact kernels x (List.mem_of_mem_filter hx)
  · rw [next.groups] at hx
    exact groups x (List.mem_of_mem_filter hx)
  · rw [next.harts] at hx
    exact harts sorted x (List.mem_of_mem_filter hx)
  · rw [next.work, next.busy] at hw
    exact work w (List.mem_append.2 ((List.mem_append.1 hw).imp List.mem_of_mem_filter List.mem_of_mem_filter))

theorem FaultedIn.journalAdd (h : FaultedIn d s u) (e : Entry) : FaultedIn d s (u.journalAdd e) := h

theorem FaultedIn.devf (h : FaultedIn d s u) (b : Bool) : FaultedIn d s { u with devf := b } := h

/-- One context of a device-wide fault. -/
def State.faultOne (s : State) (x : Nat × Ctx) : State := if x.2.state == .absent then s else s.faultCtx x.1

theorem State.faultOne_groupsKept {x : Nat × Ctx} (other : x.1 ≠ d) (kept : GroupsKept d s u) : GroupsKept d s (u.faultOne x) := by
  unfold State.faultOne
  split
  · exact kept
  · exact (u.faultCtx_dropped x.1).1.groupsKept other kept

theorem FaultedIn.faultOne (h : FaultedIn d s u) (x : Nat × Ctx) : FaultedIn d s (u.faultOne x) := by
  unfold State.faultOne
  split
  · exact h
  · exact FaultedIn.drop h (u.faultCtx_dropped x.1).1 (u.faultCtx_dropped x.1).2

theorem State.faultAll_groupsKept {l : List (Nat × Ctx)} (others : ∀ x ∈ l, x.1 ≠ d) (kept : GroupsKept d s u) :
    GroupsKept d s (l.foldl State.faultOne u) := by
  induction l generalizing u with
  | nil => exact kept
  | cons x l ih =>
    exact ih (fun y hy => others y (List.mem_cons_of_mem _ hy)) (State.faultOne_groupsKept (others x List.mem_cons_self) kept)

theorem FaultedIn.faultAll (h : FaultedIn d s u) (l : List (Nat × Ctx)) : FaultedIn d s (l.foldl State.faultOne u) := by
  induction l generalizing u with
  | nil => exact h
  | cons x l ih => exact ih (FaultedIn.faultOne h x)

/-- A device-wide fault faults every context that is not ABSENT (R351). -/
theorem State.faultAll_faultedIn (s : State) (present : (s.ctx d).state ≠ .absent) : FaultedIn d s (s.ctxs.foldl State.faultOne s) := by
  have found : s.ctxs.find d = some (s.ctx d) := by
    unfold State.ctx at *
    rw [Store.get_eq_find] at *
    cases h : s.ctxs.find d with
    | some x => rfl
    | none =>
      rw [h] at present
      exact absurd rfl present
  obtain ⟨pre, post, split, others⟩ := Store.split_of_find found
  have kept : GroupsKept d s (pre.foldl State.faultOne s) := State.faultAll_groupsKept others fun _ _ hg _ => hg
  rw [split, List.foldl_append, List.foldl_cons]
  refine FaultedIn.faultAll ?_ post
  unfold State.faultOne
  rw [if_neg (by simpa using present)]
  exact (State.faultCtx_dropped _ d).1.faultedIn (State.faultCtx_dropped _ d).2 kept

theorem State.deviceFault_eq (s : State) (unit fcode : Nat) (a : Word) : s.deviceFault unit fcode a =
    { (s.ctxs.foldl State.faultOne s).journalAdd ⟨7, 0xFF, unit, BitVec.ofNat 32 fcode, a, 0⟩ with devf := true } := rfl

/-- A device-wide fault (R14, R351). -/
theorem State.deviceFault_spec (s : State) (unit fcode : Nat) (a : Word) :
    let t := s.deviceFault unit fcode a
    t.devf = true ∧ t.journal.head? = some ⟨7, 0xFF, unit, BitVec.ofNat 32 fcode, a, 0⟩ ∧
      ∀ d, (s.ctx d).state ≠ .absent → FaultedIn d s t := by
  rw [State.deviceFault_eq]
  exact ⟨rfl, State.head?_journalAdd _ _, fun d present => FaultedIn.devf (FaultedIn.journalAdd (s.faultAll_faultedIn present) _) true⟩

/-- An uncorrectable fault of a context whose work it discards (R350, Table 6.4). -/
theorem State.faultCtx_spec (s : State) (c : Nat) :
    let t := s.faultCtx c
    FaultedIn c s t ∧ (∀ d, d ≠ c → t.ctx d = s.ctx d) ∧
      ((s.ctx c).cmd = none → t.mqDone = s.mqDone ∧ t.jnext = s.jnext) ∧
      ∀ i x, (s.ctx c).cmd = some i → s.cmds.find i = some x → ∃ u, CmdEnds u i x 5 t ∧
        t.mqDone = s.mqDone + 1 ∧ t.jnext = s.jnext + 1 ∧ u.mqBase = s.mqBase ∧ u.mqCfg = s.mqCfg ∧ u.cmds = s.cmds := by
  obtain ⟨dropped, state⟩ := s.faultCtx_dropped c
  refine ⟨dropped.faultedIn state fun _ _ hg _ => hg, dropped.other, fun none => ?_, fun i x running found => ?_⟩
  · rw [State.faultCtx_eq, none]
    change (s.faulting c).mqDone = _ ∧ (s.faulting c).jnext = _
    unfold State.faulting
    rw [State.modCtx_mqDone, State.modCtx_jnext]
    obtain ⟨-, -, -, count, number⟩ := s.discardWork_kept c
    exact ⟨count, number⟩
  · rw [State.faultCtx_eq, running]
    obtain ⟨base, cfg, cmds, count, number⟩ := s.ending_kept c
    have ends := State.endCmd_ends (s := s.ending c) (cmds ▸ found) .fault
    obtain ⟨-, -, done, -, entered, -⟩ := id ends
    exact ⟨_, ends, count ▸ done, number ▸ entered, base, cfg, cmds⟩

end

end Sys2Proof.Machine
end

section
/-! Power, temperature, soft errors, the start and the recovery, power loss, the clock and ATTEST (R10, R13, R14, R50, R244, R350, R360,
R362, R366 to R370). -/

namespace Sys2Proof.Machine

section

variable {s : State}

/-- One entry has been added to the journal (R370). -/
def Entered (u : State) (e : Entry) (t : State) : Prop := t.jnext = u.jnext + 1 ∧ t.journal = (e :: u.journal).take (2 ^ 20)

/-- Corrected errors have been recorded where they were due (R350, R370). -/
def ErrorsRecorded (u t : State) : Prop :=
  let due := u.softErrors ≠ 0 ∧ ∀ d, u.softLast = some d → d + 700000000 ≤ u.dclk.toNat
  (¬due → t = u) ∧ (due → Entered u ⟨8, 0xFF, 0, 0, BitVec.ofNat 64 u.softErrors, 0⟩ t ∧
    t = { u with journal := t.journal, jnext := t.jnext, softErrors := 0, softLast := some u.dclk.toNat })

/-- Corrected errors are due to be recorded, in the model's words. -/
def State.errorsDue (s : State) : Bool := s.softErrors != 0 && (match s.softLast with
  | some d => decide (d + 700000000 ≤ s.dclk.toNat)
  | none => true)

theorem State.errorsDue_iff (s : State) :
    s.errorsDue = true ↔ s.softErrors ≠ 0 ∧ ∀ d, s.softLast = some d → d + 700000000 ≤ s.dclk.toNat := by
  unfold State.errorsDue
  rw [Bool.and_eq_true, bne_iff_ne]
  cases s.softLast <;> simp

theorem State.recordErrors_recorded (s : State) : ErrorsRecorded s s.recordErrors := by
  have cases_on : s.recordErrors = if s.errorsDue then
      { s.journalAdd ⟨8, 0xFF, 0, 0, BitVec.ofNat 64 s.softErrors, 0⟩ with softErrors := 0, softLast := some s.dclk.toNat } else s := rfl
  refine ⟨fun idle => ?_, fun due => ?_⟩
  · rw [cases_on, if_neg fun e => idle (s.errorsDue_iff.1 e)]
  · rw [cases_on, if_pos (s.errorsDue_iff.2 due)]
    exact ⟨⟨rfl, rfl⟩, rfl⟩

/-- A measurement of module power (R13; log 71). -/
theorem powerMeasurement_spec (mw : Nat) (ready : s.status = .ready) : ∃ t, exec (.powerMeasurement mw) s = .next t ∧
    t = { s with limiting := t.limiting, withhold := t.withhold, belowFor := t.belowFor, journal := t.journal, jnext := t.jnext } ∧
    (3200000 < mw → t.limiting = true ∧ t.withhold = min 2 (s.withhold + 1) ∧ t.belowFor = 0) ∧
    (mw ≤ 3200000 → t.limiting = s.limiting ∧ t.withhold = s.withhold ∧ t.belowFor = if mw < 3100000 then s.belowFor + 1 else 0) ∧
    (3200000 < mw ∧ s.limiting = false → Entered s ⟨5, 0xFF, 0, 1, 0, 0⟩ t) ∧
    (mw ≤ 3200000 ∨ s.limiting = true → t.journal = s.journal ∧ t.jnext = s.jnext) := by
  have runs : (s.status != .ready) = false := by rw [ready]; rfl
  by_cases high : 3200000 < mw
  · cases limiting : s.limiting with
    | true =>
      refine ⟨{ s with limiting := true, withhold := min 2 (s.withhold + 1), belowFor := 0 }, ?_, rfl, fun _ => ⟨rfl, rfl, rfl⟩,
        fun low => absurd high (by omega), fun h => absurd h.2 (by simp), fun _ => ⟨rfl, rfl⟩⟩
      show execPowerMeasurement mw s = _
      unfold execPowerMeasurement
      rw [runs, limiting, if_neg Bool.false_ne_true, if_pos high, if_pos rfl]
    | false =>
      refine ⟨{ s.journalAdd ⟨5, 0xFF, 0, 1, 0, 0⟩ with limiting := true, withhold := min 2 (s.withhold + 1), belowFor := 0 }, ?_, rfl,
        fun _ => ⟨rfl, rfl, rfl⟩, fun low => absurd high (by omega), fun _ => ⟨rfl, rfl⟩, fun h => ?_⟩
      · show execPowerMeasurement mw s = _
        unfold execPowerMeasurement
        rw [runs, limiting, if_neg Bool.false_ne_true, if_pos high, if_neg Bool.false_ne_true]
        rfl
      · rcases h with low | limited
        · omega
        · cases limited
  · refine ⟨{ s with belowFor := if mw < 3100000 then s.belowFor + 1 else 0 }, ?_, rfl, fun h => absurd h high, fun _ => ⟨rfl, rfl, rfl⟩,
      fun h => absurd h.1 high, fun _ => ⟨rfl, rfl⟩⟩
    show execPowerMeasurement mw s = _
    unfold execPowerMeasurement
    rw [runs, if_neg Bool.false_ne_true, if_neg high]

theorem powerMeasurement_idle (mw : Nat) (h : s.status ≠ .ready) : exec (.powerMeasurement mw) s = .next s := by
  show execPowerMeasurement mw s = _
  unfold execPowerMeasurement
  rw [if_pos (by simpa using h)]

/-- Limiting ends (R13). -/
theorem powerLimitRelease_spec (limiting : s.limiting = true) (below : 10 ≤ s.belowFor) :
    ∃ t, exec .powerLimitRelease s = .next t ∧ Entered s ⟨5, 0xFF, 0, 0, 0, 0⟩ t ∧
      t = { s with limiting := false, withhold := 0, journal := t.journal, jnext := t.jnext } := by
  refine ⟨{ s.journalAdd ⟨5, 0xFF, 0, 0, 0, 0⟩ with limiting := false, withhold := 0 }, ?_, ⟨rfl, rfl⟩, rfl⟩
  show execPowerLimitRelease s = _
  unfold execPowerLimitRelease
  rw [if_pos (by simp [limiting, below])]

theorem thermalStop_spec {die : Nat} (h : die < 4) : ∃ t, exec (.thermalStop die) s = .next t ∧ t = { s with stopped := t.stopped } ∧
    ∀ d, d ∈ t.stopped ↔ d ∈ s.stopped ∨ d = die := by
  refine ⟨{ s with stopped := insertNat die s.stopped }, ?_, rfl, fun d => mem_insertNat.trans or_comm⟩
  show execThermalStop die s = _
  unfold execThermalStop
  rw [if_pos h]

theorem thermalRestart_spec (die : Nat) : ∃ t, exec (.thermalRestart die) s = .next t ∧ t = { s with stopped := t.stopped } ∧
    ∀ d, d ∈ t.stopped ↔ d ∈ s.stopped ∧ d ≠ die :=
  ⟨{ s with stopped := s.stopped.filter (· != die) }, rfl, rfl, fun d => by simp⟩

/-- A fault of a part that the whole module shares (R14, R351). -/
theorem deviceFault_spec {unit fcode die : Nat} {a : Word} {i : Instr} (hi : i = .thermalTrip die ∨ i = .deviceWideFault unit fcode a)
    (on : s.status ≠ .reset) (usable : s.status ≠ .fault) : ∃ t e, exec i s = .next t ∧ t.devf = true ∧ t.journal.head? = some e ∧
      e.kind = 7 ∧ e.ctx = 0xFF ∧ (i = .deviceWideFault unit fcode a → e = ⟨7, 0xFF, unit, BitVec.ofNat 32 fcode, a, 0⟩) ∧
      ∀ d, (s.ctx d).state ≠ .absent → FaultedIn d s t := by
  have runs : s.crownRuns = true := by
    unfold State.crownRuns
    simp [on, usable]
  rcases hi with rfl | rfl
  · have run : exec (.thermalTrip die) s = .next (s.deviceFault (Config.faultCode (2 * die)) (Config.faultCode (2 * die + 1)) 0) := by
      show execThermalTrip die s = _
      unfold execThermalTrip
      rw [if_pos runs]
    obtain ⟨devf, newest, faulted⟩ := s.deviceFault_spec (Config.faultCode (2 * die)) (Config.faultCode (2 * die + 1)) 0
    rw [run]
    generalize s.deviceFault (Config.faultCode (2 * die)) (Config.faultCode (2 * die + 1)) 0 = t at *
    exact ⟨t, _, rfl, devf, newest, rfl, rfl, fun e => Instr.noConfusion e, faulted⟩
  · have run : exec (.deviceWideFault unit fcode a) s = .next (s.deviceFault unit fcode a) := by
      show execDeviceWideFault unit fcode a s = _
      unfold execDeviceWideFault
      rw [if_pos runs]
    obtain ⟨devf, newest, faulted⟩ := s.deviceFault_spec unit fcode a
    rw [run]
    generalize s.deviceFault unit fcode a = t at *
    exact ⟨t, _, rfl, devf, newest, rfl, rfl, fun _ => rfl, faulted⟩

/-- An uncorrectable fault of a context at work (R350, Table 6.4). -/
theorem uncorrectableFault_spec {c : Nat} (unit fcode : Nat) (a : Word) (state : (s.ctx c).state ∈ [.active, .growing, .shrinking]) :
    ∃ t, exec (.uncorrectableFault c unit fcode a) s = .next t ∧ FaultedIn c s t ∧
      t.journal.head? = some ⟨7, c, unit, BitVec.ofNat 32 fcode, a, 0⟩ ∧ (∀ d, d ≠ c → t.ctx d = s.ctx d) ∧
      ((s.ctx c).cmd = none → t.mqDone = s.mqDone ∧ t.jnext = s.jnext + 1) ∧
      ∀ i x, (s.ctx c).cmd = some i → s.cmds.find i = some x → ∃ u w, CmdEnds u i x 5 w ∧ t.cmds = w.cmds ∧ t.mem = w.mem ∧
        t.mqDone = s.mqDone + 1 ∧ t.jnext = s.jnext + 2 ∧ u.mqBase = s.mqBase ∧ u.mqCfg = s.mqCfg ∧ u.cmds = s.cmds := by
  obtain ⟨faulted, others, idle, running⟩ := s.faultCtx_spec c
  have run : exec (.uncorrectableFault c unit fcode a) s = .next ((s.faultCtx c).journalAdd ⟨7, c, unit, BitVec.ofNat 32 fcode, a, 0⟩) := by
    show execUncorrectableFault c unit fcode a s = _
    unfold execUncorrectableFault
    simp only [List.mem_cons, List.not_mem_nil, or_false] at state
    rcases state with h | h | h <;> rw [h]
  rw [run]
  generalize s.faultCtx c = u at *
  refine ⟨_, rfl, FaultedIn.journalAdd faulted _, State.head?_journalAdd _ _, others, fun none => ?_, fun i x cmd found => ?_⟩
  · obtain ⟨count, number⟩ := idle none
    exact ⟨count, congrArg (· + 1) number⟩
  · obtain ⟨w, ends, count, number, base, cfg, cmds⟩ := running i x cmd found
    exact ⟨w, _, ends, rfl, rfl, count, congrArg (· + 1) number, base, cfg, cmds⟩

theorem uncorrectableFault_noted {c : Nat} (unit fcode : Nat) (a : Word) (state : (s.ctx c).state ∈ [.forming, .draining, .faulted]) :
    ∃ t, exec (.uncorrectableFault c unit fcode a) s = .next t ∧ Entered s ⟨7, c, unit, BitVec.ofNat 32 fcode, a, 0⟩ t ∧
      t = { s with journal := t.journal, jnext := t.jnext } := by
  refine ⟨s.journalAdd ⟨7, c, unit, BitVec.ofNat 32 fcode, a, 0⟩, ?_, ⟨rfl, rfl⟩, rfl⟩
  show execUncorrectableFault c unit fcode a s = _
  unfold execUncorrectableFault
  simp only [List.mem_cons, List.not_mem_nil, or_false] at state
  rcases state with h | h | h <;> rw [h]

theorem correctedSoftError_spec (n : Nat) (ready : s.status = .ready) :
    ∃ t, exec (.correctedSoftError n) s = .next t ∧ ErrorsRecorded { s with softErrors := s.softErrors + n } t := by
  refine ⟨_, ?_, State.recordErrors_recorded _⟩
  show execCorrectedSoftError n s = _
  unfold execCorrectedSoftError
  rw [ready]
  exact congrArg _ (if_pos rfl)

/-- A full exception table is spilled (R244). -/
theorem exceptionTableSpill_spec {n : Nat} (full : 256 ≤ (s.escaped.filter fun p => p / 2 ^ 31 = n).length) :
    ∃ t, exec (.exceptionTableSpill n) s = .next t ∧
      t = { s with escaped := t.escaped, spilled := s.spilled ++ s.escaped.filter fun p => p / 2 ^ 31 = n } ∧
      ∀ p, p ∈ t.escaped ↔ p ∈ s.escaped ∧ p / 2 ^ 31 ≠ n := by
  have same : (fun p => p / 2 ^ 31 == n) = fun p : Nat => decide (p / 2 ^ 31 = n) := funext fun p => beq_eq_decide _ _
  refine ⟨{ s with
    escaped := s.escaped.filter fun p => p / 2 ^ 31 != n, spilled := s.spilled ++ s.escaped.filter fun p => p / 2 ^ 31 = n }, ?_, rfl,
    fun p => by rw [List.mem_filter, bne_iff_ne]⟩
  show execExceptionTableSpill n s = _
  unfold execExceptionTableSpill
  rw [same, if_neg (Nat.not_lt.2 full)]

/-- What the Crown notes when power comes, before step 1 (R366). -/
def State.powered (s : State) : State :=
  { s with status := .starting, step := 1, starts := s.starts + 1, booted := if s.flashOk then s.flash else .spoiled, recoveries := [] }

/-- The count of starts, the image that was read, the flash and the recoveries are those of s. -/
def SameImages (s t : State) : Prop :=
  t.starts = s.starts ∧ t.recoveries = s.recoveries ∧ t.booted = s.booted ∧ t.writingFlash = s.writingFlash ∧ t.flashOk = s.flashOk ∧
    t.flash = s.flash

theorem SameImages.startFails {u : State} (h : SameImages s u) (n unit : Nat) (done : List StartEntry) :
    SameImages s (u.startFails n unit done) := h

theorem State.afterFencing_sameImages (s : State) (r : StartReport) : SameImages s (s.afterFencing r) := ⟨rfl, rfl, rfl, rfl, rfl, rfl⟩

theorem State.afterLinks_sameImages (s : State) (r : StartReport) : SameImages s (s.afterLinks r) := by
  have fenced := s.afterFencing_sameImages r
  unfold State.afterLinks
  generalize s.afterFencing r = u at *
  exact fenced

theorem State.startPassed_sameImages (s : State) (r : StartReport) (done : List StartEntry) : SameImages s (s.startPassed r done) := by
  have linked := s.afterLinks_sameImages r
  unfold State.startPassed
  generalize s.afterLinks r = u at *
  exact linked

/-- A start from step 2 leaves the images and the counts of those before it. -/
theorem State.startFrom2_sameImages (s : State) (r : StartReport) (done : List StartEntry) : SameImages s (s.startFrom2 r done) := by
  cases banks : firstFail r.banksFail 256 with
  | some b =>
    rw [State.startFrom2_bank banks]
    exact (s.afterFencing_sameImages r).startFails _ _ _
  | none =>
    cases pairs : firstFail r.pairsFail 6 with
    | some p =>
      rw [State.startFrom2_pair banks pairs]
      exact (s.afterFencing_sameImages r).startFails _ _ _
    | none =>
      cases secrets : r.secretsOk with
      | false =>
        rw [State.startFrom2_secrets banks pairs secrets]
        exact (s.afterLinks_sameImages r).startFails _ _ _
      | true =>
        rw [State.startFrom2_ready banks pairs secrets]
        exact s.startPassed_sameImages r done

/-- A start looks only at the record of the start before. -/
theorem Started.of_record {u : State} {r : StartReport} {first : StartEntry} {t : State} (same : u.startRecord = s.startRecord)
    (h : Started u r first t) : Started s r first t := by
  unfold Started at *
  rw [same] at h
  exact h

theorem execCrownStart_of (r : StartReport) (off : s.status = .reset) : execCrownStart r s = .next
    (if s.flashOk && r.firmwareOk then s.powered.startFrom2 r [⟨1, 0, 0, 0⟩]
    else { s.powered with status := .recovery, startRecord := ⟨1, 0, 3, 0⟩ :: s.startRecord.filter fun e => e.step != 1 }) := by
  unfold execCrownStart
  rw [off]
  exact congrArg Host.Outcome.next (if_neg (by decide))

/-- Power comes on (R366). -/
theorem crownStart_spec (r : StartReport) (off : s.status = .reset) :
    ∃ t, exec (.crownStart r) s = .next t ∧ t.starts = s.starts + 1 ∧ t.recoveries = [] ∧
      t.booted = (if s.flashOk then s.flash else .spoiled) ∧
      (s.flashOk = true → r.firmwareOk = true → Started s r ⟨1, 0, 0, 0⟩ t) ∧
      (s.flashOk = false ∨ r.firmwareOk = false → t = { s with
          status := .recovery, step := 1, starts := s.starts + 1, startRecord := t.startRecord, booted := t.booted, recoveries := [] } ∧
        ∀ e, e ∈ t.startRecord ↔ e = ⟨1, 0, 3, 0⟩ ∨ (e ∈ s.startRecord ∧ e.step ≠ 1)) := by
  have run : exec (.crownStart r) s = _ := execCrownStart_of r off
  cases ok : s.flashOk && r.firmwareOk with
  | true =>
    rw [ok, if_pos rfl] at run
    obtain ⟨flash, firmware⟩ := Bool.and_eq_true_iff.1 ok
    obtain ⟨starts, recoveries, booted, -⟩ := s.powered.startFrom2_sameImages r [⟨1, 0, 0, 0⟩]
    have started := Started.of_record (s := s) rfl (s.powered.startFrom2_started r ⟨1, 0, 0, 0⟩)
    rw [run]
    generalize s.powered.startFrom2 r [⟨1, 0, 0, 0⟩] = t at *
    refine ⟨t, rfl, starts, recoveries, booted, fun _ _ => started, fun bad => ?_⟩
    rcases bad with bad | bad
    · rw [flash] at bad
      cases bad
    · rw [firmware] at bad
      cases bad
  | false =>
    rw [ok, if_neg Bool.false_ne_true] at run
    refine ⟨_, run, rfl, rfl, rfl, fun flash firmware => ?_, fun _ => ⟨rfl, fun e => ?_⟩⟩
    · rw [flash, firmware] at ok
      cases ok
    · rw [List.mem_cons, List.mem_filter, bne_iff_ne]

/-- In RECOVERY, STATUS takes a 1 (R368). -/
theorem recoveryStatusWrite_spec (v : BitVec 32) (recovery : s.status = .recovery) (idle : s.verifying = false) :
    exec (.recoveryStatusWrite v) s = .next (if v = 1 then { s with verifying := true } else s) := by
  show execRecoveryStatusWrite v s = _
  unfold execRecoveryStatusWrite
  rw [recovery, idle]
  by_cases one : v = 1 <;> simp [one]

/-- The verification of a recovery image ends (R368). -/
theorem recoveryImageVerified_spec (r : StartReport) (recovery : s.status = .recovery) (verifying : s.verifying = true) :
    exec (.recoveryImageVerified false r) s = .next { s with verifying := false, fcode := 1 } ∧
      exec (.recoveryImageVerified true r) s = .next { s with
        verifying := false, flashOk := false, flash := .written s.window, writingFlash := true, report := some r
        recoveries := s.recoveries ++ [s.window], status := .starting, fcode := 0 } := by
  have goes : (s.status != .recovery || !s.verifying) = false := by rw [recovery, verifying]; rfl
  refine ⟨?_, ?_⟩
  · show execRecoveryImageVerified false r s = _
    unfold execRecoveryImageVerified
    rw [goes]
    rfl
  · show execRecoveryImageVerified true r s = _
    unfold execRecoveryImageVerified
    rw [goes]
    rfl

/-- A flash image stands. -/
def State.flashed (s : State) : State := { s with writingFlash := false, flashOk := true, report := none }

/-- The write of a flash image ends with a clock, and the start goes on (R368; log 52). -/
theorem clock_flash {r : StartReport} (writing : s.writingFlash = true) (report : s.report = some r) :
    ∃ t, exec .clock s = .next t ∧ t.writingFlash = false ∧ t.flashOk = true ∧ t.flash = s.flash ∧ t.recoveries = s.recoveries ∧
      Started s r ⟨1, 0, 3, 0⟩ t := by
  have run : exec .clock s = .next (s.flashed.startFrom2 r [⟨1, 0, 3, 0⟩]) := by
    show execClock s = _
    unfold execClock
    rw [if_pos writing]
    unfold State.flashDone
    rw [report]
    rfl
  obtain ⟨-, recoveries, -, flashing, ok, flash⟩ := s.flashed.startFrom2_sameImages r [⟨1, 0, 3, 0⟩]
  have started := Started.of_record (s := s) rfl (s.flashed.startFrom2_started r ⟨1, 0, 3, 0⟩)
  rw [run]
  generalize s.flashed.startFrom2 r [⟨1, 0, 3, 0⟩] = t at *
  exact ⟨t, rfl, flashing, ok, flash, recoveries, started⟩

/-- Power is lost (R368; log 49). -/
theorem powerLoss_spec (s : State) : ∃ t, exec .powerLoss s = .next t ∧ t.status = .reset ∧
    (∀ k, t.byte k = if k < 2 ^ 60 then 0 else s.byte k) ∧ t = { State.reset with
      mem := t.mem, flashOk := s.flashOk, flash := s.flash, startRecord := s.startRecord, starts := s.starts, attests := s.attests
      stamp := s.stamp, agenda := s.agenda } := by
  refine ⟨_, rfl, rfl, fun k => ?_, rfl⟩
  change Store.get _ (s.mem.filter fun c => decide (2 ^ 60 ≤ c.1)) k = _
  rw [Store.get_filter_key _ s.mem (fun j => decide (2 ^ 60 ≤ j))]
  by_cases low : k < 2 ^ 60
  · rw [if_neg (by simpa using low), if_pos low]
    rfl
  · rw [if_pos (by simpa using low), if_neg low]
    rfl

theorem clock_idle (still : s.writingFlash = false) (h : s.status ≠ .ready) : exec .clock s = .next s := by
  show execClock s = _
  unfold execClock
  rw [if_neg (by rw [still]; exact Bool.false_ne_true), if_pos (by simpa using h)]

end

end Sys2Proof.Machine
end

section
/-! The clock of the module and ATTEST (R10, R50, R360, R362, R369). -/

namespace Sys2Proof.Machine

section

variable {s : State}

/-- A number with its bytes one by one. -/
theorem ofNat_byte_congr {x y : Nat} (h : x % 256 = y % 256) : BitVec.ofNat 8 x = BitVec.ofNat 8 y :=
  BitVec.eq_of_toNat_eq (by simpa using h)

/-- A trace record has the fields of Table 27.4 (R360). -/
theorem traceRecord_eq (d : Word) (w : PipeWork) (done : Bool) : traceRecord d w done = traceBytes d w done.toNat := by
  unfold traceRecord traceBytes
  change bytesOf _ 6 ++ _ ++ bytesOf w.tag.toNat 4 = (List.range 16).map fun i => BitVec.ofNat 8
    ((d.toNat % 2 ^ 48 + w.spire % 256 * 2 ^ 48 + (128 * done.toNat + w.pipe) % 256 * 2 ^ 56 + w.frame % 256 * 2 ^ 64 + w.tag.toNat * 2 ^ 96) /
      2 ^ (8 * i))
  have tag := w.tag.isLt
  generalize w.tag.toNat = t at *
  have clock : d.toNat % 2 ^ 48 < 2 ^ 48 := Nat.mod_lt _ (by norm_num)
  generalize d.toNat % 2 ^ 48 = c at *
  have padding : (0 : Byte) = BitVec.ofNat 8 0 := rfl
  simp only [bytesOf_eq_range, List.range_succ, List.range_zero, List.map_cons, List.map_nil, List.nil_append, List.cons_append,
    List.cons.injEq, padding, and_true]
  repeat' apply And.intro
  all_goals exact ofNat_byte_congr (by omega)

theorem State.traceWork_eq (s : State) (w : PipeWork) (done : Bool) : s.traceWork w done = Traced s w done.toNat := by
  unfold State.traceWork Traced
  rw [traceRecord_eq]

/-- A hart counts its clocks while its group runs (R50). -/
theorem State.counting_iff (s : State) (h : Hart) :
    s.counting h = true ↔ h.halted = false ∧ (s.group h.gid).any (fun g => g.state = .running) = true := by
  unfold State.counting
  rw [Bool.and_eq_true, Bool.not_eq_true']
  cases s.group h.gid <;> simp

/-- The data for register r, or the elements of stream buffer r - 128, are there for hart k. -/
def CameFor (s : State) (k : Nat) (h : Hart) (r : Nat) : Prop :=
  (r < 128 → ∀ l ∈ h.landing, r ∉ l) ∧ (128 ≤ r → ∀ x, s.streams.find (8 * spireOf k + (r - 128)) = some x → x.want ≤ x.next)

theorem State.hasCome_iff (s : State) (k : Nat) (h : Hart) (r : Nat) : s.hasCome k h r = true ↔ CameFor s k h r := by
  unfold State.hasCome CameFor engineKey
  by_cases low : r < 128
  · simp [low, Nat.not_le.2 low]
  · rw [if_neg low]
    cases s.streams.find (8 * spireOf k + (r - 128)) <;> simp [low, Nat.not_lt.1 low]

/-- The data that the next instruction of hart k waits for have come. -/
def DataCame (s : State) (k : Nat) (h : Hart) : Prop := match h.pending with
  | some (.remote _ there _ _) => there = true
  | some (.ticket todo _ _ _ _) => todo = []
  | _ => h.awaited ≠ [] ∧ ∀ r ∈ h.awaited, CameFor s k h r

theorem State.dataCame_iff (s : State) (k : Nat) (h : Hart) : s.dataCame k h = true ↔ DataCame s k h := by
  have awaited : (!h.awaited.isEmpty && h.awaited.all (s.hasCome k h)) = true ↔ h.awaited ≠ [] ∧ ∀ r ∈ h.awaited, CameFor s k h r := by
    rw [Bool.and_eq_true, List.all_eq_true, Bool.not_eq_true', List.isEmpty_eq_false_iff]
    simp only [s.hasCome_iff, ne_eq]
  unfold State.dataCame DataCame
  cases h.pending with
  | none => exact awaited
  | some p =>
    cases p with
    | remote => exact Iff.rfl
    | ticket => exact List.isEmpty_iff
    | _ => exact awaited

/-- The state after the counters of one clock have risen (R10, R50, R362). -/
def State.ticked (s : State) : State :=
  { s with
    dclk := s.dclk + 1
    harts := Store.mapVal (fun k h => if s.counting h then h.tick (s.freeToIssue k h) (s.dataCame k h) else h) s.harts
    ctxs := Store.mapVal (fun _ x => if x.fullPark then { x with tstolen := x.tstolen + 1 } else x) s.ctxs
    pipeBusy := [] }

theorem State.endWork_eq (s : State) : s.endWork = s.pipeBusy.foldl (fun s w => Traced s w 1) { s with pipeBusy := [] } := by
  unfold State.endWork
  congr 1
  funext s w
  exact s.traceWork_eq w true

theorem execClock_running (still : s.writingFlash = false) (ready : s.status = .ready) :
    execClock s = .next (State.recordErrors (s.pipeBusy.foldl (fun s w => Traced s w 1) s.ticked)) := by
  unfold execClock
  rw [if_neg (by rw [still]; exact Bool.false_ne_true), if_neg (by rw [ready]; decide), State.endWork_eq]
  rfl

theorem State.ctx_ticked (s : State) (d : Nat) :
    s.ticked.ctx d = { s.ctx d with tstolen := if (s.ctx d).fullPark then (s.ctx d).tstolen + 1 else (s.ctx d).tstolen } := by
  refine (Store.get_mapVal Ctx.zero (fun _ x => if x.fullPark then { x with tstolen := x.tstolen + 1 } else x) s.ctxs d rfl).trans ?_
  change (if (s.ctx d).fullPark then { s.ctx d with tstolen := (s.ctx d).tstolen + 1 } else s.ctx d) = _
  cases (s.ctx d).fullPark <;> rfl

theorem State.hart_ticked {k : Nat} {h : Hart} (hk : s.hart k = some h) :
    s.ticked.hart k = some (if s.counting h then h.tick (s.freeToIssue k h) (s.dataCame k h) else h) := by
  refine (Store.find_mapVal (fun k h => if s.counting h then h.tick (s.freeToIssue k h) (s.dataCame k h) else h) s.harts k).trans ?_
  change (s.hart k).map _ = _
  rw [hk]
  rfl

/-- One clock of a module that runs (R10, R50, R360, R362). -/
theorem clock_running (still : s.writingFlash = false) (ready : s.status = .ready) : ∃ t u, exec .clock s = .next t ∧
    ErrorsRecorded (s.pipeBusy.foldl (fun s w => Traced s w 1) u) t ∧
    u = { s with dclk := s.dclk + 1, harts := u.harts, ctxs := u.ctxs, pipeBusy := [] } ∧
    (∀ d, u.ctx d = { s.ctx d with tstolen := if (s.ctx d).fullPark then (s.ctx d).tstolen + 1 else (s.ctx d).tstolen }) ∧
    ∀ k h, s.hart k = some h →
      (¬(h.halted = false ∧ (s.group h.gid).any (fun g => g.state = .running)) → u.hart k = some h) ∧
      (h.halted = false → (s.group h.gid).any (fun g => g.state = .running) = true → ∃ x, u.hart k = some x ∧
        x = { h with hclk := h.hclk + 1, hstall := x.hstall, memStall := x.memStall, landed := [] } ∧
        (x.memStall = true ↔ h.memStall = true ∧ ¬DataCame s k h) ∧
        x.hstall = if h.memStall = true ∧ h.live = true ∧ s.mayIssue k = true ∧ s.dieRuns (spireOf k) = true then h.hstall + 1
          else h.hstall) := by
  refine ⟨_, s.ticked, execClock_running still ready, State.recordErrors_recorded _, rfl, s.ctx_ticked, fun k h hk => ⟨fun rests => ?_, fun live runs => ?_⟩⟩
  · rw [State.hart_ticked hk, if_neg fun e => rests ((s.counting_iff h).1 e)]
  · refine ⟨h.tick (s.freeToIssue k h) (s.dataCame k h), ?_, rfl, ?_, ?_⟩
    · rw [State.hart_ticked hk, if_pos ((s.counting_iff h).2 ⟨live, runs⟩)]
    · rw [← s.dataCame_iff]
      change (h.memStall && !s.dataCame k h) = true ↔ _
      simp
    · change (if (h.memStall && s.freeToIssue k h) = true then h.hstall + 1 else h.hstall) = _
      unfold State.freeToIssue
      simp only [Bool.and_eq_true, and_assoc]

/-- A command whose turn it is (R93). -/
theorem State.turn_of {n opc : Nat} {c : Cmd} (h : CmdTurn s n opc c) : s.turn n opc = some c := by
  obtain ⟨found, code, fresh, good, oldest⟩ := h
  have first : s.inOrder n c = true := by
    refine List.all_eq_true.2 fun x hx => ?_
    rw [Bool.or_eq_true, bne_iff_ne, decide_eq_true_iff]
    exact or_iff_not_imp_left.2 fun same => oldest x hx (not_not.1 same)
  unfold State.turn
  rw [found]
  simp [code, fresh, good, first]

theorem length_chainValue (l : List (List Byte)) : (chainValue l).length = 64 := by
  unfold chainValue
  induction l using List.reverseRecOn with
  | nil => rfl
  | append_singleton l c _ => rw [List.foldl_append, List.foldl_cons, List.foldl_nil, shake256_length]

/-- The signature that ATTEST writes (R369; logs 31, 68). -/
def State.signatureFor (s : State) (a : Nat) : List Byte :=
  (Config.signature s.attests (shake256 (s.bytes (hostKey a) 32 ++ chainValue s.components ++ identity) 64)).take 3902

/-- ATTEST has been counted. -/
def State.attested (s : State) (n : Nat) : State := { s with attests := n }

theorem State.attested_frame {v : State} (h : v = { s with mem := v.mem }) (n : Nat) :
    v.attested n = { s with mem := (v.attested n).mem, attests := n } := by
  unfold State.attested
  rw [h]

theorem State.setBytes_twice (s : State) (j k : Nat) (l m : List Byte) :
    (s.setBytes j l).setBytes k m = { s with mem := ((s.setBytes j l).setBytes k m).mem } := by
  rw [(s.setBytes j l).setBytes_frame, s.setBytes_frame]

/-- What ATTEST leaves in the buffer at a (R369). -/
theorem State.attestWrites_eq (s : State) (a : Nat) : s.attestWrites a =
    ((s.hostWrite (a + 64) (chainValue s.components ++ bytesOf s.components.length 8)).hostWrite (a + 192)
      (bytesOf (s.signatureFor a).length 2 ++ s.signatureFor a)).attested (s.attests + 1) := rfl

theorem hostKey_add (a n : Nat) : hostKey (a + n) = hostKey a + n := (Nat.add_assoc _ _ _).symm

/-- ATTEST over a host link that carries flits (R369): chain value and count of measurements from byte 64, the signature's length and the
signature from byte 192. -/
theorem State.attestWrites_up (s : State) (a : Nat) (up : s.linkUp hostLink = true) :
    let u := s.attestWrites a
    let chain := chainValue s.components
    let sig := s.signatureFor a
    u = { s with mem := u.mem, attests := s.attests + 1 } ∧
      (∀ i, i < 64 → u.byte (hostKey a + 64 + i) = chain.getD i 0) ∧
      (∀ i, i < 8 → u.byte (hostKey a + 128 + i) = BitVec.ofNat 8 (s.components.length / 2 ^ (8 * i))) ∧
      (∀ i, i < 2 → u.byte (hostKey a + 192 + i) = BitVec.ofNat 8 (sig.length / 2 ^ (8 * i))) ∧
      (∀ i, i < sig.length → u.byte (hostKey a + 194 + i) = sig.getD i 0) ∧
      ∀ k, (k < hostKey a ∨ hostKey a + 4096 ≤ k) → u.byte k = s.byte k := by
  intro u chain sig
  have long : chain.length = 64 := length_chainValue _
  have short : sig.length ≤ 3902 := List.length_take_le _ _
  have written : u = ((s.setBytes (hostKey a + 64) (chain ++ bytesOf s.components.length 8)).setBytes (hostKey a + 192)
      (bytesOf sig.length 2 ++ sig)).attested (s.attests + 1) := by
    change s.attestWrites a = _
    rw [s.attestWrites_eq, State.hostWrite_up up, State.hostWrite_up (by rw [State.linkUp_setBytes]; exact up), hostKey_add, hostKey_add]
  clear_value u chain sig
  have second (k : Nat) : u.byte k =
      ((s.setBytes (hostKey a + 64) (chain ++ bytesOf s.components.length 8)).setBytes (hostKey a + 192) (bytesOf sig.length 2 ++ sig)).byte k := by
    rw [written]
    rfl
  have first (k : Nat) (outside : k < hostKey a + 192 ∨ hostKey a + 4096 ≤ k) :
      u.byte k = (s.setBytes (hostKey a + 64) (chain ++ bytesOf s.components.length 8)).byte k := by
    rw [second, State.byte_setBytes_outside]
    rw [List.length_append, bytesOf_length]
    omega
  refine ⟨?_, fun i hi => ?_, fun i hi => ?_, fun i hi => ?_, fun i hi => ?_, fun k outside => ?_⟩
  · rw [written]
    exact State.attested_frame (s.setBytes_twice _ _ _ _) _
  · rw [first _ (by omega)]
    refine State.byte_setBytes_of_getElem? ?_
    rw [List.getElem?_append_left (by omega), List.getD_eq_getElem?_getD, List.getElem?_eq_getElem (by omega)]
    rfl
  · rw [first _ (by omega), show hostKey a + 128 + i = hostKey a + 64 + (64 + i) by omega]
    refine State.byte_setBytes_of_getElem? ?_
    rw [List.getElem?_append_right (by omega), long, Nat.add_sub_cancel_left, getElem?_bytesOf _ _ _ hi]
  · rw [second]
    refine State.byte_setBytes_of_getElem? ?_
    rw [List.getElem?_append_left (by rwa [bytesOf_length]), getElem?_bytesOf _ _ _ hi]
  · rw [second, show hostKey a + 194 + i = hostKey a + 192 + (2 + i) by omega]
    refine State.byte_setBytes_of_getElem? ?_
    rw [List.getElem?_append_right (by rw [bytesOf_length]; omega), bytesOf_length, Nat.add_sub_cancel_left, List.getD_eq_getElem?_getD,
      List.getElem?_eq_getElem hi]
    rfl
  · rw [first _ (by omega), State.byte_setBytes_outside]
    rw [List.length_append, bytesOf_length]
    omega

/-- ATTEST while the host link is dead leaves the buffer (R337, R369). -/
theorem State.attestWrites_dead (s : State) (a : Nat) (down : s.linkUp hostLink = false) (dead : s.linkDead hostLink = true) :
    s.attestWrites a = s.attested (s.attests + 1) := by
  rw [s.attestWrites_eq, State.hostWrite_dead down dead, State.hostWrite_dead down dead]

/-- The host link trains when it neither carries flits nor is dead (Table 24.1). -/
theorem State.training_iff (s : State) (l : Nat) :
    (s.link l).state = .training ↔ s.linkUp l = false ∧ s.linkDead l = false := by
  unfold State.linkUp State.linkDead
  cases (s.link l).state <;> decide

/-- ATTEST (R369; logs 31, 47, 68). -/
theorem attest_spec {n : Nat} {m : Cmd} (turn : CmdTurn s n 12 m) :
    let bad := m.ctx ≠ 0 ∨ m.arg0.toNat % 4096 ≠ 0 ∨ m.arg1 ≠ 0 ∨ m.qmask ≠ 0
    let at_ := hostKey m.arg0.toNat
    let chain := chainValue s.components
    let sig := s.signatureFor m.arg0.toNat
    (bad → Refused (.attest n) s n m 1) ∧
      (¬bad → (s.link hostLink).state = .training → exec (.attest n) s = .next s) ∧
      (¬bad → (s.link hostLink).state ≠ .training → ∃ t u, exec (.attest n) s = .next t ∧ CmdEnds u n m 0 t ∧
        u = { s with mem := u.mem, attests := s.attests + 1 } ∧ (s.linkUp hostLink = false → u.mem = s.mem) ∧
        (s.linkUp hostLink = true →
          (∀ i, i < 64 → u.byte (at_ + 64 + i) = chain.getD i 0) ∧
          (∀ i, i < 8 → u.byte (at_ + 128 + i) = BitVec.ofNat 8 (s.components.length / 2 ^ (8 * i))) ∧
          (∀ i, i < 2 → u.byte (at_ + 192 + i) = BitVec.ofNat 8 (sig.length / 2 ^ (8 * i))) ∧
          (∀ i, i < sig.length → u.byte (at_ + 194 + i) = sig.getD i 0) ∧
          ∀ k, (k < at_ ∨ at_ + 4096 ≤ k) → u.byte k = s.byte k)) := by
  intro bad at_ chain sig
  have found : s.cmds.find n = some m := turn.1
  have refused : (m.ctx != 0 || m.arg0.toNat % 4096 != 0 || m.arg1 != 0 || m.qmask != 0) = true ↔ bad := by
    simp only [Bool.or_eq_true, bne_iff_ne, or_assoc]
    rfl
  have run : exec (.attest n) s = .next (if m.ctx != 0 || m.arg0.toNat % 4096 != 0 || m.arg1 != 0 || m.qmask != 0 then s.endCmd n .inval
      else if !s.linkUp hostLink && !s.linkDead hostLink then s else (s.attestWrites m.arg0.toNat).endCmd n .ok) := by
    show execAttest n s = _
    unfold execAttest
    rw [State.turn_of turn]
  refine ⟨fun isBad => ?_, fun good training => ?_, fun good training => ?_⟩
  · rw [if_pos (refused.2 isBad)] at run
    exact ⟨_, run, State.endCmd_ends found .inval⟩
  · obtain ⟨down, alive⟩ := (s.training_iff hostLink).1 training
    rw [if_neg fun e => good (refused.1 e), if_pos (by rw [down, alive]; rfl)] at run
    exact run
  · have goes : ¬(!s.linkUp hostLink && !s.linkDead hostLink) = true := by
      rw [Bool.and_eq_true, Bool.not_eq_true', Bool.not_eq_true', ← s.training_iff]
      exact training
    rw [if_neg fun e => good (refused.1 e), if_neg goes] at run
    cases up : s.linkUp hostLink with
    | true =>
      obtain ⟨frame, bytes⟩ := s.attestWrites_up m.arg0.toNat up
      have listed : (s.attestWrites m.arg0.toNat).cmds.find n = some m := by
        rw [frame]
        exact found
      exact ⟨_, _, run, State.endCmd_ends listed .ok, frame, fun e => Bool.noConfusion e, fun _ => bytes⟩
    | false =>
      have dead : s.linkDead hostLink = true := by simpa [up] using goes
      rw [s.attestWrites_dead _ up dead] at run
      exact ⟨_, _, run, State.endCmd_ends (s := s.attested (s.attests + 1)) found .ok, rfl, fun _ => rfl, fun e => Bool.noConfusion e⟩

end

/-- Settles O60: the events of the Crown one by one. -/
theorem crown : Obligations.Crown := by
  unfold Obligations.Crown
  intro s n c unit fcode mw die a m r v entered noted counted
  refine ⟨powerMeasurement_spec mw, powerMeasurement_idle mw, powerLimitRelease_spec, thermalStop_spec, thermalRestart_spec die,
    fun i => deviceFault_spec, uncorrectableFault_spec unit fcode a, uncorrectableFault_noted unit fcode a, correctedSoftError_spec n,
    exceptionTableSpill_spec, crownStart_spec r, recoveryStatusWrite_spec v, recoveryImageVerified_spec r, fun writing r => clock_flash writing,
    powerLoss_spec s, clock_idle, clock_running, attest_spec⟩

end Sys2Proof.Machine
end

section
/-! The values of matrix operands: the bits of a packed row, the places of a stretch, and the codes that a task reads (R69, R297, R300). -/

namespace Sys2Proof.Machine

/-- A bit of a number is a bit of one of its bytes (R15). -/
theorem testBit_leNat (l : List Byte) (i : Nat) : (leNat l).testBit i = (l.getD (i / 8) 0).getLsbD (i % 8) := by
  induction l generalizing i with
  | nil => simp [leNat]
  | cons b t ih =>
    have parts : leNat (b :: t) = 2 ^ 8 * leNat t + b.toNat := by rw [leNat]; omega
    rw [parts, Nat.testBit_two_pow_mul_add _ b.isLt]
    by_cases low : i < 8
    · rw [if_pos low, Nat.div_eq_of_lt low, Nat.mod_eq_of_lt low]
      rfl
    · obtain ⟨j, rfl⟩ := Nat.exists_eq_add_of_le (Nat.le_of_not_lt low)
      rw [if_neg low, ih, Nat.add_sub_cancel_left, Nat.add_comm 8 j, Nat.add_div_right _ (by norm_num), Nat.add_mod_right]
      rfl

/-- A code of w bits from bit o on is read from the bytes that hold it (R300). -/
theorem leNat_window {all part : List Byte} {o w : Nat} (same : ∀ i, i < (o % 8 + w + 7) / 8 → part.getD i 0 = all.getD (o / 8 + i) 0) :
    leNat part / 2 ^ (o % 8) % 2 ^ w = leNat all / 2 ^ o % 2 ^ w := by
  refine Nat.eq_of_testBit_eq fun i => ?_
  rw [Nat.testBit_mod_two_pow, Nat.testBit_mod_two_pow, Nat.testBit_div_two_pow, Nat.testBit_div_two_pow, testBit_leNat, testBit_leNat]
  by_cases inside : i < w
  · rw [same _ (by omega), show o / 8 + (i + o % 8) / 8 = (i + o) / 8 by omega, show (i + o % 8) % 8 = (i + o) % 8 by omega]
  · simp [inside]

/-- Code j of n codes of w bits in a number. -/
theorem codesOf_eq_range (w n v : Nat) : codesOf w n v = (List.range n).map fun j => v / 2 ^ (w * j) % 2 ^ w := by
  induction n generalizing v with
  | zero => rfl
  | succ n ih =>
    rw [codesOf, ih, List.range_succ_eq_map, List.map_cons, List.map_map]
    congr 1
    · simp
    · refine List.map_congr_left fun j _ => ?_
      simp only [Function.comp_apply, Nat.div_div_eq_div_mul, ← pow_add, Nat.mul_succ, Nat.add_comm w]

/-- The places of an operand's stretch: none where it faults. -/
def pagesOf : Except (Word × Nat) (List Phys) → List Phys
  | .ok ps => ps
  | .error _ => []

theorem okPlaces_eq (l : List (Except (Word × Nat) (List Phys))) : okPlaces l = l.map pagesOf := by
  unfold okPlaces
  refine List.map_congr_left fun x _ => ?_
  cases x <;> rfl

/-- No stretch faults where there is no lowest faulting address. -/
theorem lowestFault_eq_none_iff {α : Type} (l : List (Except (Word × Nat) α)) : lowestFault l = none ↔ ∀ x ∈ l, ∃ v, x = .ok v := by
  have fold (b : Option (Word × Nat)) : (l.foldl (fun b x => match x, b with
      | .error e, some y => if e.1.toNat < y.1.toNat then some e else b
      | .error e, none => some e
      | .ok _, _ => b) b) = none ↔ b = none ∧ ∀ x ∈ l, ∃ v, x = .ok v := by
    induction l generalizing b with
    | nil => simp
    | cons x t ih =>
      rw [List.foldl_cons, ih]
      rcases x with e | v
      · rcases b with - | y
        · simp
        · by_cases lower : e.1.toNat < y.1.toNat <;> simp [lower]
      · simp
  exact (fold none).trans (by simp)

section

variable {s : State} {g : Group} {spire sp n : Nat} {write : Bool} {want : Option Nat} {a : Word} {ps : List Phys}

/-- The places of a stretch that has no fault are those of its bytes. -/
theorem State.stretchPlaces_ok (ok : s.stretchPlaces g spire sp write want a n = .ok ps) :
    ps.length = n ∧ ∀ i (h : i < ps.length), s.place g spire sp (a + BitVec.ofNat 64 i) write false = .at ps[i] := by
  induction n generalizing a ps with
  | zero => cases ok; exact ⟨rfl, fun i h => absurd h (Nat.not_lt_zero i)⟩
  | succ n ih =>
    unfold State.stretchPlaces at ok
    split at ok
    · cases ok
    · next p placed =>
      extract_lets bad at ok
      generalize bad = b at ok
      cases b with
      | some c => cases ok
      | none =>
        dsimp only at ok
        split at ok
        · next t rest =>
          cases ok
          obtain ⟨len, places⟩ := ih rest
          refine ⟨by rw [List.length_cons, len], fun i h => ?_⟩
          rcases i with - | i
          · simpa using placed
          · have := places i (by simpa using h)
            rw [BitVec.add_assoc, show (1 : Word) + BitVec.ofNat 64 i = BitVec.ofNat 64 (i + 1) by
              rw [Nat.add_comm, BitVec.ofNat_add]; rfl] at this
            exact this
        · cases ok

end

/-- What a stretch of an operand of a position reads: its places as the matrix cache translates them (R250, R300). -/
def State.stretch (s : State) (g : Group) (p sp : Nat) (write : Bool) (want : Nat) (x : Stretch) : Except (Word × Nat) (List Phys) :=
  { s with tlb := s.mtlb }.stretchPlaces g (4 * g.quad + p) sp write (some want) x.addr x.len

theorem State.operand_eq (s : State) (g : Group) (p sp : Nat) (write : Bool) (want : Nat) (l : List Stretch) :
    s.operand g p sp write want l = l.map (s.stretch g p sp write want) := rfl

/-- A byte of an operand as a position reads it. -/
def State.operandByte (s : State) (g : Group) (p sp : Nat) (a : Word) : Byte :=
  match { s with tlb := s.mtlb }.place g (4 * g.quad + p) sp a false false with
  | .at q => s.byte q.key
  | .fault .. => 0

theorem operandValue_eq (s : State) (g : Group) (p sp : Nat) (t : Tag) (base stride row col : Nat) :
    operandValue s g p sp t base stride row col =
      decodeNum t 0 (leNat ((List.range ((t.memBits * col % 8 + t.memBits + 7) / 8)).map fun i =>
        s.operandByte g p sp (BitVec.ofNat 64 (base + row * stride + t.memBits * col / 8 + i))) /
          2 ^ (t.memBits * col % 8) % 2 ^ t.memBits) := rfl

/-- The bytes of a stretch that has no fault. -/
theorem State.operandByte_stretch {s : State} {g : Group} {p sp want len i : Nat} {a : Word} {ps : List Phys}
    (ok : s.stretch g p sp false want ⟨a, len⟩ = .ok ps) (hi : i < len) :
    (ps.map fun q => s.byte q.key).getD i 0 = s.operandByte g p sp (a + BitVec.ofNat 64 i) := by
  obtain ⟨length, places⟩ := State.stretchPlaces_ok ok
  have inside : i < ps.length := lt_of_lt_of_eq hi length.symm
  unfold State.operandByte
  rw [places i inside, List.getD_eq_getElem?_getD, List.getElem?_map, List.getElem?_eq_getElem inside]
  rfl

/-- Elements of a row of a quarter begin on a byte (R296, R300). -/
theorem rowBytes_add (t : Tag) {col : Nat} (j : Nat) (whole : 8 ∣ t.memBits * col) :
    t.memBits * (col + j) / 8 = rowBytes t col + t.memBits * j / 8 ∧ t.memBits * (col + j) % 8 = t.memBits * j % 8 := by
  unfold rowBytes
  rw [Nat.mul_add]
  omega

/-- The bytes of an element lie in its row's stretch (R300). -/
theorem lt_spanBytes {t : Tag} {n i j : Nat} (hj : j < n) (hi : i < (t.memBits * j % 8 + t.memBits + 7) / 8) :
    t.memBits * j / 8 + i < spanBytes t n := by
  have : t.memBits * (j + 1) ≤ t.memBits * n := Nat.mul_le_mul_left _ hj
  rw [Nat.mul_succ] at this
  unfold spanBytes
  omega

/-- An element of a row is decoded from its bits in the row's stretch (R69, R300). -/
theorem State.operandValue_stretch {s : State} {g : Group} {p sp want base stride row col n j : Nat} {t : Tag} {ps : List Phys}
    (whole : 8 ∣ t.memBits * col)
    (ok : s.stretch g p sp false want ⟨BitVec.ofNat 64 (base + row * stride + rowBytes t col), spanBytes t n⟩ = .ok ps) (hj : j < n) :
    operandValue s g p sp t base stride row (col + j) =
      decodeNum t 0 (leNat (ps.map fun q => s.byte q.key) / 2 ^ (t.memBits * j) % 2 ^ t.memBits) := by
  obtain ⟨start, offset⟩ := rowBytes_add t j whole
  rw [operandValue_eq, start, offset]
  refine congrArg (decodeNum t 0) (leNat_window fun i hi => ?_)
  rw [State.operandByte_stretch ok (lt_spanBytes hj hi), ← BitVec.ofNat_add, List.getD_eq_getElem?_getD, List.getElem?_map,
    List.getElem?_range hi]
  simp only [Option.map_some, Option.getD_some, Nat.add_assoc]

end Sys2Proof.Machine
end

section
/-! What the arrays of a task hold after a K-step: the weights loaded, and each accumulator element folded (R69 to R71, R296 to R298, R306). -/

namespace Sys2Proof.Machine

section

variable {σ ι κ β : Type} {rd : σ → κ → β} {step : σ → ι → σ} {touches : ι → κ → Prop} {l : List ι} {k : κ}

/-- What no step of a fold touches stays. -/
theorem foldl_untouched (out : ∀ m, ∀ i ∈ l, ¬touches i k → rd (step m i) k = rd m k) (none : ∀ i ∈ l, ¬touches i k) (m : σ) :
    rd (l.foldl step m) k = rd m k := by
  induction l generalizing m with
  | nil => rfl
  | cons i l ih =>
    rw [List.foldl_cons, ih (fun m j hj => out m j (List.mem_cons_of_mem _ hj)) (fun j hj => none j (List.mem_cons_of_mem _ hj)),
      out m i List.mem_cons_self (none i List.mem_cons_self)]

/-- What one step of a fold touches is as that step leaves it. -/
theorem foldl_touched {v : ι → κ → β → β} (out : ∀ m, ∀ i ∈ l, ¬touches i k → rd (step m i) k = rd m k)
    (inside : ∀ m, ∀ i ∈ l, touches i k → rd (step m i) k = v i k (rd m k))
    (apart : l.Pairwise fun i j => ¬(touches i k ∧ touches j k)) {i : ι} (hi : i ∈ l) (touch : touches i k) (m : σ) :
    rd (l.foldl step m) k = v i k (rd m k) := by
  induction l generalizing m with
  | nil => exact absurd hi List.not_mem_nil
  | cons j l ih =>
    obtain ⟨head, rest⟩ := List.pairwise_cons.1 apart
    have out' : ∀ m, ∀ i ∈ l, ¬touches i k → rd (step m i) k = rd m k := fun m x hx => out m x (List.mem_cons_of_mem _ hx)
    rw [List.foldl_cons]
    rcases List.mem_cons.1 hi with rfl | later
    · rw [foldl_untouched out' (fun x hx touched => head x hx ⟨touch, touched⟩), inside m i List.mem_cons_self touch]
    · rw [ih out' (fun m x hx => inside m x (List.mem_cons_of_mem _ hx)) rest later,
        out m j List.mem_cons_self fun touched => head i later ⟨touched, touch⟩]

end

/-- The positions of a task are distinct (R296). -/
theorem nodup_positions (r : List Byte) : (positions r).Nodup := List.nodup_range.filter _

theorem rowsAt_le (r : List Byte) (p : Nat) : rowsAt r p ≤ 256 := Nat.min_le_left _ _
theorem colsAt_le (r : List Byte) (p : Nat) : colsAt r p ≤ 256 := Nat.min_le_left _ _

theorem taskTag_eq (r : List Byte) (o : Nat) : taskTag r o = recordTag r o := by
  unfold taskTag recordTag
  rw [taskField_eq_field]

theorem taskLevel_eq (r : List Byte) : taskLevel r = field r 51 1 % 8 := by
  unfold taskLevel
  rw [taskField_eq_field]

theorem quarter_eq (r : List Byte) (p : Nat) : quarter r p = ((256 * (p / 2), rowsAt r p), (256 * (p % 2), colsAt r p)) := by
  simp only [quarter, rowsAt, colsAt, taskM, taskN, taskField_eq_field]

/-- The stretches of row a of A, and of row i of W, of K-step k at a position (R297, R300). -/
def stretchA (r : List Byte) (p k a : Nat) : Stretch :=
  ⟨BitVec.ofNat 64 (field r 0 8 + (256 * (p / 2) + a) * field r 24 4 + rowBytes (recordTag r 42) (256 * k)), spanBytes (recordTag r 42) 256⟩
def stretchW (r : List Byte) (p k i : Nat) : Stretch :=
  ⟨BitVec.ofNat 64 (field r 8 8 + (256 * k + i) * field r 28 4 + rowBytes (recordTag r 43) (256 * (p % 2))),
    spanBytes (recordTag r 43) (colsAt r p)⟩

theorem stretchesA_eq (r : List Byte) (p k : Nat) : stretchesA r p k = (List.range (rowsAt r p)).map (stretchA r p k) := by
  unfold stretchesA
  rw [quarter_eq]
  refine List.map_congr_left fun a _ => ?_
  simp only [stretchOf, stretchA, taskTag_eq, taskField_eq_field]

theorem stretchesW_eq (r : List Byte) (p k : Nat) : stretchesW r p k = (List.range 256).map (stretchW r p k) := by
  unfold stretchesW
  rw [quarter_eq]
  refine List.map_congr_left fun a _ => ?_
  simp only [stretchOf, stretchW, taskTag_eq, taskField_eq_field]

/-- The places of row a of A and of row i of W. -/
def State.rowA (s : State) (g : Group) (r : List Byte) (p k a : Nat) : Except (Word × Nat) (List Phys) :=
  s.stretch g p (field r 50 1 % 4) false (field r 51 1 % 8) (stretchA r p k a)
def State.rowW (s : State) (g : Group) (r : List Byte) (p k i : Nat) : Except (Word × Nat) (List Phys) :=
  s.stretch g p (field r 50 1 / 4 % 4) false 0 (stretchW r p k i)

/-- The operands of a K-step at a position, row by row (R297). -/
def State.operandA (s : State) (g : Group) (r : List Byte) (p k : Nat) : List (Except (Word × Nat) (List Phys)) :=
  (List.range (rowsAt r p)).map (s.rowA g r p k)
def State.operandW (s : State) (g : Group) (r : List Byte) (p k : Nat) : List (Except (Word × Nat) (List Phys)) :=
  (List.range 256).map (s.rowW g r p k)

theorem State.operandA_eq (s : State) (g : Group) (r : List Byte) (p k : Nat) :
    s.operand g p (taskField r 50 1 % 4) false (taskLevel r) (stretchesA r p k) = s.operandA g r p k := by
  rw [stretchesA_eq, taskLevel_eq, taskField_eq_field, State.operand_eq, List.map_map]
  rfl

theorem State.operandW_eq (s : State) (g : Group) (r : List Byte) (p k : Nat) :
    s.operand g p (taskField r 50 1 / 4 % 4) false 0 (stretchesW r p k) = s.operandW g r p k := by
  rw [stretchesW_eq, taskField_eq_field, State.operand_eq, List.map_map]
  rfl

/-- The operands of a K-step at a position do not fault. -/
def State.stepOk (s : State) (g : Group) (r : List Byte) (p k : Nat) : Prop :=
  (∀ a, a < rowsAt r p → s.rowA g r p k a = .ok (pagesOf (s.rowA g r p k a))) ∧
    ∀ i, i < 256 → s.rowW g r p k i = .ok (pagesOf (s.rowW g r p k i))

theorem eq_ok_of_lowestFault {n : Nat} {f : Nat → Except (Word × Nat) (List Phys)} (none : lowestFault ((List.range n).map f) = none)
    (i : Nat) (hi : i < n) : f i = .ok (pagesOf (f i)) := by
  obtain ⟨ps, ok⟩ := (lowestFault_eq_none_iff _).1 none _ (List.mem_map_of_mem (List.mem_range.2 hi))
  rw [ok]
  rfl

/-- A K-step without a fault has none at any position (R311). -/
theorem State.stepOk_of_stepFault {s : State} {g : Group} {r : List Byte} {k : Nat} (none : s.stepFault g r k = none) :
    ∀ p ∈ positions r, s.stepOk g r p k := by
  intro p hp
  unfold State.stepFault at none
  have at_ := List.findSome?_eq_none_iff.1 none p (takesPart_eq_positions r ▸ hp)
  rw [State.operandA_eq, State.operandW_eq] at at_
  split at at_
  · cases at_
  · next noneA => exact ⟨eq_ok_of_lowestFault noneA, eq_ok_of_lowestFault (Option.map_eq_none_iff.1 at_)⟩

/-- The stored code of element j of the row whose places are ps. -/
def State.rowCode (s : State) (t : Tag) (x : Except (Word × Nat) (List Phys)) (j : Nat) : Nat :=
  leNat ((pagesOf x).map fun q => s.byte q.key) / 2 ^ (t.memBits * j) % 2 ^ t.memBits

theorem State.rowCodes_eq (s : State) (t : Tag) (n : Nat) (x : Except (Word × Nat) (List Phys)) :
    s.rowCodes t n (pagesOf x) = (List.range n).map (s.rowCode t x) := by
  unfold State.rowCodes
  rw [codesOf_eq_range, leValue_eq_leNat]
  rfl

theorem eight_dvd_memBits (t : Tag) (k : Nat) : 8 ∣ t.memBits * (256 * k) := ⟨t.memBits * (32 * k), by ring⟩

/-- The codes that a position reads of A and W decode to their values (R69). -/
theorem State.decodeNum_rowA {s : State} {g : Group} {r : List Byte} {p k a j : Nat} (ok : s.stepOk g r p k) (ha : a < rowsAt r p)
    (hj : j < 256) : decodeNum (recordTag r 42) 0 (s.rowCode (recordTag r 42) (s.rowA g r p k a) j) = valueA s g r p a (256 * k + j) :=
  (State.operandValue_stretch (eight_dvd_memBits _ k) (ok.1 a ha) hj).symm

theorem State.decodeNum_rowW {s : State} {g : Group} {r : List Byte} {p k i b : Nat} (ok : s.stepOk g r p k) (hi : i < 256)
    (hb : b < colsAt r p) :
    decodeNum (recordTag r 43) 0 (s.rowCode (recordTag r 43) (s.rowW g r p k i) b) = valueW s g r p (256 * k + i) b :=
  (State.operandValue_stretch (eight_dvd_memBits _ (p % 2)) (ok.2 i hi) hb).symm

/-- A row of decoded operands: the values, scaled, and the reserved codes counted (R69, R306). -/
theorem decodeRow_range {t : Tag} {bias : Int} {n : Nat} {c : Nat → Nat} {v : Nat → Option Num}
    (decoded : ∀ j, j < n → decodeNum t 0 (c j) = v j) :
    decodeRow t bias ((List.range n).map c) =
      ((List.range n).map fun j => ((v j).getD .zero).scale bias, (List.range n).countP fun j => (v j).isNone) := by
  have same : ((List.range n).map c).map (decodeNum t 0) = (List.range n).map v := by
    rw [List.map_map]
    exact List.map_congr_left fun j hj => decoded j (List.mem_range.1 hj)
  unfold decodeRow
  dsimp only
  rw [same, List.map_map, List.filter_map, List.length_map, List.countP_eq_length_filter]
  rfl

/-- The sum of products on integers (R70). -/
theorem foldInt_range (x y : Nat → Num) (n : Nat) :
    foldInt ((List.range n).map x) ((List.range n).map y) = ((List.range n).map fun k => (x k).floor * (y k).floor).sum := by
  unfold foldInt
  rw [List.zip_map', List.foldl_map, List.sum_eq_foldl, List.foldl_map]

/-- The sum of products on floats (R70). -/
theorem foldFloat_range (x y : Nat → Num) (n : Nat) : foldFloat ((List.range n).map x) ((List.range n).map y) =
    (List.range n).foldl (fun z k => toF32 (addNum .rne z (toF32 (mulNum (x k) (y k))))) .zero := by
  unfold foldFloat
  rw [List.zip_map', List.foldl_map]
  rfl

/-- An accumulator element after the products of two rows (R70). -/
theorem foldElem_range (ints : Bool) (c : BitVec 32) (x y : Nat → Num) (n : Nat) :
    foldElem ints c ((List.range n).map x) ((List.range n).map y) =
      if ints then BitVec.ofInt 32 (c.toNat + ((List.range n).map fun k => (x k).floor * (y k).floor).sum)
      else BitVec.ofNat 32 (floatCode .f32 (toF32 (addNum .rne (floatValue .f32 c.toNat)
        ((List.range n).foldl (fun z k => toF32 (addNum .rne z (toF32 (mulNum (x k) (y k))))) .zero)))) := by
  unfold foldElem
  rw [foldInt_range, foldFloat_range, BitVec.ofInt_add, BitVec.ofInt_natCast, BitVec.ofNat_toNat, BitVec.setWidth_eq]
  rfl

end Sys2Proof.Machine
end

section
/-! The folds of a K-step over the positions of a task: each touches its own bank and its own quarter of the accumulator (R296 to R298). -/

namespace Sys2Proof.Machine

/-- A state whose accumulators, weight banks and bank selections are others: no place and no operand depends on them. -/
def State.withArrays (s : State) (acc : Store (BitVec 32)) (banks : Store WeightBank) (sel : Store Nat) : State :=
  { s with acc := acc, banks := banks, bankSel := sel }

section

variable (s : State) (acc : Store (BitVec 32)) (banks : Store WeightBank) (sel : Store Nat)

theorem walkFrom_withArrays (x : Ctx) (va table : Nat) (l : List Nat) :
    walkFrom (s.withArrays acc banks sel) x va table l = walkFrom s x va table l := by
  induction l generalizing table with
  | nil => rfl
  | cons sh rest ih =>
    unfold walkFrom
    simp only [ih]
    rfl

theorem State.walk_withArrays (c : Nat) (va : Word) : (s.withArrays acc banks sel).walk c va = s.walk c va := by
  unfold State.walk
  rw [walkFrom_withArrays]
  rfl

theorem State.leafFor_withArrays (spire c : Nat) (va : Word) :
    (s.withArrays acc banks sel).leafFor spire c va = s.leafFor spire c va := by
  unfold State.leafFor
  rw [State.walk_withArrays]
  rfl

theorem State.grantByte_withArrays (c g o : Nat) (write : Bool) :
    (s.withArrays acc banks sel).grantByte c g o write = s.grantByte c g o write := by
  unfold State.grantByte
  simp only [State.walk_withArrays]
  rfl

theorem State.global_withArrays (spire c : Nat) (va : Word) (write fetch : Bool) :
    (s.withArrays acc banks sel).global spire c va write fetch = s.global spire c va write fetch := by
  unfold State.global
  simp only [State.leafFor_withArrays, State.grantByte_withArrays]
  rfl

theorem State.place_withArrays (g : Group) (spire sp : Nat) (va : Word) (write fetch : Bool) :
    (s.withArrays acc banks sel).place g spire sp va write fetch = s.place g spire sp va write fetch := by
  unfold State.place
  rw [State.global_withArrays]
  rfl

theorem State.stretchPlaces_withArrays (g : Group) (spire sp : Nat) (write : Bool) (want : Option Nat) (a : Word) (n : Nat) :
    (s.withArrays acc banks sel).stretchPlaces g spire sp write want a n = s.stretchPlaces g spire sp write want a n := by
  induction n generalizing a with
  | zero => rfl
  | succ n ih =>
    unfold State.stretchPlaces
    rw [State.place_withArrays, ih]
    rfl

theorem State.operand_withArrays (g : Group) (p sp : Nat) (write : Bool) (want : Nat) (l : List Stretch) :
    (s.withArrays acc banks sel).operand g p sp write want l = s.operand g p sp write want l :=
  List.map_congr_left fun _ _ => State.stretchPlaces_withArrays { s with tlb := s.mtlb } acc banks sel _ _ _ _ _ _ _

end

/-- The bank that position p of a group's quad loads into, and its weights of K-step k (R298). -/
def State.nextBank (s : State) (g : Group) (p : Nat) : Nat := 1 - Store.get 0 s.bankSel (4 * g.quad + p)
def State.weights (s : State) (g : Group) (r : List Byte) (p k : Nat) : WeightBank :=
  let rows := (List.range 256).map fun i => (List.range (colsAt r p)).map (s.rowCode (recordTag r 43) (s.rowW g r p k i))
  ⟨recordTag r 43, rows, rows.any fun row => (decodeRow (recordTag r 43) 0 row).1.any Num.special⟩

theorem State.loadBank_withArrays (s : State) (g : Group) (r : List Byte) (p k : Nat) (acc : Store (BitVec 32)) (banks : Store WeightBank)
    {sel : Store Nat} (old : Store.get 0 sel (4 * g.quad + p) = Store.get 0 s.bankSel (4 * g.quad + p)) :
    (s.withArrays acc banks sel).loadBank g r p k = s.withArrays acc
      (Store.insert banks (2 * (4 * g.quad + p) + s.nextBank g p) (s.weights g r p k))
      (Store.set 0 sel (4 * g.quad + p) (s.nextBank g p)) := by
  have bank : 1 - Store.get 0 (s.withArrays acc banks sel).bankSel (4 * g.quad + p) = s.nextBank g p := by
    unfold State.nextBank
    rw [← old]
    rfl
  have rows : (okPlaces ((s.withArrays acc banks sel).operand g p (taskField r 50 1 / 4 % 4) false 0 (stretchesW r p k))).map
      ((s.withArrays acc banks sel).rowCodes (taskTag r 43) (quarter r p).2.2) = (s.weights g r p k).rows := by
    rw [State.operand_withArrays, State.operandW_eq, okPlaces_eq, taskTag_eq, quarter_eq, State.operandW, List.map_map, List.map_map]
    exact List.map_congr_left fun i _ => s.rowCodes_eq _ _ _
  unfold State.loadBank
  dsimp only
  rw [bank, rows, taskTag_eq]
  rfl

/-- Row a of A and row i of W as position p decodes them, scaled by the formats' biases, and their reserved codes (R69, R306). -/
def State.valuesA (s : State) (g : Group) (r : List Byte) (p k a : Nat) : List Num × Nat :=
  ((List.range 256).map fun j => ((valueA s g r p a (256 * k + j)).getD .zero).scale (recordBias r (recordTag r 42) 44),
    (List.range 256).countP fun j => (valueA s g r p a (256 * k + j)).isNone)
def State.valuesW (s : State) (g : Group) (r : List Byte) (p k i : Nat) : List Num × Nat :=
  ((List.range (colsAt r p)).map fun b => ((valueW s g r p (256 * k + i) b).getD .zero).scale (recordBias r (recordTag r 43) 45),
    (List.range (colsAt r p)).countP fun b => (valueW s g r p (256 * k + i) b).isNone)

/-- The accumulator after position p has folded K-step k into one (R70, R297), and the reserved codes that it met. -/
def State.accAfter (s : State) (g : Group) (r : List Byte) (k : Nat) (acc : Store (BitVec 32)) (p : Nat) : Store (BitVec 32) :=
  (List.range (rowsAt r p)).foldl (fun m a => putRow m (accElem g p (taskAcc r) a 0) ((List.range (colsAt r p)).map fun b =>
    foldedElem s g r k p a b (if k = 0 ∧ taskZeroes r = true then 0 else Store.get 0 acc (accElem g p (taskAcc r) a b)))) acc
def reservedAt (s : State) (g : Group) (r : List Byte) (k p : Nat) : Nat :=
  ((List.range (rowsAt r p)).map fun a => (s.valuesA g r p k a).2).sum + ((List.range 256).map fun i => (s.valuesW g r p k i).2).sum

theorem reservedMet_eq (s : State) (g : Group) (r : List Byte) (k : Nat) :
    reservedMet s g r k = ((positions r).map (reservedAt s g r k)).sum := rfl

theorem State.foldElem_values (s : State) (g : Group) (r : List Byte) (p k a : Nat) {b : Nat} (hb : b < colsAt r p) (c : BitVec 32) :
    foldElem ((recordTag r 42).isInt && (recordTag r 43).isInt) c (s.valuesA g r p k a).1
      ((List.range 256).map fun i => (s.valuesW g r p k i).1.getD b .zero) = foldedElem s g r k p a b c := by
  have column : ((List.range 256).map fun i => (s.valuesW g r p k i).1.getD b .zero) = (List.range 256).map fun i =>
      ((valueW s g r p (256 * k + i) b).getD .zero).scale (recordBias r (recordTag r 43) 45) := by
    refine List.map_congr_left fun i _ => ?_
    simp [State.valuesW, List.getD_eq_getElem?_getD, hb]
  rw [column]
  exact foldElem_range _ _ _ _ _

/-- The elements of a list over a range, with their numbers. -/
theorem zip_range_map {α : Type} (f : Nat → α) (n : Nat) :
    ((List.range n).map f).zip (List.range ((List.range n).map f).length) = (List.range n).map fun i => (f i, i) := by
  rw [List.length_map, List.length_range]
  exact (congrArg _ (List.map_id _).symm).trans List.zip_map'

theorem State.foldAt_withArrays {s : State} {g : Group} {r : List Byte} {p k : Nat} (ok : s.stepOk g r p k) (acc : Store (BitVec 32))
    {banks : Store WeightBank} {sel : Store Nat}
    (loaded : (s.withArrays acc banks sel).bank (4 * g.quad + p) = s.weights g r p k) :
    (s.withArrays acc banks sel).foldAt g r p k = (s.accAfter g r k acc p, reservedAt s g r k p) := by
  have rowsA : (okPlaces ((s.withArrays acc banks sel).operand g p (taskField r 50 1 % 4) false (taskLevel r) (stretchesA r p k))).map
      (fun ps => decodeRow (taskTag r 42) (if (taskTag r 42).isTapered then taskSigned r 44 else 0)
        ((s.withArrays acc banks sel).rowCodes (taskTag r 42) 256 ps)) = (List.range (rowsAt r p)).map (s.valuesA g r p k) := by
    rw [State.operand_withArrays, State.operandA_eq, okPlaces_eq, taskTag_eq, State.operandA, List.map_map, List.map_map]
    refine List.map_congr_left fun a ha => ?_
    refine (congrArg _ (s.rowCodes_eq _ _ _)).trans ?_
    exact decodeRow_range fun j hj => State.decodeNum_rowA ok (List.mem_range.1 ha) hj
  have rowsW : (s.weights g r p k).rows.map (decodeRow (s.weights g r p k).tag
      (if (s.weights g r p k).tag.isTapered then taskSigned r 45 else 0)) = (List.range 256).map (s.valuesW g r p k) := by
    refine (List.map_map ..).trans (List.map_congr_left fun i hi => ?_)
    exact decodeRow_range fun b hb => State.decodeNum_rowW ok (List.mem_range.1 hi) hb
  unfold State.foldAt
  dsimp only
  rw [loaded, rowsA, rowsW, quarter_eq]
  refine Prod.ext ?_ ?_
  · dsimp only
    rw [zip_range_map, zip_range_map, List.foldl_map]
    refine List.foldl_ext _ _ _ fun m a _ => ?_
    refine congrArg (putRow m _) ((List.map_map ..).trans (List.map_congr_left fun b hb => ?_))
    rw [← s.foldElem_values g r p k a (List.mem_range.1 hb)]
    simp only [Function.comp_apply, List.map_map, taskTag_eq, Bool.and_eq_true, beq_iff_eq]
    rfl
  · simp only [List.map_map]
    rfl

/-- Where a row of elements is written. -/
theorem get_putRow (m : Store (BitVec 32)) (l : List (BitVec 32)) (key j : Nat) :
    Store.get 0 (putRow m key l) j = if h : key ≤ j ∧ j < key + l.length then l[j - key] else Store.get 0 m j := by
  induction l generalizing m key with
  | nil => rw [putRow, dif_neg (by simp)]
  | cons v t ih =>
    rw [putRow, ih]
    by_cases here : j = key
    · subst here
      rw [dif_neg (by omega), dif_pos ⟨le_refl _, by simp⟩, Store.get_set_same]
      simp
    · by_cases after : key + 1 ≤ j ∧ j < key + 1 + t.length
      · rw [dif_pos after, dif_pos ⟨by omega, by rw [List.length_cons]; omega⟩]
        simp [show j - key = (j - (key + 1)) + 1 by omega]
      · rw [dif_neg after, dif_neg (by rw [List.length_cons]; omega), Store.get_set_other _ _ _ here]

/-- The elements that a position folds. -/
def foldsAt (g : Group) (r : List Byte) (p key : Nat) : Prop :=
  ∃ a b, a < rowsAt r p ∧ b < colsAt r p ∧ key = accElem g p (taskAcc r) a b

theorem taskAcc_le (r : List Byte) : taskAcc r ≤ 1 := Bool.toNat_le _

/-- Each element of an accumulator has its own key (R51). -/
theorem accElem_inj {g : Group} {r : List Byte} {p q a b c d : Nat} (ha : a < rowsAt r p) (hb : b < colsAt r p) (hc : c < rowsAt r q)
    (hd : d < colsAt r q) (same : accElem g p (taskAcc r) a b = accElem g q (taskAcc r) c d) : p = q ∧ a = c ∧ b = d := by
  have := rowsAt_le r p
  have := rowsAt_le r q
  have := colsAt_le r p
  have := colsAt_le r q
  have := taskAcc_le r
  unfold accElem at same
  omega

theorem State.get_accAfter_inside (s : State) (g : Group) (r : List Byte) (k : Nat) (acc : Store (BitVec 32)) {p a b : Nat}
    (ha : a < rowsAt r p) (hb : b < colsAt r p) :
    Store.get 0 (s.accAfter g r k acc p) (accElem g p (taskAcc r) a b) = foldedElem s g r k p a b
      (if k = 0 ∧ taskZeroes r = true then 0 else Store.get 0 acc (accElem g p (taskAcc r) a b)) := by
  have row (c : Nat) : accElem g p (taskAcc r) c 0 ≤ accElem g p (taskAcc r) a b ∧
      accElem g p (taskAcc r) a b < accElem g p (taskAcc r) c 0 + colsAt r p ↔ c = a := by
    have := colsAt_le r p
    unfold accElem
    omega
  unfold State.accAfter
  refine foldl_touched (rd := fun m j => Store.get 0 m j) (touches := fun c _ => c = a) (v := fun _ _ _ => foldedElem s g r k p a b
    (if k = 0 ∧ taskZeroes r = true then 0 else Store.get 0 acc (accElem g p (taskAcc r) a b))) ?_ ?_ ?_
    (List.mem_range.2 ha) rfl _
  · intro m c _ other
    rw [get_putRow, dif_neg (by simpa using mt (row c).1 other)]
  · rintro m c - rfl
    rw [get_putRow, dif_pos (by simpa using (row c).2 rfl)]
    simp [accElem]
  · exact List.nodup_range.imp fun {c d} ne both => ne (both.1.trans both.2.symm)

theorem State.get_accAfter_outside (s : State) (g : Group) (r : List Byte) (k : Nat) (acc : Store (BitVec 32)) {p key : Nat}
    (outside : ¬foldsAt g r p key) : Store.get 0 (s.accAfter g r k acc p) key = Store.get 0 acc key := by
  unfold State.accAfter
  refine foldl_untouched (rd := fun m j => Store.get 0 m j) (touches := fun _ _ => False) (fun m a ha _ => ?_) (fun _ _ => id) acc
  rw [get_putRow, dif_neg]
  rintro ⟨low, high⟩
  rw [List.length_map, List.length_range] at high
  refine outside ⟨a, key - accElem g p (taskAcc r) a 0, List.mem_range.1 ha, by omega, ?_⟩
  unfold accElem at *
  omega

/-- One position's part of a K-step: its weights load and it folds (R297, R298). -/
def foldPosition (g : Group) (r : List Byte) (k : Nat) (x : State × Nat) (p : Nat) : State × Nat :=
  let s := x.1.loadBank g r p k
  let y := s.foldAt g r p k
  ({ s with acc := y.1 }, x.2 + y.2)

/-- The banks after positions have loaded their weights, and the banks that they use then (R298). -/
def State.banksAfter (s : State) (g : Group) (r : List Byte) (k : Nat) (banks : Store WeightBank) (p : Nat) : Store WeightBank :=
  Store.insert banks (2 * (4 * g.quad + p) + s.nextBank g p) (s.weights g r p k)
def State.selAfter (s : State) (g : Group) (sel : Store Nat) (p : Nat) : Store Nat :=
  Store.set 0 sel (4 * g.quad + p) (s.nextBank g p)

theorem foldPosition_withArrays {s : State} {g : Group} {r : List Byte} {k p : Nat} (ok : s.stepOk g r p k) (acc : Store (BitVec 32))
    (banks : Store WeightBank) {sel : Store Nat} (old : Store.get 0 sel (4 * g.quad + p) = Store.get 0 s.bankSel (4 * g.quad + p)) (n : Nat) :
    foldPosition g r k (s.withArrays acc banks sel, n) p =
      (s.withArrays (s.accAfter g r k acc p) (s.banksAfter g r k banks p) (s.selAfter g sel p), n + reservedAt s g r k p) := by
  have loaded : (s.withArrays acc (s.banksAfter g r k banks p) (s.selAfter g sel p)).bank (4 * g.quad + p) = s.weights g r p k := by
    have sel' : Store.get 0 (s.selAfter g sel p) (4 * g.quad + p) = s.nextBank g p := Store.get_set_same _ _ _ _
    change (Store.find (s.banksAfter g r k banks p) (2 * (4 * g.quad + p) +
      Store.get 0 (s.selAfter g sel p) (4 * g.quad + p))).getD _ = _
    rw [sel', State.banksAfter, Store.find_insert_same]
    rfl
  unfold foldPosition
  rw [State.loadBank_withArrays s g r p k acc banks old]
  dsimp only
  rw [← State.banksAfter, ← State.selAfter, State.foldAt_withArrays ok acc loaded]
  rfl

/-- All positions of a K-step (R297, R298). -/
theorem foldPositions {s : State} {g : Group} {r : List Byte} {k : Nat} {l : List Nat} (ok : ∀ p ∈ l, s.stepOk g r p k) (nodup : l.Nodup)
    (acc : Store (BitVec 32)) (banks : Store WeightBank) (sel : Store Nat)
    (old : ∀ p ∈ l, Store.get 0 sel (4 * g.quad + p) = Store.get 0 s.bankSel (4 * g.quad + p)) (n : Nat) :
    l.foldl (foldPosition g r k) (s.withArrays acc banks sel, n) = (s.withArrays (l.foldl (s.accAfter g r k) acc)
      (l.foldl (s.banksAfter g r k) banks) (l.foldl (s.selAfter g) sel), n + (l.map (reservedAt s g r k)).sum) := by
  induction l generalizing acc banks sel n with
  | nil => rfl
  | cons p l ih =>
    obtain ⟨fresh, nodup⟩ := List.nodup_cons.1 nodup
    rw [List.foldl_cons, foldPosition_withArrays (ok p List.mem_cons_self) acc banks (old p List.mem_cons_self)]
    rw [ih (fun q hq => ok q (List.mem_cons_of_mem _ hq)) nodup]
    · simp only [List.foldl_cons, List.map_cons, List.sum_cons, Nat.add_assoc]
    · intro q hq
      rw [← old q (List.mem_cons_of_mem _ hq)]
      refine Store.get_set_other _ _ _ ?_
      have : q ≠ p := fun e => fresh (e ▸ hq)
      omega

theorem Num.special_iff (z : Num) : Num.special z = true ↔ ∃ b, z = .nan b ∨ z = .inf b := by
  cases z <;> simp [Num.special]

theorem Num.special_scale (z : Num) (b : Int) : Num.special (z.scale b) = Num.special z := by
  cases z with
  | fin s n d => by_cases down : b < 0 <;> simp [Num.scale, Num.special, down]
  | inf s => rfl
  | nan s => rfl

/-- An infinity or a NaN among the weights of a K-step (R71, R298). -/
theorem State.weights_special {s : State} {g : Group} {r : List Byte} {p k : Nat} (ok : s.stepOk g r p k) :
    (s.weights g r p k).special = true ↔ ∃ i b, i < 256 ∧ b < colsAt r p ∧ ∃ z, valueW s g r p (256 * k + i) b = some z ∧
      ∃ b, z = .nan b ∨ z = .inf b := by
  have element (i b : Nat) : Num.special (((valueW s g r p (256 * k + i) b).getD .zero).scale 0) = true ↔
      ∃ z, valueW s g r p (256 * k + i) b = some z ∧ ∃ b, z = .nan b ∨ z = .inf b := by
    rw [Num.special_scale]
    cases valueW s g r p (256 * k + i) b with
    | none => simp [Num.special, Num.zero]
    | some z => simp [Num.special_iff]
  have row {i : Nat} (hi : i < 256) : ((decodeRow (recordTag r 43) 0
      ((List.range (colsAt r p)).map (s.rowCode (recordTag r 43) (s.rowW g r p k i)))).1.any Num.special) = true ↔
      ∃ b, b < colsAt r p ∧ ∃ z, valueW s g r p (256 * k + i) b = some z ∧ ∃ b, z = .nan b ∨ z = .inf b := by
    rw [decodeRow_range fun b hb => State.decodeNum_rowW ok hi hb]
    simp only [List.any_map, List.any_eq_true, List.mem_range, Function.comp_apply, element]
  unfold State.weights
  dsimp only
  rw [List.any_map, List.any_eq_true]
  constructor
  · rintro ⟨i, hi, found⟩
    have hi := List.mem_range.1 hi
    obtain ⟨b, hb, value⟩ := (row hi).1 found
    exact ⟨i, b, hi, hb, value⟩
  · rintro ⟨i, b, hi, hb, value⟩
    exact ⟨i, List.mem_range.2 hi, (row hi).2 ⟨b, hb, value⟩⟩

/-- The codes in a bank decode to the values of W (R298). -/
theorem State.weights_rows {s : State} {g : Group} {r : List Byte} {p k i b : Nat} (ok : s.stepOk g r p k) (hi : i < 256)
    (hb : b < colsAt r p) : decodeNum (recordTag r 43) 0 (((s.weights g r p k).rows.getD i []).getD b 0) =
      valueW s g r p (256 * k + i) b := by
  rw [← State.decodeNum_rowW ok hi hb]
  simp [State.weights, List.getD_eq_getElem?_getD, hi, hb]

section

variable (s : State) (g : Group) (r : List Byte) (k : Nat)

/-- What each position's array holds after a K-step (R298). -/
theorem State.get_selAfter {p : Nat} (hp : p ∈ positions r) :
    Store.get 0 ((positions r).foldl (s.selAfter g) s.bankSel) (4 * g.quad + p) = s.nextBank g p := by
  refine foldl_touched (rd := fun m j => Store.get 0 m j) (touches := fun q _ => q = p) (v := fun _ _ _ => s.nextBank g p) ?_ ?_
    ((nodup_positions r).imp fun ne both => ne (both.1.trans both.2.symm)) hp rfl s.bankSel
  · exact fun m q _ other => Store.get_set_other _ _ _ (by omega)
  · rintro m q - rfl
    exact Store.get_set_same _ _ _ _

theorem State.find_banksAfter {p : Nat} (hp : p ∈ positions r) :
    Store.find ((positions r).foldl (s.banksAfter g r k) s.banks) (2 * (4 * g.quad + p) + s.nextBank g p) = some (s.weights g r p k) := by
  refine foldl_touched (rd := fun m j => Store.find m j) (touches := fun q _ => q = p) (v := fun _ _ _ => some (s.weights g r p k)) ?_ ?_
    ((nodup_positions r).imp fun ne both => ne (both.1.trans both.2.symm)) hp rfl s.banks
  · refine fun m q _ other => Store.find_insert_other _ _ ?_
    unfold State.nextBank
    omega
  · rintro m q - rfl
    exact Store.find_insert_same _ _ _

/-- Each accumulator element of a task is folded once in a K-step, and no other changes (R70, R297). -/
theorem State.get_accAfter {p a b : Nat} (hp : p ∈ positions r) (ha : a < rowsAt r p) (hb : b < colsAt r p) :
    Store.get 0 ((positions r).foldl (s.accAfter g r k) s.acc) (accElem g p (taskAcc r) a b) = foldedElem s g r k p a b
      (if k = 0 ∧ taskZeroes r = true then 0 else Store.get 0 s.acc (accElem g p (taskAcc r) a b)) := by
  have own {q : Nat} (folds : foldsAt g r q (accElem g p (taskAcc r) a b)) : q = p := by
    obtain ⟨c, d, hc, hd, same⟩ := folds
    exact (accElem_inj ha hb hc hd same).1.symm
  refine foldl_touched (rd := fun m j => Store.get 0 m j) (touches := fun q j => foldsAt g r q j) (v := fun _ _ old => foldedElem s g r k p a b
    (if k = 0 ∧ taskZeroes r = true then 0 else old)) ?_ ?_ ((nodup_positions r).imp fun ne both => ne ((own both.1).trans (own both.2).symm))
    hp ⟨a, b, ha, hb, rfl⟩ s.acc
  · exact fun m q _ outside => s.get_accAfter_outside g r k m outside
  · intro m q _ folds
    obtain rfl := own folds
    exact s.get_accAfter_inside g r k m ha hb

theorem State.get_accAfter_other {key : Nat} (outside : ∀ p ∈ positions r, ∀ a b, a < rowsAt r p → b < colsAt r p →
    key ≠ accElem g p (taskAcc r) a b) : Store.get 0 ((positions r).foldl (s.accAfter g r k) s.acc) key = Store.get 0 s.acc key := by
  refine foldl_untouched (rd := fun m j => Store.get 0 m j) (touches := fun q j => foldsAt g r q j)
    (fun m q _ outside => s.get_accAfter_outside g r k m outside) ?_ s.acc
  rintro p hp ⟨a, b, ha, hb, same⟩
  exact outside p hp a b ha hb same

end

end Sys2Proof.Machine
end

section
/-! The accesses of a task's arrays: what they wait for, and what they leave as it was (R99, R250, R276, R329). -/

namespace Sys2Proof.Machine

/-- The places of the arrays of a task wait for nothing (R99, R276, R329). -/
def ArraysReady (s : State) (c : Nat) (l : List (Nat × List Phys)) : Prop :=
  ∀ p ∈ l, HasTokens s c (accessPorts p.1 p.2) ∧
    ∀ q ∈ p.2, ∀ m, q.link = some m → s.linkUp m = true ∧ ∀ z ∈ s.homeq, s.queued z = true → z.link ≠ some m

theorem State.clear_none_iff (s : State) (ps : List Phys) :
    s.clear none 0 (linksOf ps) = true ↔ ∀ q ∈ ps, ∀ m, q.link = some m → ∀ z ∈ s.homeq, s.queued z = true → z.link ≠ some m := by
  have idle : s.accessing none = false := rfl
  have on (z : HomeOp) : (match z.link with | some l => (linksOf ps).contains l | none => false) = true ↔
      ∃ m, z.link = some m ∧ ∃ q ∈ ps, q.link = some m := by
    cases z.link <;> simp [mem_linksOf]
  unfold State.clear
  rw [idle, Bool.not_false, Bool.true_and, Bool.not_eq_true', List.any_eq_false]
  constructor
  · intro free q hq m link z hz queued same
    refine free z hz ?_
    rw [queued, Bool.true_and, Bool.or_eq_true]
    exact .inl ((on z).2 ⟨m, same, q, hq, link⟩)
  · intro free z hz
    rw [Bool.and_eq_true, Bool.or_eq_true]
    rintro ⟨queued, before | mine⟩
    · obtain ⟨m, same, q, hq, link⟩ := (on z).1 before
      exact free q hq m link z hz queued same
    · simp at mine

theorem State.placesUp_of_ready {s : State} {c : Nat} {l : List (Nat × List Phys)} (ready : ArraysReady s c l) {p : Nat × List Phys}
    (hp : p ∈ l) : s.placesUp c p.1 p.2 = true := by
  obtain ⟨tokens, links⟩ := ready p hp
  unfold State.placesUp
  rw [(s.linksUp_iff p.2).2 fun q hq m e => (links q hq m e).1, (s.clear_none_iff p.2).2 fun q hq m e => (links q hq m e).2,
    (s.portWait_eq_false_iff _ _).2 tokens]
  rfl

/-- The accesses of a task's arrays, one after another (R250). -/
def State.arraysAccess (s : State) (c : Nat) (l : List (Nat × List Phys)) : State := l.foldl (fun s p => s.matrixAccess p.1 c p.2) s

theorem State.arraysAccess_frame (s : State) (c : Nat) (l : List (Nat × List Phys)) :
    s.arraysAccess c l = { s with mtlb := (s.arraysAccess c l).mtlb, mem := (s.arraysAccess c l).mem, ctxs := (s.arraysAccess c l).ctxs } := by
  unfold State.arraysAccess
  induction l generalizing s with
  | nil => rfl
  | cons p l ih =>
    rw [List.foldl_cons, ih, s.matrixAccess_frame p.1 c p.2]

theorem State.arraysAccess_accessed (s : State) (c : Nat) (l : List (Nat × List Phys)) : ArraysAccessed c l s (s.arraysAccess c l) := by
  induction l generalizing s with
  | nil => rfl
  | cons p l ih =>
    obtain ⟨v, cached, charged⟩ := s.matrixAccess_accessed p.1 c p.2
    exact ⟨v, _, cached, charged, ih _⟩

/-- What the arrays hold has no part in their accesses. -/
theorem arraysAccessed_withArrays {c : Nat} {l : List (Nat × List Phys)} {s u : State} {acc : Store (BitVec 32)} {banks : Store WeightBank}
    {sel : Store Nat} (h : ArraysAccessed c l (s.withArrays acc banks sel) u) :
    ArraysAccessed c l s (u.withArrays s.acc s.banks s.bankSel) := by
  induction l generalizing s acc banks sel with
  | nil => rw [show u = s.withArrays acc banks sel from h]; rfl
  | cons p l ih =>
    obtain ⟨v, w, ⟨frame, counts⟩, ⟨⟨spent, others, own, buckets⟩, free⟩, rest⟩ := h
    have arrays : w = (w.withArrays s.acc s.banks s.bankSel).withArrays acc banks sel := by
      rw [spent, frame]
      rfl
    refine ⟨v.withArrays s.acc s.banks s.bankSel, w.withArrays s.acc s.banks s.bankSel, ⟨?_, counts⟩,
      ⟨⟨?_, others, own, buckets⟩, fun e => by rw [free e]⟩, ?_⟩
    · rw [frame]
      rfl
    · rw [spent]
      rfl
    · rw [arrays] at rest
      exact ih rest

end Sys2Proof.Machine
end

section
/-! A fault of a task's operands: the work of its arrays, and the task SUSPENDED with a record or ABORTED (R310, R311, R360). -/

namespace Sys2Proof.Machine

/-- A state with other work of pipes. -/
def State.withWork (s : State) (w : List PipeWork) : State := { s with pipeWork := w }

theorem State.arrayWork_withWork (s : State) (gid : Nat) (g : Group) (t : Task) : ∃ w, s.arrayWork gid g t = s.withWork w := by
  unfold State.arrayWork
  induction takesPart t.record generalizing s with
  | nil => exact ⟨s.pipeWork, rfl⟩
  | cons p l ih => exact ih _

/-- The task has faulted and waits with a record (R310). -/
def Group.suspending (g : Group) (x : Task) (f : Nat × Nat × Word × Nat) : Group :=
  { g with
    tasks := taskMapped g.tasks x.num fun y => { y with state := .suspended, code := f.2.2.2 }
    faults := g.faults ++ [⟨x.num, f.2.2.2, f.1, f.2.1, x.kdone, f.2.2.1, true⟩] }

section

variable {s : State} {gid : Nat} {g : Group} {x : Task}

theorem State.suspendTask_taken (hg : s.group gid = some g) (f : Nat × Nat × Word × Nat) (w : List PipeWork) {k : Nat} {z : Hart}
    (member : s.member gid g.tfh = some (k, z)) (hz : s.hart k = some z) (alive : z.halted = false) :
    let t := (s.withWork w).suspendTask gid g x f
    t = { s with groups := t.groups, harts := t.harts, pipeWork := t.pipeWork } ∧ GroupOnly s gid (g.suspending x f) t ∧
      t.hart k = some { z with async := z.async ++ [⟨plainCause 48 x.num.toNat, 0, none⟩] } ∧ ∀ j, j ≠ k → t.hart j = s.hart j := by
  have eq : (s.withWork w).suspendTask gid g x f = (((s.withWork w).modTask gid x.num fun y =>
      { y with state := .suspended, code := f.2.2.2 }).modGroup gid fun g =>
        { g with faults := g.faults ++ [⟨x.num, f.2.2.2, f.1, f.2.1, x.kdone, f.2.2.1, true⟩] }).modHart k fun h =>
          { h with async := h.async ++ [⟨.plain 48 x.num.toNat, 0, none⟩] } := by
    unfold State.suspendTask
    rw [show (s.withWork w).member gid g.tfh = some (k, z) from member]
    dsimp only
    rw [alive]
    rfl
  intro t
  rw [show t = _ from eq]
  have suspended := State.groupOnly_modTask (s := s.withWork w) hg x.num fun y : Task => { y with state := .suspended, code := f.2.2.2 }
  have recorded := State.groupOnly_modGroup suspended.1 fun g : Group =>
    { g with faults := g.faults ++ [⟨x.num, f.2.2.2, f.1, f.2.1, x.kdone, f.2.2.1, true⟩] }
  refine ⟨rfl, ⟨recorded.1, fun j hj => (recorded.2 j hj).trans (suspended.2 j hj)⟩, ?_, fun j hj => ?_⟩
  · exact (Store.find_modify_same _ _ _).trans (congrArg _ hz)
  · exact Store.find_modify_other _ _ hj

theorem State.suspendTask_aborts (hg : s.group gid = some g) (f : Nat × Nat × Word × Nat) (w : List PipeWork)
    (gone : ∀ k z, s.member gid g.tfh = some (k, z) → z.halted = true) :
    let t := (s.withWork w).suspendTask gid g x f
    t = { s with groups := t.groups, pipeWork := t.pipeWork } ∧
      GroupOnly s gid { g with tasks := taskMapped g.tasks x.num fun y => { y with state := .aborted, code := f.2.2.2 } } t := by
  have eq : (s.withWork w).suspendTask gid g x f =
      (s.withWork w).modTask gid x.num fun y => { y with state := .aborted, code := f.2.2.2 } := by
    unfold State.suspendTask
    rw [show (s.withWork w).member gid g.tfh = s.member gid g.tfh from rfl]
    cases member : s.member gid g.tfh with
    | none => rfl
    | some m =>
      dsimp only
      rw [gone _ _ member]
      rfl
  intro t
  rw [show t = _ from eq]
  exact ⟨rfl, State.groupOnly_modTask (s := s.withWork w) hg x.num _⟩

end

end Sys2Proof.Machine
end

section
/-! A K-step of a tile task: it waits, faults, or folds on every participating Spire (R297, R298, R306). -/

namespace Sys2Proof.Machine

/-- A task's group after a K-step that met some reserved codes (R306). -/
def Group.stepped (g : Group) (x : Task) (reserved : Nat) : Group :=
  { g with tasks := taskMapped g.tasks x.num fun y => { y with kdone := y.kdone + 1, rsv := min (y.rsv + reserved) 0xFFFF } }

/-- The state after the folds of a K-step: the arrays' accesses, counted, and their work. -/
def State.stepped (s : State) (gid : Nat) (g : Group) (x : Task) (ps : List (Nat × List Phys)) (reserved : Nat) : State :=
  (((s.arraysAccess g.ctx ps).countAll g.ctx (ps.flatMap (·.2))).arrayWork gid g x).modTask gid x.num fun y =>
    { y with kdone := y.kdone + 1, rsv := min (y.rsv + reserved) 0xFFFF }

/-- The folds of a K-step at every position, and the reserved codes met. -/
def State.stepFolds (s : State) (g : Group) (r : List Byte) (k : Nat) : State × Nat := (takesPart r).foldl (foldPosition g r k) (s, 0)

section

variable {s : State} {gid : Nat} {g : Group} {x : Task}

theorem exec_kStep (hg : s.group gid = some g) (here : g.tasks.find? (fun y => y.num == x.num) = some x) (running : x.state = .running)
    (on : g.aborted = false) (works : g.state = .running ∨ g.state = .draining) :
    exec (.kStepFoldDone gid x.num.toNat) s = .next (
      if g.wantPark || taskKS x.record ≤ x.kdone || !s.dieRuns (4 * g.quad) then s
      else (s.stepFault g x.record x.kdone).elim
        (if (s.stepPlaces g x.record x.kdone).any fun p => !s.placesUp g.ctx p.1 p.2 then s
          else (s.stepFolds g x.record x.kdone).1.stepped gid g x (s.stepPlaces g x.record x.kdone) (s.stepFolds g x.record x.kdone).2)
        ((s.arrayWork gid g x).suspendTask gid g x)) := by
  have state : (x.state != .running) = false := by simpa using running
  show execKStepFoldDone gid x.num.toNat s = _
  unfold execKStepFoldDone Group.taskAt
  rw [hg]
  dsimp only
  rw [BitVec.ofNat_toNat, BitVec.setWidth_eq, here]
  dsimp only
  rw [state, on, works_of works]
  cases s.stepFault g x.record x.kdone <;> rfl

theorem taskKS_eq (r : List Byte) : taskKS r = field r 40 2 := taskField_eq_field r 40 2

/-- A K-step on a die that does not issue does nothing (R14). -/
theorem kStep_stopped (hg : s.group gid = some g) (here : g.tasks.find? (fun y => y.num == x.num) = some x) (running : x.state = .running)
    (on : g.aborted = false) (works : g.state = .running ∨ g.state = .draining) (stopped : s.dieRuns (4 * g.quad) = false) :
    exec (.kStepFoldDone gid x.num.toNat) s = .next s := by
  rw [exec_kStep hg here running on works, if_pos]
  simp [stopped]

section

variable (hg : s.group gid = some g) (here : g.tasks.find? (fun y => y.num == x.num) = some x) (running : x.state = .running)
  (on : g.aborted = false) (works : g.state = .running ∨ g.state = .draining) (runs : s.dieRuns (4 * g.quad) = true)
  (stays : g.wantPark = false) (more : x.kdone < field x.record 40 2)
include hg here running on works runs stays more

theorem exec_kStep_runs : exec (.kStepFoldDone gid x.num.toNat) s = .next ((s.stepFault g x.record x.kdone).elim
    (if (s.stepPlaces g x.record x.kdone).any fun p => !s.placesUp g.ctx p.1 p.2 then s
      else (s.stepFolds g x.record x.kdone).1.stepped gid g x (s.stepPlaces g x.record x.kdone) (s.stepFolds g x.record x.kdone).2)
    ((s.arrayWork gid g x).suspendTask gid g x)) := by
  rw [exec_kStep hg here running on works, if_neg]
  rw [taskKS_eq, runs, stays]
  simpa using more

theorem kStep_faults {f : Nat × Nat × Word × Nat} (fault : s.stepFault g x.record x.kdone = some f) :
    ∃ w, exec (.kStepFoldDone gid x.num.toNat) s = .next ((s.withWork w).suspendTask gid g x f) := by
  obtain ⟨w, work⟩ := s.arrayWork_withWork gid g x
  refine ⟨w, ?_⟩
  rw [exec_kStep_runs hg here running on works runs stays more, fault, ← work]
  rfl

theorem kStep_folds (fault : s.stepFault g x.record x.kdone = none) (ready : ArraysReady s g.ctx (s.stepPlaces g x.record x.kdone)) :
    exec (.kStepFoldDone gid x.num.toNat) s = .next
      ((s.stepFolds g x.record x.kdone).1.stepped gid g x (s.stepPlaces g x.record x.kdone) (s.stepFolds g x.record x.kdone).2) := by
  rw [exec_kStep_runs hg here running on works runs stays more, fault]
  refine congrArg _ (if_neg ?_)
  rw [Bool.not_eq_true, List.any_eq_false]
  intro p hp
  simp [State.placesUp_of_ready ready hp]

end

/-- The arrays' part of a K-step (R297, R298). -/
theorem State.stepFolds_eq {r : List Byte} {k : Nat} (fault : s.stepFault g r k = none) : s.stepFolds g r k =
    (s.withArrays ((positions r).foldl (s.accAfter g r k) s.acc) ((positions r).foldl (s.banksAfter g r k) s.banks)
      ((positions r).foldl (s.selAfter g) s.bankSel), reservedMet s g r k) := by
  have folds := foldPositions (State.stepOk_of_stepFault fault) (nodup_positions r) s.acc s.banks s.bankSel (fun _ _ => rfl) 0
  rw [Nat.zero_add] at folds
  unfold State.stepFolds
  rw [takesPart_eq_positions, reservedMet_eq]
  exact folds

/-- What a K-step leaves as it was after the folds. -/
theorem State.stepped_frame (s : State) (gid : Nat) (g : Group) (x : Task) (ps : List (Nat × List Phys)) (n : Nat) :
    let t := s.stepped gid g x ps n
    t.harts = s.harts ∧ t.accLevel = s.accLevel ∧ t.acc = s.acc ∧ t.banks = s.banks ∧ t.bankSel = s.bankSel := by
  obtain ⟨w, work⟩ := ((s.arraysAccess g.ctx ps).countAll g.ctx (ps.flatMap (·.2))).arrayWork_withWork gid g x
  have counts := (s.arraysAccess g.ctx ps).countAll_countsOnly g.ctx (ps.flatMap (·.2))
  have frame := s.arraysAccess_frame g.ctx ps
  unfold CountsOnly at counts
  unfold State.stepped
  rw [work]
  generalize s.arraysAccess g.ctx ps = v at *
  generalize v.countAll g.ctx (ps.flatMap (·.2)) = u at *
  rw [counts, frame]
  exact ⟨rfl, rfl, rfl, rfl, rfl⟩

theorem State.groupOnly_stepped (hg : s.group gid = some g) (x : Task) (ps : List (Nat × List Phys)) (n : Nat) :
    GroupOnly s gid (g.stepped x n) (s.stepped gid g x ps n) := by
  obtain ⟨w, work⟩ := ((s.arraysAccess g.ctx ps).countAll g.ctx (ps.flatMap (·.2))).arrayWork_withWork gid g x
  have counts := ((s.arraysAccess g.ctx ps).countAll_countsOnly g.ctx (ps.flatMap (·.2))).groups
  have groups : ((s.arraysAccess g.ctx ps).countAll g.ctx (ps.flatMap (·.2))).groups = s.groups := by
    rw [counts, s.arraysAccess_frame g.ctx ps]
  unfold State.stepped
  rw [work]
  generalize (s.arraysAccess g.ctx ps).countAll g.ctx (ps.flatMap (·.2)) = u at groups
  have same (j : Nat) : (u.withWork w).group j = s.group j := congrArg (fun m => Store.find m j) groups
  have only := State.groupOnly_modTask ((same gid).trans hg) x.num fun y : Task =>
    { y with kdone := y.kdone + 1, rsv := min (y.rsv + n) 0xFFFF }
  exact ⟨only.1, fun j hj => (only.2 j hj).trans (same j)⟩

/-- What a K-step to uncounted pages does to memory and ports (R99, R250). -/
theorem State.stepped_accessed (s : State) (gid : Nat) (g : Group) (x : Task) {ps : List (Nat × List Phys)} (n : Nat)
    (uncounted : ∀ p ∈ ps, ∀ q ∈ p.2, q.counted = false) :
    (s.stepped gid g x ps n).ctxs = (s.arraysAccess g.ctx ps).ctxs ∧ ∀ k, (s.stepped gid g x ps n).byte k = (s.arraysAccess g.ctx ps).byte k := by
  obtain ⟨w, work⟩ := (s.arraysAccess g.ctx ps).arrayWork_withWork gid g x
  unfold State.stepped
  rw [State.countAll_of_uncounted, work]
  · exact ⟨rfl, fun _ => rfl⟩
  · intro q hq
    obtain ⟨p, hp, hq⟩ := List.mem_flatMap.1 hq
    exact uncounted p hp q hq

/-- The state after a K-step, from what its arrays hold after the folds. -/
theorem State.stepped_withArrays (hg : s.group gid = some g) (x : Task) (acc : Store (BitVec 32)) (banks : Store WeightBank) (sel : Store Nat)
    (ps : List (Nat × List Phys)) (n : Nat) :
    let t := (s.withArrays acc banks sel).stepped gid g x ps n
    (t.harts = s.harts ∧ t.accLevel = s.accLevel ∧ t.acc = acc ∧ t.banks = banks ∧ t.bankSel = sel) ∧ GroupOnly s gid (g.stepped x n) t ∧
      ∃ v, ArraysAccessed g.ctx ps s v ∧
        ((∀ p ∈ ps, ∀ q ∈ p.2, q.counted = false) → t.ctxs = v.ctxs ∧ ∀ k, t.byte k = v.byte k) :=
  ⟨(s.withArrays acc banks sel).stepped_frame gid g x ps n, State.groupOnly_stepped (s := s.withArrays acc banks sel) hg x ps n, _,
    arraysAccessed_withArrays ((s.withArrays acc banks sel).arraysAccess_accessed g.ctx ps),
    (s.withArrays acc banks sel).stepped_accessed gid g x n⟩

/-- The bank of a position after a K-step: the other one of the two, with the codes of W (R298). -/
theorem bank_stepped {t : State} {r : List Byte} {k p : Nat} (ok : s.stepOk g r p k) (hp : p ∈ positions r)
    (banks : t.banks = (positions r).foldl (s.banksAfter g r k) s.banks) (sel : t.bankSel = (positions r).foldl (s.selAfter g) s.bankSel) :
    Store.get 0 t.bankSel (4 * g.quad + p) = 1 - Store.get 0 s.bankSel (4 * g.quad + p) ∧
      ∃ rows special, t.banks.find (2 * (4 * g.quad + p) + Store.get 0 t.bankSel (4 * g.quad + p)) = some ⟨recordTag r 43, rows, special⟩ ∧
        (∀ i b, i < 256 → b < colsAt r p → decodeNum (recordTag r 43) 0 ((rows.getD i []).getD b 0) = valueW s g r p (256 * k + i) b) ∧
        (special = true ↔ ∃ i b, i < 256 ∧ b < colsAt r p ∧ ∃ z, valueW s g r p (256 * k + i) b = some z ∧
          ∃ b, z = .nan b ∨ z = .inf b) := by
  rw [banks, sel, s.get_selAfter g r hp, s.find_banksAfter g r k hp]
  exact ⟨rfl, _, _, rfl, fun i b hi hb => State.weights_rows ok hi hb, State.weights_special ok⟩

theorem kStep_spec (hg : s.group gid = some g) (fault : s.stepFault g x.record x.kdone = none) :
    let r := x.record
    let ac := ((r.getD 46 0).getLsbD 1).toNat
    let zeroes := (r.getD 46 0).getLsbD 2 = true ∨ (r.getD 46 0).getLsbD 0 = true
    let t := (s.stepFolds g r x.kdone).1.stepped gid g x (s.stepPlaces g r x.kdone) (s.stepFolds g r x.kdone).2
    ∃ v, t.harts = s.harts ∧ t.accLevel = s.accLevel ∧
      (∀ p ∈ positions r, let spire := 4 * g.quad + p
        Store.get 0 t.bankSel spire = 1 - Store.get 0 s.bankSel spire ∧
        ∃ rows special, t.banks.find (2 * spire + Store.get 0 t.bankSel spire) = some ⟨recordTag r 43, rows, special⟩ ∧
          (∀ k b, k < 256 → b < colsAt r p →
            decodeNum (recordTag r 43) 0 ((rows.getD k []).getD b 0) = valueW s g r p (256 * x.kdone + k) b) ∧
          (special = true ↔ ∃ k b, k < 256 ∧ b < colsAt r p ∧ ∃ z, valueW s g r p (256 * x.kdone + k) b = some z ∧
            ∃ b, z = .nan b ∨ z = .inf b)) ∧
      GroupOnly s gid (g.stepped x (reservedMet s g r x.kdone)) t ∧
      (∀ p ∈ positions r, ∀ a b, a < rowsAt r p → b < colsAt r p → Store.get 0 t.acc (accElem g p ac a b) =
        foldedElem s g r x.kdone p a b (if x.kdone = 0 ∧ zeroes then 0 else Store.get 0 s.acc (accElem g p ac a b))) ∧
      (∀ k, (∀ p ∈ positions r, ∀ a b, a < rowsAt r p → b < colsAt r p → k ≠ accElem g p ac a b) →
        Store.get 0 t.acc k = Store.get 0 s.acc k) ∧
      ((∀ p ∈ s.stepPlaces g r x.kdone, ∀ q ∈ p.2, q.counted = false) → ArraysAccessed g.ctx (s.stepPlaces g r x.kdone) s v ∧
        t.ctxs = v.ctxs ∧ ∀ k, t.byte k = v.byte k) := by
  intro r ac zeroes t
  have ok := State.stepOk_of_stepFault fault
  obtain ⟨⟨harts, levels, acc, banks, sel⟩, only, v, accessed, same⟩ := State.stepped_withArrays hg x
    ((positions r).foldl (s.accAfter g r x.kdone) s.acc) ((positions r).foldl (s.banksAfter g r x.kdone) s.banks)
    ((positions r).foldl (s.selAfter g) s.bankSel) (s.stepPlaces g r x.kdone) (reservedMet s g r x.kdone)
  have after : t = (s.withArrays ((positions r).foldl (s.accAfter g r x.kdone) s.acc)
      ((positions r).foldl (s.banksAfter g r x.kdone) s.banks) ((positions r).foldl (s.selAfter g) s.bankSel)).stepped gid g x
        (s.stepPlaces g r x.kdone) (reservedMet s g r x.kdone) := by
    change (s.stepFolds g r x.kdone).1.stepped gid g x (s.stepPlaces g r x.kdone) (s.stepFolds g r x.kdone).2 = _
    rw [State.stepFolds_eq fault]
  rw [← after] at harts levels acc banks sel only same
  refine ⟨v, harts, levels, fun p hp => bank_stepped (ok p hp) hp banks sel, only, fun p hp a b ha hb => ?_, fun k other => ?_,
    fun uncounted => ⟨accessed, same uncounted⟩⟩
  · rw [acc]
    exact (s.get_accAfter g r x.kdone hp ha hb).trans (congrArg _ (if_congr (and_congr_right' (taskZeroes_iff r)) rfl rfl))
  · rw [acc]
    exact s.get_accAfter_other g r x.kdone other

end

end Sys2Proof.Machine
end

section
/-! The end of a tile task: C is written in one step of homes, or a fault suspends the task; then DONE, with its signal (R306, R307). -/

namespace Sys2Proof.Machine

/-- The number that packed codes form (R300). -/
theorem packCodes_range (w n : Nat) (c : Nat → Nat) :
    packCodes w ((List.range n).map c) = ((List.range n).map fun b => c b % 2 ^ w * 2 ^ (w * b)).sum := by
  induction n generalizing c with
  | zero => rfl
  | succ n ih =>
    rw [List.range_succ_eq_map, List.map_cons, List.map_map, packCodes, ih, List.map_cons, List.map_map, List.sum_cons, ← List.sum_map_mul_left]
    simp only [Nat.mul_zero, pow_zero, Nat.mul_one, Function.comp_apply]
    refine congrArg _ (congrArg _ (List.map_congr_left fun b _ => ?_))
    rw [Function.comp_apply, Nat.mul_succ, pow_add]
    ring

/-- The stored code of a result, in the statements' words (R306). -/
theorem resultCode_eq (r : List Byte) (c : BitVec 32) :
    resultCode r ((recordTag r 42).isInt && (recordTag r 43).isInt) c = resultOf r c := by
  unfold resultCode resultOf
  simp only [taskTag_eq]
  rfl

/-- The stretch of row a of C at a position, and its places (R300). -/
def stretchC (r : List Byte) (p a : Nat) : Stretch :=
  ⟨BitVec.ofNat 64 (field r 16 8 + (256 * (p / 2) + a) * field r 32 4 + rowBytes (recordTag r 47) (256 * (p % 2))),
    spanBytes (recordTag r 47) (colsAt r p)⟩
def State.rowC (s : State) (g : Group) (r : List Byte) (p a : Nat) : Except (Word × Nat) (List Phys) :=
  s.stretch g p (field r 50 1 / 16 % 4) true (field r 51 1 % 8) (stretchC r p a)

theorem State.placesC_eq (s : State) (g : Group) (r : List Byte) (p : Nat) :
    s.placesC g r p = (List.range (rowsAt r p)).map (s.rowC g r p) := by
  unfold State.placesC stretchesC
  rw [State.operand_eq, quarter_eq, taskLevel_eq, taskField_eq_field, List.map_map]
  refine List.map_congr_left fun a _ => ?_
  simp only [Function.comp_apply, stretchOf, State.rowC, stretchC, taskTag_eq, taskField_eq_field]

/-- Where a position writes a byte of an operand. -/
def State.operandKey (s : State) (g : Group) (p sp : Nat) (a : Word) : Nat :=
  match { s with tlb := s.mtlb }.place g (4 * g.quad + p) sp a true false with
  | .at q => q.key
  | .fault .. => 0

/-- Byte i of row a of C, its codes packed from the row's first bit on (R300). -/
def State.byteC (s : State) (g : Group) (r : List Byte) (p a i : Nat) (key : Nat) : ByteWrite :=
  let t := recordTag r 47
  let bits := ((List.range (colsAt r p)).map fun b =>
    resultOf r (Store.get 0 s.acc (accElem g p (taskAcc r) a b)) % 2 ^ t.memBits * 2 ^ (t.memBits * b)).sum
  ⟨key, BitVec.ofNat 8 ((2 ^ (t.memBits * colsAt r p) - 1) / 2 ^ (8 * i)), BitVec.ofNat 8 (bits / 2 ^ (8 * i))⟩

theorem writesC_eq (s : State) (g : Group) (r : List Byte) (p a : Nat) : writesC s g r p a =
    (List.range (stretchC r p a).len).map fun i =>
      s.byteC g r p a i (s.operandKey g p (field r 50 1 / 16 % 4) ((stretchC r p a).addr + BitVec.ofNat 64 i)) := by
  simp only [stretchC, ← BitVec.ofNat_add]
  rfl

theorem State.rowWrites_byteC (s : State) (g : Group) (r : List Byte) (p a : Nat) (ps : List Phys) :
    s.rowWrites g r p a ps = (ps.zip (List.range ps.length)).map fun x => s.byteC g r p a x.2 x.1.key := by
  unfold State.rowWrites
  simp only [quarter_eq, taskTag_eq, packCodes_range, resultCode_eq]
  rfl

/-- A row of C that does not fault is written at its places (R300, R306). -/
theorem State.rowWrites_eq {s : State} {g : Group} {r : List Byte} {p a : Nat} {ps : List Phys} (ok : s.rowC g r p a = .ok ps) :
    s.rowWrites g r p a ps = writesC s g r p a := by
  obtain ⟨length, places⟩ := State.stretchPlaces_ok ok
  rw [State.rowWrites_byteC, writesC_eq]
  refine List.ext_getElem (by simp [length]) fun i hi hj => ?_
  have inside : i < ps.length := by simpa using hi
  simp only [List.getElem_map, List.getElem_zip, List.getElem_range]
  unfold State.operandKey
  rw [places i inside]

/-- The places of C, position by position and row by row; those of each Spire's arrays; and the writes to them. -/
def State.rowsC (s : State) (g : Group) (r : List Byte) : List (Nat × List (List Phys)) :=
  (takesPart r).map fun p => (p, okPlaces (s.placesC g r p))
def State.tilesC (s : State) (g : Group) (r : List Byte) : List (Nat × List Phys) :=
  (s.rowsC g r).map fun x => (4 * g.quad + x.1, x.2.flatten)
def State.writesOf (s : State) (g : Group) (r : List Byte) : List ByteWrite :=
  (s.rowsC g r).flatMap fun x => (x.2.zip (List.range x.2.length)).flatMap fun y => s.rowWrites g r x.1 y.2 y.1

theorem State.tilesC_eq (s : State) (g : Group) (r : List Byte) :
    s.tilesC g r = (positions r).map fun p => (4 * g.quad + p, (okPlaces (s.placesC g r p)).flatten) := by
  unfold State.tilesC State.rowsC
  rw [takesPart_eq_positions, List.map_map]
  rfl

theorem State.writesOf_eq {s : State} {g : Group} {r : List Byte} (ok : ∀ p ∈ positions r, lowestFault (s.placesC g r p) = none) :
    s.writesOf g r = (positions r).flatMap fun p => (List.range (rowsAt r p)).flatMap fun a => writesC s g r p a := by
  unfold State.writesOf State.rowsC
  rw [takesPart_eq_positions, List.flatMap_map]
  refine List.flatMap_congr fun p hp => ?_
  have rows := ok p hp
  rw [State.placesC_eq] at rows ⊢
  rw [okPlaces_eq, List.map_map, zip_range_map, List.flatMap_map]
  exact List.flatMap_congr fun a ha => State.rowWrites_eq (eq_ok_of_lowestFault rows a (List.mem_range.1 ha))

/-- Pushes to subscribers leave the granule tags. -/
theorem State.pushLine_gtag (s : State) (ws : List ByteWrite) (l : Nat) : (s.pushLine ws l).gtag = s.gtag := by
  unfold State.pushLine
  split
  · rfl
  · split <;> rfl

theorem State.pushLines_gtag (s : State) (ws : List ByteWrite) (ls : List Nat) : (ls.foldl (·.pushLine ws) s).gtag = s.gtag := by
  induction ls generalizing s with
  | nil => rfl
  | cons l ls ih => rw [List.foldl_cons, ih, State.pushLine_gtag]

/-- A task's stores mark the granules that carry tags with its level (R243). -/
theorem State.gtag_markGranule (s : State) (level g j : Nat) : Store.get 0 (s.markGranule (.task level) g).gtag j =
    if j = g ∧ isTagged (g * 1024) = true then BitVec.ofNat 8 level else Store.get 0 s.gtag j := by
  unfold State.markGranule
  by_cases tagged : isTagged (g * 1024) = true
  · rw [if_neg (by simp [tagged])]
    by_cases same : j = g
    · rw [if_pos ⟨same, tagged⟩, same]
      exact Store.get_set_same _ _ _ _
    · rw [if_neg fun h => same h.1]
      exact Store.get_set_other _ _ _ same
  · rw [if_pos (by simpa using tagged), if_neg fun h => tagged h.2]

theorem State.gtag_markGranules (s : State) {level j : Nat} {l : List Nat} (tagged : isTagged (j * 1024) = true)
    (marked : j ∈ l ∨ Store.get 0 s.gtag j = BitVec.ofNat 8 level) :
    Store.get 0 (l.foldl (·.markGranule (.task level)) s).gtag j = BitVec.ofNat 8 level := by
  induction l generalizing s with
  | nil => exact marked.resolve_left List.not_mem_nil
  | cons g l ih =>
    rw [List.foldl_cons]
    refine ih _ ?_
    rw [State.gtag_markGranule]
    by_cases here : j = g
    · exact .inr (if_pos ⟨here, here ▸ tagged⟩)
    · rw [if_neg fun h => here h.1]
      exact marked.imp_left fun h => (List.mem_cons.1 h).resolve_left here

/-- The granules that a task's result reaches have its level (R243, R306). -/
theorem State.granule_perform (s : State) {level : Nat} {ws : List ByteWrite} {w : ByteWrite} (hw : w ∈ ws) (low : w.key < 2 ^ 42) :
    (s.perform (.task level) ws).granule w.key = BitVec.ofNat 8 level := by
  have tagged : isTagged (w.key / 1024 * 1024) = true := by
    unfold isTagged
    rw [decide_eq_true_eq]
    omega
  unfold State.granule
  rw [if_pos (show isTagged w.key = true by unfold isTagged; simpa using low)]
  unfold State.perform
  rw [State.pushLines_gtag]
  exact State.gtag_markGranules _ tagged (.inl (mem_distinct.2 ⟨w, hw, rfl⟩))

/-- The accumulators of a task take its level where it started from zero (R306). -/
def State.leveled (s : State) (g : Group) (r : List Byte) : State :=
  if taskZeroes r then
    { s with accLevel := (takesPart r).foldl (fun m p => Store.set 0 m (2 * (4 * g.quad + p) + taskAcc r) (taskLevel r)) s.accLevel }
  else s

theorem State.get_leveled (s : State) (g : Group) (r : List Byte) (j : Nat) : Store.get 0 (s.leveled g r).accLevel j =
    if taskZeroes r = true ∧ ∃ p ∈ positions r, j = 2 * (4 * g.quad + p) + taskAcc r then field r 51 1 % 8
    else Store.get 0 s.accLevel j := by
  unfold State.leveled
  rw [takesPart_eq_positions, taskLevel_eq]
  by_cases zeroes : taskZeroes r = true
  · rw [if_pos zeroes]
    by_cases target : ∃ p ∈ positions r, j = 2 * (4 * g.quad + p) + taskAcc r
    · rw [if_pos ⟨zeroes, target⟩]
      obtain ⟨p, hp, rfl⟩ := target
      refine foldl_touched (rd := fun m j => Store.get 0 m j) (touches := fun q _ => q = p) (v := fun _ _ _ => field r 51 1 % 8) ?_ ?_
        ((nodup_positions r).imp fun ne both => ne (both.1.trans both.2.symm)) hp rfl s.accLevel
      · exact fun m q _ other => Store.get_set_other _ _ _ (by omega)
      · rintro m q - rfl
        exact Store.get_set_same _ _ _ _
    · rw [if_neg fun h => target h.2]
      refine foldl_untouched (rd := fun m j => Store.get 0 m j) (touches := fun p j => j = 2 * (4 * g.quad + p) + taskAcc r) ?_ ?_ s.accLevel
      · exact fun m q _ other => Store.get_set_other _ _ _ other
      · exact fun p hp here => target ⟨p, hp, here⟩
  · rw [if_neg zeroes, if_neg fun h => zeroes h.1]

theorem State.leveled_frame (s : State) (g : Group) (r : List Byte) : s.leveled g r = { s with accLevel := (s.leveled g r).accLevel } := by
  unfold State.leveled
  split <;> rfl

/-- A task's group once the task is DONE, before its signal. -/
def Group.done (g : Group) (x : Task) : Group :=
  { g with tasks := taskMapped g.tasks x.num fun y => { y with state := .done, code := 0 } }

theorem State.finishTask_eq (u : State) (gid : Nat) (g : Group) (x : Task) : u.finishTask gid g x =
    if (x.record.getD 46 0).getLsbD 4 = true then
      ((u.leveled g x.record).modTask gid x.num fun y => { y with state := .done, code := 0 }).setToken gid (field x.record 53 1 % 64)
        (Store.get 0 g.tokens (field x.record 53 1 % 64) + 1)
    else (u.leveled g x.record).modTask gid x.num fun y => { y with state := .done, code := 0 } := by
  rw [← taskField_eq_field]
  rfl

/-- The end of a task (R306, R307). -/
theorem State.finishTask_spec {s u : State} {gid : Nat} {g : Group} (hg : s.group gid = some g) (x : Task) (groups : u.groups = s.groups)
    (levels : u.accLevel = s.accLevel) :
    let r := x.record
    let tok := field r 53 1 % 64
    let t := u.finishTask gid g x
    (∃ y, GroupOnly s gid y t ∧ ((r.getD 46 0).getLsbD 4 = false → y = g.done x) ∧
      ((r.getD 46 0).getLsbD 4 = true → TokenWritten (g.done x) tok (Store.get 0 g.tokens tok + 1) y)) ∧
    (∀ j, Store.get 0 t.accLevel j =
      if taskZeroes r = true ∧ ∃ p ∈ positions r, j = 2 * (4 * g.quad + p) + taskAcc r then field r 51 1 % 8
      else Store.get 0 s.accLevel j) ∧
    t = { u with groups := t.groups, accLevel := t.accLevel } := by
  intro r tok t
  have same (j : Nat) : (u.leveled g r).group j = s.group j := by
    rw [State.leveled_frame]
    exact congrArg (fun m => Store.find m j) groups
  have level (j : Nat) : Store.get 0 (u.leveled g r).accLevel j = _ := u.get_leveled g r j
  rw [levels] at level
  have frame := u.leveled_frame g r
  have done := State.groupOnly_modTask ((same gid).trans hg) x.num fun y : Task => { y with state := .done, code := 0 }
  have done : GroupOnly s gid (g.done x) ((u.leveled g r).modTask gid x.num fun y => { y with state := .done, code := 0 }) :=
    ⟨done.1, fun j hj => (done.2 j hj).trans (same j)⟩
  obtain ⟨y, only, token⟩ := State.tokenWritten_setToken done.1 tok (Store.get 0 g.tokens tok + 1)
  have eq : t = _ := u.finishTask_eq gid g x
  rw [show x.record = r from rfl] at eq
  generalize u.leveled g r = w at *
  by_cases signal : (r.getD 46 0).getLsbD 4 = true
  · rw [if_pos signal] at eq
    rw [eq]
    refine ⟨⟨y, GroupOnly.trans done only, fun off => absurd (off.symm.trans signal) Bool.false_ne_true, fun _ => token⟩, level, ?_⟩
    rw [frame]
    rfl
  · rw [if_neg signal] at eq
    rw [eq]
    refine ⟨⟨_, done, fun _ => rfl, fun on => absurd on signal⟩, level, ?_⟩
    rw [frame]
    rfl

/-- The state after the writes of C: the arrays' accesses, their work, and one step of homes (R306). -/
def State.written (s : State) (gid : Nat) (g : Group) (x : Task) : State :=
  ((s.arraysAccess g.ctx (s.tilesC g x.record)).arrayWork gid g x).perform (.task (taskLevel x.record)) (s.writesOf g x.record)

theorem State.written_spec (s : State) (gid : Nat) (g : Group) (x : Task) :
    let u := s.written gid g x
    let v := s.arraysAccess g.ctx (s.tilesC g x.record)
    (u.groups = s.groups ∧ u.accLevel = s.accLevel ∧ u.harts = s.harts ∧ u.acc = s.acc) ∧ u.ctxs = v.ctxs ∧
      (∀ k, u.byte k = afterWrites (s.writesOf g x.record) k (v.byte k)) ∧
      ∀ w ∈ s.writesOf g x.record, w.key < 2 ^ 42 → u.granule w.key = BitVec.ofNat 8 (field x.record 51 1 % 8) := by
  intro u v
  have frame := s.arraysAccess_frame g.ctx (s.tilesC g x.record)
  obtain ⟨w, work⟩ := v.arrayWork_withWork gid g x
  have eq : u = (v.withWork w).perform (.task (field x.record 51 1 % 8)) (s.writesOf g x.record) := by
    rw [← work, ← taskLevel_eq]
    rfl
  rw [eq]
  change v = _ at frame
  generalize v = v at *
  refine ⟨?_, State.perform_ctxs _ _ _, fun k => ?_, fun b hb low => State.granule_perform _ hb low⟩
  · rw [State.perform_frame, frame]
    exact ⟨rfl, rfl, rfl, rfl⟩
  · rw [State.byte_perform, written_eq_afterWrites]
    rfl

section

variable {s : State} {gid : Nat} {g : Group} {x : Task}

/-- The first position whose C faults, with the fault (R311). -/
def State.faultC (s : State) (g : Group) (r : List Byte) : Option (Nat × Nat × Word × Nat) :=
  (takesPart r).findSome? fun p => (lowestFault (s.placesC g r p)).map fun e => (p, 2, e.1, e.2)

theorem State.faultC_eq_some {r : List Byte} {p : Nat} {e : Word × Nat} (hp : p ∈ positions r) (fault : lowestFault (s.placesC g r p) = some e)
    (before : ∀ q ∈ positions r, q < p → lowestFault (s.placesC g r q) = none) : s.faultC g r = some (p, 2, e.1, e.2) := by
  have sorted : (positions r).Pairwise (· < ·) := List.pairwise_lt_range.filter _
  obtain ⟨l, m, split⟩ := List.append_of_mem hp
  unfold State.faultC
  rw [takesPart_eq_positions, List.findSome?_eq_some_iff]
  refine ⟨l, p, m, split, by rw [fault]; rfl, fun q hq => ?_⟩
  rw [split] at sorted
  rw [before q (split ▸ List.mem_append_left _ hq) ((List.pairwise_append.1 sorted).2.2 q hq p List.mem_cons_self)]
  rfl

theorem State.faultC_eq_none {r : List Byte} (ok : ∀ p ∈ positions r, lowestFault (s.placesC g r p) = none) : s.faultC g r = none := by
  unfold State.faultC
  rw [takesPart_eq_positions, List.findSome?_eq_none_iff]
  intro p hp
  rw [ok p hp]
  rfl

variable (hg : s.group gid = some g) (here : g.tasks.find? (fun y => y.num == x.num) = some x) (running : x.state = .running)
  (on : g.aborted = false) (works : g.state = .running ∨ g.state = .draining) (last : field x.record 40 2 ≤ x.kdone)
include hg here running on works last

theorem exec_taskDone : exec (.taskDone gid x.num.toNat) s = .next (
    if !taskNarrows x.record then s.finishTask gid g x
    else if g.wantPark || !s.dieRuns (4 * g.quad) then s
    else (s.faultC g x.record).elim
      (if (s.tilesC g x.record).any fun p => !s.placesUp g.ctx p.1 p.2 || p.2.any (s.writeBlocked g.ctx) then s
        else (s.written gid g x).finishTask gid g x)
      (s.suspendTask gid g x)) := by
  have state : (x.state != .running) = false := by simpa using running
  have ended : decide (x.kdone < taskKS x.record) = false := by simpa [taskKS_eq] using last
  show execTaskDone gid x.num.toNat s = _
  unfold execTaskDone Group.taskAt
  rw [hg]
  dsimp only
  rw [BitVec.ofNat_toNat, BitVec.setWidth_eq, here]
  dsimp only
  rw [state, ended, on, works_of works]
  unfold State.faultC
  cases (takesPart x.record).findSome? fun p => (lowestFault (s.placesC g x.record p)).map fun e => (p, 2, e.1, e.2) <;> rfl

theorem taskDone_keeps (acc : (x.record.getD 46 0).getLsbD 0 = false) :
    exec (.taskDone gid x.num.toNat) s = .next (s.finishTask gid g x) := by
  rw [exec_taskDone hg here running on works last, if_pos]
  rw [show taskNarrows x.record = false from acc]
  rfl

variable (dest : (x.record.getD 46 0).getLsbD 0 = true) (stays : g.wantPark = false) (runs : s.dieRuns (4 * g.quad) = true)
include dest stays runs

theorem exec_taskDone_narrows : exec (.taskDone gid x.num.toNat) s = .next ((s.faultC g x.record).elim
    (if (s.tilesC g x.record).any fun p => !s.placesUp g.ctx p.1 p.2 || p.2.any (s.writeBlocked g.ctx) then s
      else (s.written gid g x).finishTask gid g x)
    (s.suspendTask gid g x)) := by
  have narrows : taskNarrows x.record = true := dest
  rw [exec_taskDone hg here running on works last, if_neg (by simp [narrows]), if_neg (by simp [stays, runs])]

theorem taskDone_faults {f : Nat × Nat × Word × Nat} (fault : s.faultC g x.record = some f) :
    exec (.taskDone gid x.num.toNat) s = .next ((s.withWork s.pipeWork).suspendTask gid g x f) := by
  rw [exec_taskDone_narrows hg here running on works last dest stays runs, fault]
  rfl

theorem taskDone_writes (fault : s.faultC g x.record = none) (ready : ArraysReady s g.ctx (s.tilesC g x.record))
    (free : ∀ p ∈ s.tilesC g x.record, ∀ q ∈ p.2, s.writeBlocked g.ctx q = false) :
    exec (.taskDone gid x.num.toNat) s = .next ((s.written gid g x).finishTask gid g x) := by
  rw [exec_taskDone_narrows hg here running on works last dest stays runs, fault]
  refine congrArg _ (if_neg ?_)
  rw [Bool.not_eq_true, List.any_eq_false]
  intro p hp
  rw [State.placesUp_of_ready ready hp, Bool.not_true, Bool.false_or, Bool.not_eq_true, List.any_eq_false]
  intro q hq
  rw [free p hp q hq]
  exact Bool.false_ne_true

end

/-- What a task is after it is DONE, from the state in which it finishes (R306, R307). -/
theorem State.finished_of {s u : State} {gid : Nat} {g : Group} {x : Task} (hg : s.group gid = some g)
    (kept : u.groups = s.groups ∧ u.accLevel = s.accLevel ∧ u.harts = s.harts ∧ u.acc = s.acc) :
    let r := x.record
    let ac := ((r.getD 46 0).getLsbD 1).toNat
    let zeroes := (r.getD 46 0).getLsbD 2 = true ∨ (r.getD 46 0).getLsbD 0 = true
    let tok := field r 53 1 % 64
    let t := u.finishTask gid g x
    ((∃ y, GroupOnly s gid y t ∧ ((r.getD 46 0).getLsbD 4 = false → y = g.done x) ∧
        ((r.getD 46 0).getLsbD 4 = true → TokenWritten (g.done x) tok (Store.get 0 g.tokens tok + 1) y)) ∧
      t.harts = s.harts ∧ t.acc = s.acc ∧
      ∀ j, Store.get 0 t.accLevel j = if zeroes ∧ ∃ p ∈ positions r, j = 2 * (4 * g.quad + p) + ac then field r 51 1 % 8
        else Store.get 0 s.accLevel j) ∧
    t = { u with groups := t.groups, accLevel := t.accLevel } := by
  intro r ac zeroes tok t
  obtain ⟨groups, levels, harts, acc⟩ := kept
  obtain ⟨only, level, frame⟩ := State.finishTask_spec hg x groups levels
  change t = _ at frame
  refine ⟨⟨only, ?_, ?_, fun j => (level j).trans (if_congr (and_congr_left' (taskZeroes_iff r)) rfl rfl)⟩, frame⟩
  · rw [frame]
    exact harts
  · rw [frame]
    exact acc

end Sys2Proof.Machine
end

section
/-! The instructions that control tile tasks: `tresume`, `tabort`, `tprog` and `tflt` (R310 to R312). -/

namespace Sys2Proof

/-- A search that does not look at what a change changes finds the same key. -/
theorem Store.find?_modify {α : Type} (m : Store α) (j : Nat) (f : α → α) (p : Nat × α → Bool) (keeps : ∀ v, p (j, f v) = p (j, v)) :
    (m.find? p = none ∧ (Store.modify m j f).find? p = none) ∨ ∃ k v, m.find? p = some (k, v) ∧
      ((Store.modify m j f).find? p = some (k, v) ∨ k = j ∧ (Store.modify m j f).find? p = some (k, f v)) := by
  induction m with
  | nil => exact .inl ⟨rfl, rfl⟩
  | cons x t ih =>
    obtain ⟨i, v⟩ := x
    unfold Store.modify
    by_cases same : i = j
    · subst same
      rw [if_pos rfl, List.find?_cons, List.find?_cons, keeps]
      by_cases here : p (i, v) = true
      · rw [here]
        exact .inr ⟨i, v, rfl, .inr ⟨rfl, rfl⟩⟩
      · rw [Bool.not_eq_true] at here
        rw [here]
        cases found : t.find? p with
        | none => exact .inl ⟨rfl, rfl⟩
        | some y => exact .inr ⟨y.1, y.2, rfl, .inl rfl⟩
    · rw [if_neg same, List.find?_cons, List.find?_cons]
      by_cases here : p (i, v) = true
      · rw [here]
        exact .inr ⟨i, v, rfl, .inl rfl⟩
      · rw [Bool.not_eq_true] at here
        rw [here]
        exact ih

end Sys2Proof

namespace Sys2Proof.Machine

section

variable {s : State} {h : Hart} {g : Group} {d a : Reg} {o : Cm}

/-- An instruction answers a value and changes nothing else. -/
def Answers (i : Instr) (s : State) (h : Hart) (d : Reg) (v : Word) : Prop :=
  ∃ t, exec i s = .next t ∧ Completes i s { h with arch := h.arch.setReg d v } t

theorem answers_of {i : Instr} {v : Word} {body : State → Hart → Result} (hi : Issues s h i) (he : exec i s = .next (s.run i body))
    (hb : body s h = .done s (h.setReg d v)) : Answers i s h d v := ⟨_, he, State.run_done hi hb⟩

theorem tprog_answers (hg : s.group h.gid = some g) (hi : Issues s h (.tprog d a o)) :
    Answers (.tprog d a o) s h d (tstat (g.taskAt ((h.reg a).setWidth 32))) := answers_of hi rfl (State.withGroup_of hg _)

theorem tstat_some (x : Task) : tstat (some x) = BitVec.ofNat 64 ((match x.state with
    | .queued => 0 | .waiting => 1 | .running => 2 | .suspended => 3 | .done => 4 | .failed => 5 | .aborted => 6) * 2 ^ 56 +
    x.code * 2 ^ 48 + x.rsv * 2 ^ 32 + x.kdone) := by
  have word : x.state.word = match x.state with
      | .queued => 0 | .waiting => 1 | .running => 2 | .suspended => 3 | .done => 4 | .failed => 5 | .aborted => 6 := by
    cases x.state <;> rfl
  exact congrArg (fun n => BitVec.ofNat 64 (n * 2 ^ 56 + x.code * 2 ^ 48 + x.rsv * 2 ^ 32 + x.kdone)) word

theorem tflt_answers {w : Bool} (hg : s.group h.gid = some g) (hi : Issues s h (.tflt d a w o)) :
    Answers (.tflt d a w o) s h d (faultWord g.faults.head? w) := answers_of hi rfl (State.withGroup_of hg _)

end

/-- A hart without the undelivered traps of a task (R310). -/
def Hart.withoutTask (z : Hart) (n : BitVec 32) : Hart :=
  { z with async := z.async.filter fun y => !(y.cause.code == 48 && y.cause.idx == n.toNat) }

/-- A task's record leaves the queue of faults with its traps (R310, R311). -/
theorem State.dropRecord_spec {s : State} {gid : Nat} {g : Group} (hg : s.group gid = some g) (n : BitVec 32) :
    let u := s.dropRecord gid n
    u = { s with groups := u.groups, harts := u.harts } ∧
      GroupOnly s gid { g with faults := g.faults.filter fun f => f.task != n } u ∧
      ∀ j z, s.hart j = some z → u.hart j = some (if z.gid = gid then z.withoutTask n else z) := by
  refine ⟨rfl, State.groupOnly_modGroup hg fun g => { g with faults := g.faults.filter fun f => f.task != n }, fun j z hj => ?_⟩
  have harts : (s.dropRecord gid n).harts = Store.mapVal (fun _ z => if z.gid = gid then z.withoutTask n else z) s.harts := rfl
  unfold State.hart at *
  rw [harts, Store.find_mapVal, hj]
  rfl

/-- A change of a group's tasks after which the record of task n leaves the queue: `tresume` and `tabort` (R312). -/
theorem State.dropRecord_changes {s v : State} {gid : Nat} {g : Group} {n : BitVec 32} {f : Task → Task} {faults : List TaskFault}
    (frame : v = { s with groups := v.groups }) (only : GroupOnly s gid { g with tasks := g.tasks.map f, faults := faults } v)
    (rest : (faults.filter fun y => y.task != n) = g.faults.filter fun y => y.task != n) :
    let u := v.dropRecord gid n
    u = { s with groups := u.groups, harts := u.harts } ∧
      GroupOnly s gid { g with tasks := g.tasks.map f, faults := g.faults.filter fun y => y.task != n } u ∧
      ∀ j z, s.hart j = some z → u.hart j = some (if z.gid = gid then z.withoutTask n else z) := by
  obtain ⟨frame', only', harts⟩ := State.dropRecord_spec only.1 n
  intro u
  change u = _ at frame'
  refine ⟨?_, GroupOnly.trans only (rest ▸ only'), fun j z hj => harts j z ?_⟩
  · rw [frame', frame]
  · rw [frame]
    exact hj

/-- The answer of `tresume` and `tabort` after a record has left the queue: the current hart may have lost a trap with it. -/
def answerDropped (u : State) (h : Hart) (d : Reg) : Result := match u.hart u.cur with
  | some w => .done u (w.setReg d 0)
  | none => .stall u h false

theorem answerDropped_of {u : State} {w : Hart} (here : u.hart u.cur = some w) (h : Hart) (d : Reg) :
    answerDropped u h d = .done u (w.setReg d 0) := by
  unfold answerDropped
  rw [here]

section

variable {s : State} {h : Hart} {g : Group} {d a : Reg} {o : Cm} {x : Task}

/-- An instruction answers 0 after it has changed tasks and dropped the record of task n with its traps (R310, R312). -/
def ChangesTask (i : Instr) (s : State) (h : Hart) (g : Group) (d : Reg) (n : BitVec 32) (f : Task → Task) : Prop :=
  ∃ t u, exec i s = .next t ∧ Completes i u { h.withoutTask n with arch := h.arch.setReg d 0 } t ∧
    u = { s with groups := u.groups, harts := u.harts } ∧
    GroupOnly s h.gid { g with tasks := g.tasks.map f, faults := g.faults.filter fun y => y.task != n } u ∧
    ∀ j z, s.hart j = some z → u.hart j = some (if z.gid = h.gid then z.withoutTask n else z)

theorem changesTask_of {i : Instr} {n : BitVec 32} {f : Task → Task} {v : State} {faults : List TaskFault} {body : State → Hart → Result}
    (hi : Issues s h i) (he : exec i s = .next (s.run i body)) (hb : body s h = answerDropped (v.dropRecord h.gid n) h d)
    (frame : v = { s with groups := v.groups }) (only : GroupOnly s h.gid { g with tasks := g.tasks.map f, faults := faults } v)
    (rest : (faults.filter fun y => y.task != n) = g.faults.filter fun y => y.task != n) : ChangesTask i s h g d n f := by
  obtain ⟨frame', only', harts⟩ := State.dropRecord_changes frame only rest
  have cur : (v.dropRecord h.gid n).cur = s.cur := by
    rw [frame]
    rfl
  have mine := harts s.cur h hi.1
  rw [if_pos rfl, ← cur] at mine
  exact ⟨_, _, he, State.run_done hi (hb.trans (answerDropped_of mine h d)) cur, frame', only', harts⟩

theorem tresume_resumes (hg : s.group h.gid = some g) (hi : Issues s h (.tresume d a o))
    (found : g.taskAt ((h.reg a).setWidth 32) = some x) (suspended : x.state = .suspended) :
    ChangesTask (.tresume d a o) s h g d ((h.reg a).setWidth 32) fun y =>
      if y.num = (h.reg a).setWidth 32 then { y with state := .running, code := 0 } else y := by
  refine changesTask_of (v := s.modTask h.gid ((h.reg a).setWidth 32) fun t => { t with state := .running, code := 0 }) hi rfl
    ((State.withGroup_of hg _).trans ?_) rfl (State.groupOnly_modTask hg _ _) rfl
  dsimp only
  rw [found]
  exact if_pos (by simp [suspended])

theorem tresume_refuses (hg : s.group h.gid = some g) (hi : Issues s h (.tresume d a o))
    (other : ∀ x, g.taskAt ((h.reg a).setWidth 32) = some x → x.state ≠ .suspended) : Answers (.tresume d a o) s h d 1 := by
  refine answers_of hi rfl ((State.withGroup_of hg _).trans ?_)
  dsimp only
  split
  · next t found => exact if_neg (by simpa using other t found)
  · rfl

theorem tabort_running (hg : s.group h.gid = some g) (hi : Issues s h (.tabort d a o))
    (found : g.taskAt ((h.reg a).setWidth 32) = some x) (running : x.state = .running) : Answers (.tabort d a o) s h d 2 := by
  refine answers_of hi rfl ((State.withGroup_of hg _).trans ?_)
  dsimp only
  rw [found]
  exact if_pos (by simp [running])

theorem tabort_aborts (hg : s.group h.gid = some g) (hi : Issues s h (.tabort d a o))
    (found : g.taskAt ((h.reg a).setWidth 32) = some x) (waits : x.state = .queued ∨ x.state = .waiting ∨ x.state = .suspended) :
    ChangesTask (.tabort d a o) s h g d ((h.reg a).setWidth 32) fun y =>
      if y.num = (h.reg a).setWidth 32 ∧ y.state.live = true then { y with state := .aborted, code := 12 } else y := by
  have live : x.state.live = true ∧ x.state ≠ .running := by
    rcases waits with e | e | e <;> rw [e] <;> exact ⟨rfl, by decide⟩
  have only := State.groupOnly_modGroup hg fun y : Group => { y with
    tasks := y.tasks.map fun t => if t.num = (h.reg a).setWidth 32 ∧ t.state.live = true then { t with state := .aborted, code := 12 } else t
    faults := y.faults.filter fun f => f.task != (h.reg a).setWidth 32 }
  have same : s.abortTask h.gid ((h.reg a).setWidth 32) 12 = s.modGroup h.gid fun y : Group => { y with
      tasks := y.tasks.map fun t => if t.num = (h.reg a).setWidth 32 ∧ t.state.live = true then { t with state := .aborted, code := 12 } else t
      faults := y.faults.filter fun f => f.task != (h.reg a).setWidth 32 } := by
    unfold State.abortTask
    simp only [Bool.and_eq_true, decide_eq_true_eq]
  refine changesTask_of (v := s.abortTask h.gid ((h.reg a).setWidth 32) 12) hi rfl
    ((State.withGroup_of hg _).trans ?_) rfl (same ▸ only) (by rw [List.filter_filter]; simp)
  dsimp only
  rw [found]
  exact (if_neg (by simp [live.2])).trans (if_pos live.1)

theorem tabort_ended (hg : s.group h.gid = some g) (hi : Issues s h (.tabort d a o))
    (ended : ∀ x, g.taskAt ((h.reg a).setWidth 32) = some x → x.state.live = false) : Answers (.tabort d a o) s h d 1 := by
  refine answers_of hi rfl ((State.withGroup_of hg _).trans ?_)
  dsimp only
  split
  · next t found =>
    have still := ended t found
    refine (if_neg ?_).trans (if_neg (by simp [still]))
    cases state : t.state <;> simp [state, TaskState.live] at still ⊢
  · rfl

end

end Sys2Proof.Machine
end

section
/-! `tflt` with a new handler hart: the undelivered traps of task faults move, or their tasks end ABORTED (R310, R311; log 67). -/

namespace Sys2Proof.Machine

/-- A lost trap of task n is among some. -/
def lostIn (l : List Async) (n : BitVec 32) : Bool := l.any fun m => BitVec.ofNat 32 m.cause.idx == n

/-- A task whose fault no hart can take any more ends ABORTED with the code of the fault (R310). -/
def abandonedTask (faults : List TaskFault) (lost : BitVec 32 → Bool) (v : Task) : Task :=
  match faults.find? fun f => f.task == v.num with
  | some f => if lost v.num && v.state.live then { v with state := .aborted, code := f.code } else v
  | none => v

/-- A group after the traps of some tasks are lost. -/
def Group.losing (g : Group) (lost : BitVec 32 → Bool) : Group :=
  { g with tasks := g.tasks.map (abandonedTask g.faults lost), faults := g.faults.filter fun f => !lost f.task }

theorem abandonedTask_num (faults : List TaskFault) (lost : BitVec 32 → Bool) (v : Task) : (abandonedTask faults lost v).num = v.num := by
  unfold abandonedTask
  split
  · split <;> rfl
  · rfl

theorem abandonedTask_kept {faults : List TaskFault} {lost : BitVec 32 → Bool} {v : Task} (kept : lost v.num = false) :
    abandonedTask faults lost v = v := by
  unfold abandonedTask
  rw [kept]
  split <;> rfl

theorem abandonedTask_congr {faults faults' : List TaskFault} {lost lost' : BitVec 32 → Bool} {v : Task}
    (found : (faults.find? fun f => f.task == v.num) = faults'.find? fun f => f.task == v.num) (same : lost v.num = lost' v.num) :
    abandonedTask faults lost v = abandonedTask faults' lost' v := by
  unfold abandonedTask
  rw [found, same]

theorem abandonedTask_unrecorded {faults : List TaskFault} (lost : BitVec 32 → Bool) {v : Task}
    (none : (faults.find? fun f => f.task == v.num) = none) : abandonedTask faults lost v = v := by
  unfold abandonedTask
  rw [none]

/-- No record of a task is left where its traps are lost. -/
theorem find?_losing (faults : List TaskFault) (lost : BitVec 32 → Bool) (n : BitVec 32) :
    (faults.filter fun f => !lost f.task).find? (fun f => f.task == n) = if lost n then none else faults.find? fun f => f.task == n := by
  rw [List.find?_filter]
  by_cases gone : lost n = true
  · rw [if_pos gone, List.find?_eq_none]
    intro f _
    by_cases same : f.task = n <;> simp [same, gone]
  · rw [if_neg gone]
    refine congrArg (fun p => faults.find? p) (funext fun f => ?_)
    by_cases same : f.task = n <;> simp [same, gone]

/-- Losses one after another are a loss of all. -/
theorem Group.losing_losing (g : Group) (lost lost' : BitVec 32 → Bool) :
    (g.losing lost).losing lost' = g.losing fun n => lost n || lost' n := by
  unfold Group.losing
  dsimp only
  rw [List.map_map, List.filter_filter]
  congr 1
  · refine List.map_congr_left fun v _ => ?_
    rw [Function.comp_apply]
    by_cases gone : lost v.num = true
    · rw [abandonedTask_unrecorded]
      · exact abandonedTask_congr rfl (by simp [gone])
      · rw [abandonedTask_num, find?_losing, if_pos gone]
    · rw [abandonedTask_kept (Bool.eq_false_of_not_eq_true gone)]
      exact abandonedTask_congr (by rw [find?_losing, if_neg gone]) (by simp [gone])
  · refine List.filter_congr fun f _ => ?_
    cases lost f.task <;> cases lost' f.task <;> rfl

/-- A loss of no recorded task changes nothing. -/
theorem Group.losing_unrecorded {g : Group} {lost : BitVec 32 → Bool} (none : ∀ f ∈ g.faults, lost f.task = false) : g.losing lost = g := by
  have tasks : g.tasks.map (abandonedTask g.faults lost) = g.tasks := by
    refine List.map_id'' (fun v => ?_) g.tasks
    cases found : g.faults.find? fun f => f.task == v.num with
    | none => exact abandonedTask_unrecorded lost found
    | some f =>
      have same : f.task = v.num := by simpa using List.find?_some found
      exact abandonedTask_kept (same ▸ none f (List.mem_of_find?_eq_some found))
  have faults : (g.faults.filter fun f => !lost f.task) = g.faults := List.filter_eq_self.2 fun f hf => by rw [none f hf]; rfl
  unfold Group.losing
  rw [tasks, faults]

/-- The trap of one task is lost (R310). -/
theorem State.groupOnly_dropTask {s : State} {gid : Nat} {g : Group} (hg : s.group gid = some g) (n : BitVec 32) :
    GroupOnly s gid (g.losing fun m => n == m) (s.dropTask gid n) := by
  unfold State.dropTask
  rw [hg]
  dsimp only
  split
  · next f found =>
    have only := State.groupOnly_modGroup hg fun x : Group => { x with
      tasks := x.tasks.map fun t => if t.num = n && t.state.live then { t with state := .aborted, code := f.code } else t
      faults := x.faults.filter fun f => f.task != n }
    have tasks : g.tasks.map (abandonedTask g.faults fun m => n == m) =
        g.tasks.map fun t => if t.num = n && t.state.live then { t with state := .aborted, code := f.code } else t := by
      refine List.map_congr_left fun v _ => ?_
      by_cases same : v.num = n
      · unfold abandonedTask
        rw [same, found]
        simp
      · rw [abandonedTask_kept (by simpa using Ne.symm same), if_neg (by simp [same])]
    have faults : (g.faults.filter fun f => !(n == f.task)) = g.faults.filter fun f => f.task != n :=
      List.filter_congr fun f _ => by rw [bne, Bool.beq_comm]
    unfold Group.losing
    rw [tasks, faults]
    exact only
  · next unrecorded =>
    have none := List.find?_eq_none.1 unrecorded
    have same : g.losing (fun m => n == m) = g := Group.losing_unrecorded fun f hf => by
      rw [Bool.beq_comm]
      exact Bool.eq_false_of_not_eq_true (none f hf)
    rw [same]
    exact ⟨hg, fun _ _ => rfl⟩

theorem State.dropTask_frame (s : State) (gid : Nat) (n : BitVec 32) : s.dropTask gid n = { s with groups := (s.dropTask gid n).groups } := by
  unfold State.dropTask
  split
  · split <;> rfl
  · rfl

/-- The traps of some tasks are lost (R310; log 67). -/
def State.dropTasks (s : State) (gid : Nat) (l : List Async) : State := l.foldl (fun s m => s.dropTask gid (BitVec.ofNat 32 m.cause.idx)) s

theorem State.dropTasks_frame (s : State) (gid : Nat) (l : List Async) : s.dropTasks gid l = { s with groups := (s.dropTasks gid l).groups } := by
  unfold State.dropTasks
  induction l generalizing s with
  | nil => rfl
  | cons m l ih => rw [List.foldl_cons, ih, State.dropTask_frame]

theorem State.groupOnly_dropTasks {s : State} {gid : Nat} {g : Group} (hg : s.group gid = some g) (l : List Async) :
    GroupOnly s gid (g.losing (lostIn l)) (s.dropTasks gid l) := by
  unfold State.dropTasks
  induction l generalizing s g with
  | nil =>
    rw [show lostIn [] = fun _ => false from rfl, Group.losing_unrecorded fun _ _ => rfl]
    exact ⟨hg, fun _ _ => rfl⟩
  | cons m l ih =>
    have one := State.groupOnly_dropTask hg (BitVec.ofNat 32 m.cause.idx)
    have rest := ih one.1
    rw [Group.losing_losing] at rest
    exact GroupOnly.trans one rest

/-- The undelivered traps of task faults at a hart, and the hart without them. -/
def Hart.traps (z : Hart) : List Async := z.async.filter fun y => y.cause.code == 48
def Hart.withoutTraps (z : Hart) : Hart := { z with async := z.async.filter fun y => y.cause.code != 48 }

/-- A hart that has no such trap. -/
theorem Hart.withoutTraps_of {z : Hart} (none : z.traps = []) : z.withoutTraps = z := by
  have kept : (z.async.filter fun y => y.cause.code != 48) = z.async := List.filter_eq_self.2 fun y hy => by
    have := List.filter_eq_nil_iff.1 none y hy
    simpa using this
  unfold Hart.withoutTraps
  rw [kept]

/-- Harts differ in their queues of asynchronous causes alone. -/
def QueuesOnly (s u : State) : Prop := ∀ m z, s.hart m = some z → ∃ l, u.hart m = some { z with async := l }

theorem QueuesOnly.refl (s : State) : QueuesOnly s s := fun _ z hz => ⟨z.async, hz⟩

theorem QueuesOnly.trans {s t u : State} (a : QueuesOnly s t) (b : QueuesOnly t u) : QueuesOnly s u := fun m z hz => by
  obtain ⟨l, ht⟩ := a m z hz
  obtain ⟨l', hu⟩ := b m _ ht
  exact ⟨l', hu⟩

theorem State.hart_modHart_same {s : State} {k : Nat} {z : Hart} (hz : s.hart k = some z) (f : Hart → Hart) :
    (s.modHart k f).hart k = some (f z) := (Store.find_modify_same _ _ _).trans (congrArg (Option.map f) hz)

theorem State.hart_modHart_other (s : State) {j k : Nat} (f : Hart → Hart) (h : j ≠ k) : (s.modHart k f).hart j = s.hart j :=
  Store.find_modify_other _ _ h

theorem queuesOnly_modHart (s : State) (k : Nat) (f : List Async → List Async) :
    QueuesOnly s (s.modHart k fun z => { z with async := f z.async }) := fun m z hz => by
  by_cases same : m = k
  · subst same
    exact ⟨_, State.hart_modHart_same hz _⟩
  · exact ⟨z.async, (s.hart_modHart_other _ same).trans hz⟩

theorem queuesOnly_dropTasks (s : State) (gid : Nat) (l : List Async) : QueuesOnly s (s.dropTasks gid l) := fun m z hz => by
  rw [s.dropTasks_frame gid l]
  exact ⟨z.async, hz⟩

section

variable {s : State} {gid old new : Nat} {g : Group}

theorem State.moveTraps_stays (stays : new = old ∨ ∀ j z, s.member gid old = some (j, z) → z.traps = []) : s.moveTraps gid old new = s := by
  unfold State.moveTraps
  split
  · rfl
  · next j z member =>
    refine if_pos ?_
    rcases stays with rfl | none
    · simp
    · rw [show z.async.filter Async.isTask = z.traps from rfl, none j z member]
      simp

theorem State.moveTraps_moves {j k : Nat} {z v : Hart} (ne : new ≠ old) (member : s.member gid old = some (j, z)) (some_ : z.traps ≠ [])
    (next : (s.modHart j Hart.withoutTraps).member gid new = some (k, v)) (alive : v.halted = false) : s.moveTraps gid old new =
      (s.modHart j Hart.withoutTraps).modHart k fun x => { x with async := x.async ++ z.traps } := by
  have full : z.traps.isEmpty = false := by simpa using some_
  unfold State.moveTraps
  rw [member]
  refine (if_neg ?_).trans ?_
  · change ¬(decide (old = new) || z.traps.isEmpty) = true
    simp [Ne.symm ne, full]
  · dsimp only
    rw [show (s.modHart j fun h => { h with async := h.async.filter fun x => !x.isTask }) = s.modHart j Hart.withoutTraps from rfl, next]
    dsimp only
    rw [alive]
    rfl

theorem State.moveTraps_loses {j : Nat} {z : Hart} (ne : new ≠ old) (member : s.member gid old = some (j, z)) (some_ : z.traps ≠ [])
    (gone : ∀ k v, (s.modHart j Hart.withoutTraps).member gid new = some (k, v) → v.halted = true) : s.moveTraps gid old new =
      (s.modHart j Hart.withoutTraps).dropTasks gid z.traps := by
  have full : z.traps.isEmpty = false := by simpa using some_
  unfold State.moveTraps
  rw [member]
  refine (if_neg ?_).trans ?_
  · change ¬(decide (old = new) || z.traps.isEmpty) = true
    simp [Ne.symm ne, full]
  · dsimp only
    rw [show (s.modHart j fun h => { h with async := h.async.filter fun x => !x.isTask }) = s.modHart j Hart.withoutTraps from rfl]
    split
    · next k v next =>
      rw [if_pos (gone k v next)]
      rfl
    · rfl

/-- The traps are as they were, move, or are lost. -/
theorem State.moveTraps_cases (s : State) (gid old new : Nat) : s.moveTraps gid old new = s ∨
    ∃ j z, s.member gid old = some (j, z) ∧ ((∃ k, s.moveTraps gid old new =
      (s.modHart j Hart.withoutTraps).modHart k fun x => { x with async := x.async ++ z.traps }) ∨
      s.moveTraps gid old new = (s.modHart j Hart.withoutTraps).dropTasks gid z.traps) := by
  by_cases same : new = old
  · exact .inl (State.moveTraps_stays (.inl same))
  · cases member : s.member gid old with
    | none => exact .inl (State.moveTraps_stays (.inr fun j z h => by rw [member] at h; cases h))
    | some m =>
      obtain ⟨j, z⟩ := m
      by_cases none : z.traps = []
      · refine .inl (State.moveTraps_stays (.inr fun i y h => ?_))
        rw [member] at h
        cases h
        exact none
      · refine .inr ⟨j, z, rfl, ?_⟩
        by_cases gone : ∀ k v, (s.modHart j Hart.withoutTraps).member gid new = some (k, v) → v.halted = true
        · exact .inr (State.moveTraps_loses same member none gone)
        · push Not at gone
          obtain ⟨k, v, next, alive⟩ := gone
          exact .inl ⟨k, State.moveTraps_moves same member none next (Bool.eq_false_of_not_eq_true alive)⟩

theorem queuesOnly_withoutTraps (s : State) (j : Nat) : QueuesOnly s (s.modHart j Hart.withoutTraps) :=
  queuesOnly_modHart s j fun l => l.filter fun y => y.cause.code != 48

/-- What `tflt` leaves of groups and harts, whatever becomes of the traps (R311). -/
theorem State.moveTraps_frame (hg : s.group gid = some g) (old new : Nat) :
    let u := s.moveTraps gid old new
    u = { s with groups := u.groups, harts := u.harts } ∧ (∃ y, GroupOnly s gid y u) ∧ QueuesOnly s u := by
  have same : GroupOnly s gid g s := ⟨hg, fun _ _ => rfl⟩
  rcases s.moveTraps_cases gid old new with e | ⟨j, z, -, ⟨k, e⟩ | e⟩ <;> rw [e]
  · exact ⟨rfl, ⟨g, same⟩, QueuesOnly.refl s⟩
  · exact ⟨rfl, ⟨g, same⟩, QueuesOnly.trans (queuesOnly_withoutTraps s j) (queuesOnly_modHart _ k fun l => l ++ z.traps)⟩
  · refine ⟨?_, ⟨_, State.groupOnly_dropTasks (s := s.modHart j Hart.withoutTraps) hg z.traps⟩,
      QueuesOnly.trans (queuesOnly_withoutTraps s j) (queuesOnly_dropTasks _ gid z.traps)⟩
    rw [State.dropTasks_frame]
    rfl

/-- A hart's place in its group does not hang on its traps. -/
theorem State.member_withoutTraps (s : State) (j gid idx : Nat) :
    (s.member gid idx = none ∧ (s.modHart j Hart.withoutTraps).member gid idx = none) ∨ ∃ k v, s.member gid idx = some (k, v) ∧
      ((s.modHart j Hart.withoutTraps).member gid idx = some (k, v) ∨
        k = j ∧ (s.modHart j Hart.withoutTraps).member gid idx = some (k, v.withoutTraps)) :=
  Store.find?_modify s.harts j Hart.withoutTraps (fun h => h.2.gid == gid && h.2.idx == idx) fun _ => rfl

theorem State.idx_of_member {idx k : Nat} {z : Hart} (h : s.member gid idx = some (k, z)) : z.idx = idx := by
  have named := List.find?_some h
  rw [Bool.and_eq_true] at named
  obtain ⟨-, idx⟩ := named
  exact beq_iff_eq.1 idx

section

variable {j : Nat} {z : Hart} (ne : new ≠ old) (member : s.member gid old = some (j, z)) (hz : s.hart j = some z)
include ne member hz

/-- The traps move on to a hart that has not halted (R310, R311; log 67). -/
theorem State.moveTraps_alive {k : Nat} {v : Hart} (next : s.member gid new = some (k, v)) (hv : s.hart k = some v) (alive : v.halted = false) :
    let u := s.moveTraps gid old new
    u = { s with harts := u.harts } ∧ u.hart j = some z.withoutTraps ∧ u.hart k = some { v with async := v.async ++ z.traps } ∧
      ∀ m, m ≠ j → m ≠ k → u.hart m = s.hart m := by
  have apart : k ≠ j := by
    rintro rfl
    obtain rfl := Option.some.inj (hz.symm.trans hv)
    exact ne ((State.idx_of_member next).symm.trans (State.idx_of_member member))
  by_cases none : z.traps = []
  · rw [State.moveTraps_stays (.inr fun i y h => by rw [member] at h; cases h; exact none), Hart.withoutTraps_of none, none, List.append_nil]
    exact ⟨rfl, hz, hv, fun _ _ _ => rfl⟩
  · have next' : (s.modHart j Hart.withoutTraps).member gid new = some (k, v) := by
      rcases s.member_withoutTraps j gid new with ⟨absent, -⟩ | ⟨i, y, found, found' | ⟨same, -⟩⟩
      · rw [next] at absent
        cases absent
      · rw [next] at found
        cases found
        exact found'
      · rw [next] at found
        cases found
        exact absurd same apart
    rw [State.moveTraps_moves ne member none next' alive]
    refine ⟨rfl, ?_, ?_, fun m hj hk => ?_⟩
    · rw [State.hart_modHart_other _ _ apart.symm, State.hart_modHart_same hz]
    · rw [State.hart_modHart_same ((s.hart_modHart_other _ apart).trans hv)]
    · rw [State.hart_modHart_other _ _ hk, State.hart_modHart_other _ _ hj]

/-- Where the new handler hart has halted, the tasks end ABORTED (R310; log 67). -/
theorem State.moveTraps_gone (hg : s.group gid = some g) (gone : ∀ k v, s.member gid new = some (k, v) → v.halted = true) :
    let u := s.moveTraps gid old new
    GroupOnly s gid (g.losing (lostIn z.traps)) u ∧ u.hart j = some z.withoutTraps ∧ ∀ m, m ≠ j → u.hart m = s.hart m := by
  by_cases none : z.traps = []
  · rw [State.moveTraps_stays (.inr fun i y h => by rw [member] at h; cases h; exact none), Hart.withoutTraps_of none, none,
      Group.losing_unrecorded fun _ _ => rfl]
    exact ⟨⟨hg, fun _ _ => rfl⟩, hz, fun _ _ => rfl⟩
  · have gone' (k : Nat) (v : Hart) (next : (s.modHart j Hart.withoutTraps).member gid new = some (k, v)) : v.halted = true := by
      rcases s.member_withoutTraps j gid new with ⟨-, absent⟩ | ⟨i, y, found, found' | ⟨-, found'⟩⟩
      · rw [next] at absent
        cases absent
      · rw [next] at found'
        cases found'
        exact gone k v found
      · rw [next] at found'
        cases found'
        exact gone k y found
    rw [State.moveTraps_loses ne member none gone']
    have harts (m : Nat) : ((s.modHart j Hart.withoutTraps).dropTasks gid z.traps).hart m = (s.modHart j Hart.withoutTraps).hart m := by
      rw [State.dropTasks_frame]
      rfl
    refine ⟨State.groupOnly_dropTasks (s := s.modHart j Hart.withoutTraps) hg z.traps, ?_, fun m hm => ?_⟩
    · rw [harts, State.hart_modHart_same hz]
    · rw [harts, State.hart_modHart_other _ _ hm]

end

end

section

variable {s : State} {h : Hart} {g : Group} {d a : Reg} {o : Cm}

theorem tfltSet_refuses (hg : s.group h.gid = some g) (hi : Issues s h (.tfltSet d a o)) (outside : g.nhart ≤ (h.reg a).toNat) :
    Answers (.tfltSet d a o) s h d (BitVec.allOnes 64) :=
  answers_of hi rfl ((State.withGroup_of hg _).trans (if_neg (Nat.not_lt.2 outside)))

/-- The state after a new handler hart has been named. -/
def State.handlerSet (s : State) (gid : Nat) (g : Group) (new : Nat) : State :=
  (s.modGroup gid fun g => { g with tfh := new }).moveTraps gid g.tfh new

theorem State.handlerSet_frame {gid : Nat} (hg : s.group gid = some g) (new : Nat) :
    let u := s.handlerSet gid g new
    u = { s with groups := u.groups, harts := u.harts } ∧ (∃ y, GroupOnly s gid y u) ∧ QueuesOnly s u := by
  have only := State.groupOnly_modGroup hg fun g : Group => { g with tfh := new }
  obtain ⟨frame, ⟨y, moved⟩, queues⟩ := State.moveTraps_frame only.1 g.tfh new
  refine ⟨?_, ⟨y, GroupOnly.trans only moved⟩, queues⟩
  exact frame

theorem tfltSet_completes (hg : s.group h.gid = some g) (hi : Issues s h (.tfltSet d a o)) (inside : (h.reg a).toNat < g.nhart) :
    ∃ t w, exec (.tfltSet d a o) s = .next t ∧ (s.handlerSet h.gid g (h.reg a).toNat).hart s.cur = some w ∧
      Completes (.tfltSet d a o) (s.handlerSet h.gid g (h.reg a).toNat) { w with arch := h.arch.setReg d (BitVec.ofNat 64 g.tfh) } t := by
  obtain ⟨frame, -, queues⟩ := State.handlerSet_frame hg (h.reg a).toNat
  obtain ⟨l, mine⟩ := queues s.cur h hi.1
  have cur : (s.handlerSet h.gid g (h.reg a).toNat).cur = s.cur := by rw [frame]
  refine ⟨_, _, rfl, mine, State.run_done hi ((State.withGroup_of hg _).trans ((if_pos inside).trans ?_)) cur⟩
  change Result.done (s.handlerSet h.gid g (h.reg a).toNat)
    ((((s.handlerSet h.gid g (h.reg a).toNat).hart s.cur).getD h).setReg d (BitVec.ofNat 64 g.tfh)) = _
  rw [mine]
  rfl

end

end Sys2Proof.Machine
end

section
/-! The steps, the end, the faults and the control of tile tasks (R69 to R71, R297, R298, R306 to R312). -/

namespace Sys2Proof.Machine

section

variable {s : State} {h : Hart} {g : Group} {d a : Reg} {o : Cm}

/-- A new handler hart: the old one's undelivered traps stay with nobody, move, or are lost (R310, R311; log 67). -/
theorem tfltSet_spec (hg : s.group h.gid = some g) (hi : Issues s h (.tfltSet d a o)) (inside : (h.reg a).toNat < g.nhart) :
    let new := (h.reg a).toNat
    ∃ t u w y, exec (.tfltSet d a o) s = .next t ∧ u.hart s.cur = some w ∧
      Completes (.tfltSet d a o) u { w with arch := h.arch.setReg d (BitVec.ofNat 64 g.tfh) } t ∧
      u = { s with groups := u.groups, harts := u.harts } ∧ GroupOnly s h.gid y u ∧
      (new = g.tfh ∨ s.member h.gid g.tfh = none → y = { g with tfh := new } ∧ u.harts = s.harts) ∧
      ∀ j z, new ≠ g.tfh → s.member h.gid g.tfh = some (j, z) → s.hart j = some z →
        (∀ k v, s.member h.gid new = some (k, v) → s.hart k = some v → v.halted = false → y = { g with tfh := new } ∧
          u.hart j = some z.withoutTraps ∧ u.hart k = some { v with async := v.async ++ z.traps } ∧
          ∀ m, m ≠ j → m ≠ k → u.hart m = s.hart m) ∧
        ((∀ k v, s.member h.gid new = some (k, v) → v.halted = true) →
          u.hart j = some z.withoutTraps ∧ (∀ m, m ≠ j → u.hart m = s.hart m) ∧
          y = ({ g with tfh := new } : Group).losing (lostIn z.traps)) := by
  intro new
  obtain ⟨t, w, run, mine, completes⟩ := tfltSet_completes hg hi inside
  obtain ⟨frame, ⟨y, only⟩, -⟩ := State.handlerSet_frame hg new
  have named := State.groupOnly_modGroup hg fun g : Group => { g with tfh := new }
  refine ⟨t, _, w, y, run, mine, completes, frame, only, fun stays => ?_,
    fun j z ne member hz => ⟨fun k v next hv alive => ?_, fun gone => ?_⟩⟩
  · have same : s.handlerSet h.gid g new = s.modGroup h.gid fun g => { g with tfh := new } :=
      State.moveTraps_stays (stays.imp_right fun none j z found => by
        rw [show s.member h.gid g.tfh = some (j, z) from found] at none
        cases none)
    rw [same] at only ⊢
    exact ⟨Option.some.inj (only.1.symm.trans named.1), rfl⟩
  · obtain ⟨frame', old, next', others⟩ :=
      State.moveTraps_alive (s := s.modGroup h.gid fun g => { g with tfh := new }) ne member hz next hv alive
    refine ⟨Option.some.inj (only.1.symm.trans ?_), old, next', others⟩
    refine Eq.trans ?_ named.1
    exact congrArg (fun u => u.group h.gid) frame'
  · obtain ⟨lost, old, others⟩ := State.moveTraps_gone (s := s.modGroup h.gid fun g => { g with tfh := new }) ne member hz named.1 gone
    exact ⟨old, others, Option.some.inj (only.1.symm.trans lost.1)⟩

end

/-- A fault suspends the task, or aborts it where no hart takes the trap (R310, R311). -/
def Suspends (i : Instr) (s : State) (gid : Nat) (g : Group) (x : Task) (f : Nat × Nat × Word × Nat) : Prop :=
  (∀ k z, s.member gid g.tfh = some (k, z) → s.hart k = some z → z.halted = false → ∃ t, exec i s = .next t ∧
    t = { s with groups := t.groups, harts := t.harts, pipeWork := t.pipeWork } ∧ GroupOnly s gid (g.suspending x f) t ∧
    t.hart k = some { z with async := z.async ++ [⟨plainCause 48 x.num.toNat, 0, none⟩] } ∧ ∀ j, j ≠ k → t.hart j = s.hart j) ∧
  ((∀ k z, s.member gid g.tfh = some (k, z) → z.halted = true) → ∃ t, exec i s = .next t ∧
    t = { s with groups := t.groups, pipeWork := t.pipeWork } ∧
    GroupOnly s gid { g with tasks := taskMapped g.tasks x.num fun y => { y with state := .aborted, code := f.2.2.2 } } t)

theorem suspends_of {i : Instr} {s : State} {gid : Nat} {g : Group} {x : Task} {f : Nat × Nat × Word × Nat} {w : List PipeWork}
    (hg : s.group gid = some g) (he : exec i s = .next ((s.withWork w).suspendTask gid g x f)) : Suspends i s gid g x f :=
  ⟨fun _ _ member hz alive => ⟨_, he, State.suspendTask_taken hg f w member hz alive⟩,
    fun gone => ⟨_, he, State.suspendTask_aborts hg f w gone⟩⟩

/-- Settles O51: the steps and the end of a task and each instruction do what its own rule above says. -/
theorem taskSteps : Obligations.TaskSteps := by
  unfold Obligations.TaskSteps
  refine ⟨fun s gid g x hg here running on works => ?_, fun s h g d a o w hg => ?_⟩
  · intro r ac zeroes level suspended tok done_ finished ready
    refine ⟨fun stopped _ => kStep_stopped hg here running on works stopped, fun runs stays more => ⟨fun f fault => ?_, fun fault up => ?_⟩,
      fun last keeps => ?_, fun last dest stays runs => ⟨fun p e hp fault before => ?_, fun ok => ?_⟩⟩
    · obtain ⟨w, run⟩ := kStep_faults hg here running on works runs stays more fault
      exact suspends_of hg run
    · obtain ⟨v, spec⟩ := kStep_spec hg fault
      exact ⟨_, v, kStep_folds hg here running on works runs stays more fault up, spec⟩
    · obtain ⟨finish, frame⟩ := State.finished_of (u := s) (x := x) hg ⟨rfl, rfl, rfl, rfl⟩
      refine ⟨_, taskDone_keeps hg here running on works last keeps, finish, fun k => ?_⟩
      rw [frame]
      rfl
    · exact suspends_of hg (taskDone_faults hg here running on works last dest stays runs (State.faultC_eq_some hp fault before))
    · intro places up free ws
      have tiles : s.tilesC g r = places := s.tilesC_eq g r
      obtain ⟨kept, ctxs, bytes, marks⟩ := s.written_spec gid g x
      obtain ⟨finish, frame⟩ := State.finished_of hg kept
      rw [State.writesOf_eq ok] at bytes marks
      refine ⟨_, s.arraysAccess g.ctx (s.tilesC g r),
        taskDone_writes hg here running on works last dest stays runs (State.faultC_eq_none ok) (tiles ▸ up) (tiles ▸ free), finish,
        tiles ▸ s.arraysAccess_accessed g.ctx (s.tilesC g r), ?_, fun k => ?_, fun w hw low => ?_⟩
      · rw [frame]
        exact ctxs
      · rw [frame]
        exact bytes k
      · rw [frame]
        exact marks w hw low
  · intro n found answers without changes
    refine ⟨fun hi => ⟨fun x here suspended => tresume_resumes hg hi here suspended, fun other => tresume_refuses hg hi other⟩,
      fun hi => ⟨fun x here running => tabort_running hg hi here running, fun x here waits => tabort_aborts hg hi here waits,
        fun ended => tabort_ended hg hi ended⟩,
      fun hi => ⟨fun gone => ?_, fun x here => ?_⟩, fun hi => ⟨fun none => ?_, fun f rest oldest => ?_⟩,
      fun hi => ⟨fun outside => tfltSet_refuses hg hi outside, fun inside => tfltSet_spec hg hi inside⟩⟩
    · have answer := tprog_answers hg hi
      rw [show g.taskAt n = none from gone] at answer
      exact answer
    · have answer := tprog_answers hg hi
      rw [show g.taskAt n = some x from here, tstat_some] at answer
      exact answer
    · have answer := tflt_answers hg hi
      rw [none] at answer
      exact answer
    · have answer := tflt_answers hg hi
      rw [oldest] at answer
      exact answer

end Sys2Proof.Machine
end

section
/-! The choice of a step and every instruction's meaning keep memory and granule tags in canonical form (R15). -/

namespace Sys2Proof.Machine

/-- Every instruction and every event: each meaning has its own law of canonical form. -/
theorem safe_exec {s : State} (safe : Safe s) (i : Instr) : SafeOutcome (exec i s) := by
  cases i <;> simp [exec, safe]

@[simp] theorem safe_fetched {s : State} (safe : Safe s) (k : Nat) (h : Hart) (n : Nat) : Safe (s.fetched k h n) := by
  unfold State.fetched
  split
  · exact safe
  · exact safe_charge safe _ _

@[simp] theorem safe_waitFetch {s : State} (safe : Safe s) (k : Nat) (h : Hart) : Safe (s.waitFetch k h) :=
  safe_ite (safe_setHart safe _ _) safe

/-- The canonical form of the state that a choice goes on with. -/
def SafeChoice : Choice → Prop
  | .event _ s | .hart _ s | .device s => Safe s
  | .stop => True

theorem safe_hartStep {s : State} (safe : Safe s) (k : Nat) : SafeChoice (s.hartStep k) := by
  unfold State.hartStep
  split
  · exact safe
  · split
    · exact safe
    · split
      · exact safe_after safe (safe_execAsyncTrapEntry safe k)
      · exact safe_takeIssue safe k

/-- A turn of the device or of a hart, taken in either order, falls back on a clock. -/
theorem safeChoice_turns {first second : Option Choice} {clock : Choice} (hf : ∀ c ∈ first, SafeChoice c)
    (hs : ∀ c ∈ second, SafeChoice c) (hc : SafeChoice clock) : SafeChoice ((first <|> second).getD clock) := by
  cases first with
  | some c => exact hf c rfl
  | none => cases second with
    | some c => exact hs c rfl
    | none => exact hc

theorem safe_choose {s : State} (safe : Safe s) : SafeChoice s.choose := by
  have deviceTurn : ∀ c ∈ s.auto.map fun t => Choice.device { t with hartTurn := true }, SafeChoice c := by
    intro c hc
    obtain ⟨t, ht, rfl⟩ := Option.mem_map.1 hc
    exact safe_auto safe t ht
  have hartTurn : ∀ c ∈ s.nextHart.map (State.hartStep { s with clockDue := true }), SafeChoice c := by
    intro c hc
    obtain ⟨k, -, rfl⟩ := Option.mem_map.1 hc
    exact safe_hartStep (s := { s with clockDue := true }) safe k
  have clock : SafeChoice (.device s.clocked) := safe_clocked safe
  unfold State.choose
  split
  · exact safe
  · next k bs t _ => exact safe_hostStore (s := { s with agenda := t }) safe k bs
  · next k t _ => exact safe_hartStep (s := { s with agenda := t, clockDue := true }) safe k
  · split
    · trivial
    · split
      · exact clock
      · dsimp only
        split
        · exact safeChoice_turns hartTurn deviceTurn clock
        · exact safeChoice_turns deviceTurn hartTurn clock

/-- What hart k's step does with its fetch: an instruction, a trap for a fetch that finds none, or a wait. -/
theorem safe_step {s : State} (safe : Safe s) : SafeOutcome (step s) := by
  have chosen := safe_choose safe
  unfold step
  split <;> rename_i choice <;> rw [choice] at chosen
  · exact fun _ e => nomatch e
  · exact safeOutcome_next.2 chosen
  · exact safe_exec chosen _
  · next k u =>
    split
    · exact safeOutcome_next.2 chosen
    · next h _ =>
      split
      · next i _ => exact safe_exec (s := { u.fetched k h i.size with cur := k }) (safe_fetched chosen k h _) i
      · next w _ => exact safe_execIllegalInstruction (s := { u.fetched k h (sizeOfClass w.toNat) with cur := k }) (safe_fetched chosen k h _) w
      · next f _ => exact safe_execFetchFault (s := { u with cur := k }) chosen f
      · exact safeOutcome_next.2 (safe_waitFetch chosen k h)

/-- Settles O5: a step goes on from a safe choice, and every meaning keeps the canonical form. -/
theorem stepKeepsSafe : Obligations.StepKeepsSafe := by
  unfold Obligations.StepKeepsSafe
  exact fun _ t safe next => safe_step safe t next

end Sys2Proof.Machine
end

section
/-! Reading a vector operand: decoding its codes, whole blocks of a level, and the transform of R33 undone (R62, R190, R317). -/

namespace Sys2Proof

section

variable (k : Option Tag)

theorem length_unpair (a d : List Num) : (unpair k a d).length = 2 * min a.length d.length := by
  fun_induction unpair k a d with
  | case1 a s d t r ih =>
    simp only [List.length_cons, ih]
    omega
  | case2 a d none =>
    cases a with
    | nil => simp
    | cons x s => cases d with
      | nil => simp
      | cons y t => exact (none _ _ _ _ rfl rfl).elim

/-- Approximations pair with as many details, and what follows those stays out. -/
theorem unpair_append {a d : List Num} (rest : List Num) (enough : a.length ≤ d.length) : unpair k a (d ++ rest) = unpair k a d := by
  induction a generalizing d with
  | nil => simp [unpair]
  | cons x s ih => cases d with
    | nil => simp at enough
    | cons y t => simp [unpair, ih (Nat.le_of_succ_le_succ enough)]

/-- The details below level l of c approximations, one less than 2^l for each. -/
theorem length_invHaarFrom {acc rest : List Num} {l : Nat} (details : rest.length = acc.length * (2 ^ l - 1)) :
    (invHaarFrom k acc rest l).length = acc.length * 2 ^ l := by
  induction l generalizing acc rest with
  | zero => simp [invHaarFrom]
  | succ l ih =>
    obtain ⟨p, hp⟩ : ∃ p, 2 ^ l = p + 1 := ⟨2 ^ l - 1, by have := Nat.two_pow_pos l; omega⟩
    have size : rest.length = acc.length + 2 * acc.length * p := by
      rw [details, pow_succ, hp, show (p + 1) * 2 - 1 = 1 + 2 * p by omega]
      ring
    have both : (unpair k acc rest).length = 2 * acc.length := by
      rw [length_unpair, Nat.min_eq_left (size ▸ Nat.le_add_right _ _)]
    rw [invHaarFrom, ih (by rw [List.length_drop, both, size, hp, Nat.add_sub_cancel_left, Nat.add_sub_cancel]), both, pow_succ]
    ring

theorem length_invHaar {y : List Num} {l : Nat} (h : y.length = 2 ^ l) : (invHaar k y l).length = 2 ^ l := by
  have pos := Nat.two_pow_pos l
  have one : (y.take 1).length = 1 := by rw [List.length_take]; omega
  rw [invHaar, length_invHaarFrom k (by rw [one, List.length_drop]; omega), one, Nat.one_mul]

/-- The finest level is undone last. -/
theorem invHaarFrom_append {acc rest : List Num} (d : List Num) {l : Nat} (details : rest.length = acc.length * (2 ^ l - 1)) :
    invHaarFrom k acc (rest ++ d) (l + 1) = unpair k (invHaarFrom k acc rest l) d := by
  induction l generalizing acc rest with
  | zero =>
    have : rest = [] := List.length_eq_zero_iff.1 (by simpa using details)
    simp [invHaarFrom, this]
  | succ l ih =>
    obtain ⟨p, hp⟩ : ∃ p, 2 ^ l = p + 1 := ⟨2 ^ l - 1, by have := Nat.two_pow_pos l; omega⟩
    have size : rest.length = acc.length + 2 * acc.length * p := by
      rw [details, pow_succ, hp, show (p + 1) * 2 - 1 = 1 + 2 * p by omega]
      ring
    have enough : acc.length ≤ rest.length := size ▸ Nat.le_add_right _ _
    have both : (unpair k acc rest).length = 2 * acc.length := by rw [length_unpair, Nat.min_eq_left enough]
    rw [invHaarFrom, unpair_append k d enough, List.drop_append_of_le_length enough,
      ih (by rw [List.length_drop, both, size, hp, Nat.add_sub_cancel_left, Nat.add_sub_cancel]), invHaarFrom]

theorem invHaar_append {y : List Num} (d : List Num) {l : Nat} (h : y.length = 2 ^ l) :
    invHaar k (y ++ d) (l + 1) = unpair k (invHaar k y l) d := by
  have pos : 1 ≤ y.length := h ▸ Nat.two_pow_pos l
  have one : (y.take 1).length = 1 := by rw [List.length_take]; omega
  rw [invHaar, invHaar, List.take_append_of_le_length pos, List.drop_append_of_le_length pos,
    invHaarFrom_append k d (by rw [one, List.length_drop]; omega)]

theorem length_haar_pairs (x : List Num) : (haarPairs k x).1.length = x.length / 2 ∧ (haarPairs k x).2.length = x.length / 2 := by
  fun_induction haarPairs k x with
  | case1 x y t r s ih =>
    simp only [List.length_cons, show r = haarPairs k t from rfl, ih.1, ih.2]
    omega
  | case2 x none =>
    rcases x with _ | ⟨a, _ | ⟨b, t⟩⟩
    · simp
    · simp
    · exact (none _ _ _ rfl).elim

theorem length_haar {x : List Num} {l : Nat} (h : x.length = 2 ^ l) : (haar k x l).length = 2 ^ l := by
  induction l generalizing x with
  | zero => exact h
  | succ l ih =>
    obtain ⟨approx, detail⟩ := length_haar_pairs k x
    have half : x.length / 2 = 2 ^ l := by rw [h, pow_succ]; omega
    rw [haar, List.length_append, ih (approx.trans half), detail, half, pow_succ]
    omega

end

@[simp] theorem Num.floor_ofInt (z : Int) : (Num.ofInt z).floor = z := by
  by_cases negative : z < 0
  · simp only [Num.ofInt, negative, decide_true, Num.floor, Nat.add_sub_cancel, Nat.div_one]
    omega
  · simp only [Num.ofInt, negative, decide_false, Num.floor, Nat.div_one]
    omega

/-- One level of the integer transform delivers integers, and undoing it gives the pairs back (R33). -/
theorem haarPairs_ofInt (x : List Int) (even : x.length % 2 = 0) : ∃ a d : List Int,
    haarPairs none (x.map Num.ofInt) = (a.map Num.ofInt, d.map Num.ofInt) ∧ unpair none (a.map Num.ofInt) (d.map Num.ofInt) = x.map Num.ofInt := by
  match x with
  | [] => exact ⟨[], [], rfl, rfl⟩
  | [_] => exact absurd even (by simp)
  | p :: q :: t =>
    obtain ⟨a, d, pairs, back⟩ := haarPairs_ofInt t (by simp only [List.length_cons] at even; omega)
    refine ⟨(p + q) / 2 :: a, (p - q) :: d, ?_, ?_⟩
    · simp [haarPairs, pairs, haarStep]
    · simp only [List.map_cons, unpair, back, haarBack, Num.floor_ofInt]
      rw [show (p + q) / 2 + (p - q + 1) / 2 = p by omega, show p - (p - q) = q by omega]

/-- The integer transform loses nothing (R33). -/
theorem invHaar_haar_ofInt (l : Nat) (x : List Int) (h : x.length = 2 ^ l) :
    invHaar none (haar none (x.map Num.ofInt) l) l = x.map Num.ofInt := by
  induction l generalizing x with
  | zero =>
    obtain ⟨z, rfl⟩ := List.length_eq_one_iff.1 h
    rfl
  | succ l ih =>
    obtain ⟨a, d, pairs, back⟩ := haarPairs_ofInt x (by rw [h, pow_succ]; omega)
    have half : a.length = 2 ^ l := by
      have := (length_haar_pairs none (x.map Num.ofInt)).1
      rw [pairs, List.length_map, List.length_map, h, pow_succ] at this
      omega
    rw [haar, pairs]
    dsimp only
    rw [invHaar_append none _ (length_haar none (by rw [List.length_map, half])), ih a half, back]

/-- A function on whole blocks acts on the block that holds an element; what follows the blocks stays (R317). -/
theorem onBlocks_getElem? {f : List Num → List Num} {w : Nat} (pos : 0 < w) (keeps : ∀ y, y.length = w → (f y).length = w) (b : Nat)
    (x : List Num) (fits : b * w ≤ x.length) (i : Nat) :
    (onBlocks f w b x)[i]? = if i / w < b then (f ((x.drop (i / w * w)).take w))[i % w]? else x[i]? := by
  induction b generalizing x i with
  | zero => simp [onBlocks]
  | succ b ih =>
    rw [Nat.succ_mul] at fits
    have block : (f (x.take w)).length = w := keeps _ (by rw [List.length_take]; omega)
    rw [onBlocks]
    by_cases here : i < w
    · rw [List.getElem?_append_left (by omega), Nat.div_eq_of_lt here, Nat.mod_eq_of_lt here]
      simp
    · obtain ⟨j, rfl⟩ : ∃ j, i = j + w := ⟨i - w, by omega⟩
      rw [List.getElem?_append_right (by omega), block, Nat.add_sub_cancel, ih _ (by rw [List.length_drop]; omega),
        Nat.add_div_right _ pos, Nat.add_mod_right]
      simp only [Nat.add_lt_add_iff_right, List.drop_drop, List.getElem?_drop]
      rw [show w + j / w * w = (j / w + 1) * w by ring, Nat.add_comm w j]

theorem length_onBlocks {f : List Num → List Num} {w : Nat} (keeps : ∀ y, y.length = w → (f y).length = w) (b : Nat)
    (x : List Num) (fits : b * w ≤ x.length) : (onBlocks f w b x).length = x.length := by
  induction b generalizing x with
  | zero => rfl
  | succ b ih =>
    rw [Nat.succ_mul] at fits
    rw [onBlocks, List.length_append, keeps _ (by rw [List.length_take]; omega), ih _ (by rw [List.length_drop]; omega), List.length_drop]
    omega

end Sys2Proof

namespace Sys2Proof.Machine

/-- The stored code of element i of register r, as a reader takes it (R36, R58). -/
theorem Arch.codes_eq_range (a : Arch) (r n : Nat) :
    a.codes r n = (List.range n).map fun i => rawCode a r (a.tagOf r).bits i % 2 ^ (a.tagOf r).memBits := by
  unfold Arch.codes rawCode
  rw [codesOf_eq_range, List.map_map]
  refine List.map_congr_left fun i _ => ?_
  rw [Function.comp_apply, ← cleanCode_mod, eq_comm]
  refine Nat.mod_eq_of_lt ?_
  unfold cleanCode
  split
  · next six =>
    rw [six]
    exact Nat.lt_of_lt_of_le (Nat.mod_lt _ (by decide)) (by decide)
  · exact Nat.mod_lt _ (Nat.two_pow_pos _)

/-- Decoded elements from number i on: the values of those that are needed, and the lowest reserved code among those that report. -/
theorem decodeAll_range' (t : Tag) (need rep : Nat → Bool) (c : Nat → Nat) (i n : Nat) :
    decodeAll t need rep i ((List.range' i n).map c) =
      ((List.range' i n).map fun j => if need j then (decodeNum t 0 (c j)).getD .zero else .zero,
        (List.range' i n).find? fun j => need j && rep j && (decodeNum t 0 (c j)).isNone) := by
  induction n generalizing i with
  | zero => rfl
  | succ n ih =>
    rw [List.range'_succ, List.map_cons, List.map_cons, List.find?_cons, decodeAll, ih]
    by_cases needed : need i
    · cases read : decodeNum t 0 (c i) with
      | some x => simp [needed]
      | none => cases rep i <;> simp [needed]
    · simp [needed]

theorem decodeAll_range (t : Tag) (need rep : Nat → Bool) (c : Nat → Nat) (n : Nat) :
    decodeAll t need rep 0 ((List.range n).map c) =
      ((List.range n).map fun j => if need j then (decodeNum t 0 (c j)).getD .zero else .zero,
        (List.range n).find? fun j => need j && rep j && (decodeNum t 0 (c j)).isNone) := by
  rw [List.range_eq_range']
  exact decodeAll_range' t need rep c 0 n

/-- The codes of values that are encoded again (R190). -/
theorem encodeAll_getElem? (t : Tag) (m : Rnd) (sat : Bool) (need rep : Nat) (l : List Num) (i : Nat) :
    (encodeAll t m sat need rep l).val[i]? = l[i]?.map fun x => if bitOf need i then (encodeNum t m sat 0 x).val else 0 := by
  induction l generalizing need rep i with
  | nil => rfl
  | cons x l ih =>
    cases i with
    | zero => unfold encodeAll; split <;> simp [bitOf_zero, *]
    | succ i => unfold encodeAll; split <;> simp [ih, bitOf_succ]

/-- The elements of whole blocks below n. -/
theorem bitOf_wholeBlocks (l n i : Nat) : bitOf (wholeBlocks l n) i = decide (i / 2 ^ l < n / 2 ^ l) := by
  unfold wholeBlocks
  rw [bitOf_eq_testBit, Nat.testBit_two_pow_sub_one]
  exact decide_eq_decide.2 (Nat.div_lt_iff_lt_mul (Nat.two_pow_pos l)).symm

/-- A whole block with an active element is read as a whole. -/
theorem blockActive_of_active {act l n i j : Nat} (whole : i / 2 ^ l < n / 2 ^ l) (active : act.testBit i = true)
    (together : j / 2 ^ l = i / 2 ^ l) : blockActive act l n j = true := by
  have pos := Nat.two_pow_pos l
  unfold blockActive
  rw [together, decide_eq_true whole, Bool.true_and, bne_iff_ne]
  intro none
  have bit : (act / 2 ^ (i / 2 ^ l * 2 ^ l) % 2 ^ 2 ^ l).testBit (i % 2 ^ l) = true := by
    rw [Nat.testBit_mod_two_pow, decide_eq_true (Nat.mod_lt _ pos), Bool.true_and, Nat.testBit_div_two_pow,
      Nat.add_comm, Nat.div_add_mod']
    exact active
  rw [none, Nat.zero_testBit] at bit
  cases bit

/-- The value of element i of register r as stored; none for a reserved code (R62). -/
def Arch.stored (a : Arch) (r i : Nat) : Option Num :=
  decodeNum (a.tagOf r) 0 (rawCode a r (a.tagOf r).bits i % 2 ^ (a.tagOf r).memBits)

/-- The stored values of the block of level l that starts at element first. -/
def Arch.block (a : Arch) (r l first : Nat) : List Num := (List.range (2 ^ l)).map fun j => (a.stored r (first + j)).getD .zero

theorem length_encodeAll (t : Tag) (m : Rnd) (sat : Bool) (need rep : Nat) (l : List Num) :
    (encodeAll t m sat need rep l).val.length = l.length := by
  induction l generalizing need rep with
  | nil => rfl
  | cons x l ih => unfold encodeAll; split <;> simp [ih]

/-- The values of the elements that a block with an active element needs, before the transform is undone. -/
def Arch.coefficients (a : Arch) (r need n : Nat) : List Num :=
  (List.range n).map fun i => if blockActive need (a.domOf r) n i then (a.stored r i).getD .zero else .zero

theorem Arch.drop_take_coefficients {a : Arch} {r act n i : Nat} (whole : i / 2 ^ a.domOf r < n / 2 ^ a.domOf r)
    (active : act.testBit i = true) :
    ((a.coefficients r act n).drop (i / 2 ^ a.domOf r * 2 ^ a.domOf r)).take (2 ^ a.domOf r) =
      a.block r (a.domOf r) (i / 2 ^ a.domOf r * 2 ^ a.domOf r) := by
  have pos := Nat.two_pow_pos (a.domOf r)
  have fits : i / 2 ^ a.domOf r * 2 ^ a.domOf r + 2 ^ a.domOf r ≤ n := by
    rw [← Nat.succ_mul]
    exact (Nat.mul_le_mul_right _ whole).trans (Nat.div_mul_le_self n _)
  refine List.ext_getElem? fun j => ?_
  unfold Arch.coefficients Arch.block
  rw [List.getElem?_take, List.getElem?_drop, List.getElem?_map, List.getElem?_map]
  by_cases inside : j < 2 ^ a.domOf r
  · rw [if_pos inside, List.getElem?_range (by omega), List.getElem?_range inside, Option.map_some, Option.map_some,
      if_pos (blockActive_of_active whole active (by rw [Nat.mul_comm, Nat.mul_add_div pos, Nat.div_eq_of_lt inside, Nat.add_zero]))]
  · simp [inside]

theorem Arch.length_invHaarAll_coefficients (a : Arch) (r need n : Nat) (k : Option Tag) :
    (invHaarAll k (a.domOf r) (a.coefficients r need n)).length = n := by
  unfold invHaarAll
  have size : (a.coefficients r need n).length = n := by simp [Arch.coefficients]
  split
  · exact size
  · rw [length_onBlocks (fun y => length_invHaar k) _ _ (Nat.div_mul_le_self _ _), size]

/-- Reconstruction, written out: the elements of whole blocks are encoded again, the others keep their codes (R190, R317). -/
theorem Arch.codesFor_level {a : Arch} {r : Nat} (level : a.domOf r ≠ 0) (need rep n : Nat) (m : Rnd) (sat : Bool) :
    (a.codesFor r need rep n m sat).1.val =
      ((List.range n).zip ((encodeAll (a.tagOf r) m sat (need &&& wholeBlocks (a.domOf r) n) rep
        (invHaarAll (haarKind (a.tagOf r)) (a.domOf r) (a.coefficients r need n))).val.zip (a.codes r n))).map fun p =>
          if bitOf (wholeBlocks (a.domOf r) n) p.1 then p.2.1 else p.2.2 := by
  unfold Arch.codesFor
  rw [if_neg level, Arch.codes_eq_range, decodeAll_range]
  rfl

theorem Arch.length_codes (a : Arch) (r n : Nat) : (a.codes r n).length = n := by
  rw [Arch.codes_eq_range, List.length_map, List.length_range]

theorem Arch.length_codesFor (a : Arch) (r need rep n : Nat) (m : Rnd) (sat : Bool) :
    (a.codesFor r need rep n m sat).1.val.length = n := by
  by_cases level : a.domOf r = 0
  · unfold Arch.codesFor
    rw [if_pos level]
    exact a.length_codes r n
  · rw [Arch.codesFor_level level, List.length_map, List.length_zip, List.length_zip, length_encodeAll,
      Arch.length_invHaarAll_coefficients, Arch.length_codes, List.length_range]
    omega

theorem getElem?_zip_zip {α β γ : Type} {xs : List α} {ys : List β} {zs : List γ} {i : Nat} {x : α} {y : β} {z : γ}
    (hx : xs[i]? = some x) (hy : ys[i]? = some y) (hz : zs[i]? = some z) : (xs.zip (ys.zip zs))[i]? = some (x, y, z) :=
  List.getElem?_zip_eq_some.2 ⟨hx, List.getElem?_zip_eq_some.2 ⟨hy, hz⟩⟩

/-- The code of an active element of a register that holds a level (R190, R317). -/
theorem Arch.codesFor_active {a : Arch} {r act n i : Nat} (level : a.domOf r ≠ 0) (m : Rnd) (sat : Bool) (hi : i < n)
    (active : act.testBit i = true) :
    let l := a.domOf r
    let t := a.tagOf r
    let first := i / 2 ^ l * 2 ^ l
    (a.codesFor r act act n m sat).1.val.getD i 0 = if i / 2 ^ l < n / 2 ^ l then
        (encodeNum t m sat 0 ((invHaar (haarKind t) (a.block r l first) l).getD (i - first) .zero)).val
      else rawCode a r t.bits i % 2 ^ t.memBits := by
  intro l t first
  have size : (a.coefficients r act n).length = n := by simp [Arch.coefficients]
  have code : (a.codes r n)[i]? = some (rawCode a r t.bits i % 2 ^ t.memBits) := by
    rw [Arch.codes_eq_range, List.getElem?_map, List.getElem?_range hi]
    rfl
  obtain ⟨x, hx⟩ : ∃ x, (invHaarAll (haarKind t) l (a.coefficients r act n))[i]? = some x :=
    ⟨_, List.getElem?_eq_getElem (by rw [Arch.length_invHaarAll_coefficients]; exact hi)⟩
  have again := encodeAll_getElem? t m sat (act &&& wholeBlocks l n) act (invHaarAll (haarKind t) l (a.coefficients r act n)) i
  rw [hx, Option.map_some, bitOf_eq_testBit, Nat.testBit_and, active, Bool.true_and, ← bitOf_eq_testBit, bitOf_wholeBlocks] at again
  rw [List.getD_eq_getElem?_getD, Arch.codesFor_level level, List.getElem?_map,
    getElem?_zip_zip (List.getElem?_range hi) again code, Option.map_some, Option.getD_some, bitOf_wholeBlocks]
  simp only [decide_eq_true_eq]
  by_cases whole : i / 2 ^ l < n / 2 ^ l
  · rw [if_pos whole, if_pos whole, if_pos whole]
    have rebuilt : x = (invHaar (haarKind t) (a.block r l first) l).getD (i - first) .zero := by
      have place : i - first = i % 2 ^ l := by
        have := Nat.div_add_mod' i (2 ^ l)
        omega
      unfold invHaarAll at hx
      rw [if_neg level, onBlocks_getElem? (Nat.two_pow_pos l) (fun y => length_invHaar _) _ _ (Nat.div_mul_le_self _ _), size,
        if_pos whole, Arch.drop_take_coefficients whole active] at hx
      rw [place, List.getD_eq_getElem?_getD, hx, Option.getD_some]
    rw [rebuilt]
  · rw [if_neg whole, if_neg whole]

/-- A list of n codes as the codes of its places. -/
theorem eq_map_getD {l : List Nat} {n : Nat} (h : l.length = n) : l = (List.range n).map fun i => l.getD i 0 := by
  refine List.ext_getElem? fun i => ?_
  rw [List.getElem?_map]
  by_cases inside : i < n
  · rw [List.getElem?_range inside, Option.map_some, List.getD_eq_getElem?_getD, List.getElem?_eq_getElem (h ▸ inside), Option.getD_some]
  · rw [List.getElem?_eq_none (by omega), List.getElem?_eq_none (by simpa using inside)]
    rfl

/-- Decoded values at an active element. -/
theorem decodeAll_at {t : Tag} {act n : Nat} (c : Nat → Nat) (fl : Flags) (rsv : Option Nat) {i : Nat} (hi : i < n)
    (active : act.testBit i = true) :
    Vals.at ⟨(decodeAll t (bitOf act) (bitOf act) 0 ((List.range n).map c)).1, fl, rsv⟩ i = (decodeNum t 0 (c i)).getD .zero := by
  rw [Vals.at_eq, decodeAll_range]
  simp [hi, bitOf_eq_testBit, active]

theorem Arch.length_values (a : Arch) (r act n : Nat) (keep : Bool) (m : Rnd) (sat : Bool) : (a.values r act n keep m sat).xs.length = n := by
  unfold Arch.values Arch.valuesFor
  split
  · rw [Arch.codes_eq_range, decodeAll_range]
    simp
  · dsimp only
    rw [eq_map_getD (a.length_codesFor r act act n m sat), decodeAll_range]
    simp

/-- An operand that is read as stored (R62). -/
theorem Arch.values_stored {a : Arch} {r : Nat} {keep : Bool} (plain : keep = true ∨ a.domOf r = 0) (act n : Nat) (m : Rnd) (sat : Bool) :
    let v := a.values r act n keep m sat
    v.flags = 0 ∧ (∀ i, i < n → act.testBit i = true → v.at i = (a.stored r i).getD .zero) ∧
      ∀ i, v.rsv = some i ↔
        i < n ∧ act.testBit i = true ∧ a.stored r i = none ∧ ∀ j, j < i → act.testBit j = true → a.stored r j ≠ none := by
  have read : a.values r act n keep m sat = ⟨(decodeAll (a.tagOf r) (bitOf act) (bitOf act) 0 (a.codes r n)).1, 0,
      (decodeAll (a.tagOf r) (bitOf act) (bitOf act) 0 (a.codes r n)).2⟩ := by
    unfold Arch.values Arch.valuesFor
    rw [if_pos (by simpa using plain)]
  rw [read, Arch.codes_eq_range]
  refine ⟨rfl, fun i hi active => decodeAll_at _ _ _ hi active, fun i => ?_⟩
  rw [decodeAll_range]
  dsimp only
  rw [List.find?_range_eq_some]
  simp only [bitOf_eq_testBit, Bool.and_self, Bool.and_eq_true, Option.isNone_iff_eq_none, List.mem_range, Bool.not_eq_true',
    Bool.and_eq_false_imp, Option.isNone_eq_false_iff, Option.isSome_iff_ne_none]
  unfold Arch.stored
  tauto

/-- An operand that is reconstructed (R190). -/
theorem Arch.values_rebuilt {a : Arch} {r act n i : Nat} (level : a.domOf r ≠ 0) (m : Rnd) (sat : Bool) (hi : i < n)
    (active : act.testBit i = true) :
    (a.values r act n false m sat).at i =
      (decodeNum (a.tagOf r) 0 ((a.codesFor r act act n m sat).1.val.getD i 0)).getD .zero := by
  unfold Arch.values Arch.valuesFor
  rw [if_neg (by simpa using level)]
  dsimp only
  conv_lhs => rw [eq_map_getD (a.length_codesFor r act act n m sat)]
  exact decodeAll_at _ _ _ hi active

/-- Settles O33: an operand read as stored, one that is reconstructed, and the integer transform undone. -/
theorem vectorReads : Obligations.VectorReads := by
  unfold Obligations.VectorReads
  refine ⟨fun a r act n keep sat m => ⟨a.length_values r act n keep m sat, fun plain => Arch.values_stored plain act n m sat, ?_⟩,
    invHaar_haar_ofInt⟩
  intro rebuilds level i hi active first block
  subst rebuilds
  rw [Arch.values_rebuilt level m sat hi active, Arch.codesFor_active level m sat hi active]
  split <;> rfl

end Sys2Proof.Machine
end

section
/-! The arithmetic on finite values is exact, and a quotient is rounded as R63 says (R33, R63). -/

namespace Sys2Proof

/-- The value of a magnitude with a sign. -/
def withSign (s : Bool) (q : ℚ) : ℚ := if s then -q else q

@[simp] theorem withSign_zero (s : Bool) : withSign s 0 = 0 := by cases s <;> simp [withSign]

theorem withSign_mul (s t : Bool) (p q : ℚ) : withSign s p * withSign t q = withSign (s != t) (p * q) := by
  cases s <;> cases t <;> simp [withSign]

theorem withSign_div (s t : Bool) (p q : ℚ) : withSign s p / withSign t q = withSign (s != t) (p / q) := by
  cases s <;> cases t <;> simp [withSign, neg_div, div_neg]

theorem abs_withSign {q : ℚ} (s : Bool) (nonneg : 0 ≤ q) : |withSign s q| = q := by
  cases s <;> simp [withSign, abs_of_nonneg nonneg]

theorem exactValue_fin {d : Nat} (s : Bool) (n : Nat) (hd : d ≠ 0) : exactValue (.fin s n d) = some (withSign s (n / d)) := by
  rw [exactValue, if_neg hd, Rat.mkRat_eq_div]
  cases s <;> simp [withSign, neg_div]

theorem exactValue_eq_some {x : Num} {q : ℚ} (h : exactValue x = some q) :
    ∃ s n d, x = .fin s n d ∧ d ≠ 0 ∧ q = withSign s (n / d) := by
  cases x with
  | fin s n d =>
    by_cases hd : d = 0
    · simp [exactValue, hd] at h
    · rw [exactValue_fin s n hd] at h
      exact ⟨s, n, d, rfl, hd, (Option.some.inj h).symm⟩
  | _ => exact nomatch h

/-- An integer over a denominator, written with sign and magnitude. -/
theorem exactValue_int {d : Nat} (z : Int) (hd : d ≠ 0) : exactValue (.fin (z < 0) z.natAbs d) = some ((z : ℚ) / d) := by
  rw [exactValue_fin _ _ hd]
  congr 1
  by_cases negative : z < 0
  · have : (z.natAbs : ℚ) = -z := by
      rw [Nat.cast_natAbs, abs_of_neg negative, Int.cast_neg]
    simp [withSign, negative, this, neg_div]
  · have : (z.natAbs : ℚ) = z := by
      rw [Nat.cast_natAbs, abs_of_nonneg (not_lt.1 negative)]
    simp [withSign, negative, this]

/-- The sum over a common denominator (R33). -/
def crossSum (s : Bool) (n d : Nat) (t : Bool) (k e : Nat) : Int :=
  (if s then -1 else 1) * (n * e : Nat) + (if t then -1 else 1) * (k * d : Nat)

theorem crossSum_div {d e : Nat} (s t : Bool) (n k : Nat) (hd : d ≠ 0) (he : e ≠ 0) :
    withSign s (n / d) + withSign t (k / e) = crossSum s n d t k e / (d * e : Nat) := by
  have hd : (d : ℚ) ≠ 0 := Nat.cast_ne_zero.2 hd
  have he : (e : ℚ) ≠ 0 := Nat.cast_ne_zero.2 he
  unfold withSign crossSum
  rcases s with _ | _ <;> rcases t with _ | _ <;> simp only [reduceIte, Bool.false_eq_true] <;> push_cast <;> field_simp

theorem dvd_crossSum (s t : Bool) (n k d : Nat) : (d : Int) ∣ crossSum s n d t k d := by
  unfold crossSum
  push_cast
  exact dvd_add (Dvd.dvd.mul_left (Dvd.intro_left _ rfl) _) (Dvd.dvd.mul_left (Dvd.intro_left _ rfl) _)

theorem addNum_exact {x y : Num} {p q : ℚ} (m : Rnd) (hx : exactValue x = some p) (hy : exactValue y = some q) :
    exactValue (addNum m x y).val = some (p + q) := by
  obtain ⟨s, n, d, rfl, hd, rfl⟩ := exactValue_eq_some hx
  obtain ⟨t, k, e, rfl, he, rfl⟩ := exactValue_eq_some hy
  rw [crossSum_div s t n k hd he, addNum]
  show exactValue (Fl.val (if crossSum s n d t k e = 0 then _ else _)) = _
  split
  · next zero => simp [zero, Fl.pure, exactValue_fin _ 0 one_ne_zero]
  · split
    · next same =>
      subst same
      obtain ⟨z, hz⟩ := dvd_crossSum s t n k d
      have pos : (0 : Int) < d := by omega
      have sign : decide (crossSum s n d t k d < 0) = decide (z < 0) := by
        rw [hz, decide_eq_decide]
        exact ⟨fun h => by_contra fun h' => absurd h (not_lt.2 (Int.mul_nonneg pos.le (not_lt.1 h'))), Int.mul_neg_of_pos_of_neg pos⟩
      have size : (crossSum s n d t k d).natAbs / d = z.natAbs := by
        rw [hz, Int.natAbs_mul, Int.natAbs_natCast, Nat.mul_div_cancel_left _ (by omega)]
      show exactValue (.fin (decide (crossSum s n d t k d < 0)) ((crossSum s n d t k d).natAbs / d) d) = _
      rw [sign, size, exactValue_int z hd, hz]
      have : (d : ℚ) ≠ 0 := Nat.cast_ne_zero.2 hd
      push_cast
      field_simp
    · exact exactValue_int _ (Nat.mul_ne_zero hd he)

theorem mulNum_exact {x y : Num} {p q : ℚ} (hx : exactValue x = some p) (hy : exactValue y = some q) :
    exactValue (mulNum x y).val = some (p * q) := by
  obtain ⟨s, n, d, rfl, hd, rfl⟩ := exactValue_eq_some hx
  obtain ⟨t, k, e, rfl, he, rfl⟩ := exactValue_eq_some hy
  rw [withSign_mul, mulNum, Fl.pure, exactValue_fin _ _ (Nat.mul_ne_zero hd he)]
  push_cast
  rw [div_mul_div_comm]

theorem divNum_exact {x y : Num} {p q : ℚ} (hx : exactValue x = some p) (hy : exactValue y = some q) (nonzero : q ≠ 0) :
    exactValue (divNum x y).val = some (p / q) := by
  obtain ⟨s, n, d, rfl, hd, rfl⟩ := exactValue_eq_some hx
  obtain ⟨t, k, e, rfl, he, rfl⟩ := exactValue_eq_some hy
  have hk : k ≠ 0 := by
    rintro rfl
    simp at nonzero
  rw [withSign_div, divNum, if_neg hk, Fl.pure, exactValue_fin _ _ (Nat.mul_ne_zero hd hk)]
  push_cast
  rw [div_div_div_eq]

theorem fmaNum_exact {x y z : Num} {p q r : ℚ} (m : Rnd) (hx : exactValue x = some p) (hy : exactValue y = some q)
    (hz : exactValue z = some r) : exactValue (fmaNum m x y z).val = some (p * q + r) :=
  addNum_exact m (mulNum_exact hx hy) hz

/-- Whether a quotient with a remainder is rounded away from zero. -/
def roundsUp (m : Rnd) (neg : Bool) (n d : Nat) : Bool := match m with
  | .rne => d < 2 * (n % d) || (2 * (n % d) == d && n / d % 2 == 1)
  | .rtz => false
  | .rdn => neg
  | .rup => !neg

theorem roundQuot_exact {n d : Nat} (m : Rnd) (neg : Bool) (h : n % d = 0) : roundQuot m neg n d = (n / d, false) := by
  unfold roundQuot
  dsimp only
  rw [if_pos h]

theorem roundQuot_inexact {n d : Nat} (m : Rnd) (neg : Bool) (h : n % d ≠ 0) :
    roundQuot m neg n d = (if roundsUp m neg n d then n / d + 1 else n / d, true) := by
  unfold roundQuot roundsUp
  dsimp only
  refine (if_neg h).trans ?_
  cases m <;> rfl

theorem roundQuot_snd (m : Rnd) (neg : Bool) (n d : Nat) : (roundQuot m neg n d).2 = decide (n % d ≠ 0) := by
  by_cases h : n % d = 0
  · simp [roundQuot_exact m neg h, h]
  · simp [roundQuot_inexact m neg h, h]

/-- Rounded down: the quotient. -/
theorem quot_floor {d : Nat} (n : Nat) (hd : 0 < d) : n / d * d ≤ n ∧ n < (n / d + 1) * d :=
  ⟨Nat.div_mul_le_self n d, Nat.lt_mul_of_div_lt (Nat.lt_succ_self _) hd⟩

theorem quot_exact {n d : Nat} (h : n % d = 0) : n / d * d = n := Nat.div_mul_cancel (Nat.dvd_of_mod_eq_zero h)

/-- Rounded up where there is a remainder. -/
theorem quot_ceil {n d : Nat} (hd : 0 < d) (h : n % d ≠ 0) : n ≤ (n / d + 1) * d ∧ (n / d + 1) * d < n + d := by
  have split := Nat.div_add_mod' n d
  have rest := Nat.mod_lt n hd
  rw [Nat.succ_mul]
  omega

theorem roundQuot_down {n d : Nat} {m : Rnd} {neg : Bool} (hd : 0 < d) (down : roundsUp m neg n d = false) :
    (roundQuot m neg n d).1 * d ≤ n ∧ n < ((roundQuot m neg n d).1 + 1) * d := by
  by_cases h : n % d = 0
  · rw [roundQuot_exact m neg h]
    exact quot_floor n hd
  · rw [roundQuot_inexact m neg h, down]
    exact quot_floor n hd

theorem roundQuot_up {n d : Nat} {m : Rnd} {neg : Bool} (hd : 0 < d) (up : roundsUp m neg n d = true) :
    n ≤ (roundQuot m neg n d).1 * d ∧ (roundQuot m neg n d).1 * d < n + d := by
  by_cases h : n % d = 0
  · rw [roundQuot_exact m neg h, quot_exact h]
    omega
  · rw [roundQuot_inexact m neg h, up]
    exact quot_ceil hd h

/-- To the nearest, ties to even (R63). -/
theorem roundQuot_nearest {n d : Nat} (neg : Bool) (hd : 0 < d) :
    let q := (roundQuot .rne neg n d).1
    2 * n ≤ (2 * q + 1) * d ∧ 2 * q * d ≤ 2 * n + d ∧ (2 * n = (2 * q + 1) * d ∨ 2 * q * d = 2 * n + d → q % 2 = 0) := by
  have split := Nat.div_add_mod' n d
  have rest := Nat.mod_lt n hd
  have twice (q : Nat) : (2 * q + 1) * d = 2 * (q * d) + d ∧ 2 * q * d = 2 * (q * d) := ⟨by ring, by ring⟩
  intro q
  rw [(twice q).1, (twice q).2]
  by_cases h : n % d = 0
  · have : q = n / d := by simp only [q, roundQuot_exact _ neg h]
    rw [this]
    omega
  · by_cases up : roundsUp .rne neg n d = true
    · have : q = n / d + 1 := by simp only [q, roundQuot_inexact _ neg h, up, if_true]
      simp only [roundsUp, Bool.or_eq_true, Bool.and_eq_true, decide_eq_true_eq, beq_iff_eq] at up
      rw [this, Nat.add_one_mul (n / d)]
      omega
    · have : q = n / d := by simp only [q, roundQuot_inexact _ neg h, if_neg up]
      simp only [roundsUp, Bool.or_eq_true, Bool.and_eq_true, decide_eq_true_eq, beq_iff_eq] at up
      rw [this]
      omega

/-- The integer that a rounded quotient is, against the exact quotient (R63). -/
theorem roundsTo_roundQuot {d : Nat} (m : Rnd) (neg : Bool) (n : Nat) (hd : 0 < d) :
    RoundsTo m neg ((n : ℝ) / d) (roundQuot m neg n d).1 := by
  have pos : (0 : ℝ) < d := Nat.cast_pos.2 hd
  have low (down : roundsUp m neg n d = false) :
      ((roundQuot m neg n d).1 : ℝ) ≤ n / d ∧ (n : ℝ) / d < (roundQuot m neg n d).1 + 1 := by
    rw [le_div_iff₀ pos, div_lt_iff₀ pos]
    exact_mod_cast roundQuot_down hd down
  have high (up : roundsUp m neg n d = true) :
      (n : ℝ) / d ≤ (roundQuot m neg n d).1 ∧ ((roundQuot m neg n d).1 : ℝ) < n / d + 1 := by
    rw [div_le_iff₀ pos, ← div_add_same pos.ne', lt_div_iff₀ pos]
    exact_mod_cast roundQuot_up hd up
  cases m with
  | rne =>
    obtain ⟨below, above, tie⟩ := roundQuot_nearest (n := n) neg hd
    generalize (roundQuot .rne neg n d).1 = q at below above tie
    have low : 2 * ((n : ℝ) / d) = 2 * n / d := by ring
    have high : 2 * ((n : ℝ) / d) + 1 = (2 * n + d) / d := by field_simp
    show 2 * (q : ℝ) ≤ _ ∧ _ ≤ 2 * (q : ℝ) + 1 ∧ _
    rw [high, low, le_div_iff₀ pos, div_le_iff₀ pos, eq_div_iff pos.ne', div_eq_iff pos.ne', or_comm]
    exact ⟨by exact_mod_cast above, by exact_mod_cast below, fun h => tie (by exact_mod_cast h)⟩
  | rtz => exact low rfl
  | rdn => cases neg with
    | true => exact high rfl
    | false => exact low rfl
  | rup => cases neg with
    | true => exact low rfl
    | false => exact high rfl

/-- The remainder tells whether the quotient is an integer. -/
theorem roundQuot_snd_iff {d : Nat} (m : Rnd) (neg : Bool) (n : Nat) (hd : 0 < d) :
    (roundQuot m neg n d).2 = true ↔ ((roundQuot m neg n d).1 : ℝ) ≠ (n : ℝ) / d := by
  rw [roundQuot_snd, decide_eq_true_iff, not_iff_not, eq_div_iff (Nat.cast_ne_zero.2 hd.ne')]
  constructor
  · intro h
    rw [roundQuot_exact m neg h]
    exact_mod_cast quot_exact h
  · intro h
    have : (roundQuot m neg n d).1 * d = n := by exact_mod_cast h
    rw [← this, Nat.mul_mod_left]

/-- A rounded value passes no integer bound (R63). -/
theorem RoundsTo.le_of_le {m : Rnd} {neg : Bool} {v : ℝ} {n k : Nat} (h : RoundsTo m neg v n) (bound : v ≤ k) : n ≤ k := by
  suffices (n : ℝ) < k + 1 from Nat.lt_succ_iff.1 (by exact_mod_cast this)
  cases m with
  | rne =>
    obtain ⟨above, -, -⟩ := h
    linarith
  | rtz =>
    obtain ⟨above, -⟩ := h
    linarith
  | rdn | rup => cases neg <;> obtain ⟨one, two⟩ := h <;> linarith

theorem RoundsTo.ge_of_ge {m : Rnd} {neg : Bool} {v : ℝ} {n k : Nat} (h : RoundsTo m neg v n) (bound : k ≤ v) : k ≤ n := by
  suffices (k : ℝ) < n + 1 from Nat.lt_succ_iff.1 (by exact_mod_cast this)
  cases m with
  | rne =>
    obtain ⟨-, below, -⟩ := h
    linarith
  | rtz =>
    obtain ⟨-, below⟩ := h
    linarith
  | rdn | rup => cases neg <;> obtain ⟨one, two⟩ := h <;> linarith

end Sys2Proof
end

section
/-! Scaling, the binary exponent of a quotient, and the codes of binary floats with their values (R33, R55, R56, Table 4.2). -/

namespace Sys2Proof

/-- A power of two with a negative exponent. -/
theorem two_zpow_neg {k : Int} (h : k < 0) : (2 : ℝ) ^ k = 1 / (2 ^ k.natAbs : ℕ) := by
  obtain ⟨j, rfl⟩ : ∃ j : ℕ, k = -j := ⟨k.natAbs, by omega⟩
  simp

theorem two_zpow_nonneg {k : Int} (h : 0 ≤ k) : (2 : ℝ) ^ k = (2 ^ k.natAbs : ℕ) := by
  obtain ⟨j, rfl⟩ : ∃ j : ℕ, k = j := ⟨k.natAbs, by omega⟩
  simp

/-- Scaling keeps the sign and multiplies the magnitude exactly. -/
theorem Num.scale_fin (k : Int) (s : Bool) (n : Nat) {d : Nat} (hd : 0 < d) :
    ∃ a b, (Num.fin s n d).scale k = .fin s a b ∧ 0 < b ∧ (a : ℝ) / b = n / d * 2 ^ k := by
  by_cases h : k < 0
  · refine ⟨n, d * 2 ^ k.natAbs, by simp [Num.scale, h], Nat.mul_pos hd (Nat.two_pow_pos _), ?_⟩
    rw [two_zpow_neg h, Nat.cast_mul, div_mul_div_comm, mul_one]
  · refine ⟨n * 2 ^ k.natAbs, d, by simp [Num.scale, h], hd, ?_⟩
    rw [two_zpow_nonneg (not_lt.1 h), Nat.cast_mul, mul_div_right_comm]

/-- The order of two magnitudes. -/
theorem Num.lt_fin {a b c d : Nat} (hb : 0 < b) (hd : 0 < d) :
    (Num.fin false a b).lt (.fin false c d) = true ↔ (a : ℝ) / b < c / d := by
  rw [div_lt_div_iff₀ (Nat.cast_pos.2 hb) (Nat.cast_pos.2 hd)]
  simp only [Num.lt, Num.cmp, Bool.false_eq_true, if_false, one_mul, Nat.cast_lt]
  rw [← Nat.cast_mul, ← Nat.cast_mul, Nat.cast_lt]
  by_cases h : a * d < c * b
  · simp [h]
  · simp only [h, if_false, iff_false]
    split <;> decide

theorem Num.eq_fin {a b c d : Nat} (hb : 0 < b) (hd : 0 < d) :
    (Num.fin false a b).eq (.fin false c d) = true ↔ (a : ℝ) / b = c / d := by
  rw [div_eq_div_iff (Nat.cast_ne_zero.2 hb.ne') (Nat.cast_ne_zero.2 hd.ne')]
  simp only [Num.eq, Num.cmp, Bool.false_eq_true, if_false, one_mul, Nat.cast_lt, Nat.cast_inj]
  rw [← Nat.cast_mul, ← Nat.cast_mul, Nat.cast_inj]
  by_cases h : a * d < c * b
  · simp [h, h.ne]
  · by_cases same : a * d = c * b
    · simp [same]
    · simp [h, same]

/-- floor(log2) of a quotient of positive numbers. -/
theorem ilog2_spec {n d : Nat} (hn : 0 < n) (hd : 0 < d) : (2 : ℝ) ^ ilog2 n d ≤ n / d ∧ (n : ℝ) / d < 2 ^ (ilog2 n d + 1) := by
  have posn : (0 : ℝ) < n := Nat.cast_pos.2 hn
  have posd : (0 : ℝ) < d := Nat.cast_pos.2 hd
  have n_low : (2 : ℝ) ^ (n.log2 : ℤ) ≤ n := by exact_mod_cast Nat.log2_self_le hn.ne'
  have n_high : (n : ℝ) < 2 ^ (n.log2 + 1 : ℤ) := by exact_mod_cast Nat.lt_log2_self
  have d_low : (2 : ℝ) ^ (d.log2 : ℤ) ≤ d := by exact_mod_cast Nat.log2_self_le hd.ne'
  have d_high : (d : ℝ) < 2 ^ (d.log2 + 1 : ℤ) := by exact_mod_cast Nat.lt_log2_self
  have two : (2 : ℝ) ≠ 0 := two_ne_zero
  set e : ℤ := (n.log2 : ℤ) - d.log2 with he
  have low : (2 : ℝ) ^ (e - 1) ≤ n / d := by
    rw [le_div_iff₀ posd]
    calc (2 : ℝ) ^ (e - 1) * d ≤ 2 ^ (e - 1) * 2 ^ (d.log2 + 1 : ℤ) := by gcongr
      _ = 2 ^ (n.log2 : ℤ) := by rw [← zpow_add₀ two]; congr 1; omega
      _ ≤ n := n_low
  have high : (n : ℝ) / d < 2 ^ (e + 1) := by
    rw [div_lt_iff₀ posd]
    calc (n : ℝ) < 2 ^ (n.log2 + 1 : ℤ) := n_high
      _ = 2 ^ (e + 1) * 2 ^ (d.log2 : ℤ) := by rw [← zpow_add₀ two]; congr 1; omega
      _ ≤ 2 ^ (e + 1) * d := by gcongr
  have below : (if 0 ≤ e then n < d * 2 ^ e.natAbs else n * 2 ^ e.natAbs < d) ↔ (n : ℝ) / d < 2 ^ e := by
    rw [div_lt_iff₀ posd]
    split
    · next h =>
      rw [two_zpow_nonneg h, mul_comm, ← Nat.cast_mul, Nat.cast_lt]
    · next h =>
      rw [two_zpow_neg (not_le.1 h), div_mul_eq_mul_div, one_mul, lt_div_iff₀ (Nat.cast_pos.2 (Nat.two_pow_pos _)), ← Nat.cast_mul, Nat.cast_lt]
  have value : ilog2 n d = if (n : ℝ) / d < 2 ^ e then e - 1 else e := by
    unfold ilog2
    simp only [← he, ← below]
  rw [value]
  split
  · next h => exact ⟨low, by rwa [sub_add_cancel]⟩
  · next h => exact ⟨not_lt.1 h, high⟩

/-- The exponent is determined by its binade. -/
theorem ilog2_eq {n d : Nat} {e : Int} (hn : 0 < n) (hd : 0 < d) (low : (2 : ℝ) ^ e ≤ n / d) (high : (n : ℝ) / d < 2 ^ (e + 1)) :
    ilog2 n d = e := by
  obtain ⟨low', high'⟩ := ilog2_spec hn hd
  have one : (1 : ℝ) < 2 := one_lt_two
  have := (zpow_lt_zpow_iff_right₀ one).1 (low.trans_lt high')
  have := (zpow_lt_zpow_iff_right₀ one).1 (low'.trans_lt high)
  omega

/-- A quotient of naturals that is an integer. -/
theorem div_eq_of_cast {n d r : Nat} (hd : 0 < d) (h : (n : ℝ) / d = r) : n / d = r := by
  rw [div_eq_iff (Nat.cast_ne_zero.2 hd.ne')] at h
  have : n = r * d := by exact_mod_cast h
  rw [this, Nat.mul_div_cancel _ hd]

section

variable {t : Tag} (ft : t.isFloat = true)
include ft

/-- The exponent range of a binary float is centred (Table 4.2). -/
theorem Tag.two_pow_ebits : 2 ^ t.ebits = 2 * t.ebias + 2 := by
  revert ft
  cases t <;> decide

theorem Tag.bits_split : t.bits - 1 = t.ebits + t.frac := by
  revert ft
  cases t <;> decide

theorem Tag.frac_pos : 0 < t.frac := by
  revert ft
  cases t <;> decide

theorem Tag.ebias_pos : 0 < t.ebias := by
  revert ft
  cases t <;> decide

theorem Tag.memBits_float : t.memBits = t.bits := by
  revert ft
  cases t <;> decide

end

/-- A magnitude code with a sign. -/
def signedCode (t : Tag) (neg : Bool) (c : Nat) : Nat := if neg then 2 ^ (t.bits - 1) + c else c

/-- The magnitude of a magnitude code of a binary float (Table 4.2). -/
def codeMag (t : Tag) (c : Nat) : ℚ :=
  (if c / 2 ^ t.frac = 0 then ((c % 2 ^ t.frac : ℕ) : ℚ) else 2 ^ t.frac + (c % 2 ^ t.frac : ℕ)) *
    (2 : ℚ) ^ ((max (c / 2 ^ t.frac) 1 : ℕ) - t.ebias - t.frac : ℤ)

/-- The fields of a code with a sign. -/
theorem floatValue_signedCode {t : Tag} (ft : t.isFloat = true) (neg : Bool) {c : Nat} (hc : c < 2 ^ (t.bits - 1)) :
    floatValue t (signedCode t neg c) =
      if c / 2 ^ t.frac = 2 ^ t.ebits - 1 then if c % 2 ^ t.frac = 0 then .inf neg else .nan (decide (c % 2 ^ t.frac < 2 ^ (t.frac - 1)))
      else if c / 2 ^ t.frac = 0 then (Num.fin neg (c % 2 ^ t.frac) 1).scale (1 - (t.ebias : Int) - t.frac)
      else (Num.fin neg (2 ^ t.frac + c % 2 ^ t.frac) 1).scale ((c / 2 ^ t.frac : ℕ) - t.ebias - t.frac) := by
  have size : 2 ^ (t.bits - 1) = 2 ^ t.frac * 2 ^ t.ebits := by rw [Tag.bits_split ft, pow_add, mul_comm]
  have pos := Nat.two_pow_pos (t.bits - 1)
  have field : c / 2 ^ t.frac < 2 ^ t.ebits := (Nat.div_lt_iff_lt_mul (Nat.two_pow_pos _)).2 (by rwa [mul_comm, ← size])
  have sign : (signedCode t neg c / 2 ^ (t.bits - 1) % 2 == 1) = neg := by
    cases neg
    · simp [signedCode, Nat.div_eq_of_lt hc]
    · simp [signedCode, Nat.add_div_left _ pos, Nat.div_eq_of_lt hc]
  have expo : signedCode t neg c / 2 ^ t.frac % 2 ^ t.ebits = c / 2 ^ t.frac := by
    cases neg
    · exact Nat.mod_eq_of_lt field
    · simp only [signedCode, if_true]
      rw [size, Nat.mul_add_div (Nat.two_pow_pos _), Nat.add_mod_left, Nat.mod_eq_of_lt field]
  have fraction : signedCode t neg c % 2 ^ t.frac = c % 2 ^ t.frac := by
    cases neg
    · rfl
    · simp only [signedCode, if_true]
      rw [size, Nat.mul_add_mod]
  have quiet : (c % 2 ^ t.frac / 2 ^ (t.frac - 1) == 0) = decide (c % 2 ^ t.frac < 2 ^ (t.frac - 1)) := by
    rw [beq_eq_decide, decide_eq_decide, Nat.div_eq_zero_iff_lt (Nat.two_pow_pos _)]
  unfold floatValue
  dsimp only
  rw [sign, expo, fraction, quiet]

/-- Scaling an integer by a power of two, as a value. -/
theorem exactValue_scale_one (s : Bool) (n : Nat) (k : Int) :
    exactValue ((Num.fin s n 1).scale k) = some (withSign s (n * (2 : ℚ) ^ k)) := by
  obtain ⟨a, b, scaled, hb, value⟩ := Num.scale_fin k s n one_pos
  rw [scaled, exactValue_fin _ _ hb.ne']
  congr 2
  have : ((a / b : ℚ) : ℝ) = ((n * (2 : ℚ) ^ k : ℚ) : ℝ) := by
    push_cast
    rw [value, Nat.cast_one, div_one]
  exact_mod_cast this

/-- The value of a finite code of a binary float (R55, Table 4.2). -/
theorem exactValue_floatValue {t : Tag} (ft : t.isFloat = true) (neg : Bool) {c : Nat} (hc : c < 2 ^ (t.bits - 1))
    (finite : c / 2 ^ t.frac ≠ 2 ^ t.ebits - 1) : exactValue (floatValue t (signedCode t neg c)) = some (withSign neg (codeMag t c)) := by
  rw [floatValue_signedCode ft neg hc, if_neg finite, codeMag]
  split
  · next zero =>
    rw [exactValue_scale_one, zero]
    rfl
  · next normal =>
    rw [exactValue_scale_one, Nat.max_eq_left (Nat.one_le_iff_ne_zero.2 normal)]
    push_cast
    rfl

/-- The code of a normal value: the exponent's field and the fraction. -/
theorem floatCode_normal {t : Tag} {e : Int} {r a b : Nat} (s : Bool) (hb : 0 < b) (least : 1 - (t.ebias : Int) ≤ e)
    (low : 2 ^ t.frac ≤ r) (high : r < 2 ^ (t.frac + 1)) (value : (a : ℝ) / b = r * 2 ^ (e - t.frac)) :
    floatCode t (.fin s a b) = signedCode t s ((e + t.ebias).toNat * 2 ^ t.frac + (r - 2 ^ t.frac)) := by
  have two : (2 : ℝ) ≠ 0 := two_ne_zero
  have unit : (0 : ℝ) < 2 ^ (e - t.frac) := by positivity
  have below : (2 : ℝ) ^ e ≤ a / b := by
    rw [value]
    calc (2 : ℝ) ^ e = 2 ^ t.frac * 2 ^ (e - t.frac) := by rw [← zpow_natCast, ← zpow_add₀ two]; congr 1; omega
      _ ≤ r * 2 ^ (e - t.frac) := by gcongr; exact_mod_cast low
  have above : (a : ℝ) / b < 2 ^ (e + 1) := by
    rw [value]
    calc (r : ℝ) * 2 ^ (e - t.frac) < 2 ^ (t.frac + 1) * 2 ^ (e - t.frac) := by gcongr; exact_mod_cast high
      _ = 2 ^ (e + 1) := by rw [← zpow_natCast, ← zpow_add₀ two]; congr 1; push_cast; omega
  have ha : 0 < a := by
    rw [Nat.pos_iff_ne_zero]
    rintro rfl
    rw [Nat.cast_zero, zero_div] at below
    exact absurd below (not_le.2 (by positivity))
  have expo : ilog2 a b = e := ilog2_eq ha hb below above
  have shifted : (a : ℝ) / b * 2 ^ ((t.frac : ℤ) - e) = r := by
    rw [value, mul_assoc, ← zpow_add₀ two]
    simp
  have significand : (if (t.frac : ℤ) - e < 0 then a / (b * 2 ^ ((t.frac : ℤ) - e).natAbs) else a * 2 ^ ((t.frac : ℤ) - e).natAbs / b) = r := by
    split
    · next h =>
      refine div_eq_of_cast (Nat.mul_pos hb (Nat.two_pow_pos _)) ?_
      rw [← shifted, two_zpow_neg h, Nat.cast_mul, div_mul_div_comm, mul_one]
    · next h =>
      refine div_eq_of_cast hb ?_
      rw [← shifted, two_zpow_nonneg (not_lt.1 h), Nat.cast_mul, mul_div_right_comm]
  unfold floatCode
  dsimp only
  rw [if_neg ha.ne', expo, if_neg (not_lt.2 least), significand, signedCode]
  cases s <;> simp [Num.sign, add_assoc]

/-- The code of a subnormal value: its multiple of the least unit. -/
theorem floatCode_subnormal {t : Tag} (ft : t.isFloat = true) {r a b : Nat} (s : Bool) (hb : 0 < b) (high : r < 2 ^ t.frac)
    (value : (a : ℝ) / b = r * 2 ^ (1 - (t.ebias : ℤ) - t.frac)) : floatCode t (.fin s a b) = signedCode t s r := by
  have two : (2 : ℝ) ≠ 0 := two_ne_zero
  have bias := Tag.ebias_pos ft
  have shifted : (a : ℝ) / b * 2 ^ (t.frac + t.ebias - 1) = r := by
    rw [value, mul_assoc, ← zpow_natCast, ← zpow_add₀ two, Nat.cast_sub (by omega)]
    push_cast
    rw [show 1 - (t.ebias : ℤ) - t.frac + (t.frac + t.ebias - 1) = 0 by ring, zpow_zero, mul_one]
  have significand : a * 2 ^ (t.frac + t.ebias - 1) / b = r := by
    refine div_eq_of_cast hb ?_
    rw [← shifted, Nat.cast_mul, mul_div_right_comm]
    push_cast
    rfl
  unfold floatCode
  dsimp only
  by_cases ha : a = 0
  · have : r = 0 := by rw [← significand, ha, Nat.zero_mul, Nat.zero_div]
    rw [if_pos ha, this]
    cases s <;> simp [Num.sign, signedCode]
  · have small : (a : ℝ) / b < 2 ^ (1 - (t.ebias : ℤ)) := by
      rw [value]
      calc (r : ℝ) * 2 ^ (1 - (t.ebias : ℤ) - t.frac) < 2 ^ t.frac * 2 ^ (1 - (t.ebias : ℤ) - t.frac) := by gcongr; exact_mod_cast high
        _ = 2 ^ (1 - (t.ebias : ℤ)) := by rw [← zpow_natCast, ← zpow_add₀ two]; congr 1; omega
    have expo : ilog2 a b < 1 - (t.ebias : ℤ) :=
      (zpow_lt_zpow_iff_right₀ (one_lt_two (α := ℝ))).1 ((ilog2_spec (Nat.pos_of_ne_zero ha) hb).1.trans_lt small)
    rw [if_neg ha, if_pos expo, significand]
    cases s <;> simp [Num.sign, signedCode]

end Sys2Proof
end

section
/-! Encode of R33 into a binary float: rounding to the unit of the exponent, the code, the flags, and the finite range. -/

namespace Sys2Proof

/-- The largest finite magnitude of a binary float (Table 4.2). -/
noncomputable def largest (t : Tag) : ℝ := (2 ^ (t.frac + 1) - 1) * (2 : ℝ) ^ ((t.ebias : Int) - t.frac)

/-- The fields of a code with exponent field e and fraction f. -/
theorem code_fields {t : Tag} (e : Nat) {f : Nat} (hf : f < 2 ^ t.frac) :
    (e * 2 ^ t.frac + f) / 2 ^ t.frac = e ∧ (e * 2 ^ t.frac + f) % 2 ^ t.frac = f := by
  rw [Nat.mul_comm, Nat.mul_add_div (Nat.two_pow_pos _), Nat.mul_add_mod, Nat.div_eq_of_lt hf, Nat.mod_eq_of_lt hf]
  exact ⟨Nat.add_zero e, rfl⟩

section

variable {t : Tag} (ft : t.isFloat = true)
include ft

/-- A code whose exponent field is not the top one has no sign bit. -/
theorem code_lt {e f : Nat} (he : e < 2 ^ t.ebits - 1) (hf : f < 2 ^ t.frac) : e * 2 ^ t.frac + f < 2 ^ (t.bits - 1) := by
  rw [Tag.bits_split ft, pow_add]
  calc e * 2 ^ t.frac + f < (e + 1) * 2 ^ t.frac := by rw [Nat.add_one_mul]; omega
    _ ≤ 2 ^ t.ebits * 2 ^ t.frac := Nat.mul_le_mul_right _ (by omega)

/-- A normal multiple of its unit, in the finite range, is the value of its code. -/
theorem floatCode_grid_normal {e : Int} {r a b : Nat} (s : Bool) (hb : 0 < b) (least : 1 - (t.ebias : Int) ≤ e)
    (low : 2 ^ t.frac ≤ r) (high : r < 2 ^ (t.frac + 1)) (value : (a : ℝ) / b = r * 2 ^ (e - t.frac)) (finite : (a : ℝ) / b ≤ largest t) :
    ∃ c, c < 2 ^ (t.bits - 1) ∧ c / 2 ^ t.frac ≠ 2 ^ t.ebits - 1 ∧ floatCode t (.fin s a b) = signedCode t s c ∧
      (codeMag t c : ℝ) = a / b := by
  have two : (2 : ℝ) ≠ 0 := two_ne_zero
  have top : e ≤ t.ebias := by
    have : (2 : ℝ) ^ e < 2 ^ (t.ebias + 1 : ℤ) := by
      calc (2 : ℝ) ^ e = 2 ^ t.frac * 2 ^ (e - t.frac) := by rw [← zpow_natCast, ← zpow_add₀ two]; congr 1; omega
        _ ≤ r * 2 ^ (e - t.frac) := by gcongr; exact_mod_cast low
        _ ≤ largest t := value ▸ finite
        _ < 2 ^ (t.frac + 1) * 2 ^ ((t.ebias : ℤ) - t.frac) := by unfold largest; gcongr; exact sub_one_lt _
        _ = 2 ^ (t.ebias + 1 : ℤ) := by rw [← zpow_natCast, ← zpow_add₀ two]; congr 1; push_cast; omega
    have := (zpow_lt_zpow_iff_right₀ (one_lt_two (α := ℝ))).1 this
    omega
  have range := Tag.two_pow_ebits ft
  have fraction : r - 2 ^ t.frac < 2 ^ t.frac := by rw [pow_succ] at high; omega
  obtain ⟨expo, part⟩ := code_fields (t := t) (e + t.ebias).toNat fraction
  refine ⟨_, code_lt ft (by omega) fraction, ?_, floatCode_normal s hb least low high value, ?_⟩
  · rw [expo]
    omega
  · rw [codeMag, expo, part, if_neg (by omega), Nat.max_eq_left (by omega), value, Nat.cast_sub low]
    push_cast
    rw [add_sub_cancel, Int.toNat_of_nonneg (by omega), add_sub_cancel_right]

/-- A subnormal multiple of the least unit is the value of its code. -/
theorem floatCode_grid_subnormal {r a b : Nat} (s : Bool) (hb : 0 < b) (high : r < 2 ^ t.frac)
    (value : (a : ℝ) / b = r * 2 ^ (1 - (t.ebias : ℤ) - t.frac)) :
    ∃ c, c < 2 ^ (t.bits - 1) ∧ c / 2 ^ t.frac ≠ 2 ^ t.ebits - 1 ∧ floatCode t (.fin s a b) = signedCode t s c ∧
      (codeMag t c : ℝ) = a / b := by
  have range := Tag.two_pow_ebits ft
  obtain ⟨expo, part⟩ := code_fields (t := t) 0 high
  rw [Nat.zero_mul, Nat.zero_add] at expo part
  refine ⟨r, ?_, by rw [expo]; omega, floatCode_subnormal ft s hb high value, ?_⟩
  · have := code_lt ft (e := 0) (by omega) high
    rwa [Nat.zero_mul, Nat.zero_add] at this
  · rw [codeMag, expo, part, if_pos rfl, Nat.max_eq_right (Nat.zero_le 1), value]
    push_cast
    rfl

/-- The code of a finite multiple of the unit of its exponent: it has a sign bit, a finite exponent field, and the value (R55). -/
theorem floatCode_grid {e : Int} {r a b : Nat} (s : Bool) (hb : 0 < b) (least : 1 - (t.ebias : Int) ≤ e)
    (low : e = 1 - (t.ebias : Int) ∨ 2 ^ t.frac ≤ r) (high : r ≤ 2 ^ (t.frac + 1)) (value : (a : ℝ) / b = r * 2 ^ (e - t.frac))
    (finite : (a : ℝ) / b ≤ largest t) :
    ∃ c, c < 2 ^ (t.bits - 1) ∧ c / 2 ^ t.frac ≠ 2 ^ t.ebits - 1 ∧ floatCode t (.fin s a b) = signedCode t s c ∧
      (codeMag t c : ℝ) = a / b := by
  by_cases small : r < 2 ^ t.frac
  · have : e = 1 - (t.ebias : Int) := low.resolve_right (by omega)
    exact floatCode_grid_subnormal ft s hb small (this ▸ value)
  · by_cases full : r = 2 ^ (t.frac + 1)
    · refine floatCode_grid_normal ft s hb (e := e + 1) (r := 2 ^ t.frac) (by omega) le_rfl
        (Nat.pow_lt_pow_right one_lt_two (Nat.lt_succ_self _)) ?_ finite
      rw [value, full, show e + 1 - t.frac = e - t.frac + 1 by ring, zpow_add_one₀ two_ne_zero, pow_succ]
      push_cast
      ring
    · exact floatCode_grid_normal ft s hb least (by omega) (by omega) value finite

theorem minNormal_le_largest : (2 : ℝ) ^ (1 - (t.ebias : ℤ)) ≤ largest t := by
  have bias := Tag.ebias_pos ft
  have significand : (2 : ℝ) ^ t.frac ≤ 2 ^ (t.frac + 1) - 1 := by
    have : (1 : ℝ) ≤ 2 ^ t.frac := one_le_pow₀ one_le_two
    rw [pow_succ]
    linarith
  calc (2 : ℝ) ^ (1 - (t.ebias : ℤ)) ≤ 2 ^ (t.ebias : ℤ) := zpow_le_zpow_right₀ one_le_two (by omega)
    _ = 2 ^ t.frac * 2 ^ ((t.ebias : ℤ) - t.frac) := by rw [← zpow_natCast (2 : ℝ) t.frac, ← zpow_add₀ two_ne_zero]; congr 1; omega
    _ ≤ largest t := mul_le_mul_of_nonneg_right significand (by positivity)

/-- The code of the largest finite magnitude. -/
theorem floatCode_largest {a b : Nat} (s : Bool) (hb : 0 < b) (value : (a : ℝ) / b = largest t) :
    floatCode t (.fin s a b) = signedCode t s ((2 ^ t.ebits - 1) * 2 ^ t.frac - 1) := by
  have range := Tag.two_pow_ebits ft
  have bias := Tag.ebias_pos ft
  have pos := Nat.two_pow_pos t.frac
  have cast : ((2 ^ (t.frac + 1) - 1 : ℕ) : ℝ) = 2 ^ (t.frac + 1) - 1 := by
    rw [Nat.cast_sub Nat.one_le_two_pow]
    push_cast
    rfl
  rw [floatCode_normal s hb (e := t.ebias) (r := 2 ^ (t.frac + 1) - 1) (by omega) (by rw [pow_succ]; omega) (by rw [pow_succ]; omega)
    (by rw [value, largest, cast])]
  congr 1
  rw [show ((t.ebias : ℤ) + t.ebias).toNat = 2 * t.ebias by omega, show 2 ^ t.ebits - 1 = 2 * t.ebias + 1 by omega,
    Nat.add_one_mul (2 * t.ebias), pow_succ]
  omega

end

theorem maxFinite_eq (t : Tag) : ∃ a b, maxFinite t = .fin false a b ∧ 0 < b ∧ (a : ℝ) / b = largest t := by
  obtain ⟨a, b, scaled, hb, value⟩ := Num.scale_fin ((t.ebias : Int) - t.frac) false (2 ^ (t.frac + 1) - 1) one_pos
  refine ⟨a, b, scaled, hb, ?_⟩
  rw [value, largest, Nat.cast_one, div_one, Nat.cast_sub Nat.one_le_two_pow]
  push_cast
  rfl

theorem minNormal_eq (t : Tag) : ∃ a b, minNormal t = .fin false a b ∧ 0 < b ∧ (a : ℝ) / b = 2 ^ (1 - (t.ebias : ℤ)) := by
  obtain ⟨a, b, scaled, hb, value⟩ := Num.scale_fin (1 - (t.ebias : Int)) false 1 one_pos
  refine ⟨a, b, scaled, hb, ?_⟩
  rw [value]
  simp

/-- What an overflow delivers, as a code (R33). -/
theorem floatCode_overflow {t : Tag} (ft : t.isFloat = true) (m : Rnd) (neg : Bool) :
    floatCode t (overflow m neg t) = signedCode t neg
      (if m = .rne ∨ (m = .rdn ∧ neg = true) ∨ (m = .rup ∧ neg = false) then (2 ^ t.ebits - 1) * 2 ^ t.frac
        else (2 ^ t.ebits - 1) * 2 ^ t.frac - 1) := by
  obtain ⟨a, b, finite, hb, value⟩ := maxFinite_eq t
  have big := floatCode_largest ft neg hb value
  have infinite : floatCode t (.inf neg) = signedCode t neg ((2 ^ t.ebits - 1) * 2 ^ t.frac) := by
    cases neg <;> simp [floatCode, Num.sign, signedCode]
  unfold overflow
  rw [finite]
  cases m <;> cases neg <;> simpa using by assumption

/-- The multiple of the unit 2^q nearest by mode m, and whether it differs (R63). -/
def roundUnit (m : Rnd) (neg : Bool) (n d : Nat) (q : Int) : Nat × Bool :=
  if q < 0 then roundQuot m neg (n * 2 ^ q.natAbs) d else roundQuot m neg n (d * 2 ^ q.natAbs)

theorem roundUnit_spec {d : Nat} (m : Rnd) (neg : Bool) (n : Nat) (hd : 0 < d) (q : Int) :
    RoundsTo m neg ((n : ℝ) / d / 2 ^ q) (roundUnit m neg n d q).1 ∧
      ((roundUnit m neg n d q).2 = true ↔ ((roundUnit m neg n d q).1 : ℝ) ≠ n / d / 2 ^ q) := by
  unfold roundUnit
  split
  · next h =>
    have value : (n : ℝ) / d / 2 ^ q = (n * 2 ^ q.natAbs : ℕ) / d := by
      rw [two_zpow_neg h, one_div, div_inv_eq_mul, Nat.cast_mul, mul_div_right_comm]
    rw [value]
    exact ⟨roundsTo_roundQuot m neg _ hd, roundQuot_snd_iff m neg _ hd⟩
  · next h =>
    have value : (n : ℝ) / d / 2 ^ q = n / (d * 2 ^ q.natAbs : ℕ) := by
      rw [two_zpow_nonneg (not_lt.1 h), div_div, Nat.cast_mul]
    have pos := Nat.mul_pos hd (Nat.two_pow_pos q.natAbs)
    rw [value]
    exact ⟨roundsTo_roundQuot m neg _ pos, roundQuot_snd_iff m neg _ pos⟩

/-- The exponent that Round uses: that of the value, at least that of the smallest normal value (R33). -/
def roundExp (t : Tag) (n d : Nat) : Int := max (ilog2 n d) (1 - (t.ebias : Int))

theorem roundFloat_fin {t : Tag} {n d : Nat} (m : Rnd) (neg : Bool) (hn : n ≠ 0) :
    roundFloat t m (.fin neg n d) =
      ((Num.fin neg (roundUnit m neg n d (roundExp t n d - t.frac)).1 1).scale (roundExp t n d - t.frac),
        (roundUnit m neg n d (roundExp t n d - t.frac)).2) := by
  have unit : max (ilog2 n d - t.frac) (1 - (t.ebias : Int) - t.frac) = roundExp t n d - t.frac := by
    unfold roundExp
    omega
  unfold roundFloat
  simp only [if_neg hn, unit]
  rfl

/-- Round of R33: the exponent, at least that of the smallest normal value, and the multiple of its unit (R33, R63). -/
theorem roundFloat_spec (t : Tag) (m : Rnd) (neg : Bool) (n : Nat) {d : Nat} (hd : 0 < d) :
    ∃ (e : Int) (r a b : Nat) (inexact : Bool), roundFloat t m (.fin neg n d) = (.fin neg a b, inexact) ∧ 0 < b ∧
      1 - (t.ebias : Int) ≤ e ∧ (n : ℝ) / d < 2 ^ (e + 1) ∧ (e = 1 - (t.ebias : Int) ∨ (2 : ℝ) ^ e ≤ n / d) ∧
      RoundsTo m neg ((n : ℝ) / d / 2 ^ (e - t.frac)) r ∧ (a : ℝ) / b = r * 2 ^ (e - t.frac) ∧
      (inexact = true ↔ (a : ℝ) / b ≠ n / d) := by
  by_cases hn : n = 0
  · refine ⟨1 - (t.ebias : Int), 0, 0, d, false, by simp [roundFloat, hn], hd, le_rfl, ?_, Or.inl rfl, ?_, by simp, by simp [hn]⟩
    · rw [hn, Nat.cast_zero, zero_div]
      positivity
    · rw [hn, Nat.cast_zero, zero_div, zero_div]
      cases m <;> cases neg <;> simp [RoundsTo]
  · obtain ⟨below, above⟩ := ilog2_spec (Nat.pos_of_ne_zero hn) hd
    have unit : (0 : ℝ) < 2 ^ (roundExp t n d - t.frac) := by positivity
    obtain ⟨rounds, differs⟩ := roundUnit_spec m neg n hd (roundExp t n d - t.frac)
    obtain ⟨a, b, scaled, hb, value⟩ := Num.scale_fin (roundExp t n d - t.frac) neg
      (roundUnit m neg n d (roundExp t n d - t.frac)).1 one_pos
    rw [Nat.cast_one, div_one] at value
    refine ⟨roundExp t n d, _, a, b, _, by rw [roundFloat_fin m neg hn, scaled], hb, le_max_right _ _, ?_, ?_, rounds, value, ?_⟩
    · exact above.trans_le (zpow_le_zpow_right₀ one_le_two (Int.add_le_add_right (le_max_left _ _) 1))
    · rcases le_total (ilog2 n d) (1 - (t.ebias : Int)) with h | h
      · exact Or.inl (max_eq_right h)
      · exact Or.inr (by rw [roundExp, max_eq_left h]; exact below)
    · rw [differs, value, ne_eq, ne_eq, eq_div_iff unit.ne']

/-- A rounded significand: at most twice the least one of a normal value, and at least that where the value is normal. -/
theorem significand_bounds {t : Tag} {m : Rnd} {neg : Bool} {v : ℝ} {e : Int} {r : Nat} (above : v < 2 ^ (e + 1))
    (low : e = 1 - (t.ebias : Int) ∨ (2 : ℝ) ^ e ≤ v) (rounds : RoundsTo m neg (v / 2 ^ (e - t.frac)) r) :
    r ≤ 2 ^ (t.frac + 1) ∧ (e = 1 - (t.ebias : Int) ∨ 2 ^ t.frac ≤ r) := by
  have unit : (0 : ℝ) < 2 ^ (e - t.frac) := by positivity
  have power (k : Nat) : ((2 ^ k : ℕ) : ℝ) * 2 ^ (e - t.frac) = 2 ^ (e - t.frac + k) := by
    rw [add_comm, zpow_add₀ two_ne_zero]
    push_cast
    rw [zpow_natCast]
  refine ⟨rounds.le_of_le ?_, low.imp_right fun h => rounds.ge_of_ge ?_⟩
  · rw [div_le_iff₀ unit, power]
    exact above.le.trans (zpow_le_zpow_right₀ one_le_two (by push_cast; omega))
  · rwa [le_div_iff₀ unit, power, sub_add_cancel]

/-- The flags of an inexact result, and of one below the smallest normal value (R33). -/
def roundingFlags (t : Tag) (inexact : Bool) (y : Num) : Flags :=
  Flags.when inexact .nx ||| Flags.when (inexact && !y.isZero && y.abs.lt (minNormal t)) .uf

theorem roundingFlags_fin {a b : Nat} (t : Tag) (inexact neg : Bool) (hb : 0 < b) :
    roundingFlags t inexact (.fin neg a b) =
      if inexact then if a ≠ 0 ∧ (a : ℝ) / b < 2 ^ (1 - (t.ebias : ℤ)) then .nx ||| .uf else .nx else 0 := by
  obtain ⟨c, d, least, hd, value⟩ := minNormal_eq t
  have small := Num.lt_fin (a := a) (c := c) hb hd
  rw [value] at small
  have nonzero : (Num.fin neg a b).isZero = decide (a = 0) := rfl
  unfold roundingFlags
  rw [nonzero, Num.abs, least]
  cases inexact
  · simp [Flags.when]
  · by_cases zero : a = 0
    · simp [Flags.when, zero]
    · by_cases sub : (a : ℝ) / b < 2 ^ (1 - (t.ebias : ℤ))
      · simp [Flags.when, zero, sub, small.2 sub]
      · have : (Num.fin false a b).lt (.fin false c d) = false := by rw [← Bool.not_eq_true, small]; exact sub
        simp [Flags.when, zero, sub, this]

/-- Encode of a finite value into a binary float, from what Round delivers (R33). -/
theorem floatEncode_rounded {t : Tag} {m : Rnd} {neg : Bool} {n d a b : Nat} {inexact : Bool} (s : Bool)
    (rounded : roundFloat t m (.fin neg n d) = (.fin neg a b, inexact)) :
    floatEncode t m s (.fin neg n d) =
      let flags := roundingFlags t inexact (.fin neg a b)
      if (maxFinite t).lt (.fin false a b) then
        if s then ⟨floatCode t (overflow .rtz neg t), flags ||| .sat⟩ else ⟨floatCode t (overflow m neg t), flags ||| .of ||| .nx⟩
      else ⟨floatCode t (.fin neg a b), flags⟩ := by
  unfold floatEncode
  rw [rounded]
  rfl

/-- Encode of a finite value into a binary float: the exact, the inexact, the saturated and the overflowing result (R33). -/
theorem floatEncoded {t : Tag} (ft : t.isFloat = true) (m : Rnd) (s neg : Bool) (n : Nat) {d : Nat} (hd : 0 < d) :
    FloatEncoded t m s neg ((n : ℝ) / d) (floatEncode t m s (.fin neg n d)) := by
  obtain ⟨e, r, a, b, inexact, rounded, hb, least, above, low, rounds, value, differs⟩ := roundFloat_spec t m neg n hd
  obtain ⟨c, k, finite, hk, big⟩ := maxFinite_eq t
  have unit : (0 : ℝ) < 2 ^ (e - t.frac) := by positivity
  have flags := roundingFlags_fin (a := a) t inexact neg hb
  have beyond : (maxFinite t).lt (.fin false a b) = true ↔ largest t < a / b := by rw [finite, Num.lt_fin hk hb, big]
  have zero : a = 0 ↔ r = 0 := by
    have : (a : ℝ) / b = 0 ↔ (r : ℝ) * 2 ^ (e - t.frac) = 0 := by rw [value]
    rw [div_eq_zero_iff, or_iff_left (Nat.cast_ne_zero.2 hb.ne'), mul_eq_zero, or_iff_left unit.ne'] at this
    exact_mod_cast this
  have flagsBeyond (h : largest t < a / b) : roundingFlags t inexact (.fin neg a b) = if inexact then .nx else 0 := by
    have normal : ¬(a ≠ 0 ∧ (a : ℝ) / b < 2 ^ (1 - (t.ebias : ℤ))) := fun both => not_le.2 both.2 ((minNormal_le_largest ft).trans h.le)
    rw [flags, if_neg normal]
  rw [floatEncode_rounded s rounded]
  refine ⟨e, r, least, above, low, rounds, ?_⟩
  dsimp only
  rw [← value]
  refine ⟨fun inside => ?_, fun outside saturates => ?_, fun outside overflows => ?_⟩
  · obtain ⟨high, grid⟩ := significand_bounds above low rounds
    obtain ⟨code, small, field, coded, mag⟩ := floatCode_grid ft neg hb least grid high value inside
    rw [if_neg (beyond.not.2 (not_lt.2 inside)), coded, flags]
    have pos := Nat.two_pow_pos (t.bits - 1)
    refine ⟨?_, ⟨_, exactValue_floatValue ft neg small field, ?_⟩, fun h => ?_, fun h large => ?_, fun h nonzero sub => ?_⟩
    · cases neg
      · exact Nat.div_eq_of_lt small
      · simp [signedCode, Nat.add_div_left _ pos, Nat.div_eq_of_lt small]
    · rw [← mag]
      cases neg <;> simp [withSign]
    · rw [if_neg (fun i => differs.1 i h)]
    · rw [if_pos (differs.2 h), if_neg]
      rintro ⟨nonzero, sub⟩
      exact large.elim (fun h => nonzero (zero.2 h)) (not_le.2 sub)
    · rw [if_pos (differs.2 h), if_pos ⟨zero.not.2 nonzero, sub⟩]
  · rw [if_pos (beyond.2 outside), if_pos saturates, floatCode_overflow ft, flagsBeyond outside]
    refine ⟨by simp [signedCode], fun h => ?_, fun h => ?_⟩
    · rw [if_neg (fun i => differs.1 i h)]
      rfl
    · rw [if_pos (differs.2 h)]
  · rw [if_pos (beyond.2 outside), if_neg (by simp [overflows]), floatCode_overflow ft, flagsBeyond outside]
    refine ⟨?_, rfl⟩
    cases inexact <;> rfl

end Sys2Proof
end

section
/-! Encode of R33 into integer and tapered tags, conversions to integers, and the values of tapered codes (R54, R57, R61, R152). -/

namespace Sys2Proof

theorem Flags.getLsbD_nx (k : Nat) : Flags.nx.getLsbD k = decide (k = 0) := by
  rcases k with _ | k <;> simp [Flags.nx, BitVec.getLsbD_one]

theorem Flags.getLsbD_sat (k : Nat) : Flags.sat.getLsbD k = decide (k = 5) := by
  rw [show Flags.sat = BitVec.twoPow 7 5 from rfl, BitVec.getLsbD_twoPow]
  simp [eq_comm]

theorem intCode_intValue (t : Tag) (z : Int) : intCode t (intValue t (intCode t z)) = intCode t z := by
  have pos : (0 : Int) < (2 ^ t.bits : ℕ) := by exact_mod_cast Nat.two_pow_pos _
  have code : ((intCode t z : ℕ) : Int) = z % (2 ^ t.bits : ℕ) := Int.toNat_of_nonneg (Int.emod_nonneg z pos.ne')
  have small : intCode t z < 2 ^ t.bits := by
    have := Int.emod_lt_of_pos z pos
    omega
  unfold intValue
  dsimp only
  rw [Nat.mod_eq_of_lt small]
  split
  · rw [code, intCode, intCode, show (2 : Int) ^ t.bits = (2 ^ t.bits : ℕ) by push_cast; rfl, Int.sub_emod_right, Int.emod_emod_of_dvd _ dvd_rfl]
  · rw [code, intCode, intCode, Int.emod_emod_of_dvd _ dvd_rfl]

theorem intMin_le_intMax (t : Tag) : intMin t ≤ intMax t := by cases t <;> decide

/-- Saturation is the nearest integer in range. -/
theorem satInt_eq (t : Tag) (z : Int) : satInt t z =
    ⟨max (intMin t) (min z (intMax t)), if intMin t ≤ z ∧ z ≤ intMax t then 0 else .sat⟩ := by
  have range := intMin_le_intMax t
  unfold satInt
  split
  · rw [if_neg (by omega)]
    congr 1
    omega
  · split
    · rw [if_neg (by omega)]
      congr 1
      omega
    · rw [if_pos (by omega)]
      congr 1
      omega

/-- Encode of a finite value into an integer tag (R33, R54). -/
theorem intEncoded (t : Tag) (m : Rnd) (s neg : Bool) (n : Nat) {d : Nat} (hd : 0 < d) :
    IntEncoded t m s neg ((n : ℝ) / d) (intEncode t m s (.fin neg n d)) := by
  refine ⟨_, roundsTo_roundQuot m neg n hd, ?_⟩
  have inexact := roundQuot_snd_iff m neg n hd
  have code (z : Int) : intCode t z = (z % 2 ^ t.bits).toNat := by
    rw [intCode]
    push_cast
    rfl
  unfold intEncode
  dsimp only
  generalize (if neg then -((roundQuot m neg n d).1 : Int) else (roundQuot m neg n d).1) = z
  refine ⟨?_, fun k => ?_⟩
  · rw [← code]
    cases s
    · exact intCode_intValue t z
    · simp [reduceInt, satInt_eq, Fl.map, Fl.also]
  · have rounding : (Flags.when (roundQuot m neg n d).2 .nx).getLsbD k = true ↔ k = 0 ∧ ((roundQuot m neg n d).1 : ℝ) ≠ n / d := by
      rw [← inexact]
      cases (roundQuot m neg n d).2 <;> simp [Flags.when, Flags.getLsbD_nx]
    have range : (reduceInt t s z).flags.getLsbD k = true ↔ k = 5 ∧ s = true ∧ ¬(intMin t ≤ z ∧ z ≤ intMax t) := by
      cases s
      · simp [reduceInt]
      · rw [reduceInt, if_pos rfl, satInt_eq]
        by_cases inside : intMin t ≤ z ∧ z ≤ intMax t
        · simp [inside]
        · simp [inside, Flags.getLsbD_sat]
    simp only [Fl.also, Fl.map, BitVec.getLsbD_or, Bool.or_eq_true, rounding, range]
    exact or_comm

/-- A conversion to an integer of 64 bits (R152). -/
theorem floatToInt_fin {d : Nat} (t : Tag) (m : Rnd) (neg : Bool) (n : Nat) (hd : 0 < d) :
    ∃ k : Nat, RoundsTo m neg ((n : ℝ) / d) k ∧
      let z : Int := if neg then -k else k
      let r := Machine.floatToInt t m (.fin neg n d)
      (z < intMin t → r = ⟨BitVec.ofInt 64 (intMin t), .nv⟩) ∧ (intMax t < z → r = ⟨BitVec.ofInt 64 (intMax t), .nv⟩) ∧
        (intMin t ≤ z → z ≤ intMax t → r.val = BitVec.ofInt 64 z ∧ ((k : ℝ) = n / d → r.flags = 0) ∧
          ((k : ℝ) ≠ n / d → r.flags = .nx)) := by
  refine ⟨_, roundsTo_roundQuot m neg n hd, ?_⟩
  have range := intMin_le_intMax t
  have inexact := roundQuot_snd_iff m neg n hd
  unfold Machine.floatToInt
  dsimp only
  generalize (if neg then -((roundQuot m neg n d).1 : Int) else (roundQuot m neg n d).1) = z
  refine ⟨fun below => if_pos below, fun above => ?_, fun low high => ?_⟩
  · rw [if_neg (by omega), if_pos above]
  · rw [if_neg (not_lt.2 low), if_neg (not_lt.2 high)]
    refine ⟨rfl, fun same => ?_, fun differs => ?_⟩
    · rw [show (roundQuot m neg n d).2 = false by rw [← Bool.not_eq_true, inexact]; exact not_not.2 same]
      rfl
    · rw [inexact.2 differs]
      rfl

/-- A magnitude code of a tapered tag is the value of its table (R57, Tables 4.3, 4.4). -/
theorem tapMag_value_t8 : ∀ g < 128, (tapMag 7 g).sign = false ∧ exactValue (tapMag 7 g) = some (taperedValue .t8 g) := by decide +kernel

theorem tapMag_value_t6 : ∀ g < 32, (tapMag 5 g).sign = false ∧ exactValue (tapMag 5 g) = some (taperedValue .t6 g) := by decide +kernel

theorem Num.le_fin {a b c d : Nat} (hb : 0 < b) (hd : 0 < d) :
    (Num.fin false a b).le (.fin false c d) = true ↔ (a : ℝ) / b ≤ c / d := by
  rw [Num.le, Bool.or_eq_true, show ((Num.fin false a b).cmp (.fin false c d) == some .lt) = (Num.fin false a b).lt (.fin false c d) from rfl,
    show ((Num.fin false a b).cmp (.fin false c d) == some .eq) = (Num.fin false a b).eq (.fin false c d) from rfl,
    Num.lt_fin hb hd, Num.eq_fin hb hd, le_iff_lt_or_eq]

/-- Magnitude bits of a tapered tag. -/
def magBits (t : Tag) : Nat := if t = .t6 then 5 else 7

theorem tapBits_sub_one {t : Tag} (tap : t.isTapered = true) : tapBits t - 1 = magBits t := by
  revert tap
  cases t <;> decide

theorem memBits_sub_one {t : Tag} (tap : t.isTapered = true) : t.memBits - 1 = magBits t := by
  revert tap
  cases t <;> decide

theorem tapMag_fin {t : Tag} {g : Nat} (tap : t.isTapered = true) (hg : g < 2 ^ magBits t) :
    ∃ a b, tapMag (magBits t) g = .fin false a b ∧ 0 < b ∧ taperedValue t g = (a : ℚ) / b := by
  have known : (tapMag (magBits t) g).sign = false ∧ exactValue (tapMag (magBits t) g) = some (taperedValue t g) := by
    cases t with
    | t8 => exact tapMag_value_t8 g hg
    | t6 => exact tapMag_value_t6 g hg
    | _ => exact nomatch tap
  obtain ⟨s, a, b, mag, hb, value⟩ := exactValue_eq_some known.2
  rw [mag] at known ⊢
  obtain rfl : s = false := known.1
  exact ⟨a, b, rfl, Nat.pos_of_ne_zero hb, value⟩

/-- The search finds the greatest code whose value does not pass the magnitude. -/
theorem tapFloor_spec {t : Tag} (tap : t.isTapered = true) {a b : Nat} (hb : 0 < b) (k g : Nat) (fits : g + 2 ^ k ≤ 2 ^ magBits t)
    (low : (taperedValue t g : ℝ) ≤ a / b) (high : g + 2 ^ k = 2 ^ magBits t ∨ (a : ℝ) / b < taperedValue t (g + 2 ^ k)) :
    let f := tapFloor (magBits t) (.fin false a b) g k
    f < 2 ^ magBits t ∧ (taperedValue t f : ℝ) ≤ a / b ∧ (f + 1 = 2 ^ magBits t ∨ (a : ℝ) / b < taperedValue t (f + 1)) := by
  induction k generalizing g with
  | zero => exact ⟨fits, low, high⟩
  | succ k ih =>
    have pos := Nat.two_pow_pos k
    rw [pow_succ] at fits high
    obtain ⟨c, d, mag, hd, value⟩ := tapMag_fin tap (g := g + 2 ^ k) (by omega)
    have passes : (tapMag (magBits t) (g + 2 ^ k)).le (.fin false a b) = true ↔ (taperedValue t (g + 2 ^ k) : ℝ) ≤ a / b := by
      rw [mag, Num.le_fin hd hb, value]
      push_cast
      rfl
    unfold tapFloor
    split
    · next h =>
      refine ih _ (by omega) (passes.1 h) ?_
      rwa [show g + 2 ^ k + 2 ^ k = g + 2 ^ k * 2 by ring]
    · next h => exact ih _ (by omega) low (Or.inr (not_le.1 (passes.not.1 h)))

theorem taperedValue_zero (t : Tag) : taperedValue t 0 = 0 := by
  unfold taperedValue
  by_cases six : t = .t6
  · rw [if_pos six]
    rfl
  · rw [if_neg six]
    exact if_pos rfl

/-- Whether a magnitude between two neighbouring codes goes to the upper one (R61). -/
def tapUp (m : Rnd) (neg : Bool) (mid y : Num) (g : Nat) : Bool := match m with
  | .rne => mid.lt y || (mid.eq y && g % 2 == 1)
  | .rtz => false
  | .rdn => neg
  | .rup => !neg

/-- The midpoint of two magnitudes. -/
def midpoint (lo hi : Num) : Num := match lo, hi with
  | .fin _ a c, .fin _ a' c' => .fin false (a * c' + a' * c) (2 * c * c')
  | _, _ => lo

/-- Encode of a finite value into a tapered tag, by its three results. -/
theorem tapEncode_fin {t : Tag} (tap : t.isTapered = true) (m : Rnd) {b : Int} {neg : Bool} {n d a c : Nat}
    (scaled : (Num.fin neg n d).scale (-b) = .fin neg a c) :
    tapEncode t m b (.fin neg n d) =
      let y := Num.fin false a c
      let s := if neg then 2 ^ magBits t else 0
      let g := tapFloor (magBits t) y 0 (magBits t)
      if (tapMag (magBits t) (2 ^ magBits t - 1)).lt y then ⟨s + (2 ^ magBits t - 1), .sat⟩
      else if (tapMag (magBits t) g).eq y then ⟨if g = 0 then 0 else s + g, 0⟩
      else
        let r := if tapUp m neg (midpoint (tapMag (magBits t) g) (tapMag (magBits t) (g + 1))) y g then g + 1 else g
        ⟨if r = 0 then 0 else s + r, .nx⟩ := by
  unfold tapEncode
  rw [tapBits_sub_one tap, scaled]
  cases m <;> rfl

/-- The midpoint of two magnitudes against a third: half of their sum. -/
theorem midpoint_order {a b c d n k : Nat} (hb : 0 < b) (hd : 0 < d) (hk : 0 < k) :
    ((midpoint (.fin false a b) (.fin false c d)).lt (.fin false n k) = true ↔ (a : ℝ) / b + c / d < 2 * (n / k)) ∧
      ((midpoint (.fin false a b) (.fin false c d)).eq (.fin false n k) = true ↔ 2 * ((n : ℝ) / k) = a / b + c / d) := by
  have hb' : (b : ℝ) ≠ 0 := Nat.cast_ne_zero.2 hb.ne'
  have hd' : (d : ℝ) ≠ 0 := Nat.cast_ne_zero.2 hd.ne'
  have pos : 0 < 2 * b * d := by positivity
  have half : ((a * d + c * b : ℕ) : ℝ) / (2 * b * d : ℕ) * 2 = a / b + c / d := by
    push_cast
    field_simp
  rw [show midpoint (.fin false a b) (.fin false c d) = .fin false (a * d + c * b) (2 * b * d) from rfl, Num.lt_fin pos hk,
    Num.eq_fin pos hk, ← half, mul_comm _ (2 : ℝ), mul_lt_mul_iff_right₀ two_pos, mul_right_inj' two_ne_zero]
  exact ⟨Iff.rfl, eq_comm⟩

/-- Encode of a finite value into a tapered tag (R61). -/
theorem taperedEncoded {t : Tag} (tap : t.isTapered = true) (m : Rnd) (b : Int) (neg : Bool) (n : Nat) {d : Nat} (hd : 0 < d) :
    TaperedEncoded t m neg ((n : ℝ) / d / (2 : ℝ) ^ b) (tapEncode t m b (.fin neg n d)) := by
  obtain ⟨a, c, scaled, hc, value⟩ := Num.scale_fin (-b) neg n hd
  rw [zpow_neg, ← div_eq_mul_inv] at value
  have pos := Nat.two_pow_pos (magBits t)
  obtain ⟨ta, tc, top, htc, topValue⟩ := tapMag_fin tap (g := 2 ^ magBits t - 1) (by omega)
  have beyond : (Num.fin false ta tc).lt (.fin false a c) = true ↔ (taperedValue t (2 ^ magBits t - 1) : ℝ) < a / c := by
    rw [Num.lt_fin htc hc, topValue]
    push_cast
    rfl
  obtain ⟨small, low, high⟩ := tapFloor_spec tap (a := a) hc (magBits t) 0 (by omega)
    (by rw [taperedValue_zero, Rat.cast_zero]; positivity) (Or.inl (Nat.zero_add _))
  rw [← value, tapEncode_fin tap m scaled]
  dsimp only
  rw [top]
  generalize tapFloor (magBits t) (.fin false a c) 0 (magBits t) = g at small low high ⊢
  obtain ⟨la, lc, lo, hlc, loValue⟩ := tapMag_fin tap small
  have hits : (Num.fin false la lc).eq (.fin false a c) = true ↔ (taperedValue t g : ℝ) = a / c := by
    rw [Num.eq_fin hlc hc, loValue]
    push_cast
    rfl
  have signed (k : Nat) : (if neg then 2 ^ magBits t else 0) + k = if neg then 2 ^ magBits t + k else k := by
    cases neg <;> simp
  simp only [signed]
  refine ⟨fun h => if_pos (beyond.2 h), fun h => ?_⟩
  rw [if_neg (beyond.not.2 (not_lt.2 h)), lo]
  by_cases hit : (taperedValue t g : ℝ) = a / c
  · rw [if_pos (hits.2 hit)]
    refine ⟨g, g, Nat.le_sub_one_of_lt small, low, high.imp_left Nat.eq_sub_of_add_eq, rfl, fun _ => ⟨rfl, rfl⟩,
      fun differs => absurd hit differs⟩
  · rw [if_neg (hits.not.2 hit)]
    have next : g + 1 < 2 ^ magBits t := by
      by_contra last
      have : g = 2 ^ magBits t - 1 := by omega
      exact hit (le_antisymm low (this ▸ h))
    obtain ⟨ha, hcc, hi, hhc, hiValue⟩ := tapMag_fin tap next
    obtain ⟨lower, middle⟩ := midpoint_order (a := la) (c := ha) (n := a) hlc hhc hc
    have loReal : (taperedValue t g : ℝ) = la / lc := by rw [loValue]; push_cast; rfl
    have hiReal : (taperedValue t (g + 1) : ℝ) = ha / hcc := by rw [hiValue]; push_cast; rfl
    rw [← loReal, ← hiReal] at lower middle
    rw [hi]
    generalize midpoint (.fin false la lc) (.fin false ha hcc) = mid at lower middle ⊢
    refine ⟨g, if tapUp m neg mid (.fin false a c) g then g + 1 else g, Nat.le_sub_one_of_lt small, low,
      high.imp_left Nat.eq_sub_of_add_eq, rfl, fun same => absurd same hit, fun _ => ⟨rfl, (ite_eq_or_eq _ _ _).symm, ?_⟩⟩
    cases m with
    | rne =>
      refine ⟨fun below => ?_, fun above => ?_, fun tie => ?_⟩
      · have : tapUp .rne neg mid (.fin false a c) g = false := by
          rw [← Bool.not_eq_true]
          simp [tapUp, lower, middle, not_lt.2 below.le, below.ne]
        rw [this]
        rfl
      · rw [if_pos]
        simp [tapUp, lower, above]
      · have odd : tapUp .rne neg mid (.fin false a c) g = true ↔ g % 2 = 1 := by
          simp [tapUp, lower, middle, tie]
        simp only [odd]
        split <;> omega
    | rtz => rfl
    | rdn => cases neg <;> rfl
    | rup => cases neg <;> rfl

end Sys2Proof
end

section
/-! Square roots to a rational that rounds as the root does (R151), infinities and NaN, and the values of tapered codes. -/

namespace Sys2Proof

/-- The search by bits finds the integer square root. -/
theorem sqrtBits_spec (n r k : Nat) (low : r * r ≤ n) (high : n < (r + 2 ^ k) * (r + 2 ^ k)) :
    sqrtBits n r k * sqrtBits n r k ≤ n ∧ n < (sqrtBits n r k + 1) * (sqrtBits n r k + 1) := by
  induction k generalizing r with
  | zero => exact ⟨low, high⟩
  | succ k ih =>
    unfold sqrtBits
    split
    · next h => exact ih _ h (by rwa [show r + 2 ^ k + 2 ^ k = r + 2 ^ (k + 1) by ring])
    · next h => exact ih _ low (not_le.1 h)

theorem isqrt_spec (n : Nat) : isqrt n * isqrt n ≤ n ∧ n < (isqrt n + 1) * (isqrt n + 1) := by
  refine sqrtBits_spec n 0 _ (Nat.zero_le n) ?_
  rw [Nat.zero_add, ← pow_add]
  exact Nat.lt_log2_self.trans_le (Nat.pow_le_pow_right two_pos (by omega))

/-- No multiple of a power of two from 2^p up separates u and v or is one of them. -/
def Alike (p : Int) (u v : ℝ) : Prop :=
  ∀ (j : Nat) (q : Int), p ≤ q → ((j : ℝ) * 2 ^ q < u ∧ (j : ℝ) * 2 ^ q < v) ∨ (u < j * 2 ^ q ∧ v < j * 2 ^ q)

/-- Two values strictly between the same neighbours of the grid 2^p. -/
theorem alike_of_between {p : Int} {u v : ℝ} {r : Nat} (lu : (r : ℝ) * 2 ^ p < u) (hu : u < (r + 1) * 2 ^ p) (lv : (r : ℝ) * 2 ^ p < v)
    (hv : v < (r + 1) * 2 ^ p) : Alike p u v := by
  intro j q fine
  obtain ⟨i, rfl⟩ : ∃ i : ℕ, q = p + i := ⟨(q - p).toNat, by omega⟩
  have unit : (0 : ℝ) < 2 ^ p := by positivity
  have grid : (j : ℝ) * 2 ^ (p + i) = (j * 2 ^ i : ℕ) * 2 ^ p := by
    rw [zpow_add₀ two_ne_zero, zpow_natCast]
    push_cast
    ring
  rw [grid]
  rcases Nat.lt_or_ge r (j * 2 ^ i) with h | h
  · have : (r : ℝ) + 1 ≤ (j * 2 ^ i : ℕ) := by exact_mod_cast h
    have := mul_le_mul_of_nonneg_right this unit.le
    exact Or.inr ⟨hu.trans_le this, hv.trans_le this⟩
  · have : ((j * 2 ^ i : ℕ) : ℝ) ≤ r := by exact_mod_cast h
    have := mul_le_mul_of_nonneg_right this unit.le
    exact Or.inl ⟨this.trans_lt lu, this.trans_lt lv⟩

section

variable {p : Int} {u v : ℝ} (h : Alike p u v)
include h

theorem Alike.lt_iff (j : Nat) {q : Int} (fine : p ≤ q) : u < j * 2 ^ q ↔ v < j * 2 ^ q := by
  rcases h j q fine with ⟨a, b⟩ | ⟨a, b⟩
  · exact iff_of_false (not_lt.2 a.le) (not_lt.2 b.le)
  · exact iff_of_true a b

theorem Alike.le_iff (j : Nat) {q : Int} (fine : p ≤ q) : (j : ℝ) * 2 ^ q ≤ u ↔ (j : ℝ) * 2 ^ q ≤ v := by
  rw [← not_lt, ← not_lt, h.lt_iff j fine]

theorem Alike.left_ne (j : Nat) {q : Int} (fine : p ≤ q) : (j : ℝ) * 2 ^ q ≠ u := by
  rcases h j q fine with ⟨a, -⟩ | ⟨a, -⟩
  · exact a.ne
  · exact a.ne'

theorem Alike.right_ne (j : Nat) {q : Int} (fine : p ≤ q) : (j : ℝ) * 2 ^ q ≠ v := by
  rcases h j q fine with ⟨-, a⟩ | ⟨-, a⟩
  · exact a.ne
  · exact a.ne'

theorem Alike.halves {q : Int} (fine : p ≤ q - 1) (j : Nat) :
    ((j : ℝ) < 2 * (u / 2 ^ q) ∧ (j : ℝ) < 2 * (v / 2 ^ q)) ∨ (2 * (u / 2 ^ q) < j ∧ 2 * (v / 2 ^ q) < j) := by
  have unit : (0 : ℝ) < 2 ^ (q - 1) := by positivity
  have half (x : ℝ) : 2 * (x / 2 ^ q) = x / 2 ^ (q - 1) := by
    rw [zpow_sub_one₀ two_ne_zero]
    field_simp
  rw [half, half, lt_div_iff₀ unit, lt_div_iff₀ unit, div_lt_iff₀ unit, div_lt_iff₀ unit]
  exact h j (q - 1) fine

end

/-- Values that no half integer separates round alike. -/
theorem RoundsTo.alike {m : Rnd} {neg : Bool} {x y : ℝ} {n : Nat}
    (h : ∀ j : ℕ, ((j : ℝ) < 2 * x ∧ (j : ℝ) < 2 * y) ∨ (2 * x < j ∧ 2 * y < j))
    (nonneg : 0 ≤ y) (rounds : RoundsTo m neg x n) : RoundsTo m neg y n := by
  have below (k : ℕ) : (k : ℝ) ≤ x → (k : ℝ) ≤ y := fun le => by
    have := h (2 * k)
    push_cast at this
    rcases this with ⟨-, b⟩ | ⟨a, -⟩ <;> linarith
  have above (k : ℕ) : x ≤ k → y ≤ k := fun le => by
    have := h (2 * k)
    push_cast at this
    rcases this with ⟨a, -⟩ | ⟨-, b⟩ <;> linarith
  have strictly (k : ℕ) : x < k → y < k := fun lt => by
    have := h (2 * k)
    push_cast at this
    rcases this with ⟨a, -⟩ | ⟨-, b⟩ <;> linarith
  have low : (n : ℝ) ≤ x ∧ x < n + 1 → (n : ℝ) ≤ y ∧ y < n + 1 := fun ⟨le, lt⟩ =>
    ⟨below n le, by exact_mod_cast strictly (n + 1) (by exact_mod_cast lt)⟩
  have high : x ≤ n ∧ (n : ℝ) < x + 1 → y ≤ n ∧ (n : ℝ) < y + 1 := fun ⟨le, lt⟩ => by
    refine ⟨above n le, ?_⟩
    rcases n with _ | k
    · rw [Nat.cast_zero]
      linarith
    · have := h (2 * k)
      push_cast at this lt ⊢
      rcases this with ⟨-, b⟩ | ⟨a, -⟩ <;> linarith
  cases m with
  | rne =>
    obtain ⟨lo, hi, -⟩ := rounds
    have top := h (2 * n + 1)
    push_cast at top
    have under : 2 * y < 2 * n + 1 := by rcases top with ⟨a, -⟩ | ⟨-, b⟩ <;> linarith
    have nearer : 2 * (n : ℝ) < 2 * y + 1 := by
      rcases n with _ | k
      · rw [Nat.cast_zero]
        linarith
      · have := h (2 * k + 1)
        push_cast at this lo ⊢
        rcases this with ⟨-, b⟩ | ⟨a, -⟩ <;> linarith
    exact ⟨nearer.le, under.le, fun tie => (tie.elim nearer.ne under.ne).elim⟩
  | rtz => exact low rounds
  | rdn => cases neg with
    | true => exact high rounds
    | false => exact low rounds
  | rup => cases neg with
    | true => exact low rounds
    | false => exact high rounds

/-- Values that no half unit of their exponent separates are encoded alike (R33). -/
theorem FloatEncoded.alike {t : Tag} {m : Rnd} {s neg : Bool} {p : Int} {u v : ℝ} {r : Fl Nat} (h : Alike p u v) (nonneg : 0 ≤ v)
    (fine : ∀ e : Int, u < 2 ^ (e + 1) → p ≤ e - t.frac - 1) (encoded : FloatEncoded t m s neg u r) : FloatEncoded t m s neg v r := by
  obtain ⟨e, n, least, above, low, rounds, inside, saturated, overflown⟩ := encoded
  have grid := fine e above
  have left : (n : ℝ) * 2 ^ (e - t.frac) ≠ u := h.left_ne n (by omega)
  have right : (n : ℝ) * 2 ^ (e - t.frac) ≠ v := h.right_ne n (by omega)
  have upper := h.lt_iff 1 (q := e + 1) (by omega)
  have lower := h.le_iff 1 (q := e) (by omega)
  rw [Nat.cast_one, one_mul] at upper lower
  refine ⟨e, n, least, upper.1 above, low.imp_right lower.1, rounds.alike (h.halves (by omega)) (by positivity), fun le => ?_,
    fun lt sat => ?_, overflown⟩
  · obtain ⟨sign, value, -, normal, small⟩ := inside le
    exact ⟨sign, value, fun same => absurd same right, fun _ => normal left, fun _ => small left⟩
  · obtain ⟨code, -, flags⟩ := saturated lt sat
    exact ⟨code, fun same => absurd same right, fun _ => flags left⟩

theorem Tag.frac_le {t : Tag} : t.frac ≤ 52 := by cases t <;> decide

theorem sqrt_scaled (n k : Nat) : Real.sqrt (n / 2 ^ k) = Real.sqrt ((n * 2 ^ k * 4 ^ (256 + k) : ℕ) : ℝ) * 2 ^ (-(2 * k + 256 : ℤ)) := by
  have unit : (0 : ℝ) ≤ 2 ^ (-(2 * k + 256 : ℤ)) := by positivity
  rw [← Real.sqrt_sq unit, ← Real.sqrt_mul (Nat.cast_nonneg _)]
  congr 1
  have two : (2 : ℝ) ≠ 0 := two_ne_zero
  push_cast
  rw [← zpow_natCast _ 2, ← zpow_mul, show (4 : ℝ) = 2 ^ 2 by norm_num, ← pow_mul, div_eq_mul_inv, ← zpow_natCast, ← zpow_neg,
    ← zpow_natCast _ (2 * (256 + k)), mul_assoc, mul_assoc, ← zpow_add₀ two, ← zpow_add₀ two]
  congr 2
  push_cast
  ring

/-- The grid of the root, 2^(2k + 256) steps to one, with j bits more. -/
theorem root_unit (k j : Nat) : (1 : ℝ) / (2 ^ k * 2 ^ (256 + k + j) : ℕ) = 2 ^ (-(2 * k + 256 : ℤ)) / 2 ^ j := by
  rw [← pow_add, Nat.cast_pow, Nat.cast_ofNat, one_div, ← zpow_natCast, ← zpow_neg, eq_div_iff (by positivity), ← zpow_natCast _ j,
    ← zpow_add₀ two_ne_zero]
  congr 1
  push_cast
  ring

/-- The root lies at the integer root's place of the grid, or strictly between it and the next. -/
theorem root_between (n k : Nat) :
    let r := isqrt (n * 2 ^ k * 4 ^ (256 + k))
    (r * r = n * 2 ^ k * 4 ^ (256 + k) → Real.sqrt (n / 2 ^ k) = r * 2 ^ (-(2 * k + 256 : ℤ))) ∧
      (r * r ≠ n * 2 ^ k * 4 ^ (256 + k) → (r : ℝ) * 2 ^ (-(2 * k + 256 : ℤ)) < Real.sqrt (n / 2 ^ k)) ∧
      Real.sqrt (n / 2 ^ k) < (r + 1) * 2 ^ (-(2 * k + 256 : ℤ)) := by
  intro r
  obtain ⟨below, above⟩ := isqrt_spec (n * 2 ^ k * 4 ^ (256 + k))
  have pos : (0 : ℝ) < 2 ^ (-(2 * k + 256 : ℤ)) := by positivity
  rw [sqrt_scaled]
  refine ⟨fun square => ?_, fun other => ?_, ?_⟩
  · rw [← square, Nat.cast_mul, Real.sqrt_mul_self (Nat.cast_nonneg _)]
  · gcongr
    exact Real.lt_sqrt_of_sq_lt (by rw [sq]; exact_mod_cast lt_of_le_of_ne below other)
  · gcongr
    rw [Real.sqrt_lt' (by positivity), sq]
    exact_mod_cast above

theorem le_sqrt_dyadic {n : Nat} (k : Nat) (hn : n ≠ 0) : (2 : ℝ) ^ (-k : ℤ) ≤ Real.sqrt (n / 2 ^ k) := by
  rw [zpow_neg, zpow_natCast]
  refine Real.le_sqrt_of_sq_le ?_
  have one : (1 : ℝ) ≤ n := by exact_mod_cast Nat.one_le_iff_ne_zero.2 hn
  calc ((2 : ℝ) ^ k)⁻¹ ^ 2 ≤ ((2 : ℝ) ^ k)⁻¹ ^ 1 :=
        pow_le_pow_of_le_one (by positivity) (inv_le_one_of_one_le₀ (one_le_pow₀ one_le_two)) one_le_two
    _ ≤ n * ((2 : ℝ) ^ k)⁻¹ := by rw [pow_one]; exact le_mul_of_one_le_left (by positivity) one
    _ = n / 2 ^ k := (div_eq_mul_inv _ _).symm

/-- The square root of a dyadic value, encoded as the exact root is (R151). -/
theorem sqrt_encoded {t : Tag} (ft : t.isFloat = true) (m : Rnd) (s : Bool) {n : Nat} (k : Nat) (hn : n ≠ 0) :
    ∃ a b, sqrtQuot n (2 ^ k) = .fin false a b ∧ FloatEncoded t m s false (Real.sqrt (n / 2 ^ k)) (floatEncode t m s (.fin false a b)) := by
  obtain ⟨exactly, low, high⟩ := root_between n k
  unfold sqrtQuot
  rw [Nat.log2_two_pow]
  dsimp only at exactly low high ⊢
  generalize isqrt (n * 2 ^ k * 4 ^ (256 + k)) = r at exactly low high ⊢
  by_cases square : r * r = n * 2 ^ k * 4 ^ (256 + k)
  · rw [if_pos square]
    refine ⟨_, _, rfl, ?_⟩
    have value : Real.sqrt (n / 2 ^ k) = (r : ℝ) / (2 ^ k * 2 ^ (256 + k) : ℕ) := by
      have unit := root_unit k 0
      rw [pow_zero, div_one, Nat.add_zero] at unit
      rw [exactly square, div_eq_mul_one_div (r : ℝ), unit]
    rw [value]
    exact floatEncoded ft m s false r (by positivity)
  · rw [if_neg square]
    refine ⟨_, _, rfl, ?_⟩
    have pos : (0 : ℝ) < 2 ^ (-(2 * k + 256 : ℤ)) := by positivity
    have value : ((2 * r + 1 : ℕ) : ℝ) / (2 ^ k * 2 ^ (256 + k + 1) : ℕ) = (r + 1 / 2) * 2 ^ (-(2 * k + 256 : ℤ)) := by
      rw [div_eq_mul_one_div, root_unit k 1]
      push_cast
      ring
    have alike : Alike (-(2 * k + 256 : ℤ)) (((2 * r + 1 : ℕ) : ℝ) / (2 ^ k * 2 ^ (256 + k + 1) : ℕ)) (Real.sqrt (n / 2 ^ k)) := by
      rw [value]
      exact alike_of_between (r := r) (by gcongr; linarith) (by gcongr; linarith) (low square) high
    have least := (alike.le_iff 1 (q := -k) (by omega)).2 (by rw [Nat.cast_one, one_mul]; exact le_sqrt_dyadic k hn)
    rw [Nat.cast_one, one_mul] at least
    refine FloatEncoded.alike alike (Real.sqrt_nonneg _) (fun e small => ?_) (floatEncoded ft m s false _ (by positivity))
    have := (zpow_lt_zpow_iff_right₀ (one_lt_two (α := ℝ))).1 (least.trans_lt small)
    have := t.frac_le
    omega

end Sys2Proof
end

section
/-! Encode and decode by the kind of the tag, and the arithmetic behind the float results (R33, R55 to R57, R63, R151, R152). -/

namespace Sys2Proof

theorem Tag.kind_float {t : Tag} (ft : t.isFloat = true) : t.isInt = false ∧ t.isTapered = false := by
  revert ft
  cases t <;> decide

theorem Tag.kind_int {t : Tag} (it : t.isInt = true) : t.isFloat = false ∧ t.isTapered = false := by
  revert it
  cases t <;> decide

theorem Tag.kind_tapered {t : Tag} (tap : t.isTapered = true) : t.isInt = false ∧ t.isFloat = false := by
  revert tap
  cases t <;> decide

/-- Encode of a value that is no NaN goes by the kind of the tag (R33). -/
theorem encodeNum_of_not_nan {x : Num} (h : x.isNan = false) (t : Tag) (m : Rnd) (s : Bool) (b : Int) :
    encodeNum t m s b x = if t.isInt then intEncode t m s x else if t.isTapered then tapEncode t m b x else floatEncode t m s x := by
  cases x with
  | nan => exact nomatch h
  | _ => rfl

theorem encodeNum_float {t : Tag} (ft : t.isFloat = true) {x : Num} (h : x.isNan = false) (m : Rnd) (s : Bool) (b : Int) :
    encodeNum t m s b x = floatEncode t m s x := by
  obtain ⟨notInt, notTapered⟩ := Tag.kind_float ft
  simp [encodeNum_of_not_nan h, notInt, notTapered]

theorem encodeNum_int {t : Tag} (it : t.isInt = true) {x : Num} (h : x.isNan = false) (m : Rnd) (s : Bool) (b : Int) :
    encodeNum t m s b x = intEncode t m s x := by
  simp [encodeNum_of_not_nan h, it]

theorem encodeNum_tapered {t : Tag} (tap : t.isTapered = true) {x : Num} (h : x.isNan = false) (m : Rnd) (s : Bool) (b : Int) :
    encodeNum t m s b x = tapEncode t m b x := by
  simp [encodeNum_of_not_nan h, (Tag.kind_tapered tap).1, tap]

/-- The magnitude of a finite value, as a real number. -/
theorem abs_cast_withSign (s : Bool) (n d : Nat) : |((withSign s ((n : ℚ) / d) : ℚ) : ℝ)| = n / d := by
  have : |withSign s ((n : ℚ) / d)| = n / d := abs_withSign s (by positivity)
  rw [← Rat.cast_abs, this]
  push_cast
  rfl

/-- Encode of a finite value into every kind of tag (R33, R54, R61). -/
theorem encodeNum_finite (t : Tag) (m : Rnd) (s : Bool) (b : Int) {x : Num} {q : ℚ} (hx : exactValue x = some q) :
    let r := encodeNum t m s b x
    (t.isFloat = true → FloatEncoded t m s x.sign |(q : ℝ)| r) ∧ (t.isInt = true → IntEncoded t m s x.sign |(q : ℝ)| r) ∧
      (t.isTapered = true → TaperedEncoded t m x.sign (|(q : ℝ)| / (2 : ℝ) ^ b) r) := by
  obtain ⟨neg, n, d, rfl, hd, rfl⟩ := exactValue_eq_some hx
  have pos := Nat.pos_of_ne_zero hd
  rw [abs_cast_withSign]
  refine ⟨fun ft => ?_, fun it => ?_, fun tap => ?_⟩
  · rw [encodeNum_float ft rfl]
    exact floatEncoded ft m s neg n pos
  · rw [encodeNum_int it rfl]
    exact intEncoded t m s neg n pos
  · rw [encodeNum_tapered tap rfl]
    exact taperedEncoded tap m b neg n pos

/-- NaN and the infinities in a binary float (R33, R56). -/
theorem encodeNum_float_special {t : Tag} (ft : t.isFloat = true) (m : Rnd) (s : Bool) (b : Int) (neg signalling : Bool) :
    let top := (2 ^ t.ebits - 1) * 2 ^ t.frac
    encodeNum t m s b (.nan signalling) = ⟨top + 2 ^ (t.frac - 1), if signalling then .nv else 0⟩ ∧
      encodeNum t m s b (.inf neg) = if s then ⟨signedCode t neg (top - 1), .sat⟩ else ⟨signedCode t neg top, 0⟩ := by
  intro top
  obtain ⟨notInt, notTapered⟩ := Tag.kind_float ft
  obtain ⟨c, k, finite, -, -⟩ := maxFinite_eq t
  refine ⟨?_, ?_⟩
  · simp [encodeNum, notInt, notTapered, floatCode, Num.qnan, Flags.when, top]
  · have beyond : (maxFinite t).lt (.inf false) = true := by rw [finite]; rfl
    have saturated := floatCode_overflow ft .rtz neg
    rw [if_neg (by simp)] at saturated
    have infinite : floatCode t (.inf neg) = signedCode t neg top := by
      cases neg <;> simp [floatCode, Num.sign, signedCode, top]
    rw [encodeNum_float ft rfl, floatEncode]
    refine (if_pos beyond).trans ?_
    dsimp only [roundFloat, Num.sign]
    rw [saturated, infinite]
    simp [Flags.when, top]

/-- NaN and the infinities in an integer tag (R33). -/
theorem encodeNum_int_special {t : Tag} (it : t.isInt = true) (m : Rnd) (s : Bool) (b : Int) (neg signalling : Bool) :
    encodeNum t m s b (.nan signalling) = ⟨0, .nv⟩ ∧ encodeNum t m s b (.inf neg) =
      if s then ⟨((if neg then intMin t else intMax t) % 2 ^ t.bits).toNat, .sat⟩ else ⟨0, .nv⟩ := by
  refine ⟨?_, ?_⟩
  · cases signalling <;> simp [encodeNum, it, Flags.when]
  · rw [encodeNum_int it rfl, intEncode, intCode]
    push_cast
    rfl

/-- NaN and the infinities in a tapered tag (R33, R57). -/
theorem encodeNum_tapered_special {t : Tag} (tap : t.isTapered = true) (m : Rnd) (s : Bool) (b : Int) (neg signalling : Bool) :
    encodeNum t m s b (.nan signalling) = ⟨2 ^ (t.memBits - 1), if signalling then .nv ||| .rsv else .rsv⟩ ∧
      encodeNum t m s b (.inf neg) =
        ⟨if neg then 2 ^ (t.memBits - 1) + (2 ^ (t.memBits - 1) - 1) else 2 ^ (t.memBits - 1) - 1, .sat⟩ := by
  have pos := Nat.two_pow_pos (magBits t)
  rw [memBits_sub_one tap]
  refine ⟨?_, ?_⟩
  · rw [encodeNum, (Tag.kind_tapered tap).1, tap, reservedCode, tapBits_sub_one tap]
    cases signalling <;> rfl
  · obtain ⟨a, c, top, -, -⟩ := tapMag_fin tap (g := 2 ^ magBits t - 1) (by omega)
    have beyond : (tapMag (magBits t) (2 ^ magBits t - 1)).lt (.inf false) = true := by rw [top]; rfl
    rw [encodeNum_tapered tap rfl, tapEncode, tapBits_sub_one tap]
    dsimp only [Num.scale, Num.abs, Num.sign]
    refine (if_pos beyond).trans ?_
    cases neg <;> simp

/-- The fields of a tapered code. -/
theorem tapered_fields {t : Tag} (neg : Bool) {c : Nat} (hc : c < 2 ^ magBits t) :
    (if neg then 2 ^ magBits t + c else c) % 2 ^ magBits t = c ∧ ((if neg then 2 ^ magBits t + c else c) / 2 ^ magBits t % 2 == 1) = neg := by
  have pos := Nat.two_pow_pos (magBits t)
  cases neg <;> simp [Nat.mod_eq_of_lt hc, Nat.add_div_left _ pos, Nat.div_eq_of_lt hc]

/-- The code without magnitude is +0, and with the sign bit it is reserved (R57). -/
theorem decodeNum_tapered_zero {t : Tag} (tap : t.isTapered = true) (b : Int) (neg : Bool) :
    decodeNum t b (if neg then 2 ^ magBits t + 0 else 0) = if neg then none else some .zero := by
  obtain ⟨notInt, notFloat⟩ := Tag.kind_tapered tap
  obtain ⟨magnitude, sign⟩ := tapered_fields (t := t) neg (Nat.two_pow_pos _)
  simp only [decodeNum, notInt, notFloat, tapBits_sub_one tap, magnitude, sign, Bool.false_eq_true, if_false, if_true]

/-- Another code is the magnitude of its table, scaled, with its sign (R57). -/
theorem decodeNum_tapered_fin {t : Tag} (tap : t.isTapered = true) (b : Int) (neg : Bool) {c a d : Nat} (hc : c < 2 ^ magBits t) (nonzero : c ≠ 0)
    (scaled : (tapMag (magBits t) c).scale b = .fin false a d) :
    decodeNum t b (if neg then 2 ^ magBits t + c else c) = some (.fin neg a d) := by
  obtain ⟨notInt, notFloat⟩ := Tag.kind_tapered tap
  obtain ⟨magnitude, sign⟩ := tapered_fields neg hc
  simp only [decodeNum, notInt, notFloat, tapBits_sub_one tap, magnitude, sign, scaled, if_neg nonzero, Bool.false_eq_true, if_false]

theorem decodeNum_tapered_value {t : Tag} (tap : t.isTapered = true) (b : Int) (neg : Bool) {c : Nat} (hc : c < 2 ^ magBits t)
    (valid : c ≠ 0 ∨ neg = false) : ∃ x, decodeNum t b (if neg then 2 ^ magBits t + c else c) = some x ∧
      exactValue x = some (withSign neg (taperedValue t c * (2 : ℚ) ^ b)) := by
  by_cases zero : c = 0
  · subst zero
    obtain rfl : neg = false := valid.resolve_left (not_not.2 rfl)
    refine ⟨.zero, decodeNum_tapered_zero tap b false, ?_⟩
    rw [taperedValue_zero, zero_mul]
    rfl
  · obtain ⟨n, k, mag, hk, value⟩ := tapMag_fin tap hc
    obtain ⟨a, d, scaled, hd, product⟩ := Num.scale_fin b false n hk
    refine ⟨_, decodeNum_tapered_fin tap b neg hc zero (mag ▸ scaled), ?_⟩
    rw [exactValue_fin _ _ hd.ne']
    congr 2
    have : ((a / d : ℚ) : ℝ) = ((taperedValue t c * (2 : ℚ) ^ b : ℚ) : ℝ) := by
      rw [value]
      push_cast
      exact product
    exact_mod_cast this

/-- A code of a binary float: an infinity or a NaN under the top exponent, else its value (R55, R56). -/
theorem floatValue_spec {t : Tag} (ft : t.isFloat = true) (neg : Bool) {c : Nat} (hc : c < 2 ^ (t.bits - 1)) :
    let e := c / 2 ^ t.frac
    let f := c % 2 ^ t.frac
    let x := floatValue t (if neg then 2 ^ (t.bits - 1) + c else c)
    (e = 2 ^ t.ebits - 1 → x = if f = 0 then .inf neg else .nan (decide (f < 2 ^ (t.frac - 1)))) ∧
      (e ≠ 2 ^ t.ebits - 1 → exactValue x = some (withSign neg
        ((if e = 0 then (f : ℚ) else 2 ^ t.frac + f) * (2 : ℚ) ^ ((max e 1 : Nat) - t.ebias - t.frac : Int)))) :=
  ⟨fun top => (floatValue_signedCode ft neg hc).trans (if_pos top), fun finite => exactValue_floatValue ft neg hc finite⟩

/-- The square root of a dyadic value (R151). -/
theorem sqrtNum_encoded {t : Tag} (ft : t.isFloat = true) (m : Rnd) (s : Bool) (n k : Nat) :
    let r := sqrtNum (.fin false n (2 ^ k))
    r.flags = 0 ∧ FloatEncoded t m s false (Real.sqrt (n / 2 ^ k)) (encodeNum t m s 0 r.val) := by
  by_cases hn : n = 0
  · subst hn
    refine ⟨by simp [sqrtNum, Fl.pure], ?_⟩
    have value : Real.sqrt ((0 : ℕ) / 2 ^ k) = ((0 : ℕ) : ℝ) / (2 ^ k : ℕ) := by simp
    show FloatEncoded t m s false _ (encodeNum t m s 0 (.fin false 0 (2 ^ k)))
    rw [encodeNum_float ft rfl, value]
    exact floatEncoded ft m s false 0 (Nat.two_pow_pos k)
  · obtain ⟨a, b, quot, encoded⟩ := sqrt_encoded ft m s k hn
    have root : sqrtNum (.fin false n (2 ^ k)) = ⟨.fin false a b, 0⟩ := by simp [sqrtNum, hn, quot, Fl.pure]
    rw [root]
    refine ⟨rfl, ?_⟩
    show FloatEncoded t m s false _ (encodeNum t m s 0 (.fin false a b))
    rw [encodeNum_float ft rfl]
    exact encoded

/-- The square root of the values that have none, of zeros and of infinities (R151). -/
theorem sqrtNum_special (n d : Nat) : sqrtNum (.inf true) = ⟨.qnan, .nv⟩ ∧ sqrtNum (.inf false) = ⟨.inf false, 0⟩ ∧
    sqrtNum (.fin true 0 d) = ⟨.fin true 0 d, 0⟩ ∧ (n ≠ 0 → sqrtNum (.fin true n d) = ⟨.qnan, .nv⟩) :=
  ⟨rfl, rfl, rfl, fun h => by simp [sqrtNum, h]⟩

/-- A quotient rounded by each mode, and whether it was exact (R63). -/
theorem roundQuot_spec {d : Nat} (n : Nat) (neg : Bool) (hd : 0 < d) :
    (let q := (roundQuot .rtz neg n d).1;
      q * d ≤ n ∧ n < (q + 1) * d) ∧
    (let q := (roundQuot .rdn neg n d).1;
      if neg then n ≤ q * d ∧ q * d < n + d else q * d ≤ n ∧ n < (q + 1) * d) ∧
    (let q := (roundQuot .rup neg n d).1;
      if neg then q * d ≤ n ∧ n < (q + 1) * d else n ≤ q * d ∧ q * d < n + d) := by
  refine ⟨roundQuot_down hd rfl, ?_, ?_⟩
  · cases neg with
    | true => exact roundQuot_up hd rfl
    | false => exact roundQuot_down hd rfl
  · cases neg with
    | true => exact roundQuot_down hd rfl
    | false => exact roundQuot_up hd rfl

/-- A conversion to an integer of 64 bits, from every kind of value (R152). -/
theorem floatToInt_spec (t : Tag) (m : Rnd) (x : Num) :
    let r := Machine.floatToInt t m x
    (∀ sig, x = .nan sig → r = ⟨0, .nv⟩) ∧
      (∀ neg, x = .inf neg → r = ⟨BitVec.ofInt 64 (if neg then intMin t else intMax t), .nv⟩) ∧
      ∀ q, exactValue x = some q → ∃ n : Nat, RoundsTo m x.sign |(q : ℝ)| n ∧
        let z : Int := if x.sign then -n else n
        (z < intMin t → r = ⟨BitVec.ofInt 64 (intMin t), .nv⟩) ∧ (intMax t < z → r = ⟨BitVec.ofInt 64 (intMax t), .nv⟩) ∧
          (intMin t ≤ z → z ≤ intMax t → r.val = BitVec.ofInt 64 z ∧ ((n : ℝ) = |(q : ℝ)| → r.flags = 0) ∧
            ((n : ℝ) ≠ |(q : ℝ)| → r.flags = .nx)) := by
  refine ⟨?_, ?_, fun q hq => ?_⟩
  · rintro sig rfl
    rfl
  · rintro neg rfl
    rfl
  · obtain ⟨neg, n, d, rfl, hd, rfl⟩ := exactValue_eq_some hq
    rw [abs_cast_withSign]
    exact floatToInt_fin t m neg n (Nat.pos_of_ne_zero hd)

/-- Settles O14: sums, products and quotients are exact, and each rounding, encoding and decoding is the one its rule names. -/
theorem exactThenRounded : Obligations.ExactThenRounded := by
  unfold Obligations.ExactThenRounded
  refine ⟨fun m x y z p q r hx hy hz => ⟨addNum_exact m hx hy, mulNum_exact hx hy, divNum_exact hx hy, fmaNum_exact m hx hy hz⟩,
    fun n d neg hd => ?_, fun t m s b x q hx => encodeNum_finite t m s b hx, fun t m s b neg signalling => ?_, fun t b c neg => ?_,
    fun t m s n k ft => sqrtNum_encoded ft m s n k, sqrtNum_special, fun u m x => ?_⟩
  · obtain ⟨zero, down, up⟩ := roundQuot_spec n neg hd
    exact ⟨roundQuot_nearest neg hd, zero, down, up, fun m => roundQuot_snd m neg n d⟩
  · refine ⟨fun ft => ?_, fun it => encodeNum_int_special it m s b neg signalling, fun tap => encodeNum_tapered_special tap m s b neg signalling⟩
    rw [Tag.memBits_float ft]
    exact encodeNum_float_special ft m s b neg signalling
  · refine ⟨fun ft hc => floatValue_spec ft neg hc, fun tap hc => ?_⟩
    rw [memBits_sub_one tap] at hc ⊢
    refine ⟨fun zero negative => ?_, fun valid => decodeNum_tapered_value tap b neg hc valid⟩
    exact decodeNum_tapered_zero tap b true
  · have spec := floatToInt_spec (if u then .u64 else .i64) m x
    have least : intMin (if u then .u64 else .i64) = if u then 0 else -2 ^ 63 := by cases u <;> rfl
    have most : intMax (if u then .u64 else .i64) = if u then 2 ^ 64 - 1 else 2 ^ 63 - 1 := by cases u <;> rfl
    rw [least, most] at spec
    exact spec

end Sys2Proof
end

section
/-! Shape, tags, strips, the length queue and memory formats (R45, R128, R163 to R166). -/

namespace Sys2Proof.Machine

theorem switched_refl (s : State) : Switched s s := by
  refine ⟨rfl, fun j => ?_⟩
  cases s.hart j <;> rfl

/-- Passing issue to a partner changes no hart but for its stall (R128). -/
theorem switched_of_issuePassed {v t : State} {k : Nat} {h : Hart} (passed : IssuePassed v k h t) : Switched v t := by
  obtain ⟨goes, stays⟩ := passed
  by_cases partner : ∃ j x, h.convoy = 0 ∧ v.partner k h = some (j, x) ∧ x.live = true
  · obtain ⟨j, x, passes⟩ := partner
    obtain ⟨-, frame, harts⟩ := goes j x passes
    refine ⟨frame, fun m => ?_⟩
    rw [harts m]
    split
    · next same =>
      rw [same]
      cases v.hart j <;> rfl
    · cases v.hart m <;> rfl
  · rw [stays fun j x passes => partner ⟨j, x, passes⟩]
    exact switched_refl v

theorem State.pairSwitch_switched (s : State) (k : Nat) : Switched s (s.pairSwitch k) := by
  cases hk : s.hart k with
  | none =>
    unfold State.pairSwitch
    rw [hk]
    exact switched_refl s
  | some h => exact switched_of_issuePassed (State.pairSwitch_spec hk)

theorem State.pairSwitch_cur (s : State) (k : Nat) : (s.pairSwitch k).cur = s.cur := by
  rw [(s.pairSwitch_switched k).1]

/-- The tags that carry no level (R33). -/
theorem tagCodeCarries_eq_false_iff {t : Nat} (h : t < 14) : tagCodeCarries t = false ↔ t ∈ [1, 3, 5, 6, 7, 11] := by
  unfold tagCodeCarries
  simp only [h, decide_true, Bool.and_true, Bool.not_eq_false', List.contains_iff_mem]

/-- The memory formats that `mfmt` refuses, in the words of R45. -/
theorem badFormat_iff (v : Word) : badFormat v = true ↔ formatRefused v := by
  unfold badFormat formatRefused
  have small : v.toNat % 16 < 16 := Nat.mod_lt _ (by omega)
  have carries := @tagCodeCarries_eq_false_iff (v.toNat % 16)
  generalize v.toNat % 16 = fmt at *
  by_cases high : 14 ≤ fmt
  · have : fmt = 14 ∨ fmt = 15 := by omega
    rcases this with rfl | rfl <;> simp
  · have : ¬fmt = 14 ∧ ¬fmt = 15 := by omega
    have low := carries (by omega)
    simp only [Bool.or_eq_true, Bool.and_eq_true, beq_iff_eq, bne_iff_ne, Bool.not_eq_true', low, this, high, false_or]
    rfl

section

variable {s : State} {h : Hart} {o : Cm}

/-- A tag is written to one vector register alone (R166). -/
theorem vtype_spec {vd : Reg} {tag : BitVec 4} {dom : BitVec 3} {x : Tag} (hi : Issues s h (.vtype vd tag dom o))
    (hx : Tag.ofCode tag.toNat = some x) : ∃ t y, exec (.vtype vd tag dom o) s = .next t ∧
      Completes (.vtype vd tag dom o) s { h with arch := { h.arch with vtag := y } } t ∧ Store.get .zero y vd.toNat = ⟨x, dom⟩ ∧
      ∀ r, r ≠ vd.toNat → Store.get .zero y r = Store.get .zero h.arch.vtag r := by
  refine ⟨_, _, rfl, State.compute_spec hi _, ?_, fun r other => Store.get_set_other _ _ _ other⟩
  rw [Store.get_set_same, hx, BitVec.ofNat_toNat, BitVec.setWidth_eq]
  rfl

/-- The length of a strip: what is left, the register's elements and the cap, where one is given (R163). -/
theorem stripLength_capped (left vmax : Nat) (b : Reg) (v : Word) :
    stripLength left vmax (if b = 0 then none else some v.toNat) = min (min left vmax) (if b = 0 then left else v.toNat) := by
  unfold stripLength
  split <;> rfl

/-- A strip of k elements writes d and vl, and leaves the queue without the count that it took (R163). -/
theorem setReg_with_lq (a : Arch) (d : Reg) (k : Nat) (rest : List (BitVec 32)) :
    { { a with lq := rest }.setReg d (BitVec.ofNat 64 k) with vl := BitVec.ofNat 32 k } =
      { a.setReg d (BitVec.ofNat 64 k) with vl := BitVec.ofNat 32 k, lq := rest } := by
  unfold Arch.setReg
  split <;> rfl

theorem vstrip_spec {d a b : Reg} {lq : Bool} {ew : BitVec 2} {rem : BitVec 32} {rest : List (BitVec 32)}
    (hi : Issues s h (.vstrip d a b lq ew o)) (source : if lq then h.arch.lq = rem :: rest else rest = h.arch.lq) :
    let left := if lq then rem.toNat else (h.reg a).toNat
    let cap := if b = 0 then left else (h.reg b).toNat
    let k := min (min left (s.regBytes h / 2 ^ ew.toNat)) cap
    ∃ t u, exec (.vstrip d a b lq ew o) s = .next t ∧ Switched s u ∧ Completes (.vstrip d a b lq ew o) u
      { h with arch := { h.arch.setReg d (BitVec.ofNat 64 k) with vl := BitVec.ofNat 32 k, lq := rest } } t := by
  intro left cap k
  have length : stripLength left (s.regBytes h / 2 ^ ew.toNat) (if b = 0 then none else some (h.reg b).toNat) = k :=
    stripLength_capped _ _ _ _
  refine ⟨_, s.pairSwitch s.cur, rfl, s.pairSwitch_switched _, State.run_done hi ?_ (s.pairSwitch_cur _)⟩
  rw [← setReg_with_lq, ← length]
  cases lq with
  | true =>
    simp only [if_true] at source
    simp only [if_true]
    rw [source]
    rfl
  | false =>
    obtain rfl : rest = h.arch.lq := source
    rfl

/-- `vstrip` finds an empty length queue (R163). -/
theorem vstrip_empty {d a b : Reg} {ew : BitVec 2} (hi : Issues s h (.vstrip d a b true ew o)) (empty : h.arch.lq = [])
    (plain : PlainHart h) (handled : Handled s h) : Traps (.vstrip d a b true ew o) s h (plainCause 7 0) :=
  State.run_traps hi rfl (by simp only [if_true]; rw [empty]; rfl) plain handled

/-- The active elements below n are counted by the bits of their mask (R164). -/
theorem countP_maskOn_of_active (a : Arch) (m : BitVec 4) (n : Nat) :
    ((List.range n).filter (bitOf (a.active m n))).length = (List.range n).countP fun i => maskOn a m i := by
  rw [← List.countP_eq_length_filter]
  refine List.countP_congr fun i hi => ?_
  rw [Arch.bitOf_active, decide_eq_true (List.mem_range.1 hi), Bool.true_and]

theorem vpopq_spec {m : BitVec 4} (hi : Issues s h (.vpopq m o)) (room : h.arch.lq.length < 8) :
    ∃ t, exec (.vpopq m o) s = .next t ∧ Completes (.vpopq m o) s { h with arch := { h.arch with
      lq := h.arch.lq ++ [BitVec.ofNat 32 ((List.range h.arch.vl.toNat).countP fun i => maskOn h.arch m i)] } } t := by
  refine ⟨_, rfl, State.run_done hi ?_⟩
  rw [← countP_maskOn_of_active]
  exact if_neg room.ne

theorem mfmt_spec {n : BitVec 2} {a : Reg} (hi : Issues s h (.mfmt n a o)) (good : ¬formatRefused (h.reg a)) :
    ∃ t x, exec (.mfmt n a o) s = .next t ∧ Completes (.mfmt n a o) s { h with arch := { h.arch with mf := x } } t ∧
      Store.get 0 x n.toNat = h.reg a ∧ ∀ j, j ≠ n.toNat → Store.get 0 x j = Store.get 0 h.arch.mf j := by
  rw [← badFormat_iff] at good
  exact ⟨_, _, rfl, State.run_done hi (if_neg good), Store.get_set_same _ _ _ _, fun j other => Store.get_set_other _ _ _ other⟩

end

/-- Settles O27: the effect and the trap of each instruction in turn. -/
theorem stripInstructions : Obligations.StripInstructions := by
  unfold Obligations.StripInstructions
  intro s h n ew mn vd d a b tag m dom lq o
  refine ⟨fun hi landed => ⟨_, rfl, State.run_done hi (if_neg (by simp [landed]))⟩, fun x => vtype_spec, fun rem rest => vstrip_spec,
    vstrip_empty, vpopq_spec, fun hi full => ?_, mfmt_spec, fun hi bad => ?_⟩
  · exact State.run_traps hi rfl (if_pos full)
  · exact State.run_traps hi rfl (if_pos ((badFormat_iff _).2 bad))

end Sys2Proof.Machine
end

section
/-! The mask instructions: active bits of md, the scalar result, and `mftm` (R40, R41, R167, Table 12.1). -/

namespace Sys2Proof.Machine

theorem Arch.testBit_maskActive (a : Arch) (f : VK) (i : Nat) : (a.maskActive f).testBit i = activeAt a f.mask i := by
  rw [← bitOf_eq_testBit]
  exact a.bitOf_active f.mask _ i

theorem Arch.testBit_maskBelow (a : Arch) (m : BitVec 4) (i : Nat) : (a.maskBelow m).testBit i = activeAt a m i := by
  rw [← bitOf_eq_testBit]
  exact a.bitOf_active m _ i

theorem activeAt_eq {m : BitVec 4} {i : Nat} (below : i < a.vl.toNat) : activeAt a m i = maskOn a m i := by
  unfold activeAt
  rw [decide_eq_true below, Bool.true_and]

theorem lt_vl_of_activeAt {m : BitVec 4} {i : Nat} (active : activeAt a m i = true) : i < a.vl.toNat :=
  of_decide_eq_true (Bool.and_eq_true_iff.1 active).1

/-- The active elements whose bit of ma is 1. -/
theorem Arch.bitOf_marked (a : Arch) (f : VK) :
    bitOf (a.maskActive f &&& a.maskBelow f.ma) = fun i => activeAt a f.mask i && maskOn a f.ma i := by
  funext i
  rw [bitOf_eq_testBit, Nat.testBit_and, a.testBit_maskActive, a.testBit_maskBelow]
  by_cases below : i < a.vl.toNat
  · rw [activeAt_eq (m := f.ma) below]
  · simp [activeAt, below]

theorem Arch.firstOf_eq (a : Arch) (f : VK) : a.firstOf f = firstActive a f := by
  unfold Arch.firstOf lowBit firstActive
  rw [a.bitOf_marked]

theorem firstActive_le (a : Arch) (f : VK) : firstActive a f ≤ a.vl.toNat := by
  rw [← a.firstOf_eq]
  unfold Arch.firstOf
  cases low : lowBit (a.maskActive f &&& a.maskBelow f.ma) a.vl.toNat with
  | none => exact le_rfl
  | some i => exact (lowBit_eq_some low).1.le

/-- There is no first element where no active element has its bit of ma 1. -/
theorem firstActive_eq_vl_iff (a : Arch) (f : VK) : firstActive a f = a.vl.toNat ↔ a.maskActive f &&& a.maskBelow f.ma = 0 := by
  rw [← a.firstOf_eq]
  unfold Arch.firstOf
  cases low : lowBit (a.maskActive f &&& a.maskBelow f.ma) a.vl.toNat with
  | none =>
    refine iff_of_true rfl (Nat.eq_of_testBit_eq fun i => ?_)
    rw [Nat.zero_testBit]
    by_cases below : i < a.vl.toNat
    · rw [← bitOf_eq_testBit]
      exact (lowBit_eq_none_iff _ _).1 low i below
    · rw [Nat.testBit_and, a.testBit_maskActive]
      simp [activeAt, below]
  | some i =>
    obtain ⟨below, set⟩ := lowBit_eq_some low
    refine iff_of_false below.ne fun zero => ?_
    rw [zero, bitOf_eq_testBit, Nat.zero_testBit] at set
    cases set

/-- The number made of a list of bits. -/
theorem testBit_bitsOf (l : List Bool) (i : Nat) : (bitsOf l).testBit i = l.getD i false := by
  induction l generalizing i with
  | nil => simp [bitsOf]
  | cons b t ih =>
    have double : bitsOf (b :: t) = 2 * bitsOf t + b.toNat := Nat.add_comm _ _
    cases i with
    | zero => cases b <;> simp [double, Nat.testBit_zero]
    | succ i =>
      have half : bitsOf (b :: t) / 2 = bitsOf t := by
        have := Bool.toNat_lt b
        omega
      rw [Nat.testBit_succ, half, ih, List.getD_cons_succ]

/-- A mask slid by some places (Table 12.1). -/
theorem testBit_slideMask (a : Arch) (m : BitVec 4) (k : Int) (fill : Bool) {i : Nat} (below : i < a.vl.toNat) :
    (slideMask (a.maskBelow m) a.vl.toNat k fill).testBit i =
      if 0 ≤ (i : Int) - k ∧ (i : Int) - k < a.vl.toNat then maskOn a m ((i : Int) - k).toNat else fill := by
  unfold slideMask
  rw [testBit_bitsOf, List.getD_eq_getElem?_getD, List.getElem?_map, List.getElem?_range below]
  dsimp only [Option.map_some, Option.getD_some]
  simp only [Bool.and_eq_true, decide_eq_true_eq]
  split
  · next inside =>
    rw [bitOf_eq_testBit, a.testBit_maskBelow, activeAt_eq (by omega)]
  · rfl

/-- b is a after a mask instruction: active bits of md take those of p, ss takes the scalar result, and nothing else changes (R167). -/
def MaskLeaves (f : VK) (val : Option (Nat → Bool)) (sc : Option Word) (a b : Arch) : Prop :=
  b = { a with m := b.m, s := b.s } ∧
  (∀ w, sc = some w → b.s = (a.setReg f.ss w).s) ∧ (sc = none → b.s = a.s) ∧ (val = none → b.m = a.m) ∧
  ∀ p, val = some p → (∀ n, n ≠ f.md.toNat → Store.get 0 b.m n = Store.get 0 a.m n) ∧
    ∀ j, (Store.get 0 b.m f.md.toNat).testBit j =
      if activeAt a f.mask j then p j else (Store.get 0 a.m f.md.toNat).testBit j

/-- An instruction that only writes its scalar result. -/
theorem maskLeaves_setReg (a : Arch) (f : VK) (w : Word) : MaskLeaves f none (some w) a (a.setReg f.ss w) := by
  refine ⟨?_, fun v e => ?_, nofun, fun _ => Arch.setReg_m _ _ _, nofun⟩
  · unfold Arch.setReg
    split <;> rfl
  · rw [Option.some.inj e]

/-- Active bits of md take those of a number; the others stay (R40). -/
theorem maskLeaves_maskOp {a : Arch} {f : VK} {val : Nat} {p : Nat → Bool} (agree : ∀ j, activeAt a f.mask j = true → val.testBit j = p j) :
    MaskLeaves f (some p) none a (a.maskOp f val) := by
  refine ⟨rfl, nofun, fun _ => rfl, nofun, fun q e => ⟨fun n other => Store.get_set_other _ _ _ other, fun j => ?_⟩⟩
  rw [← Option.some.inj e, show Store.get 0 (a.maskOp f val).m f.md.toNat = _ from Store.get_set_same _ _ _ _]
  rw [Nat.testBit_or, Nat.testBit_xor, Nat.testBit_and, Nat.testBit_and, a.testBit_maskActive]
  cases active : activeAt a f.mask j with
  | true => simp [agree j active]
  | false => simp

/-- A mask instruction with a scalar result writes both. -/
theorem maskLeaves_maskOp_setReg {a : Arch} {f : VK} {val : Nat} {p : Nat → Bool} (w : Word)
    (agree : ∀ j, activeAt a f.mask j = true → val.testBit j = p j) :
    MaskLeaves f (some p) (some w) a ((a.maskOp f val).setReg f.ss w) := by
  obtain ⟨-, -, -, -, bits⟩ := maskLeaves_maskOp agree
  obtain ⟨frame, scalar, -, mask, -⟩ := maskLeaves_setReg (a.maskOp f val) f w
  refine ⟨frame.trans rfl, fun v e => ?_, nofun, nofun, ?_⟩
  · rw [← Option.some.inj e]
    unfold Arch.setReg
    split <;> rfl
  · rw [mask rfl]
    exact bits

/-- Each mask instruction gives its active elements the bits of Table 12.1, and its scalar result. -/
theorem mask_spec {s : State} {h : Hart} {i : Instr} {f : VK} {val : Option (Nat → Bool)} {sc : Option Word} (hi : Issues s h i)
    (result : maskResult h.arch i = some (f, val, sc)) :
    ∃ t b, exec i s = .next t ∧ Completes i s { h with arch := b } t ∧ MaskLeaves f val sc h.arch b := by
  have below {m : BitVec 4} (n : BitVec 4) {j : Nat} (active : activeAt h.arch m j = true) :
      (h.arch.maskBelow n).testBit j = maskOn h.arch n j :=
    (h.arch.testBit_maskBelow n j).trans (activeAt_eq (lt_vl_of_activeAt active))
  cases i with
  | mpre f =>
    cases result
    refine ⟨_, _, rfl, State.compute_spec hi _, ?_⟩
    rw [h.arch.firstOf_eq]
    exact maskLeaves_maskOp_setReg _ fun j _ => Nat.testBit_two_pow_sub_one _ _
  | mthru f =>
    cases result
    refine ⟨_, _, rfl, State.compute_spec hi _, ?_⟩
    rw [h.arch.firstOf_eq]
    refine maskLeaves_maskOp_setReg _ fun j _ => ?_
    rw [Nat.testBit_two_pow_sub_one, decide_eq_decide]
    exact Nat.lt_succ_iff
  | mlatch f =>
    cases result
    refine ⟨_, _, rfl, State.compute_spec hi _, maskLeaves_maskOp fun j active => ?_⟩
    by_cases none : firstActive h.arch f = h.arch.vl.toNat
    · rw [if_pos ((firstActive_eq_vl_iff _ _).1 none), below f.mb active, decide_eq_true none, Bool.true_and]
    · rw [if_neg fun e => none ((firstActive_eq_vl_iff _ _).2 e), Nat.zero_testBit, decide_eq_false none, Bool.false_and]
  | mand f =>
    cases result
    refine ⟨_, _, rfl, State.compute_spec hi _, maskLeaves_maskOp fun j active => ?_⟩
    rw [Nat.testBit_and, below f.ma active, below f.mb active]
  | mor f =>
    cases result
    refine ⟨_, _, rfl, State.compute_spec hi _, maskLeaves_maskOp fun j active => ?_⟩
    rw [Nat.testBit_or, below f.ma active, below f.mb active]
  | mxor f =>
    cases result
    refine ⟨_, _, rfl, State.compute_spec hi _, maskLeaves_maskOp fun j active => ?_⟩
    rw [Nat.testBit_xor, below f.ma active, below f.mb active]
  | mandn f =>
    cases result
    refine ⟨_, _, rfl, State.compute_spec hi _, maskLeaves_maskOp fun j active => ?_⟩
    rw [Nat.testBit_xor, Nat.testBit_and, below f.ma active, below f.mb active]
    cases maskOn h.arch f.ma j <;> simp
  | mslide f =>
    cases result
    exact ⟨_, _, rfl, State.compute_spec hi _, maskLeaves_maskOp fun j active => testBit_slideMask _ _ _ _ (lt_vl_of_activeAt active)⟩
  | mcnt f =>
    cases result
    refine ⟨_, _, rfl, State.compute_spec hi _, ?_⟩
    rw [h.arch.bitOf_marked, ← List.countP_eq_length_filter]
    exact maskLeaves_setReg _ _ _
  | mfirst f =>
    cases result
    refine ⟨_, _, rfl, State.compute_spec hi _, ?_⟩
    simp only [h.arch.firstOf_eq, (firstActive_le h.arch f).lt_iff_ne, ne_eq, ite_not]
    exact maskLeaves_setReg _ _ _
  | _ => cases result

/-- The mask form of ftm has the bits from its first element to the trimmed length (Table 3.8). -/
theorem Arch.testBit_trimMask (a : Arch) (j : Nat) : a.trimMask.testBit j =
    (a.ftm.getLsbD 31 && decide (a.ftm.toNat % 2 ^ 31 ≤ j) && decide (j < a.ftmVl)) := by
  unfold Arch.trimMask
  dsimp only
  generalize a.ftm.toNat % 2 ^ 31 = first
  cases a.ftm.getLsbD 31 with
  | true =>
    rw [if_pos rfl, Nat.mul_comm, Nat.testBit_two_pow_mul, Nat.testBit_two_pow_sub_one, Bool.true_and]
    by_cases reached : first ≤ j
    · have : j - first < a.ftmVl - first ↔ j < a.ftmVl := by omega
      simp [reached, this]
    · simp [reached]
  | false => simp

/-- `mftm` writes every bit of md below register-bytes (Table 12.1). -/
theorem mftm_spec {s : State} {h : Hart} {f : VK} (hi : Issues s h (.mftm f)) : ∃ t b, exec (.mftm f) s = .next t ∧
    Completes (.mftm f) s { h with arch := { h.arch with m := b } } t ∧
    (∀ n, n ≠ f.md.toNat → Store.get 0 b n = Store.get 0 h.arch.m n) ∧
    ∀ j, (Store.get 0 b f.md.toNat).testBit j = (decide (j < s.regBytes h) && h.arch.ftm.getLsbD 31 &&
      decide (h.arch.ftm.toNat % 2 ^ 31 ≤ j) && decide (j < h.arch.ftmVl)) := by
  refine ⟨_, _, rfl, State.vector_ok hi rfl, fun n other => Store.get_set_other _ _ _ other, fun j => ?_⟩
  rw [Store.get_set_same, Nat.testBit_mod_two_pow, h.arch.testBit_trimMask]
  simp only [Bool.and_assoc]

/-- Settles O32: the instructions of Table 12.1 by the bits that each gives its active elements, and `mftm`. -/
theorem maskResults : Obligations.MaskResults := by
  unfold Obligations.MaskResults
  exact fun s h i => ⟨fun f val sc => mask_spec, fun f => mftm_spec⟩

end Sys2Proof.Machine
end

section
/-! Lanes: `vacq`, the grant of a seat to the first in order, and `vrel` (R52, R124, R125, R127). -/

namespace Sys2Proof.Machine

theorem Arch.killVector_eq (a : Arch) (shape : Nat) : a.killVector shape = withoutVectors a shape := by
  unfold Arch.killVector withoutVectors
  rw [List.filter_congr fun p _ => (decide_not (p := p.2.kind = 1)).symm]

section

/-- Seeker w stands before x or is x's equal: higher PRIO, then the earlier issue, then the lower frame (R127). -/
def SeekerBefore (w x : Nat × Nat × Nat × Reg) : Prop :=
  x.1 ≤ w.1 ∧ (x.1 = w.1 → w.2.1 ≤ x.2.1) ∧ (x.1 = w.1 → x.2.1 = w.2.1 → w.2.2.1 ≤ x.2.2.1)

theorem SeekerBefore.refl (x : Nat × Nat × Nat × Reg) : SeekerBefore x x := ⟨le_rfl, fun _ => le_rfl, fun _ _ => le_rfl⟩

theorem SeekerBefore.trans {w x y : Nat × Nat × Nat × Reg} (hw : SeekerBefore w x) (hx : SeekerBefore x y) : SeekerBefore w y := by
  unfold SeekerBefore at *
  omega

/-- The better of a seeker found so far and another one. -/
def betterSeeker (y x : Nat × Nat × Nat × Reg) : Nat × Nat × Nat × Reg :=
  if y.1 < x.1 || (y.1 = x.1 && (x.2.1 < y.2.1 || (x.2.1 = y.2.1 && x.2.2.1 < y.2.2.1))) then x else y

theorem betterSeeker_before (y x : Nat × Nat × Nat × Reg) :
    SeekerBefore (betterSeeker y x) y ∧ SeekerBefore (betterSeeker y x) x := by
  unfold betterSeeker
  split
  · next better =>
    simp only [Bool.or_eq_true, Bool.and_eq_true, decide_eq_true_eq] at better
    refine ⟨?_, .refl x⟩
    unfold SeekerBefore
    omega
  · next worse =>
    simp only [Bool.or_eq_true, Bool.and_eq_true, decide_eq_true_eq] at worse
    refine ⟨.refl y, ?_⟩
    unfold SeekerBefore
    omega

theorem firstSeeker_cons (y : Nat × Nat × Nat × Reg) (l : List (Nat × Nat × Nat × Reg)) :
    firstSeeker (y :: l) = some (l.foldl betterSeeker y) := by
  unfold firstSeeker
  rw [List.foldl_cons]
  dsimp only
  induction l generalizing y with
  | nil => rfl
  | cons x t ih =>
    rw [List.foldl_cons, List.foldl_cons, ← ih (betterSeeker y x)]
    unfold betterSeeker
    dsimp only
    split <;> rfl

theorem foldl_betterSeeker_before (y : Nat × Nat × Nat × Reg) (l : List (Nat × Nat × Nat × Reg)) :
    ∀ x ∈ y :: l, SeekerBefore (l.foldl betterSeeker y) x := by
  induction l generalizing y with
  | nil => exact fun x hx => List.mem_singleton.1 hx ▸ .refl y
  | cons z t ih =>
    obtain ⟨old, new⟩ := betterSeeker_before y z
    intro x hx
    have best := ih (betterSeeker y z)
    rcases List.mem_cons.1 hx with rfl | hx
    · exact (best _ List.mem_cons_self).trans old
    · rcases List.mem_cons.1 hx with rfl | hx
      · exact (best _ List.mem_cons_self).trans new
      · exact best x (List.mem_cons_of_mem _ hx)

/-- The seeker that is seated stands before each (R127). -/
theorem firstSeeker_before {l : List (Nat × Nat × Nat × Reg)} {w x : Nat × Nat × Nat × Reg} (first : firstSeeker l = some w)
    (hx : x ∈ l) : SeekerBefore w x := by
  cases l with
  | nil => cases hx
  | cons y t =>
    rw [firstSeeker_cons] at first
    exact Option.some.inj first ▸ foldl_betterSeeker_before y t x hx

end

section

variable {lanes seats p n : Nat} {held : List (Nat × Nat)}

/-- Partition q of a cut holds no hart (R127). -/
def EmptyPart (lanes : Nat) (held : List (Nat × Nat)) (q : Nat) : Prop := q < 32 / lanes ∧ ∀ y ∈ held, y.1 ≠ q

/-- Seat x stands before y or is y: a lower partition, then a lower seat of it. -/
def SeatBefore (x y : Nat × Nat) : Prop := x.1 < y.1 ∨ x.1 = y.1 ∧ x.2 ≤ y.2

/-- The partitions of a cut without a hart, and those with one. -/
def emptyParts (lanes : Nat) (held : List (Nat × Nat)) : List Nat := (List.range (32 / lanes)).filter fun q => !held.any fun x => x.1 == q
def takenParts (lanes : Nat) (held : List (Nat × Nat)) : List Nat := (List.range (32 / lanes)).filter fun q => held.any fun x => x.1 == q

/-- The free seats of one partition. -/
def openSeats (seats : Nat) (held : List (Nat × Nat)) (q : Nat) : List (Nat × Nat) :=
  ((List.range seats).map fun k => (q, k)).filter fun x => !held.contains x

theorem freeSeats_eq (lanes seats : Nat) (held : List (Nat × Nat)) : freeSeats lanes seats held =
    (emptyParts lanes held).map (fun q => (q, 0)) ++ (takenParts lanes held).flatMap (openSeats seats held) := by
  have parts : (if lanes = 0 then 0 else 32 / lanes) = 32 / lanes := by
    split
    · next zero => rw [zero, Nat.div_zero]
    · rfl
  unfold freeSeats
  rw [parts]
  rfl

theorem mem_emptyParts {q : Nat} : q ∈ emptyParts lanes held ↔ EmptyPart lanes held q := by
  simp [emptyParts, EmptyPart]

theorem mem_takenParts {q : Nat} : q ∈ takenParts lanes held ↔ q < 32 / lanes ∧ ¬EmptyPart lanes held q := by
  unfold takenParts EmptyPart
  rw [List.mem_filter, List.mem_range]
  exact and_congr_right fun inside => by simp [inside]

theorem mem_openSeats {q : Nat} {x : Nat × Nat} : x ∈ openSeats seats held q ↔ x.1 = q ∧ x.2 < seats ∧ x ∉ held := by
  obtain ⟨i, j⟩ := x
  simp only [openSeats, List.mem_filter, List.mem_map, List.mem_range, Prod.mk.injEq, Bool.not_eq_true', List.contains_eq_mem,
    decide_eq_false_iff_not]
  exact ⟨fun ⟨⟨_, hk, hq, hj⟩, vacant⟩ => ⟨hq.symm, hj ▸ hk, vacant⟩, fun ⟨hq, hj, vacant⟩ => ⟨⟨j, hj, hq.symm, rfl⟩, vacant⟩⟩

/-- A free seat is one of the cut that no hart holds (R127). -/
theorem mem_freeSeats (free : (p, n) ∈ freeSeats lanes seats held) (someSeat : 0 < seats) :
    (p, n) ∉ held ∧ p < 32 / lanes ∧ n < seats := by
  rw [freeSeats_eq, List.mem_append, List.mem_map, List.mem_flatMap] at free
  rcases free with ⟨q, hq, e⟩ | ⟨q, hq, hx⟩
  · obtain ⟨rfl, rfl⟩ := Prod.mk.inj e
    obtain ⟨inside, vacant⟩ := mem_emptyParts.1 hq
    exact ⟨fun mem => vacant _ mem rfl, inside, someSeat⟩
  · obtain ⟨rfl, inside, vacant⟩ := mem_openSeats.1 hx
    exact ⟨vacant, (mem_takenParts.1 hq).1, inside⟩

theorem emptyParts_sorted (lanes : Nat) (held : List (Nat × Nat)) : (emptyParts lanes held).Pairwise (· < ·) :=
  List.pairwise_lt_range.filter _

theorem takenSeats_sorted (lanes seats : Nat) (held : List (Nat × Nat)) :
    ((takenParts lanes held).flatMap (openSeats seats held)).Pairwise SeatBefore := by
  rw [List.pairwise_flatMap]
  refine ⟨fun q _ => ?_, (List.pairwise_lt_range.filter _).imp fun {q r} lower x hx y hy => .inl ?_⟩
  · exact (List.pairwise_map.2 (List.pairwise_lt_range.imp fun lower => .inr ⟨rfl, lower.le⟩)).filter _
  · rwa [(mem_openSeats.1 hx).1, (mem_openSeats.1 hy).1]

/-- The first free seat lies in the lowest partition without a hart, or, where each holds one, is the lowest one's free seat (R127). -/
theorem freeSeats_head {rest : List (Nat × Nat)} (head : freeSeats lanes seats held = (p, n) :: rest) :
    (∀ q, EmptyPart lanes held q → EmptyPart lanes held p ∧ p ≤ q) ∧
      ((∀ q, ¬EmptyPart lanes held q) → ∀ q m, q < 32 / lanes → m < seats → (q, m) ∉ held → SeatBefore (p, n) (q, m)) := by
  rw [freeSeats_eq] at head
  have sorted := emptyParts_sorted lanes held
  cases parts : emptyParts lanes held with
  | nil =>
    have none (q : Nat) : ¬EmptyPart lanes held q := fun vacant => by
      have := mem_emptyParts.2 vacant
      rw [parts] at this
      cases this
    refine ⟨fun q vacant => absurd vacant (none q), fun _ q m inside seat vacant => ?_⟩
    have order := takenSeats_sorted lanes seats held
    have mem : (q, m) ∈ (takenParts lanes held).flatMap (openSeats seats held) :=
      List.mem_flatMap.2 ⟨q, mem_takenParts.2 ⟨inside, none q⟩, mem_openSeats.2 ⟨rfl, seat, vacant⟩⟩
    rw [parts, List.map_nil, List.nil_append] at head
    rw [head] at order mem
    rcases List.mem_cons.1 mem with same | later
    · exact same ▸ .inr ⟨rfl, le_rfl⟩
    · exact List.rel_of_pairwise_cons order later
  | cons e es =>
    rw [parts] at head sorted
    obtain rfl : e = p := (Prod.mk.inj (List.cons.inj head).1).1
    have vacant : EmptyPart lanes held e := mem_emptyParts.1 (parts ▸ List.mem_cons_self)
    refine ⟨fun q hq => ⟨vacant, ?_⟩, fun none => absurd vacant (none e)⟩
    have mem := mem_emptyParts.2 hq
    rw [parts] at mem
    rcases List.mem_cons.1 mem with rfl | later
    · exact le_rfl
    · exact (List.rel_of_pairwise_cons sorted later).le

end

section

variable {s : State} {h : Hart} {g : Group} {d : Reg} {nb : Bool} {o : Cm}

/-- `vacq` of a hart that holds a seat returns it (R124). -/
theorem vacq_seated {p k : Nat} (hg : s.group h.gid = some g) (hi : Issues s h (.vacq d nb o)) (lanes : g.lanes ≠ 0)
    (seat : h.seat = some (p, k)) : ∃ t, exec (.vacq d nb o) s = .next t ∧
      Completes (.vacq d nb o) s { h with arch := h.arch.setReg d (BitVec.ofNat 64 (p + 2 ^ 8 * k)) } t := by
  refine ⟨_, rfl, State.run_done (h' := h.setReg d (seatWord p k)) hi ((State.withGroup_of hg _).trans ((if_neg lanes).trans ?_))⟩
  rw [seat]

/-- `vacq` that may not wait finds no free seat (R124). -/
theorem vacq_refused (hg : s.group h.gid = some g) (hi : Issues s h (.vacq d true o)) (lanes : g.lanes ≠ 0) (seat : h.seat = none)
    (idle : h.pending = none) (full : freeSeats g.lanes g.seats (s.seated (spireOf s.cur)) = []) :
    ∃ t, exec (.vacq d true o) s = .next t ∧
      Completes (.vacq d true o) s { h with arch := h.arch.setReg d (BitVec.allOnes 64) } t := by
  refine ⟨_, rfl, State.run_done (h' := h.setReg d (BitVec.allOnes 64)) hi ((State.withGroup_of hg _).trans ((if_neg lanes).trans ?_))⟩
  rw [seat, idle, full]
  rfl

/-- The first in order takes the first free seat; its vector state is fresh but for the bindings of its q registers (R127). -/
theorem exec_seatGrant_of {spire prio stamp k p n : Nat} {rest : List (Nat × Nat)}
    (first : firstSeeker (s.seekers spire) = some (prio, stamp, k, d)) (hk : s.hart k = some h) (hg : s.group h.gid = some g)
    (seats : freeSeats g.lanes g.seats (s.seated spire) = (p, n) :: rest) :
    exec (.seatGrant spire) s = .next (s.complete k (.vacq d false ⟨0, 0⟩) h.arch { h with
      seat := some (p, n)
      arch := { withoutVectors h.arch g.shape with qb := h.arch.qb }.setReg d (BitVec.ofNat 64 (p + 2 ^ 8 * n)) } none) := by
  change execSeatGrant spire s = _
  unfold execSeatGrant
  rw [first]
  dsimp only
  rw [hk]
  dsimp only
  rw [hg]
  dsimp only
  rw [seats, ← h.arch.killVector_eq]
  rfl

theorem seatGrant_spec {spire prio stamp k : Nat} {x : Nat × Nat × Nat × Reg} (hg : s.group h.gid = some g)
    (first : firstSeeker (s.seekers spire) = some (prio, stamp, k, d)) (hk : s.hart k = some h)
    (free : freeSeats g.lanes g.seats (s.seated spire) ≠ []) (hx : x ∈ s.seekers spire) :
    let empty := EmptyPart g.lanes (s.seated spire)
    x.1 ≤ prio ∧ (x.1 = prio → stamp ≤ x.2.1) ∧ (x.1 = prio → x.2.1 = stamp → k ≤ x.2.2.1) ∧
      ∃ t p n b, exec (.seatGrant spire) s = .next t ∧ (p, n) ∈ freeSeats g.lanes g.seats (s.seated spire) ∧
        (∀ q, empty q → empty p ∧ p ≤ q) ∧
        ((∀ q, ¬empty q) → ∀ q m, q < 32 / g.lanes → m < g.seats → (q, m) ∉ s.seated spire → p < q ∨ p = q ∧ n ≤ m) ∧
        b = { withoutVectors h.arch g.shape with qb := h.arch.qb }.setReg d (BitVec.ofNat 64 (p + 2 ^ 8 * n)) ∧
        CompletedAs k s { h with seat := some (p, n), arch := b } (fallsThrough (.vacq d false ⟨0, 0⟩) b) t := by
  intro empty
  obtain ⟨prio_le, stamp_le, frame_le⟩ := firstSeeker_before first hx
  obtain ⟨⟨p, n⟩, rest, seats⟩ := List.exists_cons_of_ne_nil free
  obtain ⟨lowestEmpty, lowestFree⟩ := freeSeats_head seats
  exact ⟨prio_le, stamp_le, frame_le, _, p, n, _, exec_seatGrant_of first hk hg seats, seats ▸ List.mem_cons_self, lowestEmpty, lowestFree,
    rfl, s.complete_next _ _ _ _⟩

/-- `vrel` frees the seat, and issue passes to the partner (R125, R128). -/
theorem vrel_spec (hg : s.group h.gid = some g) (hi : Issues s h (.vrel o)) (landed : h.landing = []) :
    ∃ t u, exec (.vrel o) s = .next t ∧ Switched s u ∧
      Completes (.vrel o) u { h with arch := withoutVectors h.arch g.shape, seat := none } t := by
  refine ⟨_, s.pairSwitch s.cur, rfl, s.pairSwitch_switched _, State.run_done hi ((State.withGroup_of hg _).trans ?_) (s.pairSwitch_cur _)⟩
  rw [← h.arch.killVector_eq]
  exact if_neg (by simp [landed])

end

/-- Settles O28: `vacq` with and without a seat, the order of the seekers and of the free seats, and `vrel`. -/
theorem laneInstructions : Obligations.LaneInstructions := by
  unfold Obligations.LaneInstructions
  intro s h g d nb o hg
  refine ⟨fun hi none => ?_, fun p k => vacq_seated hg, vacq_refused hg, fun prio stamp k spire x => seatGrant_spec hg,
    fun lanes seats held p n => mem_freeSeats, vrel_spec hg⟩
  exact State.run_traps hi rfl ((State.withGroup_of hg _).trans (if_pos none))

end Sys2Proof.Machine
end

section
/-! Stream registers: a binding, and a read of a buffer, a copy tag or a slot (R42, R159, R232 to R234, R269, R270). -/

namespace Sys2Proof.Machine

/-- What a read of stream register q by hart h finds (R42). -/
def State.boundItem (s : State) (h : Hart) (q : BitVec 3) : QItem := match h.arch.qb.find q.toNat with
  | none => .cause (plainCause 5 q.toNat)
  | some b =>
    if b.kind = 1 then s.readBuffer s.cur b.idx
    else if b.kind = 2 then s.readTag s.cur b.idx
    else s.readSlot s.cur h.gid q.toNat b.idx

/-- What `qrd` makes of what it finds (R159). -/
def qrdResult (h : Hart) (d : Reg) : QItem → Result
  | .nothing u => .stall u { h with pending := some .waiting } false
  | .cause c => .trap c
  | .item v u => .done u (h.setReg d v)

theorem exec_qrd (d : Reg) (q : BitVec 3) (s : State) :
    exec (.qrd d q) s = .next (s.run (.qrd d q) fun s h => qrdResult h d (s.boundItem h q)) := rfl

section

variable {s u : State} {h : Hart} {d : Reg} {q : BitVec 3}

theorem qrd_waits (hi : Issues s h (.qrd d q)) (found : s.boundItem h q = .nothing u) :
    Waits (.qrd d q) u h (some .waiting) false s :=
  State.run_stalls hi (exec_qrd d q s) (congrArg (qrdResult h d) found)

theorem qrd_traps {c : Cause} (hi : Issues s h (.qrd d q)) (found : s.boundItem h q = .cause c) (plain : PlainHart h)
    (handled : Handled s h) : Traps (.qrd d q) s h c :=
  State.run_traps hi (exec_qrd d q s) (congrArg (qrdResult h d) found) plain handled

theorem qrd_reads {v : Word} (hi : Issues s h (.qrd d q)) (found : s.boundItem h q = .item v u) (same : u.cur = s.cur := by rfl) :
    ∃ t, exec (.qrd d q) s = .next t ∧ Completes (.qrd d q) u { h with arch := h.arch.setReg d v } t :=
  ⟨_, exec_qrd d q s, State.run_done hi (congrArg (qrdResult h d) found) same⟩

theorem boundItem_unbound (bound : h.arch.qb.find q.toNat = none) : s.boundItem h q = .cause (plainCause 5 q.toNat) := by
  unfold State.boundItem
  rw [bound]

variable {b : QBind}

theorem boundItem_buffer (bound : h.arch.qb.find q.toNat = some b) (kind : b.kind = 1) :
    s.boundItem h q = s.readBuffer s.cur b.idx := by
  unfold State.boundItem
  rw [bound]
  exact if_pos kind

theorem boundItem_tag (bound : h.arch.qb.find q.toNat = some b) (kind : b.kind = 2) : s.boundItem h q = s.readTag s.cur b.idx := by
  unfold State.boundItem
  rw [bound]
  dsimp only
  rw [if_neg (by omega), if_pos kind]

theorem boundItem_slot (bound : h.arch.qb.find q.toNat = some b) (kind : b.kind = 3) :
    s.boundItem h q = s.readSlot s.cur h.gid q.toNat b.idx := by
  unfold State.boundItem
  rw [bound]
  dsimp only
  rw [if_neg (by omega), if_neg (by omega)]

/-- `qbind` changes the binding of one stream register (R42, R234). -/
theorem qbind_spec {n : BitVec 3} {kind : BitVec 2} {idx : BitVec 8} {o : Cm} (hi : Issues s h (.qbind n kind idx o)) :
    ∃ t x, exec (.qbind n kind idx o) s = .next t ∧ Completes (.qbind n kind idx o) s { h with arch := { h.arch with qb := x } } t ∧
      x.find n.toNat = (if kind = 0 then none else some ⟨kind.toNat, idx.toNat⟩) ∧ ∀ j, j ≠ n.toNat → x.find j = h.arch.qb.find j := by
  refine ⟨_, _, rfl, State.compute_spec hi _, ?_⟩
  by_cases free : kind = 0
  · simp only [if_pos free]
    exact ⟨Store.find_erase_same _ _, fun j other => Store.find_erase_other _ other⟩
  · simp only [if_neg free]
    exact ⟨Store.find_insert_same _ _ _, fun j other => Store.find_insert_other _ _ other⟩

end

section

variable {s : State} {k n : Nat} {x : Stream} {g : Group}

theorem readBuffer_undeclared (hx : s.streams.find (8 * spireOf k + n) = none) : s.readBuffer k n = .nothing s := by
  unfold State.readBuffer engineKey
  dsimp only
  rw [hx]

theorem readBuffer_ended (hx : s.streams.find (8 * spireOf k + n) = some x) (ended : x.len ≤ x.taken) :
    s.readBuffer k n = .nothing s := by
  unfold State.readBuffer engineKey
  dsimp only
  rw [hx]
  exact if_pos ended

/-- A read ahead of the DAU asks for the element (R232). -/
theorem readBuffer_unfetched (hx : s.streams.find (8 * spireOf k + n) = some x) (more : x.taken < x.len) (ahead : x.next ≤ x.taken) :
    s.readBuffer k n = .nothing (s.setStream (8 * spireOf k + n) { x with want := max x.want (x.taken + 1) }) := by
  unfold State.readBuffer engineKey
  dsimp only
  rw [hx]
  dsimp only
  rw [if_neg more.not_ge, if_pos ahead]
  rfl

/-- What a read of a fetched element meets (R232 to R234). -/
def State.elementItem (s : State) (key spire : Nat) (x : Stream) (g : Group) : QItem :=
  if s.streamHeld x g spire x.taken then .nothing s
  else match s.streamAt x g spire x.taken with
  | .error c => .cause { c with idx := 0 }
  | .ok (c, _) => .item (BitVec.ofNat 64 c) (s.setStream key { x with taken := x.taken + 1 })

theorem readBuffer_fetched (hx : s.streams.find (8 * spireOf k + n) = some x) (more : x.taken < x.len) (fetched : x.taken < x.next)
    (hg : s.group x.gid = some g) : s.readBuffer k n = s.elementItem (8 * spireOf k + n) (spireOf k) x g := by
  unfold State.readBuffer engineKey
  dsimp only
  rw [hx]
  dsimp only
  rw [if_neg more.not_ge, if_neg fetched.not_ge, hg]
  rfl

variable {spire i : Nat}

/-- An element is read at once when the DAU holds it, or when its links carry requests and nothing stands before it (R276, R288, R329). -/
theorem streamHeld_eq_false_iff (first : x.first ≤ i) : s.streamHeld x g spire i = false ↔
    x.fetched.getD (i - x.first) none ≠ none ∨
      (∀ p ∈ (s.streamElem x g spire i).2, ∀ m, p.link = some m → s.linkUp m = true) ∧
        NothingBefore s x.gid x.owner x.cls fun m => ∃ p ∈ (s.streamElem x g spire i).2, p.link = some m := by
  rw [← s.clear_iff, ← s.linksUp_iff]
  unfold State.streamHeld
  dsimp only
  rw [if_pos first, Bool.and_eq_false_iff, Bool.or_eq_false_iff, Bool.not_eq_false', Bool.not_eq_false',
    Option.isNone_eq_false_iff, Option.isSome_iff_ne_none]

theorem streamAt_afresh (lost : x.fetched.getD (i - x.first) none = none) :
    s.streamAt x g spire i = (s.streamElem x g spire i).1 := by
  unfold State.streamAt
  rw [lost, ite_self]

theorem elementItem_held {key : Nat} (held : s.streamHeld x g spire x.taken = true) : s.elementItem key spire x g = .nothing s :=
  if_pos held

theorem elementItem_error {key : Nat} {c : Cause} (free : s.streamHeld x g spire x.taken = false)
    (fault : s.streamAt x g spire x.taken = .error c) : s.elementItem key spire x g = .cause { c with idx := 0 } := by
  unfold State.elementItem
  rw [if_neg (by rw [free]; exact Bool.false_ne_true), fault]

theorem elementItem_ok {key c l : Nat} (free : s.streamHeld x g spire x.taken = false)
    (code : s.streamAt x g spire x.taken = .ok (c, l)) :
    s.elementItem key spire x g = .item (BitVec.ofNat 64 c) (s.setStream key { x with taken := x.taken + 1 }) := by
  unfold State.elementItem
  rw [if_neg (by rw [free]; exact Bool.false_ne_true), code]

end

section

variable {s : State} {h : Hart} {d : Reg} {q : BitVec 3} {b : QBind}

/-- A read of a fetched element: it waits for a link or behind requests, meets the fault of its place, or takes the element (R232 to R234). -/
theorem qrd_element {x : Stream} {g : Group} {c l : Nat} (hi : Issues s h (.qrd d q)) (bound : h.arch.qb.find q.toNat = some b)
    (kind : b.kind = 1) (hx : s.streams.find (8 * spireOf s.cur + b.idx) = some x) (more : x.taken < x.len)
    (fetched : x.taken < x.next) (hg : s.group x.gid = some g) (first : x.first ≤ x.taken) :
    let kept := x.fetched.getD (x.taken - x.first) none
    let afresh := s.streamElem x g (spireOf s.cur) x.taken
    let up := (∀ p ∈ afresh.2, ∀ m, p.link = some m → s.linkUp m = true) ∧
      NothingBefore s x.gid x.owner x.cls fun m => ∃ p ∈ afresh.2, p.link = some m
    (kept = none → ¬up → Waits (.qrd d q) s h (some .waiting) false s) ∧
    (∀ e, kept = none → up → afresh.1 = .error e → PlainHart h → Handled s h → Traps (.qrd d q) s h { e with idx := 0 }) ∧
    (kept = some (c, l) ∨ (kept = none ∧ up ∧ afresh.1 = .ok (c, l)) →
      ∃ u, StreamOnly s (spireOf s.cur) b.idx { x with taken := x.taken + 1 } u ∧
        ∃ t, exec (.qrd d q) s = .next t ∧ Completes (.qrd d q) u { h with arch := h.arch.setReg d (BitVec.ofNat 64 c) } t) := by
  intro kept afresh up
  have item := (boundItem_buffer bound kind).trans (readBuffer_fetched hx more fetched hg)
  have free : s.streamHeld x g (spireOf s.cur) x.taken = false ↔ kept ≠ none ∨ up := streamHeld_eq_false_iff first
  refine ⟨fun lost down => ?_, fun e lost ready fault plain handled => ?_, fun there => ?_⟩
  · have held : s.streamHeld x g (spireOf s.cur) x.taken = true := by
      rw [← Bool.not_eq_false, free]
      tauto
    exact qrd_waits hi (item.trans (elementItem_held held))
  · exact qrd_traps hi (item.trans (elementItem_error (free.2 (.inr ready)) ((streamAt_afresh lost).trans fault))) plain handled
  · refine ⟨_, s.streamOnly_setStream _ _ _, qrd_reads (v := BitVec.ofNat 64 c) hi (item.trans ?_)⟩
    rcases there with old | ⟨lost, ready, code⟩
    · exact elementItem_ok (free.2 (.inl (old ▸ Option.some_ne_none _))) (State.streamAt_fetched first old)
    · exact elementItem_ok (free.2 (.inr ready)) ((streamAt_afresh lost).trans code)

/-- A read of a copy tag takes the next chunk in the order in which they landed (R234). -/
theorem qrd_tag {x : CopyTag} (hi : Issues s h (.qrd d q)) (bound : h.arch.qb.find q.toNat = some b) (kind : b.kind = 2)
    (hx : s.copies.find (8 * spireOf s.cur + b.idx) = some x) :
    (x.order.length ≤ x.yielded → Waits (.qrd d q) s h (some .waiting) false s) ∧
    (∀ j, x.order[x.yielded]? = some j → ∃ u, CopyOnly s (spireOf s.cur) b.idx { x with yielded := x.yielded + 1 } u ∧
      u = { s with copies := u.copies } ∧
      ∃ t, exec (.qrd d q) s = .next t ∧ Completes (.qrd d q) u { h with arch := h.arch.setReg d (BitVec.ofNat 64 j) } t) := by
  have item := boundItem_tag (s := s) bound kind
  unfold State.readTag engineKey at item
  dsimp only at item
  rw [hx] at item
  dsimp only at item
  refine ⟨fun all => ?_, fun j next => ?_⟩
  · rw [List.getElem?_eq_none all] at item
    exact qrd_waits hi item
  · rw [next] at item
    exact ⟨_, ⟨Store.find_insert_same _ _ _, fun j other => Store.find_insert_other _ _ other⟩, rfl, qrd_reads hi item⟩

/-- What a read of a group's own slot finds (R269, R270). -/
def State.slotItem (s : State) (key : Nat) (x : Slot) : QItem := match x.items with
  | [] => .nothing s
  | i :: rest =>
    if i.closed then .item (i.word x.ovc) s
    else .item (i.word x.ovc) (s.modSlot key fun y => { y with items := rest, heldEnt := some i.ent })

theorem boundItem_foreign {x : Slot} (bound : h.arch.qb.find q.toNat = some b) (kind : b.kind = 3)
    (hx : s.slots.find (256 * spireOf s.cur + b.idx) = some x) (foreign : x.gid ≠ h.gid ∨ x.state = .free) :
    s.boundItem h q = .cause (plainCause 5 q.toNat) := by
  rw [boundItem_slot bound kind]
  unfold State.readSlot slotKey State.slot
  dsimp only
  rw [hx]
  exact if_pos (by simpa using foreign)

theorem boundItem_own {x : Slot} (bound : h.arch.qb.find q.toNat = some b) (kind : b.kind = 3)
    (hx : s.slots.find (256 * spireOf s.cur + b.idx) = some x) (own : x.gid = h.gid) (used : x.state ≠ .free) :
    s.boundItem h q = s.slotItem (256 * spireOf s.cur + b.idx) x := by
  rw [boundItem_slot bound kind]
  unfold State.readSlot slotKey State.slot
  dsimp only
  rw [hx]
  exact if_neg (by simp [own, used])

theorem boundItem_noSlot (bound : h.arch.qb.find q.toNat = some b) (kind : b.kind = 3)
    (hx : s.slots.find (256 * spireOf s.cur + b.idx) = none) : s.boundItem h q = .cause (plainCause 5 q.toNat) := by
  rw [boundItem_slot bound kind]
  unfold State.readSlot slotKey State.slot
  dsimp only
  rw [hx]
  rfl

/-- A read of a group's own slot waits for an item, repeats the close item, or takes the oldest item and holds its entry (R269, R270). -/
theorem qrd_slot {x : Slot} (hi : Issues s h (.qrd d q)) (hx : s.slots.find (256 * spireOf s.cur + b.idx) = some x)
    (item : s.boundItem h q = s.slotItem (256 * spireOf s.cur + b.idx) x) :
    let reads (v : Word) (u : State) := ∃ t, exec (.qrd d q) s = .next t ∧
      Completes (.qrd d q) u { h with arch := h.arch.setReg d v } t
    (x.items = [] → Waits (.qrd d q) s h (some .waiting) false s) ∧
    (∀ i rest, x.items = i :: rest → i.closed = true → reads (i.word x.ovc) s) ∧
    (∀ i rest, x.items = i :: rest → i.closed = false → ∃ u,
      SlotOnly s (spireOf s.cur) b.idx { x with items := rest, heldEnt := some i.ent } u ∧
      u = { s with slots := u.slots } ∧ reads (i.word x.ovc) u) := by
  intro reads
  unfold State.slotItem at item
  refine ⟨fun empty => ?_, fun i rest first closed => ?_, fun i rest first opened => ?_⟩
  · rw [empty] at item
    exact qrd_waits hi item
  · rw [first] at item
    exact qrd_reads hi (item.trans (if_pos closed))
  · rw [first] at item
    refine ⟨_, ⟨?_, fun j other => Store.find_modify_other _ _ other⟩, rfl, qrd_reads hi (item.trans (if_neg ?_))⟩
    · exact (Store.find_modify_same _ _ _).trans (by rw [hx]; rfl)
    · rw [opened]
      exact Bool.false_ne_true

end

/-- Settles O45: `qbind`, and `qrd` of a register without a binding, of a buffer, of a copy tag and of a slot. -/
theorem streamRegisters : Obligations.StreamRegisters := by
  unfold Obligations.StreamRegisters
  intro s h n q kind idx o d b
  refine ⟨qbind_spec, fun hi => ?_⟩
  intro reads unbound
  refine ⟨fun none => qrd_traps hi (boundItem_unbound none), fun bound buffer => ?_, fun bound tag x => qrd_tag hi bound tag,
    fun bound slot => ?_⟩
  · have item := boundItem_buffer (s := s) bound buffer
    refine ⟨fun undeclared => qrd_waits hi (item.trans (readBuffer_undeclared undeclared)), fun x hx => ⟨fun ended => ?_,
      fun more ahead => ?_, fun g c l more fetched hg first => qrd_element hi bound buffer hx more fetched hg first⟩⟩
    · exact qrd_waits hi (item.trans (readBuffer_ended hx ended))
    · exact ⟨_, s.streamOnly_setStream _ _ _, qrd_waits hi (item.trans (readBuffer_unfetched hx more ahead))⟩
  · refine ⟨fun none => qrd_traps hi (boundItem_noSlot bound slot none), fun x hx => ⟨fun foreign => ?_, fun own used => ?_⟩⟩
    · exact qrd_traps hi (boundItem_foreign bound slot hx foreign)
    · exact qrd_slot hi hx (boundItem_own bound slot hx own used)

end Sys2Proof.Machine
end

section
/-! Vector instructions that compute on their hart's registers: the judgement of their operands, the write of one register, what they
charge, and where they stop (R62, R90, R129, R175, R188, R189). -/

namespace Sys2Proof.Machine

theorem getLsbD_rsv (k : Nat) : Flags.rsv.getLsbD k = (k == 6) := by
  unfold Flags.rsv
  rcases Nat.lt_or_ge k 7 with low | high
  · interval_cases k <;> rfl
  · rw [BitVec.getLsbD_of_ge _ _ high, eq_comm, beq_eq_false_iff_ne]
    omega

/-- The lowest of the operands' reserved codes (R62). -/
theorem foldl_lowest (l : List Vals) (r : Option Nat) :
    l.foldl (fun r v => lowest r v.rsv) r = lowest r (l.filterMap (·.rsv)).min? := by
  induction l generalizing r with
  | nil => cases r <;> rfl
  | cons v l ih =>
    rw [List.foldl_cons, ih, List.filterMap_cons]
    cases v.rsv with
    | none => cases r <;> rfl
    | some e =>
      rw [List.min?_cons]
      cases r <;> cases (l.filterMap (·.rsv)).min? <;> simp [lowest, Nat.min_assoc]

theorem getLsbD_foldl_flags (l : List Vals) (f : Flags) (k : Nat) :
    (l.foldl (fun f v => f ||| v.flags) f).getLsbD k = (f.getLsbD k || l.any (·.flags.getLsbD k)) := by
  induction l generalizing f with
  | nil => simp
  | cons v l ih => rw [List.foldl_cons, ih, BitVec.getLsbD_or, List.any_cons, Bool.or_assoc]

/-- The operands of a work are judged together (R62). -/
theorem Arch.judge_reads (a : Arch) (w : VectorWork) : a.judge w.reads = match w.reserved with
    | none => .ok (w.reads.foldl (fun f v => f ||| v.flags) 0)
    | some i => if a.hctl.getLsbD 0 then .error (.plain 24 i) else .ok (w.reads.foldl (fun f v => f ||| v.flags) 0 ||| .rsv) := by
  unfold Arch.judge
  rw [foldl_lowest]
  rfl

theorem Arch.judge_reads_traps {a : Arch} {w : VectorWork} (rsv : w.reserved.isSome = true) (enabled : a.hctl.getLsbD 0 = true) :
    a.judge w.reads = .error (plainCause 24 (w.reserved.getD 0)) := by
  obtain ⟨e, he⟩ := Option.isSome_iff_exists.1 rsv
  rw [Arch.judge_reads, he]
  exact if_pos enabled

theorem Arch.judge_reads_ok {a : Arch} {w : VectorWork} (free : ¬(w.reserved.isSome = true ∧ a.hctl.getLsbD 0 = true)) :
    ∃ fl, a.judge w.reads = .ok fl := by
  rw [Arch.judge_reads]
  cases he : w.reserved with
  | none => exact ⟨_, rfl⟩
  | some e => exact ⟨_, if_neg fun enabled => free ⟨by rw [he]; rfl, enabled⟩⟩

/-- The flags of reading operands that pass their judgement, RSV for a reserved code among them. -/
theorem Arch.judge_reads_flags {a : Arch} {w : VectorWork} {fl : Flags} (judged : a.judge w.reads = .ok fl) (k : Nat) :
    fl.getLsbD k = (w.reads.any (·.flags.getLsbD k) || (k == 6 && w.reserved.isSome)) := by
  rw [Arch.judge_reads] at judged
  cases he : w.reserved with
  | none =>
    rw [he] at judged
    rw [← Except.ok.inj judged, getLsbD_foldl_flags]
    simp
  | some e =>
    rw [he] at judged
    dsimp only at judged
    split at judged
    · cases judged
    · rw [← Except.ok.inj judged, BitVec.getLsbD_or, getLsbD_foldl_flags, getLsbD_rsv]
      simp

section

variable (a : Arch) (r : Nat) (t : Tag) (dom : Nat) (fl : Flags) (c : Fl (List (Option Nat)))

/-- An element after codes are written to its register: the code that is given, or the old one (R40, R58). -/
theorem Arch.rawCode_put (i : Nat) : rawCode (a.put r t dom fl c) r t.bits i =
    match c.val.getD i none with
    | some x => x % 2 ^ t.memBits
    | none => rawCode a r t.bits i := by
  unfold rawCode
  rw [show (a.put r t dom fl c).v = Store.set 0 a.v r (mergeCodes t.bits (Store.get 0 a.v r) (c.val.map fun x => x.map (cleanCode t)))
    from rfl, Store.get_set_same, mergeCodes_element, List.getD_eq_getElem?_getD, List.getD_eq_getElem?_getD, List.getElem?_map]
  cases c.val[i]? with
  | none => rfl
  | some x => cases x with
    | none => rfl
    | some x => exact cleanCode_mod t x

theorem Arch.fflags_put (k : Nat) :
    (a.put r t dom fl c).fflags.getLsbD k = (a.fflags.getLsbD k || fl.getLsbD k || c.flags.getLsbD k) := by
  change (a.fflags ||| (fl ||| c.flags).setWidth 32).getLsbD k = _
  rw [BitVec.getLsbD_or, BitVec.getLsbD_setWidth, BitVec.getLsbD_or, Bool.or_assoc]
  by_cases low : k < 32
  · rw [decide_eq_true low, Bool.true_and]
  · rw [BitVec.getLsbD_of_ge fl k (by omega), BitVec.getLsbD_of_ge c.flags k (by omega)]
    simp

/-- Flags beside those of the operands and of the codes. -/
theorem Arch.put_also (f : Flags) : a.put r t dom (fl ||| f) c = a.put r t dom fl (c.also f) := by
  unfold Arch.put Fl.also
  rw [BitVec.or_assoc, BitVec.or_comm f]

end

/-- A work that writes one register leaves the codes of its active elements there, and its flags (R40, R62, R64, R188). -/
theorem VectorWork.leaves_put {w : VectorWork} {a : Arch} {fl : Flags} {r : Nat} {t : Tag} {dom : Nat} {code : Nat → Fl Nat}
    {c : Fl (List (Option Nat))} (judged : a.judge w.reads = .ok fl) (dest : w.dests = [(r, t, dom, code)]) (md : w.md = none)
    (sc : w.sc = none)
    (codes : ∀ i, c.val.getD i none = if i < w.n ∧ w.act i then some (code i).val else none)
    (flags : ∀ k, c.flags.getLsbD k =
      (List.range w.n).any fun i => w.act i && ((w.extra i).getLsbD k || (code i).flags.getLsbD k)) :
    w.Leaves a (a.put r t dom fl c) := by
  refine ⟨rfl, fun j other => ?_, fun d hd => ?_, fun k => ?_, fun _ => rfl, fun m p given => ?_, fun _ => rfl, fun j x given => ?_⟩
  · have other : j ≠ r := by simpa [dest] using other
    exact ⟨Store.get_set_other _ _ _ other, Store.get_set_other _ _ _ other, Store.get_set_other _ _ _ other⟩
  · rw [dest] at hd
    obtain rfl := List.mem_singleton.1 hd
    refine ⟨Store.get_set_same _ _ _ _, fun i => ?_⟩
    rw [Arch.rawCode_put, codes]
    by_cases active : i < w.n ∧ w.act i = true
    · rw [if_pos active, if_pos active]
    · rw [if_neg active, if_neg active]
  · rw [Arch.fflags_put, Arch.judge_reads_flags judged, flags]
    simp [dest, Bool.or_assoc]
  · rw [md] at given
    cases given
  · rw [sc] at given
    cases given

/-- Instruction i is charged for VL elements of its widest tag where its hart has lanes (R129); `bop` on a vector is not, nor `setc` of vl. -/
def ChargedByElements (i : Instr) : Prop := ∀ a b w, beats a b w i =
  if w = 0 then 0 else (a.vl.toNat * beatBits a b i + 64 * w - 1) / (64 * w) * w

theorem chargedByElements_of {i : Instr} (lanes : i.needsLanes = true) (form : ∀ a b w, beats a b w i =
    if i.needsLanes && w != 0 then (a.vl.toNat * beatBits a b i + 64 * w - 1) / (64 * w) * w else 0) : ChargedByElements i := by
  intro a b w
  rw [form, lanes]
  by_cases none : w = 0 <;> simp [none]

theorem Arch.covered_congr (a : Arch) {b c : Arch} (tags : b.vtag = c.vtag) (rb : Nat) (i : Instr) (r : Nat) :
    a.covered b rb i r = a.covered c rb i r := by
  have same : b.tagOf = c.tagOf := by
    funext j
    unfold Arch.tagOf
    rw [tags]
  unfold Arch.covered
  rw [same]

theorem beatBits_congr (a : Arch) {b c : Arch} (tags : b.vtag = c.vtag) (i : Instr) : beatBits a b i = beatBits a c i := by
  unfold beatBits Arch.tagOf
  rw [tags]

/-- The charge of a vector instruction by the tags that it leaves (R129, R325). -/
theorem beats_add_rebuildBeats {i : Instr} (charged : ChargedByElements i) (a : Arch) {b c : Arch} (tags : b.vtag = c.vtag) (w rb : Nat) :
    beats a b w i + a.rebuildBeats b w rb i = vectorBeats a c w rb i := by
  rw [charged, beatBits_congr a tags]
  unfold Arch.rebuildBeats vectorBeats
  simp only [a.covered_congr tags]
  split <;> rfl

theorem fallsThrough_vtag (i : Instr) (a : Arch) : (fallsThrough i a).vtag = a.vtag := a.retire_vtag _

section

variable {s : State} {h : Hart} {i : Instr} {op : Arch → Nat → Except Cause Arch}

/-- HBEAT after a vector instruction that computes on its hart's registers (R129). -/
theorem State.vector_hbeat {b : Arch} (hi : Issues s h i) (charged : ChargedByElements i) (done : op h.arch (s.regBytes h) = .ok b) :
    ((s.vector i op).hart s.cur).map (·.hbeat) =
      some (h.hbeat + BitVec.ofNat 64 (vectorBeats h.arch b (s.lanesOf h) (s.regBytes h) i)) := by
  have run : s.vector i op = s.complete s.cur i h.arch { h with arch := b } none := by
    unfold State.vector
    rw [State.run_issues hi, done]
    rfl
  rw [run, State.complete_hbeat,
    beats_add_rebuildBeats charged h.arch (b := State.completeArch i { h with arch := b } none) (fallsThrough_vtag i b)]
  rfl

/-- A vector instruction that stops traps, or records its cause while it is speculative (R175, R341). -/
theorem State.vector_stops {c : Cause} (hi : Issues s h i) (runs : exec i s = .next (s.vector i op))
    (stops : op h.arch (s.regBytes h) = .error c) :
    (PlainHart h → Handled s h → Traps i s h c) ∧
    (h.exits ≠ [] → exec i s = .next (s.setHart s.cur { h with
      faults := h.faults ++ [⟨h.seq, h.dbg.icnt, h.arch, true⟩], stalled := true, memStall := false, awaited := [] })) := by
  have trap : exec i s = .next (s.trap s.cur h i c) := by rw [runs, State.vector_error hi stops]
  refine ⟨fun plain handled => ⟨_, trap, State.trap_taken _ _ _ plain handled⟩, fun speculative => trap.trans ?_⟩
  unfold State.trap
  rw [if_neg (by simpa using speculative)]

/-- An instruction that judges its operands, then checks their tags, and then writes its registers does its work, or stops before it
(R62, R90, R189). -/
theorem works_of_judged {w : VectorWork} {result : Flags → Arch} (hi : Issues s h i) (runs : exec i s = .next (s.vector i op))
    (charged : ChargedByElements i)
    (steps : op h.arch (s.regBytes h) = (h.arch.judge w.reads).bind fun fl => (require w.ok).bind fun _ => .ok (result fl))
    (leaves : ∀ fl, h.arch.judge w.reads = .ok fl → w.Leaves h.arch (result fl)) : Works i s h w := by
  refine ⟨fun free good => ?_, fun bad => ?_⟩
  · obtain ⟨fl, judged⟩ := Arch.judge_reads_ok free
    have done : op h.arch (s.regBytes h) = .ok (result fl) := by rw [steps, judged, good]; rfl
    exact ⟨_, _, runs, State.vector_ok hi done, leaves fl judged, State.vector_hbeat hi charged done⟩
  · by_cases rsv : w.reserved.isSome = true ∧ h.arch.hctl.getLsbD 0 = true
    · rw [if_pos rsv]
      exact State.vector_stops hi runs (by rw [steps, Arch.judge_reads_traps rsv.1 rsv.2]; rfl)
    · rw [if_neg rsv]
      obtain ⟨fl, judged⟩ := Arch.judge_reads_ok rsv
      exact State.vector_stops hi runs (by rw [steps, judged, bad.resolve_left rsv]; rfl)

end

end Sys2Proof.Machine
end

section
/-! Folds over active elements: the pairwise tree of R67, scans, and the running argmax (R206 to R208). -/

namespace Sys2Proof

theorem Fl.bind_assoc {α β γ : Type} (x : Fl α) (f : α → Fl β) (g : β → Fl γ) : (x.bind f).bind g = x.bind fun v => (f v).bind g := by
  unfold Fl.bind
  rw [BitVec.or_assoc]

theorem Fl.pure_bind {α β : Type} (v : α) (f : α → Fl β) : (Fl.pure v).bind f = f v := by
  unfold Fl.bind Fl.pure
  dsimp only
  rw [show (0 : Flags) = 0#7 from rfl, BitVec.zero_or]

theorem Fl.bind_pure {α : Type} (x : Fl α) : x.bind Fl.pure = x := by
  unfold Fl.bind Fl.pure
  dsimp only
  rw [show (0 : Flags) = 0#7 from rfl, BitVec.or_zero]

end Sys2Proof

namespace Sys2Proof.Machine

section

variable {α : Type}

theorem packed_eq_map (act : Nat) (l : List α) (d : α) :
    packed act l = ((List.range l.length).filter (bitOf act)).map fun i => l.getD i d := by
  induction l generalizing act with
  | nil => rfl
  | cons x t ih =>
    rw [List.length_cons, List.range_succ_eq_map, List.filter_cons, List.filter_map, packed, ih]
    simp only [Function.comp_def, Nat.succ_eq_add_one, bitOf_succ, bitOf_zero, decide_eq_true_eq]
    split <;> simp

theorem leaves_getD (act : Nat) (l : List α) (d : α) (i : Nat) :
    (leaves act l).getD i none = if i < l.length ∧ bitOf act i then some (l.getD i d) else none := by
  induction l generalizing act i with
  | nil => simp [leaves]
  | cons x t ih =>
    cases i with
    | zero => simp [leaves, bitOf_zero]
    | succ i => simp only [leaves, List.getD_cons_succ, ih, bitOf_succ, List.length_cons, Nat.add_lt_add_iff_right]

theorem length_leaves (act : Nat) (l : List α) : (leaves act l).length = l.length := by
  induction l generalizing act with
  | nil => rfl
  | cons x t ih => rw [leaves, List.length_cons, List.length_cons, ih]

theorem filterMap_leaves (act : Nat) (l : List α) : (leaves act l).filterMap id = packed act l := by
  induction l generalizing act with
  | nil => rfl
  | cons x t ih =>
    rw [leaves, packed, List.filterMap_cons, ih]
    by_cases odd : act % 2 = 1
    · rw [if_pos odd, if_pos odd]
      rfl
    · rw [if_neg odd, if_neg odd]
      rfl

end

/-- The active elements below n. -/
theorem Arch.filter_active (a : Arch) (m : BitVec 4) {n i : Nat} (below : i ≤ n) :
    (List.range i).filter (bitOf (a.active m n)) = (List.range i).filter (maskOn a m) := by
  refine List.filter_congr fun j hj => ?_
  rw [Arch.bitOf_active, decide_eq_true (by have := List.mem_range.1 hj; omega), Bool.true_and]

theorem Arch.packed_active {α : Type} {a : Arch} {m : BitVec 4} {n : Nat} {l : List α} (full : l.length = n) (d : α) :
    packed (a.active m n) l = ((List.range n).filter (maskOn a m)).map fun i => l.getD i d := by
  rw [packed_eq_map _ _ d, full, a.filter_active m le_rfl]

section

variable {α : Type} (op : α → α → Fl α)

/-- A node of the pairwise tree from its children: an absent one leaves the other unchanged (R67). -/
def joinTwo : Option α → Option α → Fl (Option α)
  | some p, some q => (op p q).map some
  | some p, none => .pure (some p)
  | none, y => .pure y

theorem joinTwo_none_right (x : Option α) : joinTwo op x none = .pure x := by cases x <;> rfl

theorem joinTwo_eq_none_iff (x y : Option α) : (joinTwo op x y).val = none ↔ x = none ∧ y = none := by
  cases x <;> cases y <;> simp [joinTwo, Fl.map, Fl.pure]

theorem joinPairs_cons_cons (x y : Option α) (t : List (Option α)) : joinPairs op (x :: y :: t) =
    ⟨(joinTwo op x y).val :: (joinPairs op t).val, (joinTwo op x y).flags ||| (joinPairs op t).flags⟩ := by
  cases x <;> cases y <;> simp [joinPairs, joinTwo, Fl.map, Fl.pure]

theorem joinPairs_getD : ∀ (l : List (Option α)) (j : Nat),
    (joinPairs op l).val.getD j none = (joinTwo op (l.getD (2 * j) none) (l.getD (2 * j + 1) none)).val
  | [], j => by simp [joinPairs, Fl.pure, joinTwo]
  | [x], 0 => by simp [joinPairs, Fl.pure, joinTwo_none_right]
  | [x], j + 1 => by simp [joinPairs, Fl.pure, joinTwo, Nat.mul_succ]
  | x :: y :: t, 0 => by simp [joinPairs_cons_cons]
  | x :: y :: t, j + 1 => by
    rw [joinPairs_cons_cons, List.getD_cons_succ, joinPairs_getD t j]
    rfl

theorem joinPairs_flags (k : Nat) : ∀ l : List (Option α), (joinPairs op l).flags.getLsbD k = true ↔
    ∃ j, (joinTwo op (l.getD (2 * j) none) (l.getD (2 * j + 1) none)).flags.getLsbD k = true
  | [] => by simp [joinPairs, Fl.pure, joinTwo]
  | [x] => by
    have absent (j : Nat) : [x].getD (2 * j + 1) none = none := by simp
    simp only [absent, joinTwo_none_right]
    simp [joinPairs, Fl.pure]
  | x :: y :: t => by
    rw [joinPairs_cons_cons, BitVec.getLsbD_or, Bool.or_eq_true, joinPairs_flags k t]
    constructor
    · rintro (here | ⟨j, there⟩)
      · exact ⟨0, here⟩
      · exact ⟨j + 1, there⟩
    · rintro ⟨_ | j, set⟩
      · exact .inl set
      · exact .inr ⟨j, set⟩

variable (leaf : Nat → Option α)

theorem treeNode_succ (l j : Nat) :
    let x := treeNode op leaf l (2 * j)
    let y := treeNode op leaf l (2 * j + 1)
    treeNode op leaf (l + 1) j = ⟨(joinTwo op x.val y.val).val, x.flags ||| y.flags ||| (joinTwo op x.val y.val).flags⟩ := by
  intro x y
  rw [treeNode]
  change (match x.val, y.val with
    | some p, some q => (⟨some (op p q).val, x.flags ||| y.flags ||| (op p q).flags⟩ : Fl (Option α))
    | some p, none => ⟨some p, x.flags ||| y.flags⟩
    | none, q => ⟨q, x.flags ||| y.flags⟩) = _
  cases x.val <;> cases y.val <;> simp [joinTwo, Fl.map, Fl.pure]

/-- A node is absent where all leaves below it are. -/
theorem treeNode_eq_none_iff (l j : Nat) : (treeNode op leaf l j).val = none ↔ ∀ i, i / 2 ^ l = j → leaf i = none := by
  induction l generalizing j with
  | zero => simp [treeNode]
  | succ l ih =>
    rw [treeNode_succ, joinTwo_eq_none_iff, ih, ih]
    simp only [pow_succ, ← Nat.div_div_eq_div_mul]
    constructor
    · rintro ⟨left, right⟩ i rfl
      rcases Nat.mod_two_eq_zero_or_one (i / 2 ^ l) with even | odd
      · exact left i (by omega)
      · exact right i (by omega)
    · intro below
      exact ⟨fun i hi => below i (by omega), fun i hi => below i (by omega)⟩

/-- An absent node sets no flag. -/
theorem treeNode_flags_of_none {l j : Nat} (absent : (treeNode op leaf l j).val = none) : (treeNode op leaf l j).flags = 0 := by
  induction l generalizing j with
  | zero => rfl
  | succ l ih =>
    rw [treeNode_succ] at absent ⊢
    obtain ⟨left, right⟩ := (joinTwo_eq_none_iff op _ _).1 absent
    rw [left, right, ih left, ih right]
    exact BitVec.zero_or

/-- The levels of the tree from the leaves up. -/
theorem joinLevels_succ (k : Nat) (l : List (Option α)) : joinLevels op (k + 1) l = (joinLevels op k l).bind (joinPairs op) := by
  induction k generalizing l with
  | zero => rw [joinLevels, joinLevels, Fl.pure_bind]; exact Fl.bind_pure _
  | succ k ih =>
    calc (joinPairs op l).bind (joinLevels op (k + 1))
      _ = (joinPairs op l).bind fun t => (joinLevels op k t).bind (joinPairs op) := by rw [funext ih]
      _ = (joinLevels op (k + 1) l).bind (joinPairs op) := (Fl.bind_assoc _ _ _).symm

/-- The nodes of a level. -/
theorem joinLevels_getD (k : Nat) (l : List (Option α)) (j : Nat) :
    (joinLevels op k l).val.getD j none = (treeNode op (fun i => l.getD i none) k j).val := by
  induction k generalizing j with
  | zero => rfl
  | succ k ih =>
    rw [joinLevels_succ, treeNode_succ, ← ih, ← ih]
    exact joinPairs_getD op _ j

/-- The levels set the flags of their nodes. -/
theorem joinLevels_flags (k : Nat) (l : List (Option α)) (b : Nat) : (joinLevels op k l).flags.getLsbD b = true ↔
    ∃ j, (treeNode op (fun i => l.getD i none) k j).flags.getLsbD b = true := by
  induction k with
  | zero => simp [joinLevels, treeNode, Fl.pure]
  | succ k ih =>
    have step : (joinLevels op (k + 1) l).flags.getLsbD b = true ↔ (joinLevels op k l).flags.getLsbD b = true ∨
        (joinPairs op (joinLevels op k l).val).flags.getLsbD b = true := by
      rw [joinLevels_succ, ← Bool.or_eq_true, ← BitVec.getLsbD_or]
      rfl
    rw [step, ih, joinPairs_flags]
    simp only [joinLevels_getD, treeNode_succ, BitVec.getLsbD_or, Bool.or_eq_true]
    constructor
    · rintro (⟨j, set⟩ | ⟨j, set⟩)
      · rcases Nat.even_or_odd' j with ⟨i, rfl | rfl⟩
        · exact ⟨i, .inl (.inl set)⟩
        · exact ⟨i, .inl (.inr set)⟩
      · exact ⟨j, .inr set⟩
    · rintro ⟨j, (left | right) | here⟩
      · exact .inl ⟨_, left⟩
      · exact .inl ⟨_, right⟩
      · exact .inr ⟨j, here⟩

/-- The pairwise tree over a list of leaves is the node above all of them (R67). -/
theorem treeOf_eq_treeNode (l : List (Option α)) :
    treeOf op l = treeNode op (fun i => l.getD i none) (Nat.log2 l.length + 1) 0 := by
  have absent (j : Nat) (other : j ≠ 0) : (treeNode op (fun i => l.getD i none) (Nat.log2 l.length + 1) j).flags = 0 := by
    refine treeNode_flags_of_none op _ ((treeNode_eq_none_iff op _ _ _).2 fun i hi => List.getD_eq_default _ _ ?_)
    by_contra inside
    exact other (hi ▸ Nat.div_eq_of_lt ((Nat.lt_of_not_le inside).trans Nat.lt_log2_self))
  have value : (treeOf op l).val = (treeNode op (fun i => l.getD i none) (Nat.log2 l.length + 1) 0).val := by
    rw [← joinLevels_getD]
    unfold treeOf Fl.map
    cases (joinLevels op (Nat.log2 l.length + 1) l).val <;> rfl
  have flags : (treeOf op l).flags = (treeNode op (fun i => l.getD i none) (Nat.log2 l.length + 1) 0).flags := by
    refine BitVec.eq_of_getLsbD_eq fun b _ => Bool.eq_iff_iff.2 ((joinLevels_flags op _ l b).trans ⟨?_, fun set => ⟨0, set⟩⟩)
    rintro ⟨j, set⟩
    by_cases root : j = 0
    · exact root ▸ set
    · rw [absent j root] at set
      simp at set
  calc treeOf op l = ⟨(treeOf op l).val, (treeOf op l).flags⟩ := rfl
    _ = _ := by rw [value, flags]

end

section

variable {α : Type} (op : α → α → α)

/-- The present leaves of a list, joined to the right of a start. -/
def foldLeaves (s : α) (l : List (Option α)) : α := (l.filterMap id).foldl op s

theorem foldLeaves_cons (s : α) (x : Option α) (l : List (Option α)) : foldLeaves op s (x :: l) = foldLeaves op (x.elim s (op s)) l := by
  cases x <;> rfl

/-- The pairwise tree of an associative operator keeps the order of its leaves. -/
theorem foldLeaves_joinPairs [Std.Associative op] : ∀ (l : List (Option α)) (s : α),
    foldLeaves op s (joinPairs (fun x y => .pure (op x y)) l).val = foldLeaves op s l
  | [], s => rfl
  | [x], s => rfl
  | x :: y :: t, s => by
    rw [joinPairs_cons_cons, foldLeaves_cons, foldLeaves_cons, foldLeaves_cons, foldLeaves_joinPairs t]
    cases x <;> cases y <;> simp [joinTwo, Fl.map, Fl.pure, Std.Associative.assoc (op := op)]

theorem foldLeaves_joinLevels [Std.Associative op] (k : Nat) (l : List (Option α)) (s : α) :
    foldLeaves op s (joinLevels (fun x y => .pure (op x y)) k l).val = foldLeaves op s l := by
  induction k with
  | zero => rfl
  | succ k ih =>
    rw [joinLevels_succ]
    exact (foldLeaves_joinPairs op _ s).trans ih

end

theorem length_joinPairs {α : Type} (op : α → α → Fl α) : ∀ l : List (Option α), (joinPairs op l).val.length = (l.length + 1) / 2
  | [] => by simp [joinPairs, Fl.pure]
  | [x] => by simp [joinPairs, Fl.pure]
  | x :: y :: t => by
    rw [joinPairs_cons_cons, List.length_cons, length_joinPairs op t, List.length_cons, List.length_cons]
    omega

theorem length_joinLevels_le {α : Type} (op : α → α → Fl α) {k : Nat} {l : List (Option α)} (enough : l.length ≤ 2 ^ k) :
    (joinLevels op k l).val.length ≤ 1 := by
  induction k generalizing l with
  | zero => exact enough
  | succ k ih =>
    refine ih (l := (joinPairs op l).val) ?_
    rw [length_joinPairs]
    omega

/-- The root of the tree of an associative operator joins the present leaves in their order (R206). -/
theorem treeOf_pure {α : Type} (op : α → α → α) [Std.Associative op] (l : List (Option α)) (s : α) :
    (treeOf (fun x y => .pure (op x y)) l).val.elim s (op s) = foldLeaves op s l := by
  have one := length_joinLevels_le (fun x y => .pure (op x y)) (Nat.lt_log2_self (n := l.length)).le
  rw [← foldLeaves_joinLevels op (Nat.log2 l.length + 1) l s]
  unfold treeOf Fl.map foldLeaves
  dsimp only
  match joinLevels (fun x y => Fl.pure (op x y)) (Nat.log2 l.length + 1) l, one with
  | ⟨[], _⟩, _ => rfl
  | ⟨[none], _⟩, _ => rfl
  | ⟨[some x], _⟩, _ => rfl

end Sys2Proof.Machine
end

section
/-! Scans and the running argmax as folds over the active elements up to each place (R207, R208). -/

namespace Sys2Proof.Machine

/-- A fold over the active elements up to number i. -/
def foldActive {β : Type} (f : β → Nat → β) (b : β) (act i : Nat) : β := ((List.range (i + 1)).filter (bitOf act)).foldl f b

section

variable {β : Type} (f : β → Nat → β) (b : β) (act : Nat)

theorem foldActive_zero : foldActive f b act 0 = if act % 2 = 1 then f b 0 else b := by
  unfold foldActive
  rw [List.range_one, List.filter_cons, bitOf_zero]
  by_cases odd : act % 2 = 1 <;> simp [odd]

theorem foldActive_succ (i : Nat) : foldActive f b act (i + 1) =
    foldActive (fun b j => f b (j + 1)) (if act % 2 = 1 then f b 0 else b) (act / 2) i := by
  unfold foldActive
  rw [List.range_succ_eq_map, List.filter_cons, List.filter_map, bitOf_zero]
  simp only [Function.comp_def, Nat.succ_eq_add_one, bitOf_succ, decide_eq_true_eq]
  split <;> simp [List.foldl_map]

end

theorem Arch.foldActive_active {β : Type} (a : Arch) (m : BitVec 4) {n i : Nat} (below : i < n) (f : β → Nat → β) (b : β) :
    foldActive f b (a.active m n) i = ((List.range (i + 1)).filter (maskOn a m)).foldl f b := by
  unfold foldActive
  rw [a.filter_active m below]

/-- One step of a scan: the operator on the running value and element j, flags accumulated (R64, R207). -/
def scanStep (op : Num → Num → Fl Num) (x : Nat → Num) (r : Fl Num) (j : Nat) : Fl Num := r.bind fun r => op r (x j)

/-- The steps of a scan run on from the value before them. -/
theorem foldl_scanStep (op : Num → Num → Fl Num) (x : Nat → Num) (l : List Nat) (r : Fl Num) :
    l.foldl (scanStep op x) r = r.bind fun v => l.foldl (scanStep op x) (.pure v) := by
  induction l generalizing r with
  | nil => exact (Fl.bind_pure r).symm
  | cons j l ih =>
    have first (v : Num) : scanStep op x (.pure v) j = op v (x j) := Fl.pure_bind _ _
    simp only [List.foldl_cons, first]
    rw [ih, funext fun v => ih (op v (x j))]
    exact Fl.bind_assoc _ _ _

section

variable (op : Num → Num → Fl Num) (enc : Num → Fl Nat)

/-- The running value after element i, encoded. -/
def scanCode (x : Nat → Num) (run : Num) (act i : Nat) : Fl Nat := (foldActive (scanStep op x) (.pure run) act i).bind enc

theorem scanCode_zero {act : Nat} (odd : act % 2 = 1) (x : Nat → Num) (run : Num) :
    scanCode op enc x run act 0 = (op run (x 0)).bind enc := by
  unfold scanCode
  rw [foldActive_zero, if_pos odd]
  exact congrArg (·.bind enc) (Fl.pure_bind run _)

theorem scanCode_succ_of_odd {act : Nat} (odd : act % 2 = 1) (x : Nat → Num) (run : Num) (i : Nat) :
    scanCode op enc x run act (i + 1) =
      (op run (x 0)).bind fun v => scanCode op enc (fun j => x (j + 1)) v (act / 2) i := by
  have first : scanStep op x (.pure run) 0 = op run (x 0) := Fl.pure_bind _ _
  unfold scanCode
  rw [foldActive_succ, if_pos odd, first, ← Fl.bind_assoc]
  exact congrArg (·.bind enc) (foldl_scanStep op (fun j => x (j + 1)) _ _)

theorem scanCode_succ_of_even {act : Nat} (even : ¬act % 2 = 1) (x : Nat → Num) (run : Num) (i : Nat) :
    scanCode op enc x run act (i + 1) = scanCode op enc (fun j => x (j + 1)) run (act / 2) i := by
  unfold scanCode
  rw [foldActive_succ, if_neg even]
  rfl

/-- A scan gives each active element the running value that it reaches there (R207). -/
theorem scanFrom_getD (run : Num) (act : Nat) (l : List Num) (i : Nat) : (scanFrom op enc run act l).val.getD i none =
    if i < l.length ∧ bitOf act i then some (scanCode op enc (fun j => l.getD j .zero) run act i).val else none := by
  induction l generalizing run act i with
  | nil => simp [scanFrom, Fl.pure]
  | cons x t ih =>
    rw [scanFrom]
    by_cases odd : act % 2 = 1
    · rw [if_pos odd]
      cases i with
      | zero => simp [bitOf_zero, odd, scanCode_zero, Fl.bind]
      | succ i =>
        simp only [List.getD_cons_succ, ih, bitOf_succ, List.length_cons, Nat.add_lt_add_iff_right, scanCode_succ_of_odd op enc odd]
        rfl
    · rw [if_neg odd]
      cases i with
      | zero => simp [bitOf_zero, odd]
      | succ i =>
        simp only [List.getD_cons_succ, ih, bitOf_succ, List.length_cons, Nat.add_lt_add_iff_right, scanCode_succ_of_even op enc odd]

/-- A scan sets the flags of its active elements' running values and of their encoding. -/
theorem scanFrom_flags (run : Num) (act : Nat) (l : List Num) (k : Nat) : (scanFrom op enc run act l).flags.getLsbD k =
    (List.range l.length).any fun i => bitOf act i && (scanCode op enc (fun j => l.getD j .zero) run act i).flags.getLsbD k := by
  induction l generalizing run act with
  | nil => simp [scanFrom, Fl.pure]
  | cons x t ih =>
    rw [List.length_cons, List.range_succ_eq_map, List.any_cons, List.any_map, scanFrom]
    simp only [Function.comp_def, Nat.succ_eq_add_one, bitOf_succ, bitOf_zero]
    by_cases odd : act % 2 = 1
    · rw [if_pos odd]
      simp only [scanCode_succ_of_odd op enc odd, scanCode_zero op enc odd, decide_eq_true odd, Bool.true_and, List.getD_cons_succ,
        List.getD_cons_zero]
      simp only [BitVec.getLsbD_or, ih, Fl.bind]
      cases (op run x).flags.getLsbD k <;> simp
    · rw [if_neg odd]
      simp [odd, ih, scanCode_succ_of_even]

end

/-- The running argmax after value x of number i: a NaN and a value that is not above the best leave it (R208). -/
def argmaxStep (x : Num) (i : Nat) (best : Option (Num × Nat)) : Option (Num × Nat) :=
  if !x.isNan && (match best with | some b => zeroLt b.1 x | none => true) then some (x, i) else best

/-- The code that the running argmax gives: base and the index of the best element, or -1 (R208). -/
def argmaxCode (td : Tag) (base : Int) (best : Option Nat) : Nat :=
  ((match best with | some j => base + j | none => -1 : Int) % 2 ^ td.bits).toNat

theorem argmaxFrom_cons (td : Tag) (base : Int) (best : Option (Num × Nat)) (act i : Nat) (x : Num) (t : List Num) :
    argmaxFrom td base best act i (x :: t) = if act % 2 = 1 then
      some (argmaxCode td base ((argmaxStep x i best).map (·.2))) :: argmaxFrom td base (argmaxStep x i best) (act / 2) (i + 1) t
    else none :: argmaxFrom td base best (act / 2) (i + 1) t := by
  have code (b : Option (Num × Nat)) :
      argmaxCode td base (b.map (·.2)) = intCode td (match b with | some b => base + b.2 | none => -1) := by
    unfold argmaxCode intCode
    push_cast
    cases b <;> rfl
  rw [code]
  rfl

theorem argmaxFrom_getD (td : Tag) (base : Int) (best : Option (Num × Nat)) (act i : Nat) (l : List Num) (j : Nat) :
    (argmaxFrom td base best act i l).getD j none = if j < l.length ∧ bitOf act j then
      some (argmaxCode td base ((foldActive (fun b j => argmaxStep (l.getD j .zero) (i + j) b) best act j).map (·.2))) else none := by
  induction l generalizing best act i j with
  | nil => simp [argmaxFrom]
  | cons x t ih =>
    rw [argmaxFrom_cons]
    by_cases odd : act % 2 = 1
    · rw [if_pos odd]
      cases j with
      | zero => simp [foldActive_zero, bitOf_zero, odd]
      | succ j =>
        simp only [List.getD_cons_succ, List.getD_cons_zero, ih, foldActive_succ, if_pos odd, bitOf_succ, List.length_cons,
          Nat.add_lt_add_iff_right, Nat.add_zero, Nat.add_assoc, Nat.add_comm 1]
    · rw [if_neg odd]
      cases j with
      | zero => simp [bitOf_zero, odd]
      | succ j =>
        simp only [List.getD_cons_succ, ih, foldActive_succ, if_neg odd, bitOf_succ, List.length_cons, Nat.add_lt_add_iff_right,
          Nat.add_assoc, Nat.add_comm 1]

/-- One step of the running argmax by the number of the best element alone. -/
def bestStep (x : Nat → Num) (b : Option Nat) (j : Nat) : Option Nat :=
  if (x j).isNan then b else match b with
    | some k => if zeroLt (x k) (x j) then some j else b
    | none => some j

/-- The best value is that of the best element. -/
theorem foldl_argmaxStep (x : Nat → Num) (l : List Nat) :
    (l.foldl (fun b j => argmaxStep (x j) j b) none).map (·.2) = l.foldl (bestStep x) none := by
  have pairs : l.foldl (fun b j => argmaxStep (x j) j b) none = (l.foldl (bestStep x) none).map fun k => (x k, k) := by
    refine List.foldl_hom (Option.map fun k => (x k, k)) (init := none) fun b j => ?_
    unfold argmaxStep bestStep
    cases b with
    | none => cases (x j).isNan <;> simp
    | some k => cases (x j).isNan <;> cases better : zeroLt (x k) (x j) <;> simp [better]
  rw [pairs]
  cases l.foldl (bestStep x) none <;> rfl

end Sys2Proof.Machine
end

section
/-! Reductions, scans and the running argmax do their works (R67, R191, R206 to R208). -/

namespace Sys2Proof.Machine

/-- The operators of a numeric reduction by number (R206, R207). -/
theorem foldOp_eq (f : VA) (k : Nat) (p : Tag) :
    foldOp k p (modeOf f) f.sat = if k = 0 then sumIn f p else if k = 1 then maxIn f p else minIn f p := by
  funext x y
  unfold foldOp
  by_cases sum : k = 0
  · rw [if_pos sum, if_pos sum]
    rfl
  · rw [if_neg sum, if_neg sum]
    by_cases most : k = 1
    · rw [if_pos most, most]
      rfl
    · rw [if_neg most, beq_eq_false_iff_ne.2 most]
      rfl

theorem Vals.headD_eq_at (v : Vals) : v.xs.headD .zero = v.at 0 := by
  rw [Vals.at_eq]
  cases v.xs <;> rfl

/-- The tree over the active elements of an operand (R67). -/
theorem treeOf_active {a : Arch} {m : BitVec 4} {n : Nat} {v : Vals} (full : v.xs.length = n) (op : Num → Num → Fl Num) :
    treeOf op (leaves (a.active m n) v.xs) =
      treeNode op (fun i => if i < n ∧ maskOn a m i then some (v.at i) else none) (Nat.log2 n + 1) 0 := by
  rw [treeOf_eq_treeNode, length_leaves, full]
  congr 1
  funext i
  rw [leaves_getD _ _ .zero, full, Arch.bitOf_active]
  by_cases inside : i < n <;> simp [inside, Vals.at_eq]

/-- Without an active element the tree has no root (R191). -/
theorem active_eq_zero_iff {a : Arch} {m : BitVec 4} {n : Nat} (x : Nat → Num) (op : Num → Num → Fl Num) : a.active m n = 0 ↔
    (treeNode op (fun i => if i < n ∧ maskOn a m i then some (x i) else none) (Nat.log2 n + 1) 0).val = none := by
  rw [treeNode_eq_none_iff]
  constructor
  · intro none i _
    have := a.bitOf_active m n i
    rw [none, bitOf_eq_testBit, Nat.zero_testBit] at this
    exact if_neg (by simpa using this.symm)
  · intro none
    refine Nat.eq_of_testBit_eq fun i => ?_
    rw [Nat.zero_testBit, ← bitOf_eq_testBit, Arch.bitOf_active]
    by_cases inside : i < n
    · simpa [inside] using none i (Nat.div_eq_of_lt (inside.trans Nat.lt_log2_self))
    · rw [decide_eq_false inside, Bool.false_and]

/-- The result of a reduction: that of its root, or the start alone and no flag where there is none (R191, R206). -/
theorem encode_root {root : Fl (Option Num)} {empty : Prop} [Decidable empty] (absent : empty ↔ root.val = none) (step : Num → Fl Num)
    (start : Num) (enc : Num → Fl Nat) :
    let c := (root.bind fun x => match x with
      | some x => step x
      | none => .pure start).bind enc
    (⟨[some c.val], if empty then 0 else c.flags⟩ : Fl (List (Option Nat))) = Fl.map (fun c => [some c]) (match root.val with
      | some r => root.bind fun _ => (step r).bind enc
      | none => ⟨(enc start).val, 0⟩) := by
  intro c
  have value : c = root.bind fun x => (match x with
      | some x => step x
      | none => Fl.pure start).bind enc := Fl.bind_assoc _ _ _
  obtain ⟨_ | r, flags⟩ := root
  · rw [if_pos (absent.2 rfl), value]
    simp [Fl.bind, Fl.map, Fl.pure]
  · rw [if_neg fun e => Option.some_ne_none r (absent.1 e), value]
    rfl

theorem getD_singleton (x : Nat) (i : Nat) : [some x].getD i none = if i < 1 ∧ true = true then some x else none := by
  cases i <;> simp

/-- One code in element 0, with its flags, is the work of an instruction that writes element 0 alone. -/
theorem VectorWork.leaves_first {w : VectorWork} {a : Arch} {fl : Flags} {r : Nat} {t : Tag} {dom : Nat} {code : Fl Nat}
    (judged : a.judge w.reads = .ok fl)
    (form : w = ⟨1, fun _ => true, w.reads, w.ok, fun _ => 0, [(r, t, dom, fun _ => code)], none, none⟩) :
    w.Leaves a (a.put r t dom fl (code.map fun c => [some c])) := by
  rw [form]
  exact VectorWork.leaves_put judged rfl rfl rfl (getD_singleton _) fun k => by simp [Fl.map]

/-- Operands that are judged first, for an instruction without a requirement on tags. -/
theorem bind_ok_bind {α β γ : Type} (x : Except Cause α) (g : α → β) (k : β → Except Cause γ) :
    (x.bind fun v => .ok (g v)).bind k = x.bind fun v => (require true).bind fun _ => k (g v) := by cases x <;> rfl

section

variable (a : Arch) (rb : Nat) (f : VA)

/-- What `reduceOp` writes: the encoded result, with its flags where an element is active (R191, R206). -/
def Arch.reduced (k : Nat) : Fl (List (Option Nat)) :=
  let n := a.count rb [a.tagOf f.va.toNat]
  let act := a.active f.mask n
  let op := foldOp k (promote (a.tagOf f.va.toNat) (a.tagB f)) (modeOf f) f.sat
  let z := a.startValue f act n (modeOf f) f.sat
  let root := treeOf op (leaves act (a.values f.va.toNat act n false (modeOf f) f.sat).xs)
  let res := root.bind fun x => match x with
    | some x => op (z.xs.headD .zero) x
    | none => .pure (z.xs.headD .zero)
  let c := res.bind (encodeNum (a.result f.tag f.vd) (modeOf f) f.sat 0)
  ⟨[some c.val], if act = 0 then 0 else c.flags⟩

theorem Arch.reduceOp_eq (k : Nat) (op : Tag → Num → Num → Fl Num) : a.reduceOp rb f k =
    (a.judge (reductionWork a rb f op).reads).bind fun fl => (require (reductionWork a rb f op).ok).bind fun _ =>
      .ok (a.put f.vd.toNat (a.result f.tag f.vd) 0 fl (a.reduced rb f k)) :=
  bind_ok_bind _ _ _

/-- A reduction by its operator's number is the work of that operator. -/
theorem Arch.reduced_leaves {k : Nat} {op : Tag → Num → Num → Fl Num} {fl : Flags}
    (same : ∀ p, foldOp k p (modeOf f) f.sat = op p) (judged : a.judge (reductionWork a rb f op).reads = .ok fl) :
    (reductionWork a rb f op).Leaves a (a.put f.vd.toNat (a.result f.tag f.vd) 0 fl (a.reduced rb f k)) := by
  have result : ∃ code : Fl Nat, a.reduced rb f k = code.map (fun c => [some c]) ∧ reductionWork a rb f op =
      ⟨1, fun _ => true, (reductionWork a rb f op).reads, true, fun _ => 0, [(f.vd.toNat, a.result f.tag f.vd, 0, fun _ => code)],
        none, none⟩ := by
    refine ⟨_, ?_, rfl⟩
    unfold Arch.reduced
    dsimp only
    rw [same, Vals.headD_eq_at, treeOf_active (a.length_values _ _ _ _ _ _)]
    exact encode_root (active_eq_zero_iff _ _) _ _ _
  obtain ⟨code, written, form⟩ := result
  rw [written]
  exact VectorWork.leaves_first judged form

/-- What `reduceBits` writes (R206). -/
def Arch.reducedBits (op : Nat → Nat → Nat) : Nat :=
  let n := a.count rb [a.tagOf f.va.toNat]
  let act := a.active f.mask n
  let z := a.startCode f act n
  match (treeOf (fun x y => Fl.pure (op x y)) (leaves act (a.plainCodes f.va.toNat act n .rne false).1.val)).val with
    | some x => op (z.1.val.headD 0) x
    | none => z.1.val.headD 0

theorem Arch.reduceBits_eq (op : Nat → Nat → Nat) : a.reduceBits rb f op =
    (a.judge (bitReductionWork a rb f op).reads).bind fun fl => (require (bitReductionWork a rb f op).ok).bind fun _ =>
      .ok (a.put f.vd.toNat (a.result f.tag f.vd) 0 fl ((Fl.pure (a.reducedBits rb f op)).map fun c => [some c])) := by
  have width (x y : Tag) : (decide (x.bits = y.bits)) = (x.bits == y.bits) := (beq_eq_decide _ _).symm
  unfold Arch.reduceBits bothInt
  simp only [width]
  rfl

/-- Bits are folded in the order of the active elements (R206). -/
theorem Arch.reducedBits_eq (op : Nat → Nat → Nat) [Std.Associative op] :
    let n := a.count rb [a.tagOf f.va.toNat]
    let act := a.active f.mask n
    a.reducedBits rb f op = ((List.range n).filter (maskOn a f.mask)).foldl
      (fun r i => op r ((a.plainCodes f.va.toNat act n .rne false).1.val.getD i 0)) ((a.startCode f act n).1.val.getD 0 0) := by
  intro n act
  have full : (a.plainCodes f.va.toNat act n .rne false).1.val.length = n := a.length_codesFor _ _ _ _ _ _
  have start : (a.startCode f act n).1.val.headD 0 = (a.startCode f act n).1.val.getD 0 0 := by
    cases (a.startCode f act n).1.val <;> rfl
  have tree : a.reducedBits rb f op = foldLeaves op ((a.startCode f act n).1.val.headD 0)
      (leaves act (a.plainCodes f.va.toNat act n .rne false).1.val) := by
    rw [← treeOf_pure]
    unfold Arch.reducedBits
    dsimp only
    cases (treeOf (fun x y => Fl.pure (op x y)) (leaves act (a.plainCodes f.va.toNat act n .rne false).1.val)).val <;> rfl
  rw [tree, foldLeaves, filterMap_leaves, Arch.packed_active full 0, List.foldl_map, start]

theorem Arch.reducedBits_leaves {op : Nat → Nat → Nat} [Std.Associative op] {fl : Flags}
    (judged : a.judge (bitReductionWork a rb f op).reads = .ok fl) : (bitReductionWork a rb f op).Leaves a
      (a.put f.vd.toNat (a.result f.tag f.vd) 0 fl ((Fl.pure (a.reducedBits rb f op)).map fun c => [some c])) := by
  rw [a.reducedBits_eq rb f op]
  exact VectorWork.leaves_first judged rfl

end

/-- The active elements below n are those of the mask. -/
theorem Arch.any_active (a : Arch) (m : BitVec 4) (n : Nat) (p : Nat → Bool) :
    ((List.range n).any fun i => bitOf (a.active m n) i && p i) = (List.range n).any fun i => maskOn a m i && p i := by
  rw [Bool.eq_iff_iff, List.any_eq_true, List.any_eq_true]
  refine exists_congr fun i => and_congr_right fun hi => ?_
  rw [Arch.bitOf_active, decide_eq_true (List.mem_range.1 hi), Bool.true_and]

/-- A scan is the work of its running values (R207). -/
theorem scanFrom_leaves {w : VectorWork} {a : Arch} {fl : Flags} {m : BitVec 4} {n : Nat} {v : Vals} {r : Nat} {t : Tag} {dom : Nat}
    {op : Num → Num → Fl Num} {enc : Num → Fl Nat} {start : Num} (judged : a.judge w.reads = .ok fl) (full : v.xs.length = n)
    (form : w = ⟨n, maskOn a m, w.reads, w.ok, fun _ => 0, [(r, t, dom, fun i =>
      (((List.range (i + 1)).filter (maskOn a m)).foldl (scanStep op v.at) (.pure start)).bind enc)], none, none⟩) :
    w.Leaves a (a.put r t dom fl (scanFrom op enc start (a.active m n) v.xs)) := by
  have code {i : Nat} (below : i < n) : scanCode op enc v.at start (a.active m n) i =
      (((List.range (i + 1)).filter (maskOn a m)).foldl (scanStep op v.at) (.pure start)).bind enc := by
    unfold scanCode
    rw [a.foldActive_active m below]
  have values : (fun j => v.xs.getD j .zero) = v.at := rfl
  rw [form]
  refine VectorWork.leaves_put judged rfl rfl rfl (fun i => ?_) fun k => ?_
  · rw [scanFrom_getD, full, values, Arch.bitOf_active]
    by_cases below : i < n
    · simp [below, ← code below]
    · simp [below]
  · rw [scanFrom_flags, full, values, a.any_active, Bool.eq_iff_iff, List.any_eq_true, List.any_eq_true]
    refine exists_congr fun i => and_congr_right fun hi => ?_
    dsimp only
    rw [← code (List.mem_range.1 hi)]
    simp

theorem getLsbD_when (c : Bool) (f : Flags) (k : Nat) : (Flags.when c f).getLsbD k = (c && f.getLsbD k) := by
  cases c <;> simp [Flags.when]

/-- The running argmax is the work of its best elements; each signalling NaN of an active element sets NV (R208). -/
theorem argmaxFrom_leaves {w : VectorWork} {a : Arch} {fl : Flags} {m : BitVec 4} {n : Nat} {v : Vals} {r : Nat} {t : Tag} {dom : Nat}
    {base : Int} (judged : a.judge w.reads = .ok fl) (full : v.xs.length = n)
    (form : w = ⟨n, maskOn a m, w.reads, w.ok, fun i => .when (v.at i).isSnan .nv, [(r, t, dom, fun i =>
      .pure (argmaxCode t base (((List.range (i + 1)).filter (maskOn a m)).foldl (bestStep v.at) none)))], none, none⟩) :
    w.Leaves a (a.put r t dom (fl ||| .when ((packed (a.active m n) v.xs).any Num.isSnan) .nv)
      (.pure (argmaxFrom t base none (a.active m n) 0 v.xs))) := by
  rw [Arch.put_also, form]
  refine VectorWork.leaves_put judged rfl rfl rfl (fun i => ?_) fun k => ?_
  · change (argmaxFrom t base none (a.active m n) 0 v.xs).getD i none = _
    rw [argmaxFrom_getD, full, Arch.bitOf_active]
    by_cases below : i < n
    · simp only [Nat.zero_add, a.foldActive_active m below, below, decide_true, Bool.true_and, true_and]
      rw [show (fun b j => argmaxStep (v.xs.getD j .zero) j b) = fun b j => argmaxStep (v.at j) j b from rfl, foldl_argmaxStep]
      rfl
    · simp [below]
  · rw [Arch.packed_active full .zero, List.any_map, List.any_filter]
    simp only [Fl.also, Fl.pure, BitVec.getLsbD_or, getLsbD_when, List.and_any_distrib_right]
    simp [Vals.at, Bool.and_assoc]

/-- The operator that a scan names (R207). -/
theorem foldOp_var21 (f : VA) (p : Tag) : foldOp f.var21.toNat p (modeOf f) f.sat =
    if f.var21 = 0 then sumIn f p else if f.var21 = 1 then maxIn f p else minIn f p := by
  rw [foldOp_eq]
  simp only [← BitVec.toNat_inj]
  rfl

section

variable {s : State} {h : Hart} {i : Instr} {w : VectorWork}

theorem chargedByElements_of_foldWork {a : Arch} {rb : Nat} (work : foldWork a rb i = some w) : ChargedByElements i := by
  cases i with
  | vrsum f | vrmax f | vrmin f | vrand f | vrior f | vrxor f | vscan f | vscmx f => exact chargedByElements_of rfl fun _ _ _ => rfl
  | _ => cases work

theorem reduction_works {f : VA} {k : Nat} {op : Tag → Num → Num → Fl Num} (hi : Issues s h i)
    (runs : exec i s = .next (s.vector i fun a rb => a.reduceOp rb f k)) (charged : ChargedByElements i)
    (same : ∀ p, foldOp k p (modeOf f) f.sat = op p) : Works i s h (reductionWork h.arch (s.regBytes h) f op) :=
  works_of_judged hi runs charged (h.arch.reduceOp_eq _ f k op) fun _ judged => h.arch.reduced_leaves _ f same judged

theorem bitReduction_works {f : VA} {op : Nat → Nat → Nat} [Std.Associative op] (hi : Issues s h i)
    (runs : exec i s = .next (s.vector i fun a rb => a.reduceBits rb f op)) (charged : ChargedByElements i) :
    Works i s h (bitReductionWork h.arch (s.regBytes h) f op) :=
  works_of_judged hi runs charged (h.arch.reduceBits_eq _ f op) fun _ judged => h.arch.reducedBits_leaves _ f judged

theorem vscan_works {f : VA} (hi : Issues s h (.vscan f)) (charged : ChargedByElements (.vscan f))
    (work : foldWork h.arch (s.regBytes h) (.vscan f) = some w) : Works (.vscan f) s h w := by
  cases work
  refine works_of_judged (op := fun a rb => a.scanOp rb f) hi rfl charged (bind_ok_bind _ _ _) fun fl judged => ?_
  dsimp only
  rw [foldOp_var21, Vals.headD_eq_at]
  exact scanFrom_leaves judged (h.arch.length_values _ _ _ _ _ _) rfl

theorem vscmx_works {f : VA} (hi : Issues s h (.vscmx f)) (charged : ChargedByElements (.vscmx f))
    (work : foldWork h.arch (s.regBytes h) (.vscmx f) = some w) : Works (.vscmx f) s h w := by
  cases work
  refine works_of_judged (op := fun a rb => a.argmaxOp rb f) hi rfl charged rfl fun fl judged => ?_
  exact argmaxFrom_leaves judged (h.arch.length_values _ _ _ _ _ _) rfl

end

/-- Settles O37: the numeric and the bitwise reductions, `vscan` and `vscmx` in turn. -/
theorem vectorFolds : Obligations.VectorFolds := by
  unfold Obligations.VectorFolds
  intro s h i w hi work
  have charged := chargedByElements_of_foldWork work
  cases i with
  | vrsum f =>
    cases work
    exact reduction_works hi rfl charged fun p => foldOp_eq f 0 p
  | vrmax f =>
    cases work
    exact reduction_works hi rfl charged fun p => foldOp_eq f 1 p
  | vrmin f =>
    cases work
    exact reduction_works hi rfl charged fun p => foldOp_eq f 2 p
  | vrand f =>
    cases work
    exact bitReduction_works hi rfl charged
  | vrior f =>
    cases work
    exact bitReduction_works hi rfl charged
  | vrxor f =>
    cases work
    exact bitReduction_works hi rfl charged
  | vscan f => exact vscan_works hi charged work
  | vscmx f => exact vscmx_works hi charged work
  | _ => cases work

end Sys2Proof.Machine
end

section
/-! The decoder inverts the encoder (spec/05): the fields of the word of each format, and what each class reads from them. -/

namespace Sys2Proof

/-- A field of a word, by its bits as a number. -/
theorem fld_eq {w lo n : Nat} {v : BitVec n} (bits : w / 2 ^ lo % 2 ^ n = v.toNat) : fld w lo n = v :=
  BitVec.eq_of_toNat_eq (by rw [fld, BitVec.toNat_ofNat, bits])

/-- A field that starts at bit 0. -/
theorem fld_zero {w n : Nat} {v : BitVec n} (bits : w % 2 ^ n = v.toNat) : fld w 0 n = v :=
  fld_eq (by rw [pow_zero, Nat.div_one, bits])

theorem bit_eq {w k : Nat} {b : Bool} (value : w / 2 ^ k % 2 = b.toNat) : bit w k = b := by
  rw [bit, value]
  cases b <;> rfl

/-- The low four bits of a 6-bit field that holds a mask's number (R185). -/
theorem fld_mask {w lo : Nat} {m : BitVec 4} (wide : fld w lo 6 = m.setWidth 6) : fld w lo 4 = m := by
  have narrow : fld w lo 4 = (fld w lo 6).setWidth 4 := (BitVec.setWidth_ofNat_of_le (by decide) _).symm
  rw [narrow, wide, BitVec.setWidth_setWidth_of_le m (by decide), BitVec.setWidth_eq]

/-- What the reader of class 00 finds is decoded, since the word is that instruction's encoding (R89). -/
theorem decode_class0 {i : Instr} (low : encodeNat i < 2 ^ 30) (read : readClass0 (encodeNat i) = some i) :
    decodeNat (encodeNat i) = .ok i := by
  have cls : encodeNat i / 2 ^ 30 % 4 = 0 := by omega
  have whole : encodeNat i % 2 ^ (8 * 4) = encodeNat i := Nat.mod_eq_of_lt (low.trans (by decide))
  unfold decodeNat sizeOfClass
  rw [cls]
  dsimp only
  rw [read]
  exact if_pos (beq_iff_eq.2 whole.symm)

theorem decode_class1 {i : Instr} (top : encodeNat i / 2 ^ 30 = 1) (read : readClass1 (encodeNat i) = some i) :
    decodeNat (encodeNat i) = .ok i := by
  have whole : encodeNat i % 2 ^ (8 * 4) = encodeNat i := Nat.mod_eq_of_lt (by omega)
  unfold decodeNat sizeOfClass
  rw [top]
  dsimp only
  rw [read]
  exact if_pos (beq_iff_eq.2 whole.symm)

theorem decode_class2 {i : Instr} (cls : encodeNat i / 2 ^ 30 % 4 = 2) (low : encodeNat i < 2 ^ 64)
    (read : readClass2 (encodeNat i) = some i) : decodeNat (encodeNat i) = .ok i := by
  unfold decodeNat sizeOfClass
  rw [cls]
  dsimp only
  rw [read]
  exact if_pos (beq_iff_eq.2 (Nat.mod_eq_of_lt low).symm)

theorem decode_class3 {i : Instr} (top : encodeNat i / 2 ^ 30 = 3) (read : readClass3 (encodeNat i) = some i) :
    decodeNat (encodeNat i) = .ok i := by
  have whole : encodeNat i % 2 ^ (8 * 4) = encodeNat i := Nat.mod_eq_of_lt (by omega)
  unfold decodeNat sizeOfClass
  rw [top]
  dsimp only
  rw [read]
  exact if_pos (beq_iff_eq.2 whole.symm)

section Formats

variable {i : Instr} {op fn major imm : Nat} {d a b f1 f2 f3 : Reg}

/-- A word of class 00 that holds its op above `rest` (Table 5.14). -/
theorem decode_op0 {rest : Nat} (hop : op < 64) (hrest : rest < 2 ^ 24) (enc : encodeNat i = op * 2 ^ 24 + rest)
    (read : ∀ w, w / 2 ^ 24 % 64 = op → w % 2 ^ 24 = rest → readClass0 w = some i) : decodeNat (encodeNat i) = .ok i :=
  decode_class0 (by omega) (read _ (by omega) (by omega))

/-- A word of class 01 that holds its op above `rest` (Table 5.16). -/
theorem decode_op1 {rest : Nat} (hop : op < 64) (hrest : rest < 2 ^ 24) (enc : encodeNat i = 2 ^ 30 + op * 2 ^ 24 + rest)
    (read : ∀ w, w / 2 ^ 24 % 64 = op → w % 2 ^ 24 = rest → readClass1 w = some i) : decodeNat (encodeNat i) = .ok i :=
  decode_class1 (by omega) (read _ (by omega) (by omega))

/-- SR (Table 5.2). -/
theorem decode_sr (hfn : fn < 64) (enc : encodeNat i = srWord fn d a b)
    (read : ∀ w, w % 64 = fn → fld w 18 6 = d → fld w 12 6 = a → fld w 6 6 = b → readSR w = some i) :
    decodeNat (encodeNat i) = .ok i := by
  refine decode_op0 (op := 0) (rest := srWord fn d a b) (by decide) (by unfold srWord; omega)
    (enc.trans (by unfold srWord; omega)) fun w op rest => ?_
  have sr : readClass0 w = readSR w := by
    rw [readClass0, op]
    rfl
  unfold srWord at rest
  exact sr.trans (read w (by omega) (fld_eq (by omega)) (fld_eq (by omega)) (fld_eq (by omega)))

/-- The conversions have an op of their own (Table 11.5). -/
theorem readClass0_conv {w : Nat} (op : w / 2 ^ 24 % 64 = 0x1A) : readClass0 w = readConv w := by
  rw [readClass0, op]
  rfl

/-- SI and SB (Tables 5.3, 5.6). -/
theorem decode_si (hop : op < 64) (himm : imm < 2 ^ 12) (enc : encodeNat i = siWord op d a imm)
    (read : ∀ w, w / 2 ^ 24 % 64 = op → fld w 18 6 = d → fld w 12 6 = a → w % 2 ^ 12 = imm → readClass0 w = some i) :
    decodeNat (encodeNat i) = .ok i := by
  unfold siWord at enc
  refine decode_op0 (rest := d.toNat * 2 ^ 18 + a.toNat * 2 ^ 12 + imm) hop (by omega) (enc.trans (by omega)) fun w op rest => ?_
  exact read w op (fld_eq (by omega)) (fld_eq (by omega)) (by omega)

/-- SU (Table 5.4). -/
theorem decode_su {imm : BitVec 18} (hop : op < 64) (enc : encodeNat i = op * 2 ^ 24 + d.toNat * 2 ^ 18 + imm.toNat)
    (read : ∀ w, w / 2 ^ 24 % 64 = op → fld w 18 6 = d → fld w 0 18 = imm → readClass0 w = some i) : decodeNat (encodeNat i) = .ok i :=
  decode_op0 hop (rest := d.toNat * 2 ^ 18 + imm.toNat) (by omega) (enc.trans (by omega)) fun w op _ =>
    read w op (fld_eq (by omega)) (fld_zero (by omega))

/-- SF (Table 5.5). -/
theorem decode_sf {rnd : BitVec 2} {wide : Bool} {sub : Nat} (hop : op < 64) (hsub : sub < 8)
    (enc : encodeNat i = sfWord op d a b rnd wide sub)
    (read : ∀ w, w / 2 ^ 24 % 64 = op → fld w 18 6 = d → fld w 12 6 = a → fld w 6 6 = b → fld w 4 2 = rnd → bit w 3 = wide →
      w % 8 = sub → readClass0 w = some i) : decodeNat (encodeNat i) = .ok i := by
  unfold sfWord at enc
  have hwide := wide.toNat_lt
  refine decode_op0 (rest := d.toNat * 2 ^ 18 + a.toNat * 2 ^ 12 + b.toNat * 2 ^ 6 + rnd.toNat * 2 ^ 4 + wide.toNat * 2 ^ 3 + sub)
    hop (by omega) (enc.trans (by omega)) fun w op rest => ?_
  exact read w op (fld_eq (by omega)) (fld_eq (by omega)) (fld_eq (by omega)) (fld_eq (by omega)) (bit_eq (by omega)) (by omega)

/-- SL (Table 5.8). -/
theorem decode_sl {n : Bool} {e : BitVec 16} (enc : encodeNat i = 0x28 * 2 ^ 24 + n.toNat * 2 ^ 23 + a.toNat * 2 ^ 16 + e.toNat)
    (read : ∀ w, w / 2 ^ 24 % 64 = 0x28 → bit w 23 = n → fld w 16 6 = a → fld w 0 16 = e → readClass0 w = some i) :
    decodeNat (encodeNat i) = .ok i := by
  have hn := n.toNat_lt
  exact decode_op0 (rest := n.toNat * 2 ^ 23 + a.toNat * 2 ^ 16 + e.toNat) (by decide) (by omega) (enc.trans (by omega)) fun w op _ =>
    read w op (bit_eq (by omega)) (fld_eq (by omega)) (fld_zero (by omega))

/-- SLI (Table 5.9). -/
theorem decode_sli {n : Bool} {c : BitVec 11} {e : BitVec 12}
    (enc : encodeNat i = 0x29 * 2 ^ 24 + n.toNat * 2 ^ 23 + c.toNat * 2 ^ 12 + e.toNat)
    (read : ∀ w, w / 2 ^ 24 % 64 = 0x29 → bit w 23 = n → fld w 12 11 = c → fld w 0 12 = e → readClass0 w = some i) :
    decodeNat (encodeNat i) = .ok i := by
  have hn := n.toNat_lt
  exact decode_op0 (rest := n.toNat * 2 ^ 23 + c.toNat * 2 ^ 12 + e.toNat) (by decide) (by omega) (enc.trans (by omega)) fun w op _ =>
    read w op (bit_eq (by omega)) (fld_eq (by omega)) (fld_zero (by omega))

/-- SK (Table 5.10). -/
theorem decode_sk {m : BitVec 4} {off : BitVec 18} (hop : op < 64) (enc : encodeNat i = op * 2 ^ 24 + m.toNat * 2 ^ 20 + off.toNat)
    (read : ∀ w, w / 2 ^ 24 % 64 = op → fld w 20 4 = m → fld w 0 18 = off → readClass0 w = some i) : decodeNat (encodeNat i) = .ok i :=
  decode_op0 hop (rest := m.toNat * 2 ^ 20 + off.toNat) (by omega) (enc.trans (by omega)) fun w op _ =>
    read w op (fld_eq (by omega)) (fld_zero (by omega))

/-- SM (Table 5.11). -/
theorem decode_sm {cls : BitVec 4} {sp : BitVec 2} {disp : BitVec 6} (hop : op < 64) (enc : encodeNat i = smWord op d a cls sp disp)
    (read : ∀ w, w / 2 ^ 24 % 64 = op → fld w 18 6 = d → fld w 12 6 = a → fld w 8 4 = cls → fld w 6 2 = sp → fld w 0 6 = disp →
      readClass1 w = some i) : decodeNat (encodeNat i) = .ok i := by
  unfold smWord at enc
  refine decode_op1 (rest := d.toNat * 2 ^ 18 + a.toNat * 2 ^ 12 + cls.toNat * 2 ^ 8 + sp.toNat * 2 ^ 6 + disp.toNat)
    hop (by omega) (enc.trans (by omega)) fun w op rest => ?_
  exact read w op (fld_eq (by omega)) (fld_eq (by omega)) (fld_eq (by omega)) (fld_eq (by omega)) (fld_zero (by omega))

/-- SA (Table 5.12). -/
theorem decode_sa {ord : BitVec 2} {cls : BitVec 4} (hop : op < 64) (enc : encodeNat i = saWord op d a b ord cls)
    (read : ∀ w, w / 2 ^ 24 % 64 = op → fld w 18 6 = d → fld w 12 6 = a → fld w 6 6 = b → fld w 4 2 = ord → fld w 0 4 = cls →
      readClass1 w = some i) : decodeNat (encodeNat i) = .ok i := by
  unfold saWord at enc
  refine decode_op1 (rest := d.toNat * 2 ^ 18 + a.toNat * 2 ^ 12 + b.toNat * 2 ^ 6 + ord.toNat * 2 ^ 4 + cls.toNat)
    hop (by omega) (enc.trans (by omega)) fun w op rest => ?_
  exact read w op (fld_eq (by omega)) (fld_eq (by omega)) (fld_eq (by omega)) (fld_eq (by omega)) (fld_zero (by omega))

/-- SY (Table 5.13). -/
theorem decode_sy (hop : op < 64) (himm : imm < 2 ^ 12) (enc : encodeNat i = syWord op d a imm)
    (read : ∀ w, w / 2 ^ 24 % 64 = op → fld w 18 6 = d → fld w 12 6 = a → w % 2 ^ 12 = imm → readClass1 w = some i) :
    decodeNat (encodeNat i) = .ok i := by
  unfold syWord at enc
  refine decode_op1 (rest := d.toNat * 2 ^ 18 + a.toNat * 2 ^ 12 + imm) hop (by omega) (enc.trans (by omega)) fun w op rest => ?_
  exact read w op (fld_eq (by omega)) (fld_eq (by omega)) (by omega)

/-- CH (Table 5.24). -/
theorem decode_ch {n : BitVec 3} {slots : BitVec 24} (enc : encodeNat i = 3 * 2 ^ 30 + n.toNat * 2 ^ 27 + slots.toNat)
    (read : ∀ w, fld w 27 3 = n → fld w 0 24 = slots → readClass3 w = some i) : decodeNat (encodeNat i) = .ok i :=
  decode_class3 (by omega) (read _ (fld_eq (by omega)) (fld_zero (by omega)))

/-- A word of class 10 holds its second syllable above the first one (Table 5.17). -/
theorem decode_major {second f1 f2 f3 mask : Nat} (hmajor : major < 256) (h1 : f1 < 64) (h2 : f2 < 64) (h3 : f3 < 64) (hm : mask < 16)
    (hsecond : second < 2 ^ 32) (enc : encodeNat i = second * 2 ^ 32 + firstSyl major f1 f2 f3 mask)
    (read : ∀ w, w / 2 ^ 22 % 256 = major → w / 2 ^ 16 % 64 = f1 → w / 2 ^ 10 % 64 = f2 → w / 2 ^ 4 % 64 = f3 → w % 16 = mask →
      w / 2 ^ 32 = second → readClass2 w = some i) : decodeNat (encodeNat i) = .ok i := by
  unfold firstSyl at enc
  exact decode_class2 (by omega) (by omega)
    (read _ (by omega) (by omega) (by omega) (by omega) (by omega) (by omega))

/-- VA (Table 5.18). -/
theorem decode_va {f : VA} (hmajor : major < 256) (enc : encodeNat i = vaWord major f)
    (read : ∀ w, w / 2 ^ 22 % 256 = major → vaOf w = f → readClass2 w = some i) : decodeNat (encodeNat i) = .ok i := by
  unfold vaWord cmBits at enc
  have hsat := f.sat.toNat_lt
  refine decode_major (second := f.cls.toNat * 2 ^ 28 + f.mf.toNat * 2 ^ 26 + f.rnd.toNat * 2 ^ 24 + f.sat.toNat * 2 ^ 23 +
    f.tag.toNat * 2 ^ 19 + f.var.toNat * 2 ^ 16 + f.vc.toNat * 2 ^ 10 + f.ss.toNat * 2 ^ 4 + f.md.toNat)
    hmajor f.vd.isLt f.va.isLt f.vb.isLt f.mask.isLt (by omega) (enc.trans (by omega)) fun w major h1 h2 h3 hm second => ?_
  have cls : fld w 60 4 = f.cls := fld_eq (by omega)
  have mf : fld w 58 2 = f.mf := fld_eq (by omega)
  have rnd : fld w 56 2 = f.rnd := fld_eq (by omega)
  have sat : bit w 55 = f.sat := bit_eq (by omega)
  have tag : fld w 51 4 = f.tag := fld_eq (by omega)
  have var : fld w 48 3 = f.var := fld_eq (by omega)
  have vc : fld w 42 6 = f.vc := fld_eq (by omega)
  have ss : fld w 36 6 = f.ss := fld_eq (by omega)
  have md : fld w 32 4 = f.md := fld_eq (by omega)
  exact read w major (by rw [vaOf, fld_eq h1, fld_eq h2, fld_eq h3, fld_zero hm, cls, mf, rnd, sat, tag, var, vc, ss, md])

/-- VM (Table 5.19). -/
theorem decode_vm {f : VM} (hmajor : major < 256) (enc : encodeNat i = vmWord major f)
    (read : ∀ w, w / 2 ^ 22 % 256 = major → vmOf w = f → readClass2 w = some i) : decodeNat (encodeNat i) = .ok i := by
  unfold vmWord cmBits at enc
  have hsat := f.sat.toNat_lt
  have hsbv := f.sbv.toNat_lt
  refine decode_major (second := f.cls.toNat * 2 ^ 28 + f.mf.toNat * 2 ^ 26 + f.sbase.toNat * 2 ^ 20 + f.sstr.toNat * 2 ^ 14 +
    f.rnd.toNat * 2 ^ 12 + f.sat.toNat * 2 ^ 11 + f.nf.toNat * 2 ^ 8 + f.tag.toNat * 2 ^ 4 + f.sbv.toNat * 2 ^ 3 + f.sbn.toNat)
    hmajor f.f1.isLt f.f2.isLt f.f3.isLt f.mask.isLt (by omega) (enc.trans (by omega)) fun w major h1 h2 h3 hm second => ?_
  have cls : fld w 60 4 = f.cls := fld_eq (by omega)
  have mf : fld w 58 2 = f.mf := fld_eq (by omega)
  have sbase : fld w 52 6 = f.sbase := fld_eq (by omega)
  have sstr : fld w 46 6 = f.sstr := fld_eq (by omega)
  have rnd : fld w 44 2 = f.rnd := fld_eq (by omega)
  have sat : bit w 43 = f.sat := bit_eq (by omega)
  have nf : fld w 40 3 = f.nf := fld_eq (by omega)
  have tag : fld w 36 4 = f.tag := fld_eq (by omega)
  have sbv : bit w 35 = f.sbv := bit_eq (by omega)
  have sbn : fld w 32 3 = f.sbn := fld_eq (by omega)
  exact read w major
    (by rw [vmOf, fld_eq h1, fld_eq h2, fld_eq h3, fld_zero hm, cls, mf, sbase, sstr, rnd, sat, nf, tag, sbv, sbn])

/-- VK (Table 5.21). -/
theorem decode_vk {f : VK} (hmajor : major < 256) (enc : encodeNat i = vkWord major f)
    (read : ∀ w, w / 2 ^ 22 % 256 = major → vkOf w = f → readClass2 w = some i) : decodeNat (encodeNat i) = .ok i := by
  unfold vkWord cmBits at enc
  refine decode_major (second := f.cls.toNat * 2 ^ 28 + f.mf.toNat * 2 ^ 26 + f.ss.toNat * 2 ^ 20 + f.var.toNat * 2 ^ 17)
    (f1 := f.md.toNat) (f2 := f.ma.toNat) (f3 := f.mb.toNat) hmajor (by omega) (by omega) (by omega) f.mask.isLt (by omega)
    (enc.trans (by omega)) fun w major h1 h2 h3 hm second => ?_
  have md : fld w 16 4 = f.md := fld_eq (by omega)
  have ma : fld w 10 4 = f.ma := fld_eq (by omega)
  have mb : fld w 4 4 = f.mb := fld_eq (by omega)
  have cls : fld w 60 4 = f.cls := fld_eq (by omega)
  have mf : fld w 58 2 = f.mf := fld_eq (by omega)
  have ss : fld w 52 6 = f.ss := fld_eq (by omega)
  have var : fld w 49 3 = f.var := fld_eq (by omega)
  exact read w major (by rw [vkOf, md, ma, mb, fld_zero hm, cls, mf, ss, var])

/-- VC (Table 5.20) with a mask field, which `bop` on a vector alone has (R238). -/
theorem decode_vcMasked {o : Cm} {mask : BitVec 4} (hmajor : major < 256) (himm : imm < 2 ^ 26)
    (enc : encodeNat i = vcWord major f1 f2 f3 imm o + mask.toNat)
    (read : ∀ w, w / 2 ^ 22 % 256 = major → fld w 16 6 = f1 → fld w 10 6 = f2 → fld w 4 6 = f3 → fld w 0 4 = mask → cmOf w = o →
      w / 2 ^ 32 % 2 ^ 26 = imm → readClass2 w = some i) : decodeNat (encodeNat i) = .ok i := by
  unfold vcWord cmBits at enc
  refine decode_major (second := o.cls.toNat * 2 ^ 28 + o.mf.toNat * 2 ^ 26 + imm)
    hmajor f1.isLt f2.isLt f3.isLt mask.isLt (by omega) (enc.trans (by unfold firstSyl; omega)) fun w major h1 h2 h3 hm second => ?_
  have cls : fld w 60 4 = o.cls := fld_eq (by omega)
  have mf : fld w 58 2 = o.mf := fld_eq (by omega)
  exact read w major (fld_eq h1) (fld_eq h2) (fld_eq h3) (fld_zero hm) (by rw [cmOf, cls, mf]) (by omega)

/-- VC (Table 5.20). -/
theorem decode_vc {o : Cm} (hmajor : major < 256) (himm : imm < 2 ^ 26) (enc : encodeNat i = vcWord major f1 f2 f3 imm o)
    (read : ∀ w, w / 2 ^ 22 % 256 = major → fld w 16 6 = f1 → fld w 10 6 = f2 → fld w 4 6 = f3 → cmOf w = o →
      w / 2 ^ 32 % 2 ^ 26 = imm → readClass2 w = some i) : decodeNat (encodeNat i) = .ok i :=
  decode_vcMasked (mask := 0) hmajor himm (by simpa using enc) fun w major h1 h2 h3 _ cm imm => read w major h1 h2 h3 cm imm

end Formats

/-- Every instruction of one syllable, format by format: its word holds its operands in their fields, and the map of its class reads them
there (Tables 5.15, 5.14, 5.16, 5.24). -/
theorem decodeNat_encodeNat_short (i : Instr) (short : i.size = 4) : decodeNat (encodeNat i) = .ok i := by
  cases i with
  | add d a b | sub d a b | mul d a b | mulh d a b | mulhu d a b | div d a b | divu d a b | rem d a b | remu d a b | and d a b
  | or d a b | xor d a b | andn d a b | sll d a b | srl d a b | sra d a b | slt d a b | sltu d a b | min d a b | max d a b
  | minu d a b | maxu d a b =>
    exact decode_sr (by decide) rfl fun w fn hd ha hb => by rw [readSR, fn, hd, ha, hb]; rfl
  | clz d a | ctz d a | cnt d a | sextB d a | sextH d a | sextW d a | zextB d a | zextH d a | zextW d a =>
    exact decode_sr (by decide) rfl fun w fn hd ha _ => by rw [readSR, fn, hd, ha]; rfl
  | addi d a imm | andi d a imm | ori d a imm | xori d a imm | slti d a imm | sltiu d a imm | jalr d a imm | beq d a imm
  | bne d a imm | blt d a imm | bge d a imm | bltu d a imm | bgeu d a imm =>
    exact decode_si (by decide) imm.isLt rfl fun w op hd ha himm => by rw [readClass0, op, hd, ha, fld_zero himm]; rfl
  | slli d a n | srli d a n | srai d a n =>
    refine decode_si (by decide) (by omega) rfl fun w op hd ha imm => ?_
    have hn : fld w 0 6 = n := fld_zero (by omega)
    rw [readClass0, op, hd, ha, hn]; rfl
  | bfx d a lo wm1 =>
    refine decode_si (by decide) (by omega) rfl fun w op hd ha imm => ?_
    have hlo : fld w 6 6 = lo := fld_eq (by omega)
    have hwm1 : fld w 0 6 = wm1 := fld_zero (by omega)
    rw [readClass0, op, hd, ha, hlo, hwm1]; rfl
  | lui d imm | aupc d imm =>
    exact decode_su (by decide) rfl fun w op hd himm => by rw [readClass0, op, hd, himm]; rfl
  | fadd d a b rnd wide | fsub d a b rnd wide | fmul d a b rnd wide | fdiv d a b rnd wide | fmac d a b rnd wide =>
    exact decode_sf (by decide) (by decide) rfl fun w op hd ha hb hrnd hwide _ => by
      rw [readClass0, op, hd, ha, hb, hrnd, hwide]; rfl
  | fsqrt d a rnd wide =>
    exact decode_sf (by decide) (by decide) rfl fun w op hd ha _ hrnd hwide _ => by rw [readClass0, op, hd, ha, hrnd, hwide]; rfl
  | fmin d a b wide | fmax d a b wide | feq d a b wide | flt d a b wide | fle d a b wide =>
    exact decode_sf (by decide) (by decide) rfl fun w op hd ha hb _ hwide _ => by rw [readClass0, op, hd, ha, hb, hwide]; rfl
  | ftoi d a rnd wide | ftou d a rnd wide | itof d a rnd wide | utof d a rnd wide =>
    exact decode_sf (by decide) (by decide) rfl fun w op hd ha _ hrnd hwide sub => by
      rw [readClass0_conv op, readConv, sub, hd, ha, hrnd, hwide]; rfl
  | fnarrow d a rnd | fwiden d a rnd =>
    exact decode_sf (by decide) (by decide) rfl fun w op hd ha _ hrnd hwide sub => by
      rw [readClass0_conv op, readConv, sub, hd, ha, hrnd, hwide]; rfl
  | jal off =>
    exact decode_op0 (by decide) off.isLt rfl fun w op rest => by rw [readClass0, op, fld_zero rest]; rfl
  | loop n a e =>
    exact decode_sl rfl fun w op hn ha he => by rw [readClass0, op, hn, ha, he]; rfl
  | loopi n c e =>
    exact decode_sli rfl fun w op hn hc he => by rw [readClass0, op, hn, hc, he]; rfl
  | bany m off | bnone m off =>
    exact decode_sk (by decide) rfl fun w op hm hoff => by rw [readClass0, op, hm, hoff]; rfl
  | ldb d a cls sp disp | ldbu d a cls sp disp | ldh d a cls sp disp | ldhu d a cls sp disp | ldw d a cls sp disp
  | ldwu d a cls sp disp | ldd d a cls sp disp | stb d a cls sp disp | sth d a cls sp disp | stw d a cls sp disp
  | std d a cls sp disp =>
    exact decode_sm (by decide) rfl fun w op hd ha hcls hsp hdisp => by rw [readClass1, op, hd, ha, hcls, hsp, hdisp]; rfl
  | aadd d a b ord cls | aswp d a b ord cls | acas d a b ord cls | amax d a b ord cls | amin d a b ord cls
  | aaddBel d a b ord cls | aswpBel d a b ord cls | acasBel d a b ord cls | amaxBel d a b ord cls | aminBel d a b ord cls =>
    exact decode_sa (by decide) rfl fun w op hd ha hb hord hcls => by rw [readClass1, op, hd, ha, hb, hord, hcls]; rfl
  | getc d bank idx =>
    refine decode_sy (by decide) (by omega) rfl fun w op hd _ imm => ?_
    have hbank : fld w 8 4 = bank := fld_eq (by omega)
    have hidx : fld w 0 8 = idx := fld_zero (by omega)
    rw [readClass1, op, hd, hbank, hidx]; rfl
  | setc a bank idx =>
    refine decode_sy (by decide) (by omega) rfl fun w op _ ha imm => ?_
    have hbank : fld w 8 4 = bank := fld_eq (by omega)
    have hidx : fld w 0 8 = idx := fld_zero (by omega)
    rw [readClass1, op, ha, hbank, hidx]; rfl
  | trap n | ebrk n =>
    exact decode_sy (by decide) n.isLt rfl fun w op _ _ imm => by rw [readClass1, op, fld_zero imm]; rfl
  | eret after =>
    have hafter := after.toNat_lt
    refine decode_sy (by decide) (by omega) rfl fun w op _ _ imm => ?_
    have bafter : bit w 0 = after := bit_eq (by omega)
    rw [readClass1, op, bafter]; rfl
  | halt | pfence => exact decode_sy (by decide) (by decide) rfl fun w op _ _ _ => by rw [readClass1, op]; rfl
  | qrd d q =>
    refine decode_sy (by decide) (by omega) rfl fun w op hd _ imm => ?_
    have hq : fld w 0 3 = q := fld_zero (by omega)
    rw [readClass1, op, hd, hq]; rfl
  | pmig d a => exact decode_sy (by decide) (by decide) rfl fun w op hd ha _ => by rw [readClass1, op, hd, ha]; rfl
  | pinv a all =>
    have hall := all.toNat_lt
    refine decode_sy (by decide) (by omega) rfl fun w op _ ha imm => ?_
    have ball : bit w 0 = all := bit_eq (by omega)
    rw [readClass1, op, ha, ball]; rfl
  | pcnt d a clr =>
    have hclr := clr.toNat_lt
    refine decode_sy (by decide) (by omega) rfl fun w op hd ha imm => ?_
    have bclr : bit w 0 = clr := bit_eq (by omega)
    rw [readClass1, op, hd, ha, bclr]; rfl
  | launch d a q =>
    refine decode_sy (by decide) (by omega) rfl fun w op hd ha imm => ?_
    have hq : fld w 0 4 = q := fld_zero (by omega)
    rw [readClass1, op, hd, ha, hq]; rfl
  | barInit a n | tokwr a n =>
    refine decode_sy (by decide) (by omega) rfl fun w op _ ha imm => ?_
    have hn : fld w 0 6 = n := fld_zero (by omega)
    rw [readClass1, op, ha, hn]; rfl
  | barArr d ord b | barAw d ord b =>
    refine decode_sy (by decide) (by omega) rfl fun w op hd _ imm => ?_
    have hord : fld w 6 2 = ord := fld_eq (by omega)
    have hb : fld w 0 6 = b := fld_zero (by omega)
    rw [readClass1, op, hd, hord, hb]; rfl
  | barWt a ord b =>
    refine decode_sy (by decide) (by omega) rfl fun w op _ ha imm => ?_
    have hord : fld w 6 2 = ord := fld_eq (by omega)
    have hb : fld w 0 6 = b := fld_zero (by omega)
    rw [readClass1, op, ha, hord, hb]; rfl
  | barDrop b =>
    refine decode_sy (by decide) (by omega) rfl fun w op _ _ imm => ?_
    have hb : fld w 0 6 = b := fld_zero (by omega)
    rw [readClass1, op, hb]; rfl
  | barRd d n | tokrd d n =>
    refine decode_sy (by decide) (by omega) rfl fun w op hd _ imm => ?_
    have hn : fld w 0 6 = n := fld_zero (by omega)
    rw [readClass1, op, hd, hn]; rfl
  | convoy n slots =>
    exact decode_ch rfl fun w hn hslots => by rw [readClass3, hn, hslots]
  | _ => cases short

/-- Every well-formed instruction of two syllables, format by format (Tables 5.17 to 5.22). -/
theorem decodeNat_encodeNat_long (i : Instr) (long : i.size = 8) (wf : i.wellFormed = true) : decodeNat (encodeNat i) = .ok i := by
  cases i with
  | mpre f | mthru f | mlatch f | mand f | mor f | mxor f | mandn f | mslide f | mcnt f | mfirst f | mftm f =>
    exact decode_vk (by decide) rfl fun w major hf => by rw [readClass2, major, hf]; rfl
  | vadd f | vsub f | vmin f | vmax f | vand f | vor f | vxor f | vandn f | vsll f | vsrl f | vsra f | vrshr f | vnsat f | vadc f
  | vsbc f | vabs f | vmul f | vmulh f | vfma f | vfms f | vdot2 f | vdiv f | vsqrt f | vcvt f | vceq f | vcne f | vclt f | vcle f
  | vsel f | vmov f | vid f | vneg f | vslup f | vsldn f | vcmpr f | vxpnd f | vgath f | vxtr f | vins f | vrsum f | vrmax f
  | vrmin f | vrand f | vrior f | vrxor f | vscan f | vscmx f | vrcp f | vrsq f | vexp f | vlog f | vtanh f | vsig f | vsmxAcc f
  | vsmxFin f | vsamp f | vtopkIns f | vtopkMrg f | vrng f | vcfq f | axt f =>
    exact decode_va (by decide) rfl fun w major hf => by rw [readClass2, major, hf]; rfl
  | vst f | vlds f | vsts f | vldseg f | vstseg f | vldx f | vstx f | vldFf f | vldSc f | vstSc f | vldsr f =>
    exact decode_vm (by decide) rfl fun w major hf => by rw [readClass2, major, hf]; rfl
  | vld f =>
    have unbound : f.sbv = false := by simp_all [Instr.wellFormed, Instr.legalFields, VM.noStream]
    refine decode_vm (by decide) rfl fun w major hf => ?_
    have stream : bit w 35 = f.sbv := congrArg VM.sbv hf
    rw [readClass2, major, hf, stream, unbound]; rfl
  | vldStream f =>
    have bound : f.sbv = true := by simp_all [Instr.wellFormed, Instr.legalFields]
    refine decode_vm (by decide) rfl fun w major hf => ?_
    have stream : bit w 35 = f.sbv := congrArg VM.sbv hf
    rw [readClass2, major, hf, stream, bound]; rfl
  | vshape n o =>
    refine decode_vc (by decide) (by omega) rfl fun w major _ _ _ cm imm => ?_
    have hn : fld w 32 2 = n := fld_eq (by omega)
    rw [readClass2, major, hn, cm]; rfl
  | vtype vd tag dom o =>
    refine decode_vc (by decide) (by omega) rfl fun w major hvd _ _ cm imm => ?_
    have htag : fld w 32 4 = tag := fld_eq (by omega)
    have hdom : fld w 36 3 = dom := fld_eq (by omega)
    rw [readClass2, major, hvd, htag, hdom, cm]; rfl
  | vstrip d a b lq ew o =>
    have hlq := lq.toNat_lt
    refine decode_vc (by decide) (by omega) rfl fun w major hd ha hb cm imm => ?_
    have blq : bit w 34 = lq := bit_eq (by omega)
    have hew : fld w 32 2 = ew := fld_eq (by omega)
    rw [readClass2, major, hd, ha, hb, blq, hew, cm]; rfl
  | vacq d nb o =>
    have hnb := nb.toNat_lt
    refine decode_vc (by decide) (by omega) rfl fun w major hd _ _ cm imm => ?_
    have bnb : bit w 32 = nb := bit_eq (by omega)
    rw [readClass2, major, hd, bnb, cm]; rfl
  | vrel o => exact decode_vc (by decide) (by decide) rfl fun w major _ _ _ cm _ => by rw [readClass2, major, cm]; rfl
  | mfmt n a o =>
    refine decode_vc (by decide) (by omega) rfl fun w major _ ha _ cm imm => ?_
    have hn : fld w 32 2 = n := fld_eq (by omega)
    rw [readClass2, major, hn, ha, cm]; rfl
  | vpopq m o =>
    exact decode_vc (by decide) (by decide) rfl fun w major _ hm _ cm _ => by rw [readClass2, major, fld_mask hm, cm]; rfl
  | vexit m b off o =>
    refine decode_vc (by decide) (by omega) rfl fun w major hb hm _ cm imm => ?_
    have hoff : fld w 32 20 = off := fld_eq (by omega)
    rw [readClass2, major, fld_mask hm, hb, hoff, cm]; rfl
  | stream n a l st o =>
    refine decode_vc (by decide) (by omega) rfl fun w major ha hl hst cm imm => ?_
    have hn : fld w 32 3 = n := fld_eq (by omega)
    rw [readClass2, major, hn, ha, hl, hst, cm]; rfl
  | qbind n kind idx o =>
    refine decode_vc (by decide) (by omega) rfl fun w major _ _ _ cm imm => ?_
    have hn : fld w 32 3 = n := fld_eq (by omega)
    have hkind : fld w 36 2 = kind := fld_eq (by omega)
    have hidx : fld w 40 8 = idx := fld_eq (by omega)
    rw [readClass2, major, hn, hkind, hidx, cm]; rfl
  | copy n d a b dst src scope o =>
    refine decode_vc (by decide) (by omega) rfl fun w major hd ha hb cm imm => ?_
    have hn : fld w 32 3 = n := fld_eq (by omega)
    have hdst : fld w 35 3 = dst := fld_eq (by omega)
    have hsrc : fld w 38 3 = src := fld_eq (by omega)
    have hscope : fld w 41 3 = scope := fld_eq (by omega)
    rw [readClass2, major, hn, hd, ha, hb, hdst, hsrc, hscope, cm]; rfl
  | cptest d n c o =>
    refine decode_vc (by decide) (by omega) rfl fun w major hd _ _ cm imm => ?_
    have hn : fld w 32 3 = n := fld_eq (by omega)
    have hc : fld w 35 6 = c := fld_eq (by omega)
    rw [readClass2, major, hd, hn, hc, cm]; rfl
  | cpwait n c m o =>
    refine decode_vc (by decide) (by omega) rfl fun w major _ hm _ cm imm => ?_
    have hn : fld w 32 3 = n := fld_eq (by omega)
    have hc : fld w 35 6 = c := fld_eq (by omega)
    rw [readClass2, major, hn, hc, hm, cm]; rfl
  | bop d a b sel width ord v o =>
    have hv := v.toNat_lt
    refine decode_vcMasked (by decide) (by omega) rfl fun w major hd ha hb hmask cm imm => ?_
    have hsel : fld w 32 4 = sel := fld_eq (by omega)
    have hwidth : fld w 36 2 = width := fld_eq (by omega)
    have hord : fld w 38 2 = ord := fld_eq (by omega)
    have bv : bit w 40 = v := bit_eq (by omega)
    rw [readClass2, major, hd, ha, hb, hsel, hwidth, hord, bv, hmask, cm]; rfl
  | stand d a b dep sp slot o =>
    have hsp := sp.toNat_lt
    refine decode_vc (by decide) (by omega) rfl fun w major hd ha hb cm imm => ?_
    have hdep : fld w 40 6 = dep := fld_eq (by omega)
    have bsp : bit w 46 = sp := bit_eq (by omega)
    have hslot : fld w 32 8 = slot := fld_eq (by omega)
    rw [readClass2, major, hd, ha, hb, hdep, bsp, hslot, cm]; rfl
  | unstand slot o =>
    refine decode_vc (by decide) (by omega) rfl fun w major _ _ _ cm imm => ?_
    have hslot : fld w 32 8 = slot := fld_eq (by omega)
    rw [readClass2, major, hslot, cm]; rfl
  | fence cmask scope o =>
    refine decode_vc (by decide) (by omega) rfl fun w major _ _ _ cm imm => ?_
    have hcmask : fld w 32 16 = cmask := fld_eq (by omega)
    have hscope : fld w 48 3 = scope := fld_eq (by omega)
    rw [readClass2, major, hcmask, hscope, cm]; rfl
  | wait l st c t o =>
    refine decode_vc (by decide) (by omega) rfl fun w major _ _ _ cm imm => ?_
    have hl : fld w 32 5 = l := fld_eq (by omega)
    have hst : fld w 37 5 = st := fld_eq (by omega)
    have hc : fld w 42 5 = c := fld_eq (by omega)
    have ht : fld w 47 5 = t := fld_eq (by omega)
    rw [readClass2, major, hl, hst, hc, ht, cm]; rfl
  | task d a m o =>
    refine decode_vc (by decide) (by omega) rfl fun w major hd ha _ cm imm => ?_
    have hm : fld w 32 16 = m := fld_eq (by omega)
    rw [readClass2, major, hd, ha, hm, cm]; rfl
  | twait t a o =>
    refine decode_vc (by decide) (by omega) rfl fun w major _ ha _ cm imm => ?_
    have ht : fld w 32 6 = t := fld_eq (by omega)
    rw [readClass2, major, ht, ha, cm]; rfl
  | tsig t o =>
    refine decode_vc (by decide) (by omega) rfl fun w major _ _ _ cm imm => ?_
    have ht : fld w 32 6 = t := fld_eq (by omega)
    rw [readClass2, major, ht, cm]; rfl
  | tresume d a o | tprog d a o | tabort d a o =>
    exact decode_vc (by decide) (by decide) rfl fun w major hd ha _ cm _ => by rw [readClass2, major, hd, ha, cm]; rfl
  | tflt d a wr o =>
    have hwr := wr.toNat_lt
    refine decode_vc (by decide) (by omega) rfl fun w major hd ha _ cm imm => ?_
    have set : bit w 33 = false := bit_eq (by rw [Bool.toNat_false]; omega)
    have bwr : bit w 32 = wr := bit_eq (by omega)
    rw [readClass2, major, set, hd, ha, bwr, cm]; rfl
  | tfltSet d a o =>
    refine decode_vc (by decide) (by decide) rfl fun w major hd ha _ cm imm => ?_
    have set : bit w 33 = true := bit_eq (by rw [Bool.toNat_true]; omega)
    rw [readClass2, major, set, hd, ha, cm]; rfl
  | _ => cases long

/-- Only an event has no syllable (R73). -/
theorem Instr.size_of_not_isEvent {i : Instr} (instruction : i.isEvent = false) : i.size = 4 ∨ i.size = 8 := by
  cases i
  all_goals first | exact .inl rfl | exact .inr rfl | cases instruction

/-- Settles O3: the word of each format is read back by the map of its class. -/
theorem decodeInvertsEncode : Obligations.DecodeInvertsEncode := by
  unfold Obligations.DecodeInvertsEncode
  intro i instruction wf
  rcases Instr.size_of_not_isEvent instruction with short | long
  · exact decodeNat_encodeNat_short i short
  · exact decodeNat_encodeNat_long i long wf

/-- Settles O2: each word is decoded by evaluation. -/
theorem specWordsDecode : Obligations.SpecWordsDecode := by
  unfold Obligations.SpecWordsDecode
  decide

end Sys2Proof
end

section
/-! Fetches (R74, R89, R340): the bytes at the pc, what they are decoded to, and the traps of a fetch that finds no instruction. -/

namespace Sys2Proof

/-- What a decoded instruction with nothing left over says of its bytes: their number is the class's. -/
theorem decode_ok {bs rest : List Byte} {i : Instr} (decoded : decode bs = .ok (i, rest)) :
    sizeOfClass (leNat (bs.take 4)) ≤ bs.length ∧ rest = bs.drop (sizeOfClass (leNat (bs.take 4))) := by
  unfold decode at decoded
  split at decoded
  · cases decoded
  · dsimp only at decoded
    split at decoded
    · cases decoded
    · next enough =>
      split at decoded
      · cases decoded
        exact ⟨not_lt.1 enough, rfl⟩
      · cases decoded

theorem length_of_decode {bs : List Byte} {i : Instr} (decoded : decode bs = .ok (i, [])) :
    bs.length = sizeOfClass (leNat (bs.take 4)) := by
  obtain ⟨enough, rest⟩ := decode_ok decoded
  exact le_antisymm (List.drop_eq_nil_iff.1 rest.symm) enough

/-- The class of a first syllable, as bits [31:30] of the syllable or of its number (R73). -/
theorem class_eq_two_iff (n : Nat) : (BitVec.ofNat 32 n).extractLsb' 30 2 = 2 ↔ n / 2 ^ 30 % 4 = 2 := by
  rw [← BitVec.toNat_inj, BitVec.extractLsb'_toNat, BitVec.toNat_ofNat, Nat.shiftRight_eq_div_pow]
  change n % 2 ^ 32 / 2 ^ 30 % 2 ^ 2 = 2 ↔ _
  omega

theorem sizeOfClass_syllable (n : Nat) : sizeOfClass (BitVec.ofNat 32 n).toNat = sizeOfClass n := by
  have same : n % 2 ^ 32 / 2 ^ 30 % 4 = n / 2 ^ 30 % 4 := by omega
  rw [BitVec.toNat_ofNat, sizeOfClass, same, sizeOfClass]

end Sys2Proof

namespace Sys2Proof.Machine

section Bytes

variable {s : State} {g : Group} {spire : Nat} {a : Word} {b : List Byte} {f : XFault}

theorem State.length_codeBytes {n : Nat} (bytes : s.codeBytes g spire a n = .ok b) : b.length = n := by
  induction n generalizing a b with
  | zero =>
    cases bytes
    rfl
  | succ n ih =>
    unfold State.codeBytes at bytes
    split at bytes
    · cases bytes
    · split at bytes
      · next rest =>
        cases bytes
        rw [List.length_cons, ih rest]
      · cases bytes

/-- Bytes that are read are read in two parts. -/
theorem State.codeBytes_add {m n : Nat} (bytes : s.codeBytes g spire a (m + n) = .ok b) :
    s.codeBytes g spire a m = .ok (b.take m) ∧ s.codeBytes g spire (a + BitVec.ofNat 64 m) n = .ok (b.drop m) := by
  induction m generalizing a b with
  | zero => simpa [State.codeBytes] using bytes
  | succ m ih =>
    rw [Nat.add_right_comm] at bytes
    unfold State.codeBytes at bytes
    split at bytes
    · cases bytes
    · next p place =>
      split at bytes
      · next t rest =>
        cases bytes
        obtain ⟨first, second⟩ := ih rest
        have next : a + 1 + BitVec.ofNat 64 m = a + BitVec.ofNat 64 (m + 1) := by
          rw [BitVec.ofNat_add]
          ac_rfl
        rw [next] at second
        refine ⟨?_, second⟩
        rw [State.codeBytes, place, first]
        rfl
      · cases bytes

theorem State.syllable_ok (bytes : s.codeBytes g spire a 4 = .ok b) : s.syllable g spire a = .ok b := by
  rw [State.syllable, bytes]

theorem State.syllable_addr (fault : s.syllable g spire a = .error f) : f.addr = a := by
  unfold State.syllable at fault
  split at fault
  · cases fault
  · cases fault
    rfl

end Bytes

/-- What a fetch of first syllable w answers for its decoded bytes (R89). -/
def Fetched.ofDecoded (w : Syl) : Except DecodeError (Instr × List Byte) → Fetched
  | .ok r => .instr r.1
  | .error _ => .illegal w

section Fetch

variable {s : State} {k : Nat} {h : Hart} {g : Group} {b c : List Byte} {f : XFault} (hg : s.group h.gid = some g)
  (ready : s.codeReady g (spireOf k) h.arch.pc = true)

include hg ready

/-- The first syllable faults (R74). -/
theorem State.fetch_fault (fault : s.syllable g (spireOf k) h.arch.pc = .error f) : s.fetch k h = .fault f := by
  simp [State.fetch, hg, ready, fault]

/-- An instruction of one syllable (R73). -/
theorem State.fetch_short (first : s.syllable g (spireOf k) h.arch.pc = .ok b) (short : leNat b / 2 ^ 30 % 4 ≠ 2) :
    s.fetch k h = .ofDecoded (BitVec.ofNat 32 (leNat b)) (decode b) := by
  have one : ¬(BitVec.ofNat 32 (leNat b)).extractLsb' 30 2 = 2 := (class_eq_two_iff _).not.2 short
  simp only [State.fetch, hg, ready, first, leValue_eq_leNat, if_neg one, Bool.not_true, Bool.false_eq_true, if_false]
  cases decode b <;> rfl

variable (long : leNat b / 2 ^ 30 % 4 = 2) (first : s.syllable g (spireOf k) h.arch.pc = .ok b)
  (ready' : s.codeReady g (spireOf k) (h.arch.pc + 4) = true)

include long first ready'

/-- The second syllable of class 10 faults (R74). -/
theorem State.fetch_fault_second (fault : s.syllable g (spireOf k) (h.arch.pc + 4) = .error f) : s.fetch k h = .fault f := by
  have two := (class_eq_two_iff _).2 long
  simp only [State.fetch, hg, ready, first, leValue_eq_leNat, if_pos two, ready', fault, Bool.not_true, Bool.false_eq_true, if_false]

/-- An instruction of two syllables: both are fetched before either is decoded (R74, R89). -/
theorem State.fetch_long (second : s.syllable g (spireOf k) (h.arch.pc + 4) = .ok c) :
    s.fetch k h = .ofDecoded (BitVec.ofNat 32 (leNat b)) (decode (b ++ c)) := by
  have two := (class_eq_two_iff _).2 long
  simp only [State.fetch, hg, ready, first, leValue_eq_leNat, if_pos two, ready', second, Bool.not_true, Bool.false_eq_true, if_false]
  cases decode (b ++ c) <;> rfl

end Fetch

/-- The bytes at the pc, as many as the class of the first syllable needs, are fetched and decoded (R73, R74). -/
theorem State.fetch_bytes {s : State} {k : Nat} {h : Hart} {g : Group} {b : List Byte} (hg : s.group h.gid = some g)
    (ready : s.codeReady g (spireOf k) h.arch.pc = true)
    (ready' : b.length = 8 → s.codeReady g (spireOf k) (h.arch.pc + 4) = true)
    (bytes : s.codeBytes g (spireOf k) h.arch.pc b.length = .ok b) (size : b.length = sizeOfClass (leNat (b.take 4))) :
    s.fetch k h = .ofDecoded (BitVec.ofNat 32 (leNat (b.take 4))) (decode b) := by
  by_cases long : leNat (b.take 4) / 2 ^ 30 % 4 = 2
  · have eight : b.length = 4 + 4 := by rw [size, sizeOfClass, long]; rfl
    rw [eight] at bytes
    obtain ⟨first, second⟩ := State.codeBytes_add bytes
    rw [State.fetch_long hg ready long (State.syllable_ok first) (ready' eight) (State.syllable_ok second), List.take_append_drop]
  · have four : b.length = 4 := by rw [size, sizeOfClass, if_neg (by simpa using long)]
    have whole : b.take 4 = b := List.take_of_length_le four.le
    rw [four] at bytes
    rw [whole] at long ⊢
    exact State.fetch_short hg ready (State.syllable_ok bytes) long

section Step

variable {s u : State} {k : Nat} {h : Hart} (choice : s.choose = .hart k u) (hart : u.hart k = some h)

include choice hart

/-- The step of a hart, by what its fetch finds. -/
theorem step_instr {i : Instr} (fetched : u.fetch k h = .instr i) : step s = exec i { u.fetched k h i.size with cur := k } := by
  simp only [step, choice, hart, fetched]

theorem step_illegal {w : Syl} (fetched : u.fetch k h = .illegal w) :
    step s = execIllegalInstruction w { u.fetched k h (sizeOfClass w.toNat) with cur := k } := by
  simp only [step, choice, hart, fetched]

theorem step_fault {f : XFault} (fetched : u.fetch k h = .fault f) : step s = execFetchFault f { u with cur := k } := by
  simp only [step, choice, hart, fetched]

end Step

/-- A recording's point and the end of a debugger's step touch a hart's debug registers alone (R355, R358). -/
theorem Hart.stepDone_keep (h : Hart) : h.keep.stepDone = { h with dbg := h.keep.stepDone.dbg } := by
  unfold Hart.keep Hart.stepDone
  (repeat' split) <;> rfl

theorem noHandler_of_handled {s : State} {h : Hart} (handled : Handled s h) : noHandler h.arch (s.ctx (s.ctxOf h)) = false := by
  obtain ⟨user, handler⟩ := handled
  have base : (s.ctx (s.ctxOf h)).tvec &&& ~~~3#64 ≠ 0 := by
    intro zero
    have rounded := toNat_and_not_three (s.ctx (s.ctxOf h)).tvec
    have : (0 : Word).toNat = 0 := rfl
    rw [zero] at rounded
    omega
  simpa [noHandler, user] using base

/-- A precise trap that a handler takes records the first syllable given (R338, R341). -/
theorem State.enterTrap_taken {s : State} {h : Hart} (handled : Handled s h) (k : Nat) (c : Cause) (syl : Syl) :
    TrapTaken s k h c syl false h.arch.pc (s.enterTrap k h c syl false h.arch.pc) := by
  rw [State.enterTrap, if_neg (by rw [noHandler_of_handled handled]; decide), Hart.stepDone_keep]
  refine ⟨_, rfl, ⟨?_, toNat_and_not_three _, ?_⟩, rfl⟩
  · simp [Arch.enter, Cause.word]
  · simp [Arch.enter, BitVec.ofNat_mul]

/-- A cause found by the fetch of a hart that is not speculative is taken at once (R90). -/
theorem State.raise_taken {s : State} {h : Hart} (hart : s.hart s.cur = some h) (live : h.live = true) (plain : PlainHart h)
    (handled : Handled s h) (c : Cause) (syl : Syl) : TrapTaken s s.cur h c syl false h.arch.pc (s.raise c syl) := by
  obtain ⟨exits, held, faults⟩ := plain
  unfold State.raise
  rw [hart]
  simp only [live, exits, held, faults, Bool.not_true, List.isEmpty_nil, List.any_nil, Bool.and_false, Bool.or_false,
    Bool.false_eq_true, if_false, if_true]
  exact State.enterTrap_taken handled s.cur c syl

theorem State.ctx_charge_tvec (s : State) (c d : Nat) (ports : List Nat) : ((s.charge c ports).ctx d).tvec = (s.ctx d).tvec := by
  obtain ⟨⟨-, others, own, -⟩, -⟩ := s.charge_charged c ports
  by_cases same : d = c
  · rw [same, own]
  · rw [others d same]

/-- The charge of a fetch leaves the harts, and every context's handler. -/
theorem State.fetched_hart (s : State) (k n : Nat) (h : Hart) (j : Nat) : (s.fetched k h n).hart j = s.hart j := by
  unfold State.fetched State.hart
  split
  · rfl
  · rw [State.charge_harts]

theorem State.handled_fetched {s : State} {h : Hart} (handled : Handled s h) (k n : Nat) : Handled (s.fetched k h n) h := by
  obtain ⟨user, handler⟩ := handled
  refine ⟨user, ?_⟩
  unfold State.fetched
  split
  · exact handler
  · next g _ =>
    have same : (s.charge g.ctx (accessPorts (spireOf k) (s.codePlaces g (spireOf k) h.arch.pc n))).ctxOf h = s.ctxOf h := by
      unfold State.ctxOf State.group
      rw [State.charge_groups]
    rw [same, State.ctx_charge_tvec]
    exact handler

/-- No syllable was fetched where the fetch of the first one faults (log 64). -/
theorem State.firstAt_pc {s : State} {h : Hart} {f : XFault} (hart : s.hart s.cur = some h) (here : f.addr = h.arch.pc) :
    s.firstAt f = 0 := by
  rw [State.firstAt, hart]
  exact if_pos here

/-- The first syllable stands where the second one faults (R74). -/
theorem State.firstAt_second {s : State} {h : Hart} {g : Group} {f : XFault} {b : List Byte} (hart : s.hart s.cur = some h)
    (hg : s.group h.gid = some g) (second : f.addr = h.arch.pc + 4) (first : s.syllable g (spireOf s.cur) h.arch.pc = .ok b) :
    s.firstAt f = BitVec.ofNat 32 (leNat b) := by
  have apart : f.addr ≠ h.arch.pc := by
    rw [second]
    bv_omega
  simp only [State.firstAt, hart, if_neg apart, hg, first, leValue_eq_leNat]

/-- A fetch fault of a hart that is not speculative: its cause, with the first syllable that was fetched (R74). -/
theorem step_fault_taken {s u : State} {k : Nat} {h : Hart} {f : XFault} {syl : Syl} (choice : s.choose = .hart k u)
    (hart : u.hart k = some h) (live : h.live = true) (plain : PlainHart h) (handled : Handled u h) (fetched : u.fetch k h = .fault f)
    (first : ({ u with cur := k } : State).firstAt f = syl) : ∃ t, step s = .next t ∧
      TrapTaken { u with cur := k } k h ⟨f.code, f.sub, false, true, 0, f.addr⟩ syl false h.arch.pc t := by
  subst first
  exact ⟨_, step_fault choice hart fetched, State.raise_taken (s := { u with cur := k }) hart live plain handled _ _⟩

/-- Settles O4: a fetch of bytes that are no instruction, and one whose first or second syllable faults, each raise their cause. -/
theorem noInstructionTraps : Obligations.NoInstructionTraps := by
  unfold Obligations.NoInstructionTraps
  refine ⟨fun s u k h g b e choice hart hg ready ready' _ size bytes failed live plain handled => ?_,
    fun s u k h g f choice hart hg ready fault live plain handled => ⟨State.syllable_addr fault, ?_⟩,
    fun s u k h g b f choice hart hg ready ready' first long fault live plain handled => ⟨State.syllable_addr fault, ?_⟩⟩
  · have fetched : u.fetch k h = .illegal (BitVec.ofNat 32 (leNat (b.take 4))) := by
      rw [State.fetch_bytes hg ready ready' bytes size, failed]
      rfl
    have stepped := step_illegal choice hart fetched
    rw [sizeOfClass_syllable, ← size] at stepped
    exact ⟨_, stepped, State.raise_taken (s := { u.fetched k h b.length with cur := k })
      ((u.fetched_hart k _ h k).trans hart) live plain (State.handled_fetched handled k _) _ _⟩
  · have addr := State.syllable_addr fault
    have syllable := State.firstAt_pc (s := { u with cur := k }) hart addr
    exact addr ▸ step_fault_taken choice hart live plain handled (State.fetch_fault hg ready fault) syllable
  · have addr := State.syllable_addr fault
    have syllable := State.firstAt_second (s := { u with cur := k }) hart hg addr first
    exact addr ▸ step_fault_taken choice hart live plain handled (State.fetch_fault_second hg ready long first ready' fault) syllable

/-- What the schedule's hart does: it issues, or takes the trap of an asynchronous cause that is due (R128, R342). -/
theorem State.hartStep_runs {s : State} {k : Nat} {h : Hart} (hart : s.hart k = some h) (runs : s.dieRuns (spireOf k) = true)
    (issue : s.mayIssue k = true) : s.hartStep k =
      if h.async ≠ [] ∧ h.atBoundary = true ∧ s.earlyCause k h = false then .device (after s (execAsyncTrapEntry k s))
      else .hart k (s.takeIssue k) := by
  unfold State.hartStep
  rw [hart]
  dsimp only
  rw [if_neg (by rw [runs, issue]; decide)]
  refine if_congr ?_ rfl rfl
  simp [and_assoc]

/-- Settles O1: a step fetches, decodes and executes; the schedule's hart issues or takes its trap. -/
theorem stepRunsDecoded : Obligations.StepRunsDecoded := by
  unfold Obligations.StepRunsDecoded
  refine ⟨fun s u k h g b i choice hart hg ready ready' bytes decoded => ?_, fun s k h rest => ?_⟩
  · have length := State.length_codeBytes bytes
    rw [← length] at bytes ready'
    refine step_instr choice hart ?_
    rw [State.fetch_bytes hg ready ready' bytes (length_of_decode decoded), decoded]
    rfl
  · intro u scheduled hart runs issue due
    have choice : s.choose = u.hartStep k := by
      unfold State.choose
      rw [scheduled]
    rw [State.hartStep_runs (s := u) hart runs issue] at choice
    refine ⟨fun free => by rw [choice, if_neg free], fun taken => ⟨_, rfl, ?_⟩⟩
    rw [if_pos taken] at choice
    unfold step
    rw [choice]
    rfl

end Sys2Proof.Machine
end

section
/-! The checks at issue before an instruction's own, in their order (R90), and the wait for data that have not landed (R49, R50, R140). -/

namespace Sys2Proof.Machine

section Gate

variable {h : Hart} {i : Instr} (live : h.live = true) (plain : PlainHart h)

include live plain

/-- The checks of a hart that is not speculative: places 2 to 5 of R90, then the data that the instruction needs. -/
theorem Hart.gate_plain : h.gate i =
    if i.wellFormed = false ∨ h.reservedSpace i = true then .trap (plainCause 1 0)
    else if i.privileged = true ∧ h.arch.level = .user then .trap (plainCause 2 0)
    else if i.needsLanes = true ∧ h.seat = none then .trap (plainCause 3 0)
    else if ∃ r ∈ i.vregs, h.arch.shape ≤ r then .trap (plainCause 4 0)
    else if h.dataFor i = [] then .go
    else .stall true := by
  obtain ⟨exits, held, faults⟩ := plain
  have ill : (!i.wellFormed || h.reservedSpace i) = true ↔ i.wellFormed = false ∨ h.reservedSpace i = true := by simp
  have priv : (i.privileged && h.arch.level == .user) = true ↔ i.privileged = true ∧ h.arch.level = .user := by simp
  have lanes : (i.needsLanes && h.seat.isNone) = true ↔ i.needsLanes = true ∧ h.seat = none := by simp
  have outside : (i.vregs.any fun r => h.arch.shape ≤ r) = true ↔ ∃ r ∈ i.vregs, h.arch.shape ≤ r := by simp
  have data : (!(h.dataFor i).isEmpty) = true ↔ ¬h.dataFor i = [] := by simp
  unfold Hart.gate
  simp only [live, exits, held, faults, ill, priv, lanes, outside, data, Bool.not_true, List.isEmpty_nil, List.any_nil, Bool.and_false,
    Bool.false_and, Bool.false_eq_true, if_false, ite_not]
  rfl

end Gate

/-- `setc` of VSPACE with a reserved space (Table 3.7). -/
theorem Hart.reservedSpace_iff (h : Hart) (i : Instr) :
    h.reservedSpace i = true ↔ ∃ a, i = .setc a 0 1 ∧ (h.reg a).getLsbD 2 = true := by
  unfold Hart.reservedSpace
  split
  · simp [and_assoc]
  · next other => simpa using fun a same => (other a 0 1 same).elim

/-- `getc` and `setc` of FFLAGS (R49). -/
theorem namesFlags_iff (i : Instr) : Instr.namesFlags i = true ↔ ∃ a, i = .getc a 0 7 ∨ i = .setc a 0 7 := by
  unfold Instr.namesFlags
  split
  · simp
  · simp
  · next noGet noSet => simpa using fun a => ⟨fun same => noGet a 0 7 same, fun same => noSet a 0 7 same⟩

/-- What an instruction needs of data that have not landed (R49, R50, R140). -/
theorem Hart.mem_dataFor (h : Hart) (i : Instr) (r : Nat) : r ∈ h.dataFor i ↔
    (r ∈ h.landed ∨ ∃ l ∈ h.landing, r ∈ l) ∧
      (r ∈ i.vregs ∨ (∃ a, i = .getc a 0 7 ∨ i = .setc a 0 7) ∨ (r = 64 ∧ Instr.readsLength i = true)) := by
  unfold Hart.dataFor
  rw [← namesFlags_iff]
  simp only [List.mem_filter, List.mem_append, List.mem_flatten, Bool.or_eq_true, Bool.and_eq_true, List.contains_iff_mem, beq_iff_eq,
    or_assoc]

/-- An instruction that a cause of R90 meets at issue takes its trap. -/
theorem traps_of_gate {s : State} {h : Hart} {i : Instr} {c : Cause} (instruction : i.isEvent = false) (hart : s.hart s.cur = some h)
    (plain : PlainHart h) (handled : Handled s h) (gate : h.gate i = .trap c) : Traps i s h c := by
  obtain ⟨body, runs⟩ := exec_runs i instruction
  refine ⟨_, runs s, ?_⟩
  rw [State.run, hart]
  dsimp only
  rw [gate]
  exact State.trap_taken s.cur i c plain handled

/-- An instruction whose data have not landed waits for them at issue (R50). -/
theorem stalls_of_gate {s : State} {h : Hart} {i : Instr} (instruction : i.isEvent = false) (hart : s.hart s.cur = some h)
    (gate : h.gate i = .stall true) : ∃ t, exec i s = .next t ∧
      Stalls i s s.cur { h with stalled := true, memStall := true, awaited := h.dataFor i } t := by
  obtain ⟨body, runs⟩ := exec_runs i instruction
  refine ⟨_, runs s, ?_⟩
  rw [State.run, hart]
  dsimp only
  rw [gate]
  exact s.stallOn_spec s.cur h i true (h.dataFor i)

/-- Settles O7: the checks of a hart that is not speculative stand in the order of R90, and the first that fails decides. -/
theorem issueChecks : Obligations.IssueChecks := by
  unfold Obligations.IssueChecks
  refine ⟨fun s h i hart live plain wf priv lanes inside space => ?_,
    fun s h i instruction hart live plain handled => ?_⟩
  · have gate : h.gate i = if h.dataFor i = [] then .go else .stall true := by
      rw [Hart.gate_plain live plain, if_neg, if_neg, if_neg, if_neg]
      · rintro ⟨r, named, beyond⟩
        exact absurd (inside r named) beyond.not_gt
      · rintro ⟨needed, none⟩
        simpa [none] using lanes needed
      · rintro ⟨needed, user⟩
        cases user.symm.trans (priv needed)
      · rw [Hart.reservedSpace_iff]
        rintro (ill | ⟨a, rfl, set⟩)
        · cases ill.symm.trans wf
        · cases set.symm.trans (space a rfl)
    refine ⟨fun none => ⟨hart, ?_⟩, fun r instruction lacking => ?_⟩
    · rw [gate, if_pos (List.eq_nil_iff_forall_not_mem.2 fun r named => none r ((h.mem_dataFor i r).1 named))]
    · have some : h.dataFor i ≠ [] := List.ne_nil_of_mem ((h.mem_dataFor i r).2 lacking)
      rw [if_neg some] at gate
      obtain ⟨t, runs, stalls⟩ := stalls_of_gate instruction hart gate
      exact ⟨t, h.dataFor i, runs, h.mem_dataFor i, stalls⟩
  · have user : h.arch.level = .user := handled.1
    have gate := Hart.gate_plain (i := i) live plain
    simp only [Hart.reservedSpace_iff, user, and_true] at gate
    have traps {c : Cause} := traps_of_gate (c := c) instruction hart plain handled
    refine ⟨fun one => traps (gate.trans (if_pos one)), fun one two => traps ?_, fun one two three => traps ?_,
      fun one two three four => traps ?_⟩
    · rw [gate, if_neg one, if_pos two]
    · rw [gate, if_neg one, if_neg two, if_pos three]
    · rw [gate, if_neg one, if_neg two, if_neg three, if_pos four]

end Sys2Proof.Machine
end

section
/-! The convoy header: it checks its members, and changes nothing of its program (R85 to R87). -/

namespace Sys2Proof.Machine

section Members

variable {s : State} {k : Nat} {h : Hart}

/-- The members of a convoy that are found are class-10 instructions, as many as the header counts (R86). -/
theorem State.members_ok {n : Nat} {pc : Word} {l : List Instr} (members : s.members k h n pc = .ok l) : ∀ i ∈ l, i.size = 8 := by
  induction n generalizing pc l with
  | zero =>
    cases members
    simp
  | succ n ih =>
    unfold State.members at members
    split at members
    · next i _ =>
      split at members
      · cases members
      · next eight =>
        split at members
        · next t rest =>
          cases members
          exact List.forall_mem_cons.2 ⟨by simpa using eight, ih rest⟩
        · cases members
    all_goals cases members

/-- A first member that is no class-10 instruction makes the header illegal (R86). -/
theorem State.members_scalar {n : Nat} {pc : Word} {i : Instr}
    (first : s.fetch k { h with arch := { h.arch with pc := pc } } = .instr i) (scalar : i.size ≠ 8) :
    s.members k h (n + 1) pc = .error (some (plainCause 1 0)) := by
  unfold State.members Hart.mapArch
  rw [first]
  dsimp only
  rw [if_pos (by simpa using scalar)]
  rfl

variable {n : BitVec 3} {slots : BitVec 24}

/-- The cause that a member meets is the header's (R86; log 22 for a member's fetch fault). -/
theorem State.convoyCause_error {c : Cause} (members : s.members k h (n.toNat + 2) (h.arch.pc + 4) = .error (some c)) :
    s.convoyCause k h n slots = .ok (some c) := by
  unfold State.convoyCause
  dsimp only
  rw [members]

/-- The header waits while a link to a member trains (R337). -/
theorem State.convoyCause_held (members : s.members k h (n.toNat + 2) (h.arch.pc + 4) = .error none) :
    s.convoyCause k h n slots = .error () := by
  unfold State.convoyCause
  dsimp only
  rw [members]

/-- Each member fits its slot and no loop ends inside (R86). -/
def ConvoyFits (h : Hart) (n : BitVec 3) (slots : BitVec 24) (l : List Instr) : Prop :=
  (∀ p ∈ l.zip (convoySlots slots), p.1.size = 8 ∧ p.1.wellFormed = true ∧ unitMatches p.1.unit p.2 = true) ∧
    loopInside h.arch (8 * (n.toNat + 2)) = false

/-- The check of members that are all of class 10 (R86). -/
theorem convoyFits_iff {l : List Instr} (sizes : ∀ i ∈ l, i.size = 8) :
    ((l.zip (convoySlots slots)).all (fun p => p.1.wellFormed && unitMatches p.1.unit p.2) &&
      !loopInside h.arch (8 * (n.toNat + 2))) = true ↔ ConvoyFits h n slots l := by
  rw [Bool.and_eq_true, List.all_eq_true, Bool.not_eq_true']
  refine and_congr (forall₂_congr fun p paired => ?_) Iff.rfl
  rw [Bool.and_eq_true]
  exact (and_iff_right (sizes p.1 (List.of_mem_zip paired).1)).symm

theorem State.convoyCause_fits {l : List Instr} (members : s.members k h (n.toNat + 2) (h.arch.pc + 4) = .ok l)
    (fits : ConvoyFits h n slots l) : s.convoyCause k h n slots = .ok none := by
  unfold State.convoyCause
  dsimp only
  rw [members]
  exact if_pos ((convoyFits_iff (State.members_ok members)).2 fits)

/-- Members that do not fit make the header illegal (R86). -/
theorem State.convoyCause_misfits {l : List Instr} (members : s.members k h (n.toNat + 2) (h.arch.pc + 4) = .ok l)
    (misfit : ¬ConvoyFits h n slots l) : s.convoyCause k h n slots = .ok (some (plainCause 1 0)) := by
  unfold State.convoyCause
  dsimp only
  rw [members]
  exact if_neg ((convoyFits_iff (State.members_ok members)).not.2 misfit)

end Members

/-- The iteration tests count no instruction (R149). -/
@[simp] theorem Arch.testLoop_hinst (a : Arch) (n : Bool) : (a.testLoop n).1.hinst = a.hinst := by
  cases n <;> (unfold Arch.testLoop; dsimp only; (repeat' split) <;> rfl)

@[simp] theorem Arch.retire_hinst (a : Arch) (t : Word) : (a.retire t).hinst = a.hinst := by
  unfold Arch.retire
  dsimp only
  (repeat' split) <;> simp

theorem fallsThrough_convoy_hinst (n : BitVec 3) (slots : BitVec 24) (a : Arch) :
    (fallsThrough (.convoy n slots) a).hinst = a.hinst := by
  simp [fallsThrough, retired]

/-- A header that completes leaves the count of members standing (R87). -/
theorem State.complete_convoy (s : State) (k : Nat) (n : BitVec 3) (slots : BitVec 24) (a : Arch) (h : Hart) :
    ((s.complete k (.convoy n slots) a h none).hart k).map (·.convoy) = some h.convoy := by
  unfold State.complete
  dsimp only
  rw [State.hart_setHart_same, Hart.record_spec]
  rfl

section Header

variable {s : State} {h : Hart} {n : BitVec 3} {slots : BitVec 24} (hi : Issues s h (.convoy n slots))

include hi

theorem convoy_traps {c : Cause} (cause : s.convoyCause s.cur h n slots = .ok (some c)) (plain : PlainHart h) (handled : Handled s h) :
    Traps (.convoy n slots) s h c :=
  State.run_traps hi rfl (by rw [cause]) plain handled

theorem convoy_waits (held : s.convoyCause s.cur h n slots = .error ()) : Waits (.convoy n slots) s h h.pending false s :=
  State.run_stalls hi rfl (by rw [held])

theorem exec_convoy_free (free : s.convoyCause s.cur h n slots = .ok none) : exec (.convoy n slots) s =
    .next (s.complete s.cur (.convoy n slots) h.arch { h with convoy := n.toNat + 2 } none) :=
  congrArg Host.Outcome.next ((State.run_issues hi _).trans (by rw [free]; rfl))

/-- The header completes: the hart holds the count of its members, and HINST does not count it (R87). -/
theorem convoy_completes (free : s.convoyCause s.cur h n slots = .ok none) : ∃ t u, exec (.convoy n slots) s = .next t ∧
    Completes (.convoy n slots) s { h with convoy := n.toNat + 2 } t ∧
      t.hart s.cur = some u ∧ u.convoy = n.toNat + 2 ∧ u.arch.hinst = h.arch.hinst := by
  have completed := s.complete_next s.cur (.convoy n slots) h.arch { h with convoy := n.toNat + 2 }
  obtain ⟨⟨u, hart, -, eq⟩, -⟩ := id completed
  refine ⟨_, u, exec_convoy_free hi free, ⟨completed, s.complete_charged _ _ _ _ _⟩, hart, ?_, ?_⟩
  · have count := s.complete_convoy s.cur n slots h.arch { h with convoy := n.toNat + 2 }
    rw [hart] at count
    exact Option.some.inj count
  · rw [eq]
    exact fallsThrough_convoy_hinst n slots h.arch

end Header

/-- Settles O29: the header's members decide between its trap, its wait and its completion. -/
theorem convoyHeader : Obligations.ConvoyHeader := by
  unfold Obligations.ConvoyHeader
  intro s h n slots hi k
  refine ⟨fun i first scalar plain handled => ?_, fun c members plain handled => ?_, fun members => ?_, fun l members => ?_⟩
  · exact convoy_traps hi (State.convoyCause_error (State.members_scalar first scalar)) plain handled
  · exact convoy_traps hi (State.convoyCause_error members) plain handled
  · exact convoy_waits hi (State.convoyCause_held members)
  · exact ⟨fun fits => convoy_completes hi (State.convoyCause_fits members fits),
      fun misfit => convoy_traps hi (State.convoyCause_misfits members misfit)⟩

end Sys2Proof.Machine
end
